-- ==== Sys2Proof/Word.lean ====
section
/-!
DEFINITION. The word types of the GX8: bytes, 16-bit, 32-bit and 64-bit words, and the plainest arithmetic on numbers
that stand for them (two's complement views, saturating counts, bit tests).
-/
namespace Sys2Proof

/-- One byte. -/
abbrev Byte := BitVec 8

/-- One 32-bit register word. -/
abbrev Word := BitVec 32

/-- The two's complement reading of the low `w` bits of `x`. -/
def toSigned (w x : Nat) : Int :=
  let y := x % 2 ^ w
  if y < 2 ^ (w - 1) then (y : Int) else (y : Int) - (2 ^ w : Nat)

/-- The low `w` bits of the two's complement form of `z`. -/
def ofSigned (w : Nat) (z : Int) : Nat := (z % ((2 ^ w : Nat) : Int)).toNat

/-- `x` with bit `b` set. -/
def setBit (x b : Nat) : Nat := x ||| 2 ^ b

/-- `x` with the bits of `m` cleared, within 64 bits. -/
def clearMask (x m : Nat) : Nat := x - (x &&& m)

/-- The field of `w` bits of `x` that starts at bit `lo`. -/
def bitField (x lo w : Nat) : Nat := (x >>> lo) % 2 ^ w

/-- A count of at most `w` bits after adding `k`: it stops at its largest value. -/
def satAdd (w x k : Nat) : Nat := min (x + k) (2 ^ w - 1)

/-- `x` limited to the range `lo` to `hi`. -/
def clampInt (lo hi x : Int) : Int := max lo (min hi x)

/-- 1 for true, 0 for false. -/
def bit (b : Bool) : Nat := if b then 1 else 0

/-- The number a list of bytes spells, first byte least significant. -/
def leNat : List Byte → Nat
  | [] => 0
  | b :: bs => b.toNat + 256 * leNat bs

/-- The first `n` bytes of a number, least significant first. -/
def leBytes : Nat → Nat → List Byte
  | 0, _ => []
  | n + 1, x => BitVec.ofNat 8 x :: leBytes n (x / 256)

/-- The number a list of bytes spells, first byte most significant. -/
def beNat (bs : List Byte) : Nat := bs.foldl (fun a b => a * 256 + b.toNat) 0

/-- The last `n` bytes of a number, most significant first. -/
def beBytes (n x : Nat) : List Byte := (leBytes n x).reverse

/-- Division rounding up (`0` for a divisor of `0`). -/
def ceilDiv (a b : Nat) : Nat := (a + b - 1) / b

/-- Division rounding to nearest, halves up. -/
def roundDiv (a b : Nat) : Nat := (2 * a + b) / (2 * b)

end Sys2Proof
end

