-- ==== Sys2Proof/Names.lean ====
section
/-!
DEFINITION. The names that commands, registers and state share: the numbered objects of Table 0-3, the initiators of
R408, the register pages of Table 16-2 and the completion status codes of Table 0-7.
-/
namespace Sys2Proof

/-- The catalogue parts (R1). -/
inductive Part
  | gx820 | gx840 | gx880
deriving DecidableEq, Repr

/-- Lane dies and coupling groups 1 to 7 (R6). -/
inductive Lane
  | l1 | l2 | l3 | l4 | l5 | l6 | l7
deriving DecidableEq, Repr

/-- Transmit ports 1 to 3, which drive phases L1 to L3 (R6). -/
inductive Port
  | p1 | p2 | p3
deriving DecidableEq, Repr

/-- Receive inputs 1 to 4; input 4 is neutral (R6). -/
inductive Input
  | i1 | i2 | i3 | i4
deriving DecidableEq, Repr

/-- Unit 0 or 1 of the doubled service ports (UART0 and UART1, TWI0 and TWI1). -/
inductive Dual
  | u0 | u1
deriving DecidableEq, Repr

/-- Initiators, with the codes of SYS.ACCINFO.INIT (Table 16-7): the PCIe host, the QSPI host, the four Nymner cores
and a lane sequencer core. -/
inductive Init
  | pcie | qspi | core0 | core1 | core2 | core3 | laneSeq
deriving DecidableEq, Repr

/-- The register pages of Table 16-2. -/
inductive Page
  | sys | clk | evt | health | fuse | boot | time | mbx | qm | mac | wheel | nbr | saggar | keys | pcie | qspit | xspi
  | uart (u : Dual) | twi (u : Dual) | gpio | skejo
  | lsys (n : Lane) | afe (n : Lane) | agc (n : Lane) | echo (n : Lane) | txp (n : Lane) | rxp (n : Lane)
  | dec (n : Lane) | slip (n : Lane) | tmap (n : Lane) | meas (n : Lane) | linear (n : Lane) | warden (n : Lane)
  | spy (n : Lane)
deriving DecidableEq, Repr

/-- Completion status codes (Table 0-7). -/
inductive Status
  | ok | refused | busy | length | authFail | stale | noRoute | timeout | retired | format | version | epoch
deriving DecidableEq, Repr

/-- A value for each lane. -/
structure PerLane (α : Type) where
  l1 : α
  l2 : α
  l3 : α
  l4 : α
  l5 : α
  l6 : α
  l7 : α
deriving DecidableEq, Repr

end Sys2Proof
end

