-- ==== Sys2Proof/Machine/NameTables.lean ====
section
/-!
DEFINITION. What the spec's tables say of the named objects: lane and port numbers, page bases and type codes
(Table 16-2), ranges of event sources (Tables 1-13 and 1-14), status codes (Table 0-7), and values held per lane.
-/
namespace Sys2Proof

/-- Fitted lane dies (R1, R3). -/
def Part.lanes : Part → Nat
  | .gx820 => 1
  | .gx840 => 3
  | .gx880 => 7

/-- `n - 1` for lane `n`. -/
def Lane.idx : Lane → Nat
  | .l1 => 0 | .l2 => 1 | .l3 => 2 | .l4 => 3 | .l5 => 4 | .l6 => 5 | .l7 => 6

/-- The lane number, 1 to 7. -/
def Lane.num (n : Lane) : Nat := n.idx + 1

/-- All lanes in order. -/
def Lane.all : List Lane := [.l1, .l2, .l3, .l4, .l5, .l6, .l7]

/-- The lane of a group number 1 to 7. -/
def Lane.ofNum : Nat → Option Lane
  | 1 => some .l1 | 2 => some .l2 | 3 => some .l3 | 4 => some .l4
  | 5 => some .l5 | 6 => some .l6 | 7 => some .l7 | _ => none

/-- BAR0 offset of the lane's register region (Table 16-1). -/
def Lane.base (n : Lane) : Nat := 0x01000000 + n.idx * 0x00200000

/-- BAR0 offset of the lane table window (R33). -/
def Lane.window (n : Lane) : Nat := 0x03000000 + n.idx * 0x00200000

/-- `p - 1` for port `p`. -/
def Port.idx : Port → Nat
  | .p1 => 0 | .p2 => 1 | .p3 => 2

/-- The port number, 1 to 3. -/
def Port.num (p : Port) : Nat := p.idx + 1

/-- All ports in order. -/
def Port.all : List Port := [.p1, .p2, .p3]

/-- `i - 1` for input `i`. -/
def Input.idx : Input → Nat
  | .i1 => 0 | .i2 => 1 | .i3 => 2 | .i4 => 3

/-- All inputs in order. -/
def Input.all : List Input := [.i1, .i2, .i3, .i4]

/-- The unit number. -/
def Dual.idx : Dual → Nat
  | .u0 => 0 | .u1 => 1

/-- The ACCINFO.INIT code. -/
def Init.code : Init → Nat
  | .pcie => 0 | .qspi => 1 | .core0 => 2 | .core1 => 3 | .core2 => 4 | .core3 => 5 | .laneSeq => 6

/-- Whether the initiator is the host. -/
def Init.isHost : Init → Bool
  | .pcie => true | .qspi => true | _ => false

/-- BAR0 offset of a page (Table 16-2). -/
def Page.base : Page → Nat
  | .sys => 0x00000 | .clk => 0x01000 | .evt => 0x02000 | .health => 0x03000 | .fuse => 0x04000 | .boot => 0x05000
  | .time => 0x06000 | .mbx => 0x07000 | .qm => 0x08000 | .mac => 0x09000 | .wheel => 0x0A000 | .nbr => 0x0B000
  | .saggar => 0x0C000 | .keys => 0x0D000 | .pcie => 0x0E000 | .qspit => 0x0F000 | .xspi => 0x10000
  | .uart u => 0x11000 + 0x1000 * u.idx | .twi u => 0x13000 + 0x1000 * u.idx | .gpio => 0x15000 | .skejo => 0x16000
  | .lsys n => n.base | .afe n => n.base + 0x1000 | .agc n => n.base + 0x2000 | .echo n => n.base + 0x3000
  | .txp n => n.base + 0x4000 | .rxp n => n.base + 0x5000 | .dec n => n.base + 0x6000 | .slip n => n.base + 0x7000
  | .tmap n => n.base + 0x8000 | .meas n => n.base + 0x9000 | .linear n => n.base + 0xA000
  | .warden n => n.base + 0xB000 | .spy n => n.base + 0xC000

/-- Page type, PID bits 31:24 (Table 16-2). -/
def Page.typeCode : Page → Nat
  | .sys => 0x01 | .clk => 0x02 | .evt => 0x03 | .health => 0x04 | .fuse => 0x05 | .boot => 0x06 | .time => 0x07
  | .mbx => 0x08 | .qm => 0x09 | .mac => 0x0A | .wheel => 0x0B | .nbr => 0x0C | .saggar => 0x0D | .keys => 0x0E
  | .pcie => 0x0F | .qspit => 0x10 | .xspi => 0x11 | .uart _ => 0x12 | .twi _ => 0x13 | .gpio => 0x14 | .skejo => 0x15
  | .lsys _ => 0x40 | .afe _ => 0x41 | .agc _ => 0x42 | .echo _ => 0x43 | .txp _ => 0x44 | .rxp _ => 0x45
  | .dec _ => 0x46 | .slip _ => 0x47 | .tmap _ => 0x48 | .meas _ => 0x49 | .linear _ => 0x4A | .warden _ => 0x4B
  | .spy _ => 0x4C

/-- The lane of a lane page. -/
def Page.lane? : Page → Option Lane
  | .lsys n | .afe n | .agc n | .echo n | .txp n | .rxp n | .dec n | .slip n | .tmap n | .meas n | .linear n
  | .warden n | .spy n => some n
  | _ => none

/-- PID bits 23:16: 0 for hub pages, the unit for UART and TWI, `n` for the pages of lane `n` (R404). -/
def Page.unit : Page → Nat
  | .uart u => u.idx
  | .twi u => u.idx
  | p => match p.lane? with
    | some n => n.num
    | none => 0

/-- First event source of the page and the number of sources in its range (Tables 1-13 and 1-14; R43). -/
def Page.sources : Page → Nat × Nat
  | .sys => (0, 4) | .clk => (4, 4) | .evt => (8, 4) | .health => (12, 8) | .fuse => (20, 2) | .boot => (22, 6)
  | .time => (28, 8) | .mbx => (36, 12) | .qm => (48, 12) | .mac => (60, 12) | .wheel => (72, 8) | .nbr => (80, 4)
  | .saggar => (84, 6) | .keys => (90, 2) | .pcie => (92, 4) | .qspit => (96, 2) | .xspi => (98, 2)
  | .uart u => (100 + 2 * u.idx, 2) | .twi u => (104 + 2 * u.idx, 2) | .gpio => (108, 4) | .skejo => (112, 8)
  | .lsys n => (120 + 24 * n.idx, 2) | .afe n => (120 + 24 * n.idx + 2, 2) | .agc n => (120 + 24 * n.idx + 4, 1)
  | .echo n => (120 + 24 * n.idx + 5, 2) | .txp n => (120 + 24 * n.idx + 7, 2) | .rxp n => (120 + 24 * n.idx + 9, 3)
  | .dec n => (120 + 24 * n.idx + 12, 2) | .slip n => (120 + 24 * n.idx + 14, 1)
  | .tmap n => (120 + 24 * n.idx + 15, 2) | .meas n => (120 + 24 * n.idx + 17, 2)
  | .linear n => (120 + 24 * n.idx + 19, 1) | .warden n => (120 + 24 * n.idx + 20, 3)
  | .spy n => (120 + 24 * n.idx + 23, 1)

/-- Event source of bit `b` of the page's PEVT (R43). -/
def Page.source (p : Page) (b : Nat) : Nat := p.sources.1 + b

/-- The event bits a page has: one for each source of its range that its chapter does not reserve (R43, R449). -/
def Page.eventMask (p : Page) : Nat :=
  match p with
  | .sys => 0x1 | .evt => 0x3 | .mbx => 0xF | .qm => 0x3F | .mac => 0x3FF | .nbr => 0x7 | .xspi => 0x1
  | p => 2 ^ p.sources.2 - 1

/-- The hub pages. -/
def Page.hubPages : List Page :=
  [.sys, .clk, .evt, .health, .fuse, .boot, .time, .mbx, .qm, .mac, .wheel, .nbr, .saggar, .keys, .pcie, .qspit, .xspi,
   .uart .u0, .uart .u1, .twi .u0, .twi .u1, .gpio, .skejo]

/-- The pages of lane `n`. -/
def Page.lanePages (n : Lane) : List Page :=
  [.lsys n, .afe n, .agc n, .echo n, .txp n, .rxp n, .dec n, .slip n, .tmap n, .meas n, .linear n, .warden n, .spy n]

/-- Every page. -/
def Page.all : List Page := Page.hubPages ++ Lane.all.flatMap Page.lanePages

/-- The code of a status (Table 0-7). -/
def Status.code : Status → Nat
  | .ok => 0x00 | .refused => 0x01 | .busy => 0x02 | .length => 0x03 | .authFail => 0x04 | .stale => 0x05
  | .noRoute => 0x06 | .timeout => 0x07 | .retired => 0x08 | .format => 0x09 | .version => 0x0A | .epoch => 0x0B

/-- The value of lane `n`. -/
def PerLane.get {α : Type} (v : PerLane α) : Lane → α
  | .l1 => v.l1 | .l2 => v.l2 | .l3 => v.l3 | .l4 => v.l4 | .l5 => v.l5 | .l6 => v.l6 | .l7 => v.l7

/-- `v` with lane `n` set to `x`. -/
def PerLane.set {α : Type} (v : PerLane α) (n : Lane) (x : α) : PerLane α :=
  match n with
  | .l1 => { v with l1 := x }
  | .l2 => { v with l2 := x }
  | .l3 => { v with l3 := x }
  | .l4 => { v with l4 := x }
  | .l5 => { v with l5 := x }
  | .l6 => { v with l6 := x }
  | .l7 => { v with l7 := x }

/-- The same value for every lane. -/
def PerLane.const {α : Type} (x : α) : PerLane α := ⟨x, x, x, x, x, x, x⟩

/-- `v` with `f` applied at lane `n`. -/
def PerLane.modify {α : Type} (v : PerLane α) (n : Lane) (f : α → α) : PerLane α := v.set n (f (v.get n))

end Sys2Proof
end

