-- ==== Sys2Proof/Machine/Maps.lean ====
section
/-!
DEFINITION. Finite maps with natural-number keys, held as lists of (key, value) pairs with rising keys, and byte
memories in canonical form (rising addresses, no listed byte equal to what an unlisted address reads as).
-/
namespace Sys2Proof

/-- A finite map from numbers, a list of pairs with strictly rising keys. -/
abbrev NatMap (α : Type) := List (Nat × α)

/-- The value at key `k`, if any. -/
def NatMap.get? {α : Type} (m : NatMap α) (k : Nat) : Option α :=
  match m with
  | [] => none
  | (j, v) :: rest => if j = k then some v else NatMap.get? rest k

/-- `m` with `v` at key `k`. -/
def NatMap.insert {α : Type} (m : NatMap α) (k : Nat) (v : α) : NatMap α :=
  match m with
  | [] => [(k, v)]
  | (j, u) :: rest =>
    if k < j then (k, v) :: (j, u) :: rest
    else if j = k then (k, v) :: rest
    else (j, u) :: NatMap.insert rest k v

/-- `m` without key `k`. -/
def NatMap.erase {α : Type} (m : NatMap α) (k : Nat) : NatMap α := m.filter fun e => e.1 != k

/-- The value at key `k`, or `d`. -/
def NatMap.getD {α : Type} (m : NatMap α) (k : Nat) (d : α) : α := (m.get? k).getD d

/-- `m` with `f` applied to the value at key `k`, or to `d` where there is none. -/
def NatMap.modify {α : Type} (m : NatMap α) (k : Nat) (d : α) (f : α → α) : NatMap α := m.insert k (f (m.getD k d))

/-- `m` with every value changed by `f`. -/
def NatMap.mapVals {α β : Type} (m : NatMap α) (f : α → β) : NatMap β := m.map fun e => (e.1, f e.2)

/-- `m` restricted to the keys that `f` keeps. -/
def NatMap.keep {α : Type} (m : NatMap α) (f : Nat → α → Bool) : NatMap α := m.filter fun e => f e.1 e.2

/-- Keys rise strictly. -/
def NatMap.sorted {α : Type} (m : NatMap α) : Bool :=
  match m with
  | [] => true
  | [_] => true
  | a :: b :: rest => decide (a.1 < b.1) && NatMap.sorted (b :: rest)

/-- A byte memory: the listed bytes (Host.Cell), addresses rising. -/
abbrev Mem := List Host.Cell

/-- The byte at `a`; an unlisted address reads `d`. -/
def Mem.read (d : Byte) (m : Mem) (a : Nat) : Byte := NatMap.getD m a d

/-- `m` with byte `b` at `a`: writing what an unlisted address reads as removes the entry. -/
def Mem.write (d : Byte) (m : Mem) (a : Nat) (b : Byte) : Mem :=
  if b = d then NatMap.erase m a else NatMap.insert m a b

/-- Write the bytes of `bs` from address `a` up. -/
def Mem.writeBytes (d : Byte) (m : Mem) (a : Nat) : List Byte → Mem
  | [] => m
  | b :: bs => Mem.writeBytes d (Mem.write d m a b) (a + 1) bs

/-- The `n` bytes from address `a` up. -/
def Mem.readBytes (d : Byte) (m : Mem) (a : Nat) : Nat → List Byte
  | 0 => []
  | n + 1 => Mem.read d m a :: Mem.readBytes d m (a + 1) n

/-- Every byte of the `n` bytes from `a` up returns to what an unlisted address reads as. -/
def Mem.clear (m : Mem) (a n : Nat) : Mem := m.filter fun e => decide (e.1 < a) || decide (a + n ≤ e.1)

/-- The canonical form: addresses strictly rising, no entry equal to the unlisted value, every address below `top`. -/
def Mem.wf (d : Byte) (top : Nat) (m : Mem) : Bool :=
  NatMap.sorted m && m.all fun e => decide (e.2 ≠ d) && decide (e.1 < top)

end Sys2Proof
end

