-- ==== Sys2Proof/Machine/TypesFrame.lean ====
section
/-!
DEFINITION. Frames on the line: frame control, the user records of extension pairs, and blocks (R56 to R68); complex values and ADC
samples.
-/
namespace Sys2Proof.Machine

/-- The type-specific part of a frame control (Table 2-7).  Counts are true counts, not `n - 1`. -/
inductive FcBody
  | data (gi mode rate tmv nsym nblk bt nmpdu phase att : Nat) (ackreq : Bool) (sfac : Nat)
  | beacon (gi mode nsym nblk bt turn pat epoch : Nat)
  | ack (bmap : Nat) (tav : Bool) (ta : Int) (cone epoch : Nat) (epnx : Bool) (tmv : Nat)
  | g6ack (bmap : Nat) (pend : Bool) (tmv : Nat)
  | grant (gi nsym nusr gfac gtrn bt : Nat)
  | groupAck (nusr gfac gtrn : Nat)
  | sound (gi nsnd smode phase : Nat) (rsp : Bool)
  | wake (wreq : Bool) (wcause wtrn wfac : Nat)
deriving DecidableEq, Repr

/-- A frame control: the common fields of Table 2-5 and the body. `g6` marks the GLP-6 delimiter types. -/
structure Fc where
  g6 : Bool
  snid : Nat
  bp : Nat
  epl : Nat
  stid : Nat
  dtid : Nat
  body : FcBody
deriving DecidableEq, Repr

/-- A user record of a GRANT (Table 2-8). -/
structure GrantRec where
  slot : Nat
  sherd : Nat
  scnt : Nat
  mode : Nat
deriving DecidableEq, Repr

/-- A user record of a GROUP-ACK (Table 2-9). -/
structure AckRec where
  uidx : Nat
  val : Bool
  bmap : Nat
  ta : Int
deriving DecidableEq, Repr

/-- A block header (Table 2-10); `vlen` is the count of valid bytes. -/
structure BlkHdr where
  mseq : Nat
  bidx : Nat
  last : Bool
  vlen : Nat
  cls : Nat
  fill : Bool
deriving DecidableEq, Repr

/-- A map set bank (Table 8-2) as three words. -/
structure MapSet where
  w0 : Nat
  w1 : Nat
  w2 : Nat
deriving DecidableEq, Repr

/-- An invalid, empty bank. -/
def MapSet.zero : MapSet := ⟨0, 0, 0⟩

/-- A complex value. -/
structure Cx where
  re : Rat
  im : Rat
deriving DecidableEq, Repr

/-- Samples of a lane's four ADCs: the tick of the first one at the input pins, and for each input its 14-bit codes, one a tick
(R138). -/
structure Capture where
  start : Nat
  inputs : List (List Int)
deriving DecidableEq, Repr

end Sys2Proof.Machine
end

