-- ==== Sys2Proof/Events.lean ====
section
/-!
DEFINITION. The operands that commands and events carry beyond plain numbers: what the world outside the GX8 (the line,
the mains, the board, the host's PCIe root port) presents to it.
-/
namespace Sys2Proof

/-- What a JTAG instruction asks for (R426). -/
inductive JtagReq
  | boundaryScan | debugAccess | other
deriving DecidableEq, Repr

/-- Directions of a link. -/
inductive Dir
  | toLane | toHub
deriving DecidableEq, Repr

/-- What a failed DMA transfer was for (R285): the payload of an MPDU of a transmit queue, a ring's descriptors, entries or
buffers, or the mailboxes. -/
inductive DmaTarget
  | payload (queue id : Nat)
  | ring (r : Nat)
  | mailbox
deriving DecidableEq, Repr

/-- What reaches a lane from the line: samples of its ADCs, from which it makes what a rule asks for; or what it made of samples that
are not told (log entry 188). -/
inductive Heard (α : Type)
  | adc (x : Machine.Capture)
  | made (a : α)
deriving DecidableEq, Repr

/-- The samples told, if any. -/
def Heard.samples {α : Type} (h : Heard α) : Option Machine.Capture :=
  match h with
  | .adc x => some x
  | .made _ => none

/-- What an echo training pass measured on one input, in 0.5 dB units: HYB, REP and DIG, RESN where a noise measurement
exists, and the residual itself, against a carrier of value 1 (R146, R152, R154). -/
structure PassInput where
  hyb : Nat
  rep : Nat
  dig : Nat
  resn : Option Int
  resid : Int
deriving DecidableEq, Repr

/-- What a training pass yields: the measures of its inputs, the new digital matrix as (word number, word), and whether an ADC clipped
in phase A (R151 to R153). -/
structure PassLook where
  ins : List PassInput
  dig : List (Nat × Nat)
  clip : Bool
deriving DecidableEq, Repr

/-- What phase A of a FULL pass yields: the replica matrix as (word number, word), and the replica delays of the inputs (R151). -/
structure GuardLook where
  words : List (Nat × Nat)
  delays : List Nat
deriving DecidableEq, Repr

/-- A decoded FC or extension pair: its 128 bits, the check bits received, and the rms level of each input over the preamble and FC in
0.5 dB above full scale (R58, R60, R171). -/
structure FcGot where
  w : Nat
  crc : Nat
  rms : List Int
deriving DecidableEq, Repr

/-- What a lane measured of a reception as a whole: the frequency offset in 0.1 Hz and the EVM in 0.1 dB (R189, R190); for each input
its rms level in 0.5 dB above full scale (R171); for each symbol the samples that clipped on each input (R140, R180); and for each
input the channel at each carrier from 40 up (R129, R236). -/
structure RxMeas where
  fofs : Int
  evm : Int
  rms : List Int
  clips : List (List Nat)
  chan : List (List Machine.Cx)
deriving DecidableEq, Repr

/-- What a lane measured of one user of an uplink: whether the sherd-pilot symbols were received, how many ticks after
B(GFAC) they reached the input pins, the frequency offset in 0.1 Hz, the EVM in 0.1 dB, and the channel of each input (R183, R184,
R186, R189, R190). -/
structure UpMeas where
  present : Bool
  late : Int
  fofs : Int
  evm : Int
  chan : List (List Machine.Cx)
deriving DecidableEq, Repr

/-- What a lane measured of an uplink: its users in GRANT order, and what `RxMeas` says of any reception. -/
structure UpGot where
  users : List UpMeas
  rms : List Int
  clips : List (List Nat)
deriving DecidableEq, Repr

/-- What a gain loop's window shows: the rms level of each input in 0.5 dB above full scale, and whether a detection candidate is
pending (R167, R170). -/
structure AgcLook where
  levels : List Int
  cand : Bool
deriving DecidableEq, Repr

/-- What a facet that ends has shown: whether a detection candidate is pending; its counted noise windows, as (input, carrier, power)
and (input, sherd, highest sherd mean) in bytes of 0.5 dB (R233 to R235); and for each symbol period outside receptions the samples
that clipped on each input (R140). -/
structure FacetLook where
  cand : Bool
  means : List (Nat × Nat × Nat)
  peaks : List (Nat × Nat × Nat)
  clips : List (List Nat)
deriving DecidableEq, Repr

/-- What the MAC engine's scheduler chooses to send at an opportunity (R22, R93, R267): GI code, mode (0 REP1, 1 REP4,
2 REP6), rate code and block type; how many of the addressee's MPDUs with failed blocks the frame carries, and the classes
of the new MPDUs after them, in order.  Slot 0 stands for broadcast and group frames.  The rest follows from the rules. -/
inductive TxReq
  | data (slot gi mode rate bt resends : Nat) (news : List Nat)
  /-- the GX8's frame of the full-duplex exchange granted next (R267) -/
  | fdData (mode rate bt resends : Nat) (news : List Nat)
  | grant (gi nsym bt gfac : Nat) (users : List Machine.GrantRec)
  | fdGrant (slot gi nsym mode gfac : Nat)
  /-- the adaptation SOUND of a build (R236) -/
  | sound (slot gi : Nat)
  /-- the SOUND of an echo training pass (R150) -/
  | training
  /-- a WAKE call to a peer that waits for one (R104), naming the exchange offered -/
  | wake (slot wtrn wfac : Nat)
deriving DecidableEq, Repr

/-- What holds a packet buffer cell (Table 15-1): an MPDU of a transmit queue; blocks of an incomplete received MPDU; the MPDU at a
place in the list of those to be verified, or of those to be delivered; a block of the reception in progress in a lane; or
nothing. -/
inductive CellUse
  | tx (queue id : Nat)
  | held (slot mseq cls : Nat)
  | whole (k : Nat)
  | deliver (k : Nat)
  | block (n : Lane) (user idx : Nat)
  | unused
deriving DecidableEq, Repr

/-- The region of an uncorrectable SRAM error (Table 15-1), with what the word belongs to.  `both` says that the other copy of a
word held twice has failed too. -/
inductive SramRegion
  | code
  | cell (u : CellUse)
  | neighbour (slot : Nat)
  | twice (both : Bool)
  | staging
  /-- key SRAM: class of the slot (0 neighbour, 1 group, 2 device), its index, and whether it is the second bank -/
  | key (cls idx : Nat) (second : Bool)
  | library (n : Lane) (entry : Nat)
  /-- a slip entry by its ORDER, or a buffered reception of a coast by its place -/
  | slip (n : Lane) (order place : Nat)
  | record (n : Lane) (slot : Nat)
  /-- echo and channel: the noise entries that the word holds, by key of the mean and of the peak table -/
  | echo (n : Lane) (means peaks : List Nat)
  | microcode (n : Lane)
  /-- receive staging: the blocks held, as (sender, block) -/
  | rxStaging (n : Lane) (blocks : List (Nat × Nat))
deriving DecidableEq, Repr

/-- How the flash serves a service that erases or programs it: it is busy, it is done, it reports a failure, or it exceeds
twice its advertised time (R370, R417, Table 10-7). -/
inductive FlashResult
  | busy | done | failed | late
deriving DecidableEq, Repr

end Sys2Proof
end

