-- ==== Sys2Proof/Syntax.lean ====
section
/-!
DEFINITION. The commands and events of the GX8: one constructor per row of the spec's table of operations and events
(opcode_table.json), with the operands the row's rule gives it.  `i` is the initiator of a register access, `n` a lane,
`g` a coupling group (served by the lane of the same number, R6).
-/
namespace Sys2Proof

/-- The commands and events of the GX8. -/
inductive Instr
  /-- REGISTER_WRITE (R13): A host or core write to a register that has no row of its own takes effect according to its register type. -/
  | registerWrite (i : Init) (addr size val : Nat)
  /-- SOFTRESET (R9): A write of 1 to PCTL.SOFTRESET starts a soft reset of the block; the reset waits for any command in progress. -/
  | softreset (i : Init) (p : Page) (en : Bool)
  /-- SOFT_RESET_COMPLETE (R9): The soft reset completes: RW registers return to reset values, PEVT clears, the page relocks and the carried ENABLE value is applied. -/
  | softResetComplete (p : Page)
  /-- STOP_BLOCK (R447): A write of 0 to PCTL.ENABLE stops a stoppable block as Table 0-9 states, and is ignored on other pages. -/
  | stopBlock (i : Init) (p : Page)
  /-- RUN_BLOCK (R447): A write of 1 to PCTL.ENABLE runs a stopped block again. -/
  | runBlock (i : Init) (p : Page)
  /-- PEVT_CLEAR (R10): A W1C write to PEVT clears latched event bits, except a bit whose event recurs in the same cycle. -/
  | pevtClear (i : Init) (p : Page) (mask again : Nat)
  /-- PFAULT_CLEAR (R10): A W1C write to PFAULT clears sticky fault bits, except a bit whose fault recurs in the same cycle. -/
  | pfaultClear (i : Init) (p : Page) (mask again : Nat)
  /-- PEVTEN_WRITE (R412): A write to PEVTEN sets the forwarding enables and fires any source whose PEVT bit is already set when its enable goes to 1. -/
  | pevtenWrite (i : Init) (p : Page) (val : Nat)
  /-- PLOCK_WRITE (R11): A write to PLOCK advances the unlock key sequence, completes the expert unlock or relocks the page. -/
  | plockWrite (i : Init) (p : Page) (val : Nat)
  /-- CNTCLR (R137): A write to a page's CNTCLR register clears the counters that the page names. -/
  | cntclr (i : Init) (p : Page) (val : Nat)
  /-- PR_READ (R407): A read of the low word of a paired register returns it and latches the high word for that initiator. -/
  | prRead (i : Init) (p : Page) (off : Nat)
  /-- PR_WRITE (R407): A write to a paired register holds the low half, or commits both halves atomically on the high half. -/
  | prWrite (i : Init) (p : Page) (off val : Nat)
  /-- PACKET_SEND (R26): A Skejo sender sends a waiting packet once it holds enough credit for the packet's virtual channel, in strict channel priority. -/
  | packetSend (n : Lane) (d : Dir) (vc kind : Nat) (payload : List Byte)
  /-- SKEJO_PACKET (R27): A Skejo packet arrives; a CRC failure discards it with every later packet and sends a NAK. -/
  | skejoPacket (n : Lane) (d : Dir) (seq : Nat) (flips : List Nat)
  /-- NAK (R27): A received NAK makes the sender replay from its replay buffer, and repeated failure of one packet starts a retrain. -/
  | nak (n : Lane) (d : Dir)
  /-- SKEJO_ACK (R27): A cumulative Skejo acknowledgement releases replay buffer space at the sender. -/
  | skejoAck (n : Lane) (d : Dir) (seq : Nat)
  /-- CREDIT_RETURN (R26): A credit return control packet adds credit for a virtual channel at the sender. -/
  | creditReturn (n : Lane) (d : Dir) (vc units : Nat)
  /-- RETRAIN_COMPLETE (R27): A link retrain ends; traffic is replayed and the lane counter copy is realigned, or the link goes to DOWN. -/
  | retrainComplete (n : Lane) (ok : Bool)
  /-- LANE_CHECK_ERROR (R28): A per-lane check error on a 130-bit block is attributed to a physical lane and added to its leaky bucket. -/
  | laneCheckError (n : Lane) (unit : Nat)
  /-- FORCE_RETRAIN (R27): A write to SKEJO.FORCE.RETRAIN forces the named links to retrain. -/
  | forceRetrain (i : Init) (mask : Nat)
  /-- FRAME_COMMIT (R22): The MAC engine commits a frame to its lane, having picked queues, protected MPDUs and built blocks and frame control. -/
  | frameCommit (n : Lane) (t0 : Nat) (req : TxReq) (mis : List (Nat × Nat))
  /-- COMMITMISS (R22): The commitment deadline of an opportunity passes without a commitment; the opportunity is left unused and MAC.PFAULT records it. -/
  | commitmiss (n : Lane) (t0 : Nat)
  /-- COMMITMENT_RECEIPT (R131): A lane receives a frame commitment, fixes the TXP settings for the frame and checks a GRANT for overlapping sherds. -/
  | commitmentReceipt (n : Lane) (arrival : Nat)
  /-- FRAME_TRANSMIT (R133): The lane sends a committed frame from its ports so that its preamble reaches the coupler at t0. -/
  | frameTransmit (n : Lane) (encFault : Bool) (h : Heard (List Int))
  /-- STBY (R47): A write of 1 to CLK.PWRCTL.STBY requests STANDBY, which is held pending until the conditions of R47 hold. -/
  | stby (i : Init) (val : Nat)
  /-- STBY_WITHDRAW (R47): A write of 0 to CLK.PWRCTL.STBY withdraws a pending STANDBY request. -/
  | stbyWithdraw (i : Init) (val : Nat)
  /-- STBY_REQ_RISE (R46): STBY_REQ goes high while PINEN is 1 and requests STANDBY. -/
  | stbyReqRise
  /-- STBY_REQ_FALL (R46): STBY_REQ goes low, withdrawing a pending pin request or waking the GX8 from STANDBY. -/
  | stbyReqFall
  /-- STANDBY_ENTRY (R46): Once a pending request can be acted on, lanes end line activity, are powered off, the cores stop and SRAM enters retention. -/
  | standbyEntry
  /-- STANDBY_EXIT (R46): After a wake cause the hub becomes active and the lanes are reloaded and relock before their first beacon. -/
  | standbyExit
  /-- REFCLK_LOSS (R49): REFCLK shows no edge for 1 µs; AON switches to the RC oscillator, other islands stop and FAULT_N is asserted. -/
  | refclkLoss
  /-- REFCLK_RESTART (R49): REFCLK has been present for 10 ms and the GX8 restarts through BOOT, keeping what a warm restart keeps. -/
  | refclkRestart
  /-- PLL_UNLOCK (R44): A PLL loses lock and CLK source 5 fires. -/
  | pllUnlock (link : Bool)
  /-- MAINS_OK_LOW (R44): MAINS_OK goes low; CLK source 7 fires and LOCKED groups enter HOLD. -/
  | mainsOkLow
  /-- MAINS_OK_HIGH (R86): MAINS_OK goes high, and groups in HOLD may again accept crossings. -/
  | mainsOkHigh
  /-- DETECTION (R172): The detection metric holds above threshold for 1,024 ticks; a frame is detected, the AGC loops freeze and tp is fixed. -/
  | detection (n : Lane) (t : Nat) (h : Heard Nat)
  /-- FC_DECODED (R82): The frame control of a detected frame is decoded and the checks of R82 accept or reject the frame. -/
  | fcDecoded (n : Lane) (tp : Nat) (h : Heard FcGot)
  /-- DATA_RECEIVED (R262): A peer's DATA frame is received whole; blocks are checked, slip entries used, measurements taken and an ACK committed if required. -/
  | dataReceived (n : Lane) (lost : Bool) (h : Heard RxMeas)
  /-- ACK_RECEIVED (R174): An ACK answering a GX8 frame is accepted; acknowledged blocks are freed, failed ones rescheduled and TA and epoch state updated. -/
  | ackReceived (n : Lane) (lost : Bool) (h : Heard RxMeas)
  /-- ACKMISS (R174): The window for an expected acknowledgement passes without one; every block of the frame counts as failed. -/
  | ackmiss (n : Lane)
  /-- SOUND_RECEIVED (R79): A SOUND frame or SOUND reply is received and supplies channel estimates and timing. -/
  | soundReceived (n : Lane) (lost : Bool) (h : Heard RxMeas)
  /-- NOREPLY (R236): A SOUND with RSP = 1 draws no reply; NOREPLY is counted and the build falls back after three such SOUNDs. -/
  | noreply (n : Lane)
  /-- G6_DATA_RECEIVED (R268): A G6-DATA frame is received in a GLP6 facet, filtered, checked and acknowledged with a G6-ACK. -/
  | g6DataReceived (n : Lane) (lost : Bool) (h : Heard RxMeas)
  /-- G6_ACK_RECEIVED (R268): A G6-ACK answering a GX8 frame is accepted and its PEND stored in G6PEND. -/
  | g6AckReceived (n : Lane) (lost : Bool) (h : Heard RxMeas)
  /-- MULTI_USER_UPLINK (R183): A granted multi-user uplink is received from B(GFAC); users are detected, measured and decoded, and a GROUP-ACK follows. -/
  | multiUserUplink (n : Lane) (lost : Bool) (h : Heard UpGot)
  /-- BLOCK_READY (R207): A block's last coded bit is demapped and it enters the decode queue, or fails if the queue is full. -/
  | blockReady (n : Lane) (user idx : Nat) (h : Heard (List (List Int)))
  /-- BLOCK_DECODE (R219): An engine finishes decoding a block, checks its CRC and passes, combines or stores its metrics, then takes the next ready block. -/
  | blockDecode (n : Lane) (e t : Nat)
  /-- VERIFY (R303): The saggar verifies a received MPDU in two passes and releases plaintext only on a matching tag. -/
  | verify (n : Lane) (mis : Nat × Nat)
  /-- MPDU_DELIVERY (R282): An accepted MPDU is written into RXBUF buffers and a receive entry is written to its completion ring. -/
  | mpduDelivery (cq : Nat)
  /-- NOBUF (R282): An MPDU that waited RXHOLD turns for buffers is dropped and NOBUF is raised. -/
  | nobuf (cq : Nat)
  /-- REASMTO (R261): Held blocks of an incomplete MPDU reach the REASM limit and are discarded. -/
  | reasmto (n : Lane)
  /-- TX_COMPLETION (R283): A TX completion is written once its MPDU is done and every earlier completion of its queue has been written. -/
  | txCompletion (q : Nat)
  /-- ZERO_CROSSING (R343): The lane detects a rising zero crossing of a phase on the glost path and computes t_zc and the interval. -/
  | zeroCrossing (n : Lane) (p : Port)
  /-- CROSSING (R85): A crossing of the reference phase reaches the Wheel and is accepted or rejected, driving acquisition, lock, HOLD exit or rephase. -/
  | crossing (n : Lane)
  /-- MISS (R85): The acceptance window of a predicted crossing passes with no crossing; a miss is counted and 8 in LOCKED enter HOLD. -/
  | miss (n : Lane)
  /-- ACQUIRE_TIMEOUT (R86): A group in ACQUIRE has no lock after 1 s and, with FREEOK = 1, starts free running. -/
  | acquireTimeout (n : Lane)
  /-- FACET_START (R84): Facet f begins at B(f); its role, settings and stored AGC codes apply and the previous facet's noise is folded in. -/
  | facetStart (n : Lane) (h : Heard FacetLook)
  /-- TURN_START (R85): A new turn begins at B(0) with the TS and P set by the loop, and the beacon preamble starts. -/
  | turnStart (n : Lane) (h : Heard FacetLook)
  /-- WHEEL_RUN (R86): A write of 1 to WCTL.RUN starts the Wheel, and a ready group starts collecting crossings. -/
  | wheelRun (i : Init) (val : Nat)
  /-- WHEEL_STOP (R86): A write of 0 to WCTL.RUN stops the Wheel; lanes end line activity at the end of the facet. -/
  | wheelStop (i : Init) (val : Nat)
  /-- FORCE_HOLD (R86): A write to WHEEL.FORCE.HOLD moves LOCKED groups into HOLD. -/
  | forceHold (i : Init) (groups : Nat)
  /-- TBLDATA_READ (R90): A read of TBLDATA returns a Wheel entry and increments ENTRY. -/
  | tbldataRead (i : Init)
  /-- TBLDATA_WRITE (R92): A write of TBLDATA stores a Wheel entry and increments ENTRY, refused for a pattern in force or committed. -/
  | tbldataWrite (i : Init) (val : Nat)
  /-- TBLCHK (R92): A write to TBLCHK validates a pattern and reports OK or FORMAT with the first bad entry. -/
  | tblchk (i : Init) (pat : Nat)
  /-- WAKE_REQUEST (R101): A peer's WAKE request is received; the sleep state is updated, the quiet period judged and a WAKE call answered. -/
  | wakeRequest (n : Lane) (lost : Bool) (h : Heard RxMeas) (wtrn wfac : Nat)
  /-- WAKEMISS (R101): A peer's wake window ends with no request; TREF and UNC are advanced and a miss counted, raising the WAKE alarm after WMISS. -/
  | wakemiss (slot : Nat)
  /-- ANNOUNCE (R102): QCMD.ANNOUNCE announces a quiet period, or is refused with a result in QRES. -/
  | announce (i : Init)
  /-- WITHDRAW (R104): QCMD.WITHDRAW cancels an announced quiet period as a request at the time of the write, or is refused. -/
  | withdraw (i : Init)
  /-- QUIET_COMMIT (R103): At B(0) of turn T the quiet period takes effect and facets act as QUIET except the permitted ones. -/
  | quietCommit (n : Lane)
  /-- QUIET_END (R103): The quiet period ends after turn T + K − 1. -/
  | quietEnd (n : Lane)
  /-- COMMIT (R105): EPCMD.COMMIT checks and commits the next epoch, and every non-STALE peer becomes OLD. -/
  | commit (i : Init)
  /-- CANCEL (R109): EPCMD.CANCEL withdraws a committed epoch change if it arrives before the beacon of turn S is committed. -/
  | cancel (i : Init)
  /-- EPOCH_SWITCH (R107): At B(0) of turn S the epoch, band profile, glaze, group key and pattern switch together. -/
  | epochSwitch (n : Lane)
  /-- STRAGGLE_END (R107): The straggle window ends; OLD peers become STALE, the previous key bank is released and STRAGGLE is raised. -/
  | straggleEnd
  /-- PAUSE_START (R110): At B(0) of PTURN the GX8 stops sending and the lanes hold for the activation. -/
  | pauseStart (n : Lane)
  /-- PAUSE_END (R110): Beacons resume at the first facet 0 after activation completes. -/
  | pauseEnd (n : Lane)
  /-- GLZDATA_READ (R119): A read of GLZDATA returns a glaze word and increments WORD. -/
  | glzdataRead (i : Init) (n : Lane)
  /-- GLZDATA_WRITE (R123): A write of GLZDATA stores a glaze word and clears the table's VALID, refused for table 0 or a table in use. -/
  | glzdataWrite (i : Init) (n : Lane) (val : Nat)
  /-- SEAL (R120): GLZCMD.SEAL checks a glaze table and sets VALID with OK, or clears it with FORMAT. -/
  | seal (i : Init) (n : Lane) (table : Nat)
  /-- GLAZE_CLEAR (R120): GLZCMD.CLEAR sets every word of a glaze table to 0. -/
  | glazeClear (i : Init) (n : Lane) (table : Nat)
  /-- WSDATA_READ (R128): A read of WSDATA returns a shadow weight word and increments WORD. -/
  | wsdataRead (i : Init) (n : Lane)
  /-- WSDATA_WRITE (R128): A write of WSDATA stores a shadow weight word and increments WORD. -/
  | wsdataWrite (i : Init) (n : Lane) (val : Nat)
  /-- FLIP (R128): WSCMD.FLIP exchanges the banks of a weight set and marks it valid. -/
  | flip (i : Init) (n : Lane) (set : Nat)
  /-- WS_CLEAR (R128): WSCMD.CLEAR zeroes both banks of a weight set and marks it invalid. -/
  | wsClear (i : Init) (n : Lane) (set : Nat)
  /-- WEIGHT_UPDATE (R129): Core 2 recomputes a peer's weight set from its latest channel estimates, writes the shadow bank and flips. -/
  | weightUpdate (n : Lane) (slot : Nat)
  /-- GAIN_WRITE (R116): A write of PGAIN GAIN or DRVGAIN, or of CEIL, recomputes EFF and may clamp or hold a port off. -/
  | gainWrite (i : Init) (n : Lane) (p : Option Port) (val : Nat)
  /-- PORTEN_WRITE (R132): A write of TXCTL.PORTEN enables or disables ports, and a change lasting a turn requests a FULL echo pass. -/
  | portenWrite (i : Init) (n : Lane) (val : Nat)
  /-- TXDLY_WRITE (R149): A write of TXP.TXDLY sets the port delays and requests a FULL echo pass. -/
  | txdlyWrite (i : Init) (n : Lane) (val : Nat)
  /-- DRVFLT (R144): A driver fault input stays active 200 ns; the port idles, DRVEN drops, PORTEN clears and a fault is added. -/
  | drvflt (n : Lane) (p : Port) (t levels : Nat)
  /-- FLTHOLD_EXPIRY (R144): The fault pin has been inactive FLTHOLD ms and the lane sets the PORTEN bit again. -/
  | fltholdExpiry (n : Lane) (p : Port) (levels : Nat)
  /-- DRVCFG_WRITE (R143): A write of AFE.DRVCFG changes DRVEN modes or fault polarity and a mode change requests a FULL echo pass. -/
  | drvcfgWrite (i : Init) (n : Lane) (val : Nat)
  /-- RXCFG_WRITE (R149): A write of AFE.RXCFG changes input enables or terminations and requests a FULL echo pass. -/
  | rxcfgWrite (i : Init) (n : Lane) (val : Nat)
  /-- STUCK (R140): An input shows almost no ADC spread at maximum PGA for STUCKMS ms and is counted as stuck with one fault. -/
  | stuck (n : Lane) (i : Input)
  /-- GUARD_WRITE (R151): After phase A of a FULL pass the lane writes the shadow replica matrix and switches the replica on for phase B. -/
  | guardWrite (n : Lane) (h : Heard GuardLook)
  /-- PASS_COMPLETE (R152): An echo training pass completes; ERL fields are set and the canceller state moves by success, failure or void. -/
  | passComplete (n : Lane) (h : Heard PassLook)
  /-- TRACK_REQUEST (R150): TRAINIV turns pass in GOOD and a TRACK pass is requested. -/
  | trackRequest (n : Lane)
  /-- AGED (R156): AGEMAX turns pass since the last successful pass; a FULL pass is requested and the state becomes AGED. -/
  | aged (n : Lane)
  /-- RETRAIN (R156): ECMD.RETRAIN requests a FULL pass and the canceller becomes UNTRAINED. -/
  | retrain (i : Init) (n : Lane)
  /-- ECHO_CLEAR (R156): ECMD.CLEAR zeroes all banks and requests a FULL pass. -/
  | echoClear (i : Init) (n : Lane)
  /-- ECTL_EN_WRITE (R156): A write of ECTL.EN turns the canceller off, or from OFF requests a FULL pass. -/
  | ectlEnWrite (i : Init) (n : Lane) (val : Nat)
  /-- MDATA_READ (R162): A read of MDATA returns a matrix word and increments WORD. -/
  | mdataRead (i : Init) (n : Lane)
  /-- MDATA_WRITE (R162): A write of MDATA stores a shadow matrix word when HOLD = 1, and is refused otherwise. -/
  | mdataWrite (i : Init) (n : Lane) (val : Nat)
  /-- MCMD_FLIP (R162): MCMD.FLIP flips both matrices at the next commitment, sets SHORT and requests a TRACK pass. -/
  | mcmdFlip (i : Init) (n : Lane)
  /-- FDOK_CHANGE (R157): A change of FDOK reaches the MAC engine, which stops or resumes opening full-duplex exchanges. -/
  | fdokChange (n : Lane)
  /-- CALCMD (R159): AFE.CALCMD starts a PGA calibration of the named inputs, refused unless the Wheel is OFF. -/
  | calcmd (i : Init) (n : Lane) (inputs : Nat)
  /-- CALIBRATION_DONE (R159): A PGA calibration ends; failing inputs are excluded with a fault, passing inputs take part. -/
  | calibrationDone (n : Lane) (pass : Nat)
  /-- AGC_WINDOW (R167): At the end of an rms window each running loop moves its PGA code toward the target. -/
  | agcWindow (n : Lane) (t : Nat) (h : Heard AgcLook)
  /-- AGC_ATTACK (R167): Four or more full-scale samples within 64 ticks lower the PGA code by ATTACK at once. -/
  | agcAttack (n : Lane) (t : Nat) (i : Input) (h : Heard Nat)
  /-- AGC_RELEASE (R168): A frozen gain is released 2.5 µs after tend, or at FC failure, and search resumes. -/
  | agcRelease (n : Lane) (t : Nat) (h : Heard (List Int))
  /-- STDATA_READ (R197): A read of STDATA returns a stored AGC entry and increments FACET. -/
  | stdataRead (i : Init) (n : Lane)
  /-- STDATA_WRITE (R197): A write of STDATA stores an AGC entry, sets VALID and increments FACET. -/
  | stdataWrite (i : Init) (n : Lane) (val : Nat)
  /-- TAOVR (R198): A write of RXP.TAOVR sets a peer's TAC, PREV and AEST and puts it in TRACK. -/
  | taovr (i : Init) (n : Lane) (slot : Nat) (ta : Int)
  /-- ARM (R196): SPCMD.ARM checks the spyhole ring and awaits the trigger, or sets DESTERR. -/
  | arm (i : Init) (n : Lane)
  /-- STOP (R196): SPCMD.STOP ends the spyhole capture and raises DONE. -/
  | stop (i : Init) (n : Lane)
  /-- TRIGGER (R194): The armed trigger condition occurs and the capture starts with its pre-trigger history. -/
  | trigger (n : Lane) (h : Heard Unit)
  /-- RECORD (R195): A spyhole record lands in the ring and WPTR advances; SPLEN may end the capture. -/
  | record (n : Lane) (t : Nat) (h : Heard (List Byte))
  /-- SELF_TEST (R209): The self-test interval expires and the reserve engine decodes the test block when no ready block waits. -/
  | selfTest (n : Lane)
  /-- SELF_TEST_DONE (R209): A self-test completes; a mismatch adds a fault and the reserve and active engines exchange roles. -/
  | selfTestDone (n : Lane) (mismatch : Bool)
  /-- ENGOVR (R223): A write of DEC.ENGOVR adds one fault to each named engine's bucket. -/
  | engovr (i : Init) (n : Lane) (mask : Nat)
  /-- SLIP_AGE (R220): At a turn start slip entries older than AGE turns are freed. -/
  | slipAge (n : Lane)
  /-- FLUSH (R220): SLCMD.FLUSH frees every slip entry. -/
  | flush (i : Init) (n : Lane)
  /-- FLUSHSLOT (R220): SLCMD.FLUSHSLOT frees the slip entries of the named slot. -/
  | flushslot (i : Init) (n : Lane) (slot : Nat)
  /-- LOAD (R227): LDCMD.LOAD fetches a map image, checks it and installs it in the library with a hold. -/
  | load (i : Init) (n : Lane)
  /-- UNHOLD (R227): LDCMD.UNHOLD releases the host hold on a library entry. -/
  | unhold (i : Init) (n : Lane) (index : Nat)
  /-- BUILD (R240): BCMD.BUILD starts a build of a peer's uplink map set. -/
  | build (i : Init) (n : Lane) (slot : Nat)
  /-- REFRESH (R240): REFRESH turns after a peer's last build, core 2 starts a new uplink build. -/
  | refresh (n : Lane) (slot : Nat)
  /-- BUILD_COMPLETE (R239): An uplink build ends; maps are clustered and placed, and the set is committed by a TMX or the build fails. -/
  | buildComplete (n : Lane)
  /-- REQ (R244): BCMD.REQ sends the peer a TMREQ with cause 0. -/
  | req (i : Init) (n : Lane) (slot : Nat)
  /-- REVOKE (R241): BCMD.REVOKE invalidates both uplink banks and sends a TMX with TMV 0. -/
  | revoke (i : Init) (n : Lane) (slot : Nat)
  /-- TMX_RETRY (R242): No frame with the new TMV arrives within REFRESH turns; the TMX is resent, or the new bank is invalidated. -/
  | tmxRetry (n : Lane) (slot : Nat)
  /-- TMX (R242): A TMX MPDU from a peer is installed into the peer's NEXT downlink bank. -/
  | tmx
  /-- TMREQ (R244): A TMREQ MPDU from a peer asks device firmware to send a new downlink TMX. -/
  | tmreq
  /-- MIT_READ (R248): MITCMD.READ copies an uplink bank into MITW. -/
  | mitRead (i : Init) (n : Lane)
  /-- MIT_WRITE (R230): MITCMD.WRITE writes MITW to an uplink bank, with SEND also sending it as a TMX. -/
  | mitWrite (i : Init) (n : Lane) (send : Bool)
  /-- NDATA_READ (R248): A read of NDATA returns the noise means of a carrier and increments CARR. -/
  | ndataRead (i : Init) (n : Lane)
  /-- DM_READ (R273): DMCMD.READ copies a downlink bank into DMW. -/
  | dmRead (i : Init)
  /-- DM_WRITE (R273): DMCMD.WRITE writes DMW to a downlink bank; NEXT acts as an installed TMX. -/
  | dmWrite (i : Init)
  /-- ASSIGN (R250): NCMD ASSIGN takes a FREE slot for a peer and initialises its hub entry and lane record. -/
  | assign (i : Init)
  /-- RELEASE (R251): NCMD RELEASE puts a slot into QUARANTINE, advances GEN and completes its queued MPDUs with STALE. -/
  | release (i : Init)
  /-- SEQRST (R250): NCMD SEQRST clears SEQVALID and sets TXSEQ to 0. -/
  | seqrst (i : Init)
  /-- SETCPL (R250): NCMD SETCPL writes the coupling fields of a slot. -/
  | setcpl (i : Init)
  /-- SETFD (R250): NCMD SETFD sets the slot's FDEL. -/
  | setfd (i : Init)
  /-- QUARANTINE_END (R252): The 17th turn start after a release makes the slot FREE and raises QEND. -/
  | quarantineEnd (slot : Nat)
  /-- QFORCE (R273): A write of QFORCE ends a slot's quarantine at once and raises QEND. -/
  | qforce (i : Init) (slot : Nat)
  /-- LRDATA_READ (R273): A read of LRDATA returns a lane record word and increments WORD. -/
  | lrdataRead (i : Init)
  /-- FADATA_READ (R272): A read of FADATA returns a frame-action entry and increments INDEX. -/
  | fadataRead (i : Init)
  /-- FADATA_WRITE (R272): A write of FADATA stores a frame-action entry and increments INDEX. -/
  | fadataWrite (i : Init) (val : Nat)
  /-- FARST (R269): FARST restores the reset contents of the frame-action table. -/
  | farst (i : Init)
  /-- JOINREQ (R257): A JOINREQ MPDU reaches device firmware, which posts a JOINNOTE to the host. -/
  | joinreq (eui : Nat)
  /-- LEAVE (R257): A LEAVE MPDU reaches device firmware, which posts a LEAVENOTE. -/
  | leave
  /-- SLEEPREQ (R257): A SLEEPREQ MPDU reaches device firmware, which sets or cancels the sleep schedule and answers with a SLEEPRSP. -/
  | sleepreq
  /-- RELAY (R271): A RELAY MPDU reaches the routing service of device firmware, which forwards it or returns NO_ROUTE. -/
  | relay
  /-- RINGDB (R279): A write of QM.RINGDB moves a ring's tail or head counter, or puts the ring into ERROR. -/
  | ringdb (i : Init) (ring ptr : Nat)
  /-- RSEL_WRITE (R280): A write of RSEL loads the staging registers with the stored values of the selected ring. -/
  | rselWrite (i : Init) (val : Nat)
  /-- ENABLE (R280): RCMD.ENABLE copies the staging values into a ring and starts it, or refuses. -/
  | enable (i : Init)
  /-- DISABLE (R280): RCMD.DISABLE takes a ring to OFF, keeping its counters and clearing ERR. -/
  | disable (i : Init)
  /-- RESET (R280): RCMD.RESET sets an OFF ring's counters to 0. -/
  | reset (i : Init)
  /-- DESCRIPTOR_FETCH (R281): The GX8 fetches a TX or RXBUF descriptor by weighted round robin once cells, queue room and completion room allow. -/
  | descriptorFetch (rxbuf : Option Nat)
  /-- QUEUE_FLUSH (R276): QCMD.FLUSH completes with REFUSED every MPDU of the queue not carried by a committed frame. -/
  | queueFlush (i : Init)
  /-- HOLD (R276): QCMD.HOLD stops a queue being offered to the MAC engine. -/
  | hold (i : Init)
  /-- QUEUE_RELEASE (R276): QCMD.RELEASE ends the hold on a queue. -/
  | queueRelease (i : Init)
  /-- LIFE_EXPIRY (R276): An MPDU still awaiting its first sending LIFE turns after fetch completes with TIMEOUT. -/
  | lifeExpiry (q : Nat)
  /-- MODERATION_TIMER (R284): MOD.TIME passes since the first unsignalled entry and the completion ring sends its vector. -/
  | moderationTimer (cq : Nat)
  /-- DMA_ERROR (R285): A DMA transfer ends in error; the descriptor completes with FORMAT or the ring or mailbox goes to ERROR. -/
  | dmaError (what : DmaTarget)
  /-- GO (R287): A write of LENGO with GO = 1 posts an H2D mailbox request, or sets OVERPOST if the mailbox is busy. -/
  | go (i : Init) (n len : Nat)
  /-- MAILBOX_CHECK (R287): The GX8 checks a posted notice and writes RESn.STATUS, clearing PEND and the busy bit. -/
  | mailboxCheck
  /-- INFO (R288): Device firmware serves an INFO request with version, active slot and fired state. -/
  | info (tag : Nat)
  /-- CFGSAVE (R371): Device firmware serves a CFGSAVE request by writing a configuration block to the older flash copy. -/
  | cfgsave (tag : Nat) (flash : Sys2Proof.FlashResult)
  /-- ROUTESET (R288): Device firmware serves a ROUTESET request by storing route entries. -/
  | routeset (tag : Nat)
  /-- ROUTEGET (R288): Device firmware serves a ROUTEGET request with the next hop and metric, or NO_ROUTE. -/
  | routeget (tag : Nat)
  /-- JOINACC (R288): Device firmware serves a JOINACC request and sends the JOINRSP to the peer. -/
  | joinacc (tag : Nat)
  /-- NBRDUMP (R288): Device firmware serves an NBRDUMP request with bytes 0 to 111 of each entry. -/
  | nbrdump (tag : Nat)
  /-- SERVICE_TIMEOUT (R289): A mailbox request passes its service time limit and is answered with TIMEOUT. -/
  | serviceTimeout (tag : Nat)
  /-- D2H_POST (R290): The GX8 writes a reply or notice image to a free D2H mailbox, sets D2HFULL and raises D2HMSG. -/
  | d2hPost (n : Nat)
  /-- D2HFULL_CLEAR (R290): A W1C write of D2HFULL frees D2H mailboxes and acknowledges their tags. -/
  | d2hfullClear (i : Init) (mask : Nat)
  /-- H2D_DOORBELL_SET (R291): A write of 1 to H2DSETL or H2DSETH sets H2D doorbells and may wake the hub from STANDBY. -/
  | h2dDoorbellSet (i : Init) (high : Bool) (mask : Nat)
  /-- H2D_DOORBELL_SERVE (R291): Device firmware clears an H2D doorbell it has served. -/
  | h2dDoorbellServe (b : Nat) (again : Bool)
  /-- D2H_DOORBELL_SET (R291): Device firmware sets a D2H doorbell, raising D2HDB and requesting a host wake where enabled. -/
  | d2hDoorbellSet (b : Nat)
  /-- D2H_DOORBELL_CLEAR (R291): A W1C write of D2HL or D2HH clears D2H doorbells. -/
  | d2hDoorbellClear (i : Init) (high : Bool) (mask : Nat)
  /-- KEY_LOAD (R308): KEYCMD LOAD stores KEYDATA as the NEXT key of a slot's second bank. -/
  | keyLoad (i : Init) (cls size idx : Nat)
  /-- ROLL (R308): KEYCMD ROLL makes NEXT the current bank and the former current key PREVIOUS. -/
  | roll (i : Init) (cls idx : Nat)
  /-- KEY_DROP (R308): KEYCMD DROP empties a slot's second bank. -/
  | keyDrop (i : Init) (cls idx : Nat)
  /-- ERASE (R308): KEYCMD ERASE empties both banks of a slot. -/
  | erase (i : Init) (cls idx : Nat)
  /-- LOCK (R308): KEYCMD LOCK locks a slot against further key operations until PORST_N. -/
  | lock (i : Init) (cls idx : Nat)
  /-- KEYCMD_COMPLETE (R311): 96 saggar cycles after a KEYCMD, the checks and operation are performed, KRES and KDETAIL written and KEYDATA zeroed. -/
  | keycmdComplete
  /-- START (R313): JOBCMD.START starts a host AES-GCM or AES-CCM job under a device key. -/
  | start (i : Init)
  /-- JOBDONE (R313): A host job completes with the first applicable code of Table 11-7. -/
  | jobdone (mis : Nat × Nat)
  /-- HASH (R314): HCMD.HASH computes the SHA-256 digest of a window range into HDIG. -/
  | hash (i : Init)
  /-- HASHDONE (R314): A hash or signature check ends and HRES is written. -/
  | hashdone
  /-- VERIFY_SIGNATURE (R315): HCMD.VERIFY checks an ECDSA P-256 signature on the digest and the key hash matches. -/
  | verifySignature (i : Init)
  /-- RNGFAIL (R317): The random source fails its health test and the saggar runs at the highest dummy ratio. -/
  | rngfail
  /-- PIPEOVR (R320): A write of PIPEOVR adds one fault to each named pipeline pair's bucket. -/
  | pipeovr (i : Init) (mask : Nat)
  /-- PPS_EDGE (R325): A PPS_IN edge is stamped and accepted or rejected, qualifying the reference or giving an offset. -/
  | ppsEdge (t : Nat) (falling : Bool)
  /-- PPSMISS (R325): No PPS edge is accepted within 1 s + PPSWIN; a miss is counted and two make the reference lost. -/
  | ppsmiss
  /-- STEER (R326): TCMD.STEER applies a host phase error and frequency term and qualifies the host reference. -/
  | steer (i : Init)
  /-- SET (R326): TCMD.SET steps the time scale so that it reads a given time at TSETTICK, or is refused. -/
  | timeSet (i : Init)
  /-- STEERTO (R326): No STEER arrives within HOSTCFG.TO seconds and the host reference is lost. -/
  | steerto
  /-- DRIFT_UPDATE (R327): Once per second in LOCKED the drift correction and its uncertainty are updated. -/
  | driftUpdate (f : Int)
  /-- STEP (R330): A pending step is applied when the scale reaches a whole second, recorded and STEP raised. -/
  | step
  /-- SLEW_END (R328): In REGAIN the remaining error falls within ±50 ns, the slew ends and the state becomes LOCKED. -/
  | slewEnd
  /-- HOLDLIM (R328): The holdover age reaches HOLDLIM and the time base goes to FREE. -/
  | holdlim
  /-- SRC_WRITE (R328): A write of TCFG.SRC selects the reference, ends any slew and sets the state to FREE. -/
  | srcWrite (i : Init) (val : Nat)
  /-- TPULSE (R332): The scale reaches a pulse instant and the TPULSE generator starts a pulse of the set width, or skips it. -/
  | tpulse (k : Nat)
  /-- TIME_EVT (R335): A selected TIME_EVT edge is stamped and queued in the event FIFO, or counted as overflow. -/
  | timeEvt (t : Nat) (falling : Bool) (ns : Nat)
  /-- EVTTICKL_READ (R335): A read of EVTTICKL pops the oldest event stamp into the latched registers. -/
  | evtticklRead (i : Init)
  /-- TICK_READ (R335): A read of TICK latches the tick and its scale time in the SNAP registers. -/
  | tickRead (i : Init)
  /-- ZCLOSS (R345): The reference phase has had no accepted crossing for 100 ms and ZCLOSS is raised. -/
  | zcloss (n : Lane)
  /-- BLANK_PIN (R354): Gn_BLANK becomes active or inactive and the measurement chain starts or stops a blank. -/
  | blankPin (n : Lane) (high : Bool)
  /-- BLANK_END (R354): BLEXT × 10 µs after both blank causes end, blanking ends and the chain restarts priming. -/
  | blankEnd (n : Lane)
  /-- PRIME_END (R356): The first sample one span after a restart is produced and the output becomes valid. -/
  | primeEnd (n : Lane) (bisque : Bool)
  /-- GSTAGE_WRITE (R341): A write of MCFG.GSTAGE re-primes the glost path of every channel. -/
  | gstageWrite (i : Init) (n : Lane) (val : Nat)
  /-- DIETEMP_SAMPLE (R346): The die temperature is sampled every 10 ms, driving thermal shutdown, resume and fuse re-verification. -/
  | dietempSample (n : Lane) (temp : Int)
  /-- CDATA_READ (R359): A read of CDATA returns a factory coefficient and increments COEF. -/
  | cdataRead (i : Init) (n : Lane)
  /-- PORST_N_FALL (R440): PORST_N held low for 1 µs resets the GX8 completely and asserts FAULT_N. -/
  | porstNFall
  /-- PORST_N_RISE (R440): PORST_N rises; FAULT_N is released, the tick counter starts, fuses are latched and the ROM runs. -/
  | porstNRise
  /-- BROWN_OUT (R438): VDD_HUB or VDD_AON falls below 0.70 V for 1 µs and the GX8 is reset as by PORST_N. -/
  | brownOut
  /-- LANE_RAIL_LOW (R438): A lane rail falls below its minimum, the lane's link drops and the lane is recovered. -/
  | laneRailLow (n : Lane)
  /-- ROM_BOOT (R365): The ROM selects a slot, reads and checks its header and starts the copy. -/
  | romBoot (size clk : Nat) (octal : Bool)
  /-- COPY_DONE (R365): The ROM has copied the sections to SRAM and computes the digest and verifies the signatures. -/
  | copyDone
  /-- CHECK_DONE (R365): The signature checks end; the slot is refused or the configuration blocks are loaded and the cores started. -/
  | checkDone (readError : Bool) (ms : Nat)
  /-- RECOVERY_GO (R369): BOOT.RECCMD.GO makes the ROM check and run a container from the packet buffer. -/
  | recoveryGo (i : Init)
  /-- LANE_LOAD (R372): Device firmware sends a lane its microcode and tables over Skejo VC2 from the verified copy. -/
  | laneLoad (n : Lane)
  /-- LANE_LOAD_COMPLETE (R372): A lane load ends; sequencers start, defaults apply and user settings and glaze tables are restored, or the lane fails. -/
  | laneLoadComplete (n : Lane) (ok : Bool)
  /-- IMGWRITE (R373): Device firmware serves IMGWRITE by erasing and writing a range of the inactive slot. -/
  | imgwrite (tag : Nat) (flash : FlashResult)
  /-- IMGCHECK (R373): Device firmware serves IMGCHECK with an advisory check of a slot from flash. -/
  | imgcheck (tag : Nat)
  /-- ACTIVATE (R374): Device firmware accepts ACTIVATE, writes the boot header and has the Wheel announce a service pause. -/
  | activate (tag : Nat)
  /-- CONFIRM (R376): A core write of HEALTH_CONFIRM to BOOT.CONFIRM makes a GREENWARE image FIRED and may burn the floor. -/
  | confirm (i : Init) (key : Nat)
  /-- GREENWARE_EXPIRY (R377): The greenware window expires and the kiln sitter activates the previous slot. -/
  | greenwareExpiry (sitter : Bool)
  /-- AON_RESTART (R377): 1 s after expiry without a fallback the AON timer orders a hub restart into the ROM. -/
  | aonRestart
  /-- CORRECTABLE_ERROR (R380): A single-bit SRAM error is corrected, written back, counted and added to its bank's bucket. -/
  | correctableError (die unit : Nat)
  /-- UNCORRECTABLE_ERROR (R380): A double-bit SRAM error is counted, adds THR to its bank's bucket and is handled per region. -/
  | uncorrectableError (die unit addr : Nat) (r : SramRegion)
  /-- SCRUBDONE (R381): A background scrub pass of the SRAMs completes. -/
  | scrubdone
  /-- LEAK (R382): A leak period ends and each non-empty bucket of the class falls by 1. -/
  | leak (cls : Nat)
  /-- TRANSFORM_CHECK (R384): An FFT transform fails its energy check and a fault is added to the engine's bucket. -/
  | transformCheck (n : Lane) (e w : Nat)
  /-- INJECT (R400): A write of HEALTH.INJECT adds one fault to the named bucket. -/
  | inject (i : Init) (cls die unit : Nat)
  /-- SEQHANG (R387): A sequencer misses its heartbeat and the lane warden restarts both sequencers or requests a reload. -/
  | seqhang (n : Lane) (q dur : Nat)
  /-- CORE_HEARTBEAT_MISS (R388): A core from 0 to 2 misses its heartbeats and the kiln sitter restarts it. -/
  | coreHeartbeatMiss (k : Nat) (serving : List Nat)
  /-- CORE_RESTART_TIMEOUT (R388): A restarted core does not return within 100 ms and the kiln sitter orders a hub warm restart. -/
  | coreRestartTimeout (k : Nat)
  /-- RELOAD_REQUEST (R388): The kiln sitter answers a warden's reload request by retraining the link if needed and reloading the lane. -/
  | reloadRequest (n : Lane)
  /-- KSBEAT (R390): Core 3 writes KSBEAT, feeding the backstop and ending a hub warm restart with lane reattachment. -/
  | ksbeat (i : Init)
  /-- HBTO (R390): HBTO passes without KSBEAT; the backstop restarts core 3 or orders a hub warm restart. -/
  | hbto
  /-- WARM_TIMEOUT (R390): No KSBEAT arrives within 2 s of a warm restart; a second restart follows or FAULT_N is asserted. -/
  | warmTimeout
  /-- KSRST_RESET (R390): 60 s of heartbeats since the last core 3 restart reset KSRST to 0. -/
  | ksrstReset
  /-- COAST_END (R392): A coasting lane has sent beacons for 8 turns and stops beaconing while it keeps buffering. -/
  | coastEnd (n : Lane)
  /-- LCMD_RELOAD (R389): A write of HEALTH.LCMD.RELOAD tries a FAILED lane again. -/
  | lcmdReload (i : Init) (lanes : Nat)
  /-- REVERIFY (R397): FCMD.REVERIFY rereads a die's fuse words at three thresholds. -/
  | reverify (i : Init)
  /-- REVDONE (R397): A fuse re-verification ends, updating MARGNOW and FCNT and raising MARGINAL for new marginal words. -/
  | revdone
  /-- FDATA_READ (R401): A read of FDATA returns a latched fuse word, loads FWSTAT and increments WORD. -/
  | fdataRead (i : Init)
  /-- PCIE_RESET (R410): A hot reset, function level reset or link-down resets configuration space and MSI-X, disables rings and raises LINKCHG. -/
  | pcieReset (linkDown : Bool)
  /-- MSIX_MESSAGE (R412): A pending vector is unmasked with MSI-X enabled and one message is sent. -/
  | msixMessage (enable fmask : Bool) (v : Nat)
  /-- RTDATA_READ (R428): A read of RTDATA returns a router entry and increments SOURCE. -/
  | rtdataRead (i : Init)
  /-- RTDATA_WRITE (R428): A write of RTDATA stores a router entry and increments SOURCE. -/
  | rtdataWrite (i : Init) (val : Nat)
  /-- QSPI_WRITE (R416): A QSPI WRITE frame posts its data words into the write buffer. -/
  | qspiWrite (addr : Nat) (words : List Nat) (short : Bool)
  /-- QSPI_WORD_POST (R416): A posted QSPI word leaves the write buffer and takes effect at its register or window. -/
  | qspiWordPost
  /-- QSPI_READ (R415): A QSPI READ frame returns words with status bytes, marking late words and keeping their values. -/
  | qspiRead (addr : Nat) (late : List Bool)
  /-- QSPI_STATUS (R414): A QSPI STATUS frame returns the IRQ_N, WBUSY, LATE and power state bits. -/
  | qspiStatus
  /-- TXDATA_WRITE (R418): A write of TXDATA pushes a character to the UART transmit FIFO, or sets TXOVF if full. -/
  | txdataWrite (i : Init) (u : Dual) (val : Nat)
  /-- CHARACTER_RECEIVED (R418): A UART character is received into the FIFO, marked for errors, or lost on overrun. -/
  | characterReceived (u : Dual) (b : Byte) (fe pe : Bool)
  /-- RXDATA_READ (R420): A read of RXDATA pops one character from the receive FIFO. -/
  | rxdataRead (i : Init) (u : Dual)
  /-- RECEIVE_TIMEOUT (R420): RTO character times pass since the last stop bit and the open receive slot closes. -/
  | receiveTimeout (u : Dual)
  /-- BREAK (R421): A receive break is measured, written to BRKRX and closes the open slot. -/
  | lineBreak (u : Dual) (len : Nat)
  /-- SENDBRK (R421): UCMD.SENDBRK holds the transmit line low for BRKLEN bit times after the current character. -/
  | sendbrk (i : Init) (u : Dual)
  /-- RXFLUSH (R432): UCMD.RXFLUSH empties the UART receive FIFO. -/
  | rxflush (i : Init) (u : Dual)
  /-- TXFLUSH (R432): UCMD.TXFLUSH empties the UART transmit FIFO. -/
  | txflush (i : Init) (u : Dual)
  /-- UART_CNTCLR (R432): UCMD.CNTCLR clears UCNT. -/
  | uartCntclr (i : Init) (u : Dual)
  /-- DMAEN_WRITE (R420): A write of RXRING.DMAEN enables receive DMA into the ring, or sets DESTERR if the ring is invalid. -/
  | dmaenWrite (i : Init) (u : Dual) (val : Nat)
  /-- UART_WAKE (R422): A falling edge on a UART receive line in STANDBY starts the RC oscillator and wakes the hub. -/
  | uartWake (u : Dual)
  /-- TWI_START (R423): TCMD.START runs one two-wire transfer, or runs bus recovery first if the bus is stuck. -/
  | twiStart (i : Init) (u : Dual) (sdaLow : Bool)
  /-- TWI_DONE (R423): A two-wire transfer ends with the first applicable code of Table 16-6 in TRES. -/
  | twiDone (u : Dual) (addrAck : Bool) (acked : Nat) (stretched : Bool) (data : List Byte)
  /-- BUS_RECOVERY (R424): The controller pulses SCL to free SDA, sets STUCK on failure and retires the bus after RETRY failures. -/
  | busRecovery (u : Dual) (freed : Bool)
  /-- RECOVERY_RETRY (R424): One second after a failed recovery the bus recovery is run again. -/
  | recoveryRetry (u : Dual) (freed : Bool)
  /-- TDATA_READ (R433): A read of TDATA pops a received byte. -/
  | tdataRead (i : Init) (u : Dual)
  /-- TDATA_WRITE (R433): A write of TDATA pushes a byte to send. -/
  | tdataWrite (i : Init) (u : Dual) (val : Nat)
  /-- GPIO_EDGE (R425): A selected GPIO edge sets ISTAT and the PEVT bit of its group of eight pins. -/
  | gpioEdge (g : Nat) (rising : Bool)
  /-- DSET (R434): A write of DSET sets DOUT bits. -/
  | dset (i : Init) (mask : Nat)
  /-- DCLR (R434): A write of DCLR clears DOUT bits. -/
  | dclr (i : Init) (mask : Nat)
  /-- REFUSED_READ (R408): A read of an unmapped or reserved offset, a narrow read of a port register, or a read of an unfitted lane is refused, returns all ones, increments ACCCNT, sets SYS.PFAULT.ACCESS and captures ACCADDR and ACCINFO. -/
  | refusedRead (i : Init) (addr size : Nat)
  /-- WINDOW_WRITE (R32): A write into the hub SRAM window or a lane table window is served, or discarded byte by byte in RO regions and refused with cause 7. -/
  | windowWrite (i : Init) (addr : Nat) (bytes : List Byte)
  /-- GLOST_SAMPLE (R340): The measurement chain produces an output sample that is blocked, clamped for over range, linearised and checked for range, and to which new MCFG and LINEAR settings apply. -/
  | glostSample (n : Lane) (ch : Nat) (mods : List Int)
  /-- CANDIDATE_FALLBACK (R170): A pending detection candidate falls back below THR, and the stored AGC code deferred at a boundary is loaded at once. -/
  | candidateFallback (n : Lane)
  /-- RNGOK (R317): The random source passes its health test again; PSTAT.RNGOK is set and the internal generator is reseeded. -/
  | rngok
  /-- PCIE_LINK_UP (R411): The PCIe link reaches L0 after training or recovery; LNKSTAT is updated, LINKCHG is raised and WAKE_N is released. -/
  | pcieLinkUp (speed width : Nat) (recovery : Bool)
  /-- PCIE_ERROR (R429): A correctable or uncorrectable PCIe error is detected, counted in ERRCNT and raises CORR or UNCORR. -/
  | pcieError (uncorrectable : Bool)
  /-- DSTATE_CHANGE (R429): The host changes the function's power state between D0 and D3hot; LNKSTAT.DSTATE changes and DSTATE is raised. -/
  | dstateChange (d3 pmeEn : Bool) (substate : Nat)
  /-- CHARACTER_SENT (R418): The UART transmitter finishes a character or break and, once CTS allows, starts the next character from the transmit FIFO. -/
  | characterSent (u : Dual) (cts : Bool)
  /-- BADOP (R414): A QSPI frame with an unknown opcode is ignored and sets PFAULT.BADOP. -/
  | badop (op : Nat)
  /-- JTAG_INSTRUCTION (R426): A JTAG instruction is executed as boundary scan, debug access or BYPASS under the debug lock. -/
  | jtagInstruction (r : JtagReq)
  /-- WAKE_WINDOW_OPEN (R100): A sleeping peer's wake window opens at t_exp − G and the GX8 listens on all four inputs of the group with the AGC loop. -/
  | wakeWindowOpen (slot : Nat)
  /-- PLL_LOCK (R44): A hub or link PLL regains lock and CLKSTAT.HUBPLL or LINKPLL is set again. -/
  | pllLock (link : Bool)
  /-- SUPPLY_RETURN (R438): A rail that fell below its minimum returns within tolerance, ending the brown-out hold of hub outputs or letting a lane be reloaded. -/
  | supplyReturn (n : Option Lane)
deriving DecidableEq, Repr

end Sys2Proof
end

