-- ==== Sys2Proof/Decode.lean ====
section
/-!
DEFINITION. The commands that words spell.  The spec's table of operations and events gives no row any bits: a command
comes from the bus, the line, the mains or the board, not from an instruction memory (log entry 1).
-/
namespace Sys2Proof

/-- The command that a word of the table's bits spells: no row of the table has bits, so no word spells one
(log entry 1). -/
def decodeTableWord (nbits w : Nat) : Option Instr :=
  match nbits, w with
  | _, _ => none

end Sys2Proof
end

