-- ==== Sys2Proof/Machine/Signal.lean ====
section
/-!
DEFINITION. The line signal (R50 to R81): carriers and profiles, the scrambler, guard intervals, frame control, check
sequences, block lengths, constellations, the wedge and repetition.
-/
namespace Sys2Proof.Machine

/-! Carriers and profiles (R50, R51). -/

/-- Sherds of a band profile (Table 2-1); code 3 is reserved and has none. -/
def sherdsOf : Nat → Nat
  | 0 => 99 | 1 => 49 | 2 => 24 | _ => 0

/-- Carriers of a profile, 40 and up. -/
def carriersOf (bp : Nat) : Nat := 40 * sherdsOf bp

/-- Data carriers of a profile. -/
def dataCarriersOf (bp : Nat) : Nat := 39 * sherdsOf bp

/-- Carrier of data carrier `d`: the pilots, the first of each sherd of 40, are skipped (R51). -/
def dataCarrier (d : Nat) : Nat := 40 + 40 * (d / 39) + 1 + d % 39

/-- Whether a carrier is a continuous pilot (R51). -/
def isPilot (k : Nat) : Bool := 40 ≤ k && k % 40 == 0

/-! Scrambler and reference sequence (R52, R53). -/

/-- One call of `next()`: the output bit and the next state (R52). -/
def lfsrNext (st : Nat) : Bool × Nat :=
  let o := (st.testBit 14) ^^ (st.testBit 13)
  (o, (st * 2 + bit o) % 0x8000)

/-- `n` output bits from a state. -/
def lfsrBits : Nat → Nat → List Bool
  | 0, _ => []
  | n + 1, st => (lfsrNext st).1 :: lfsrBits n (lfsrNext st).2

/-- The first `n` bits p0, p1 … of the reference sequence. -/
def refBits (n : Nat) : List Bool := lfsrBits n 0x7FFF

/-- Bits scrambled, or descrambled, from reset. -/
def scramble (bs : List Bool) : List Bool := List.zipWith (· ^^ ·) bs (refBits bs.length)

/-- Reference value v(k) of carrier `k` (R53). -/
def refValue (k : Nat) : Int := if (refBits (k - 40 + 1)).getLastD false then -1 else 1

/-! Symbols (R54, R55) and the preamble (R57). -/

/-- Guard interval in ticks (Table 2-2). -/
def giTicks : Nat → Nat
  | 0 => 512 | 1 => 1024 | 2 => 2048 | _ => 4096

/-- Symbol period Ts in ticks. -/
def tsTicks (gi : Nat) : Nat := 8192 + giTicks gi

/-- Postfix and ramp length in ticks (R55). -/
def rampTicks : Nat := 256

/-- Preamble length in ticks: 12 short symbols of 1,024 (R57). -/
def preambleTicks : Nat := 12288

/-- Preamble and FC in ticks: 360 µs. -/
def headTicks : Nat := 36864

/-- Whether a carrier carries the preamble, and the numerator of its phase in units of π/500, taken modulo a whole turn;
its amplitude is √8 (R57). -/
def preamblePhase (bp k : Nat) : Option Nat :=
  if 40 ≤ k ∧ k < 40 + carriersOf bp ∧ k % 8 = 0 then some ((k / 8) ^ 2 % 1000) else none

/-- Sign of short symbol `s` (1 to 12). -/
def shortSign (s : Nat) : Int := if 11 ≤ s then -1 else 1

/-! Check sequences (R60). -/

/-- One bit shifted into a CRC register of `w` bits with polynomial `poly`. -/
def crcBit (w poly reg : Nat) (b : Bool) : Nat :=
  let top := reg.testBit (w - 1) ^^ b
  let sh := reg * 2 % 2 ^ w
  if top then sh ^^^ poly else sh

/-- The complemented register after the bits, from all ones. -/
def crcOf (w poly : Nat) (bs : List Bool) : Nat :=
  2 ^ w - 1 - bs.foldl (crcBit w poly) (2 ^ w - 1)

/-- FC CRC-24 (Table 2-4). -/
def crc24 (bs : List Bool) : Nat := crcOf 24 0x864CFB bs

/-- Block CRC-32 (Table 2-4). -/
def crc32 (bs : List Bool) : Nat := crcOf 32 0x04C11DB7 bs

/-- The bits of a `w`-bit field, least significant first (R59). -/
def lsbFirst (w x : Nat) : List Bool := (List.range w).map x.testBit

/-- The bits of a `w`-bit field, most significant first. -/
def msbFirst (w x : Nat) : List Bool := (lsbFirst w x).reverse

/-- The bits of bytes in transmission order: least significant bit of each byte first. -/
def byteBits (bs : List Byte) : List Bool := bs.flatMap fun b => lsbFirst 8 b.toNat

/-! Frame control (R61 to R64). -/

/-- Fields packed from bit 0 up, as (width, value) pairs. -/
def packFields : List (Nat × Nat) → Nat
  | [] => 0
  | (w, v) :: rest => v % 2 ^ w + 2 ^ w * packFields rest

/-- Delimiter type code (Table 2-6). -/
def Fc.dt (f : Fc) : Nat :=
  match f.body with
  | .beacon .. => if f.g6 then 8 else 0
  | .data .. => if f.g6 then 9 else 1
  | .ack .. => 2
  | .groupAck .. => 3
  | .grant .. => 4
  | .sound .. => 5
  | .wake .. => 6
  | .g6ack .. => 0xA

/-- Fields of a body from bit 44 up (Table 2-7). -/
def FcBody.fields (g6 : Bool) : FcBody → List (Nat × Nat)
  | .data gi mode rate tmv nsym nblk bt nmpdu phase att ackreq sfac =>
    [(2, gi), (2, mode), (3, rate), (4, tmv), (9, nsym - 1), (5, nblk - 1), (1, bt), (2, nmpdu - 1),
     (2, if g6 then 0 else phase), (3, att), (1, bit ackreq), (7, if g6 then 0 else sfac)]
  | .beacon gi mode nsym nblk bt turn pat epoch =>
    [(2, gi), (2, mode), (9, nsym - 1), (5, nblk - 1), (1, bt), (32, turn), (4, if g6 then 0 else pat),
     (8, if g6 then 0 else epoch)]
  | .ack bmap tav ta cone epoch epnx tmv =>
    [(32, bmap), (1, bit tav), (12, ofSigned 12 ta), (6, cone), (8, epoch), (1, bit epnx), (4, tmv)]
  | .g6ack bmap pend tmv => [(32, bmap), (1, bit pend), (4, tmv)]
  | .grant gi nsym nusr gfac gtrn bt => [(2, gi), (9, nsym - 1), (3, nusr - 1), (7, gfac), (8, gtrn), (1, bt)]
  | .groupAck nusr gfac gtrn => [(3, nusr - 1), (7, gfac), (8, gtrn)]
  | .sound gi nsnd smode phase rsp => [(2, gi), (6, nsnd - 1), (2, smode), (2, phase), (1, bit rsp)]
  | .wake wreq wcause wtrn wfac => [(1, bit wreq), (4, wcause), (32, wtrn), (7, wfac)]

/-- The 128 FC bits as a number, bit 0 least significant; reserved bits are 0 (R64). -/
def Fc.word (f : Fc) : Nat :=
  packFields ([(4, f.dt), (8, f.snid), (2, f.bp), (2, if f.g6 then 0 else f.epl), (14, f.stid), (14, f.dtid)]
    ++ f.body.fields f.g6)

/-- The body that FC bits spell for a delimiter type, or none for a reserved encoding of a named field (R63, R64,
Table 2-15). -/
def fcBody (dt w : Nat) : Option FcBody :=
  let fld (lo n : Nat) := bitField w lo n
  let g6 := decide (8 ≤ dt)
  match dt with
  | 0x1 | 0x9 =>
    let gi := fld 44 2
    let mode := fld 46 2
    let rate := fld 48 3
    if mode = 3 ∨ 5 ≤ rate ∨ (mode ≠ 0 ∧ rate ≠ 0) ∨ fld 74 3 = 7 ∨ (!g6 ∧ 96 ≤ fld 78 7) ∨ (g6 ∧ (gi = 0 ∨ rate = 4)) then none
    else some (.data gi mode rate (fld 51 4) (fld 55 9 + 1) (fld 64 5 + 1) (fld 69 1) (fld 70 2 + 1)
      (if g6 then 0 else fld 72 2) (fld 74 3) (w.testBit 77) (if g6 then 0 else fld 78 7))
  | 0x0 | 0x8 =>
    let gi := fld 44 2
    let mode := fld 46 2
    if mode = 0 ∨ mode = 3 ∨ (g6 ∧ gi = 0) then none
    else some (.beacon gi mode (fld 48 9 + 1) (fld 57 5 + 1) (fld 62 1) (fld 63 32) (if g6 then 0 else fld 95 4)
      (if g6 then 0 else fld 99 8))
  | 0x2 => some (.ack (fld 44 32) (w.testBit 76) (toSigned 12 (fld 77 12)) (fld 89 6) (fld 95 8) (w.testBit 103) (fld 104 4))
  | 0xA => some (.g6ack (fld 44 32) (w.testBit 76) (fld 77 4))
  | 0x4 => some (.grant (fld 44 2) (fld 46 9 + 1) (fld 55 3 + 1) (fld 58 7) (fld 65 8) (fld 73 1))
  | 0x3 => some (.groupAck (fld 44 3 + 1) (fld 47 7) (fld 54 8))
  | 0x5 =>
    if 2 ≤ fld 52 2 ∨ (fld 52 2 = 0 ∧ fld 54 2 = 0) then none
    else some (.sound (fld 44 2) (fld 46 6 + 1) (fld 52 2) (fld 54 2) (w.testBit 56))
  | 0x6 => some (.wake (w.testBit 44) (fld 45 4) (fld 49 32) (fld 81 7))
  | _ => none

/-- The frame control that 128 bits spell, or none for a malformed one (R64). -/
def fcOf (w : Nat) : Option Fc :=
  let dt := bitField w 0 4
  let bp := bitField w 12 2
  if bp = 3 ∨ (8 ≤ dt ∧ bp = 0) then none
  else (fcBody dt w).map fun b =>
    { g6 := decide (8 ≤ dt), snid := bitField w 4 8, bp, epl := bitField w 14 2, stid := bitField w 16 14,
      dtid := bitField w 30 14, body := b }

/-! Extension pairs (R65 to R67). -/

/-- A GRANT user record as 32 bits (Table 2-8). -/
def GrantRec.word (r : GrantRec) : Nat := packFields [(14, r.slot), (7, r.sherd), (7, r.scnt - 1), (2, r.mode)]

/-- A GROUP-ACK user record as 32 bits (Table 2-9). -/
def AckRec.word (r : AckRec) : Nat :=
  packFields [(3, r.uidx), (1, bit r.val), (16, if r.val then r.bmap else 0), (12, ofSigned 12 r.ta)]

/-- The 128 record bits of pair `k`: four records, unused slots 0. -/
def pairWord (recs : List Nat) (k : Nat) : Nat :=
  packFields ((List.range 4).map fun j => (32, recs.getD (4 * k + j) 0))

/-- Pairs for a number of users (Table 2-7). -/
def npair (nusr : Nat) : Nat := ceilDiv nusr 4

/-! Frame durations (R56, Table 2-3) and acknowledgement timing (R80). -/

/-- Duration of a frame in ticks, preamble to end. -/
def FcBody.ticks : FcBody → Nat
  | .data gi _ _ _ nsym _ _ _ _ _ _ _ => headTicks + nsym * tsTicks gi
  | .beacon gi _ nsym _ _ _ _ _ => headTicks + nsym * tsTicks gi
  | .ack .. => headTicks
  | .g6ack .. => headTicks
  | .wake .. => headTicks
  | .grant _ _ nusr _ _ _ => headTicks + npair nusr * 24576
  | .groupAck nusr _ _ => headTicks + npair nusr * 24576
  | .sound gi nsnd _ _ _ => headTicks + nsnd * tsTicks gi

/-- Duration of a multi-user uplink in ticks. -/
def uplinkTicks (gi nsym : Nat) : Nat := (2 + nsym) * tsTicks gi

/-- Gap from the end of a frame to the acknowledgement's preamble, ticks (Table 2-14). -/
def ackGap (g6 : Bool) : Nat := if g6 then 24576 else 16384

/-! Blocks (R68 to R70). -/

/-- Data bytes of a block type. -/
def blockData (bt : Nat) : Nat := if bt = 1 then 128 else 512

/-- Bytes on air of a block type. -/
def blockBytes (bt : Nat) : Nat := blockData bt + 8

/-- The header word of a block (Table 2-10). -/
def BlkHdr.word (h : BlkHdr) : Nat :=
  packFields [(12, h.mseq), (5, h.bidx), (1, bit h.last), (9, h.vlen - 1), (1, h.cls), (1, bit h.fill)]

/-- The header a word spells. -/
def BlkHdr.ofWord (w : Nat) : BlkHdr :=
  { mseq := bitField w 0 12, bidx := bitField w 12 5, last := w.testBit 17, vlen := bitField w 18 9 + 1,
    cls := bitField w 27 1, fill := w.testBit 28 }

/-- Bits of a block on air: header, data filled with zero bytes, CRC-32 most significant bit first (R60, R68). -/
def blockBits (bt : Nat) (h : BlkHdr) (data : List Byte) : List Bool :=
  let body := byteBits (leBytes 4 h.word ++ (data ++ List.replicate (blockData bt - data.length) 0).take (blockData bt))
  body ++ msbFirst 32 (crc32 body)

/-- Blocks an MPDU of `len` bytes occupies (R69). -/
def blocksOf (bt len : Nat) : Nat := ceilDiv len (blockData bt)

/-- Rate p/q of a rate code (Table 2-7); reserved codes are given 1/2. -/
def rateOf : Nat → Nat × Nat
  | 1 => (2, 3) | 2 => (3, 4) | 3 => (5, 6) | 4 => (7, 8) | _ => (1, 2)

/-- Coded bits per block (R70, Table 2-11). -/
def lcOf (bt rate : Nat) : Nat := ceilDiv ((8 * blockBytes bt + 4) * (rateOf rate).2) (rateOf rate).1

/-- Smallest number of symbols whose capacities sum to at least `need`; `cap i` is the capacity of symbol `i`; `none`
above `limit` symbols (R71). -/
def symbolsFor (cap : Nat → Nat) (need : Nat) : Nat → Nat → Option Nat
  | 0, i => if need = 0 then some i else none
  | limit + 1, i => if need = 0 then some i else symbolsFor cap (need - cap i) limit (i + 1)

/-! Bit loading and constellations (R72, R73). -/

/-- Bits of a loading code (Table 2-12); reserved codes carry none. -/
def loadBits : Nat → Nat
  | 1 => 1 | 2 => 2 | 3 => 3 | 4 => 4 | 5 => 6 | 6 => 8 | 7 => 10 | 8 => 12 | _ => 0

/-- The square of 1/K of a loading code (Table 2-12). -/
def loadNorm : Nat → Nat
  | 2 => 2 | 3 => 6 | 4 => 10 | 5 => 42 | 6 => 170 | 7 => 682 | 8 => 2730 | _ => 1

/-- The Gray amplitude rule (R73). -/
def grayAmp : List Bool → Int
  | [] => 0
  | [b] => if b then -1 else 1
  | b :: b' :: bs =>
    let inner : Int := 2 ^ (bs.length + 1) - grayAmp (b' :: bs)
    if b then -inner else inner

/-- Constellation point (I, Q) before the factor K, of a loading code (R73). -/
def constPoint (code : Nat) (bs : List Bool) : Int × Int :=
  let n := loadBits code
  if n = 0 then (0, 0)
  else if n = 1 then (grayAmp (bs.take 1), 0)
  else if code = 3 then (grayAmp (bs.take 2), grayAmp ((bs.drop 2).take 1))
  else (grayAmp (bs.take (n / 2)), grayAmp ((bs.drop (n / 2)).take (n / 2)))

/-! Wedge (R74) and repetition (R75, R76). -/

/-- Source positions in the order the wedge reads them, for `n` bits and copy `c`. -/
def wedgeOrder (n c : Nat) : List Nat :=
  (List.range 16).flatMap fun t =>
    ((List.range (ceilDiv n 16)).map fun row => row * 16 + (t + 5 * c) % 16).filter (· < n)

/-- The wedge of a list of bits for copy `c` (R74). -/
def wedge (bs : List Bool) (c : Nat) : List Bool := (wedgeOrder bs.length c).map fun i => bs.getD i false

/-- The inverse permutation, on any values (a receiver's soft metrics, or bits). -/
def unwedge {α : Type} (d : α) (xs : List α) (c : Nat) : List α :=
  let ord := wedgeOrder xs.length c
  (List.range xs.length).map fun i => xs.getD (ord.idxOf i) d

/-- Copies of a repetition mode: 0 REP1, 1 REP4, 2 REP6 (R75). -/
def repsOf : Nat → Nat
  | 1 => 4 | 2 => 6 | _ => 1

/-- Coded bits of a repetition-mode symbol over `nd` data carriers (R75). -/
def repNcb (nd mode : Nat) : Nat := 2 * (nd / (2 * repsOf mode))

/-- Carrier values of a repetition mode symbol on its data carriers (numbered 0 to nd - 1): each copy's wedge output as
BPSK, or `none` for a fill carrier, which carries v(k) (R75). -/
def repPlace (nd mode : Nat) (bs : List Bool) : NatMap Int :=
  (List.range (repsOf mode)).foldl (fun m c =>
    ((wedge bs c).zipIdx).foldl (fun m e => m.insert ((e.2 + c * (nd / repsOf mode)) % nd) (if e.1 then -1 else 1)) m) []

/-- Port (1 to 3) that sends copy `c` of a REP6 symbol with three-phase coupling (R76). -/
def rep6Port (c : Nat) : Nat := c % 3 + 1

/-- Coded capacity of a symbol: the sum of the loaded bits, or Ncb (R71). -/
def symbolCap (mode nd : Nat) (codes : List Nat) : Nat :=
  if mode = 0 then (codes.map loadBits).foldl (· + ·) 0 else repNcb nd mode

/-- Blocks of a multi-user uplink user with coded capacity `cap` (R78). -/
def uplinkBlocks (cap bt rate : Nat) : Nat := min 16 (cap / lcOf bt rate)

/-- Port that sends symbol `i` of a SOUND frame (R79); 0 means the coupling in force. -/
def soundPort (smode phase i : Nat) : Nat := if smode = 1 then i % 3 + 1 else phase

end Sys2Proof.Machine
end

