-- ==== Sys2Proof/Machine/Coding.lean ====
section
/-!
DEFINITION. Channel coding (R58, R70, R200 to R206, R211, R212): the encoder, puncturing, soft metrics, the trellis decoder
and the block check.
-/
namespace Sys2Proof.Machine

/-! The encoder and puncturing. -/

/-- Outputs A and B for input `u` in state `st`, whose bit `i` is the input `1 + i` earlier (R200). -/
def convOut (st : Nat) (u : Bool) : Bool × Bool :=
  (u ^^ st.testBit 1 ^^ st.testBit 2 ^^ st.testBit 4 ^^ st.testBit 5,
   u ^^ st.testBit 0 ^^ st.testBit 1 ^^ st.testBit 2 ^^ st.testBit 5)

/-- The state after input `u`. -/
def convNext (st : Nat) (u : Bool) : Nat := (st * 2 + bit u) % 64

/-- The encoder run from a state: one pair of outputs per input (R200). -/
def convRun : Nat → List Bool → List (Bool × Bool)
  | _, [] => []
  | st, u :: us => convOut st u :: convRun (convNext st u) us

/-- The encoder from reset. -/
def convEncode (us : List Bool) : List (Bool × Bool) := convRun 0 us

/-- Whether the outputs A and B of an input at position `pos` of its period are kept (R201). -/
def keepA (pos : Nat) : Bool := pos == 0 || pos % 2 == 1
/-- Whether output B is kept. -/
def keepB (pos : Nat) : Bool := pos % 2 == 0

/-- The kept outputs at a rate code, A before B (R201, Table 7-1). -/
def puncture (rate : Nat) (cs : List (Bool × Bool)) : List Bool :=
  let p := (rateOf rate).1
  cs.zipIdx.flatMap fun e =>
    (if keepA (e.2 % p) then [e.1.1] else []) ++ (if keepB (e.2 % p) then [e.1.2] else [])

/-- The coded bits of a block at a rate (R70). -/
def codeBlock (bt rate : Nat) (bits : List Bool) : List Bool :=
  puncture rate ((convEncode (scramble bits ++ List.replicate 6 false)).take (8 * blockBytes bt + 4))

/-- The 320 coded bits of an FC or an extension pair with 128 bits `w` (R58, R65). -/
def codeFc (w : Nat) : List Bool :=
  let bits := lsbFirst 128 w
  let info := scramble (bits ++ msbFirst 24 (crc24 bits) ++ [false, false]) ++ List.replicate 6 false
  (convEncode info).flatMap fun e => [e.1, e.2]

/-- Carrier values of FC symbol `sym` (0 or 1): carriers 40 to 999, copies 3 * sym to 3 * sym + 2 (R58). -/
def fcSymbol (w sym : Nat) : List Int :=
  (List.range 3).flatMap fun j => (wedge (codeFc w) (3 * sym + j)).map fun b => if b then -1 else 1

/-! Soft metrics (R203 to R205). -/

/-- A metric as a decoder takes it: -32 counts as -31 (R203). -/
def llrIn (x : Int) : Int := max (-31) x

/-- The metric of an LLR in sixteenths of a natural unit, with scale S x 16 (R204). -/
def llrQuant (lam16 : Int) (scale : Nat) : Int := clampInt (-31) 31 ((2 * lam16 * scale + 256) / 512)

/-- The metric of a coded bit from the LLRs of its copies (R204, R205 step 2). -/
def combineCopies (scale : Nat) (lams : List Int) : Int :=
  clampInt (-31) 31 ((lams.map fun l => llrQuant l scale).foldl (· + ·) 0)

/-- Metrics for each trellis step of a block: 0 at punctured positions and at the last two tail inputs (R205 step 3).
`i` is the input number, `n` inputs carry outputs, `k` inputs are still to come. -/
def depuncture (rate n : Nat) : Nat → Nat → List Int → List (Int × Int)
  | 0, _, _ => []
  | k + 1, i, ms =>
    let p := (rateOf rate).1
    if n ≤ i then (0, 0) :: depuncture rate n k (i + 1) ms
    else
      let a := keepA (i % p)
      let b := keepB (i % p)
      let ma := if a then ms.headD 0 else 0
      let ms' := if a then ms.drop 1 else ms
      let mb := if b then ms'.headD 0 else 0
      let ms'' := if b then ms'.drop 1 else ms'
      (ma, mb) :: depuncture rate n k (i + 1) ms''

/-! The trellis decoder (R206). -/

/-- Metric of a branch: a positive metric favours coded bit 0. -/
def branchMetric (st : Nat) (u : Bool) (m : Int × Int) : Int :=
  let o := convOut st u
  (if o.1 then -llrIn m.1 else llrIn m.1) + (if o.2 then -llrIn m.2 else llrIn m.2)

/-- One add-compare-select: the new path metrics, and for each new state whether the higher-numbered predecessor was
kept; a tie keeps the lower-numbered one. -/
def acsStep (pm : List Int) (m : Int × Int) : List (Int × Bool) :=
  (List.range 64).map fun s =>
    let u := s.testBit 0
    let lo := s / 2
    let hi := s / 2 + 32
    let x := pm.getD lo 0 + branchMetric lo u m
    let y := pm.getD hi 0 + branchMetric hi u m
    if x < y then (y, true) else (x, false)

/-- The predecessor of a state, from the kept choices of a step. -/
def backState (s : Nat) (ch : List Bool) : Nat := s / 2 + (if ch.getD s false then 32 else 0)

/-- The lowest-numbered state with the best metric. -/
def bestState (pm : List Int) : Nat :=
  ((pm.zipIdx).foldl (fun (b : Int × Nat) e => if b.1 < e.1 then e else b) (pm.headD 0, 0)).2

/-- The decoded inputs of a trellis run, oldest first.  `hist` holds the choices of the steps so far, newest first;
`k` steps are done, `total` in all. -/
def viterbiRun (total : Nat) : List (Int × Int) → List Int → List (List Bool) → Nat → List Bool
  | [], _, hist, _ =>
    ((hist.take 96).foldl (fun (acc : List Bool × Nat) ch => (acc.2.testBit 0 :: acc.1, backState acc.2 ch)) ([], 0)).1
  | m :: ms, pm, hist, k =>
    let r := acsStep pm m
    let pm' := r.map Prod.fst
    let hist' := (r.map Prod.snd :: hist).take 96
    let rest := viterbiRun total ms pm' hist' (k + 1)
    if 96 ≤ k + 1 ∧ k + 1 < total then
      ((hist'.take 95).foldl backState (bestState pm')).testBit 0 :: rest
    else rest

/-- The decoded inputs for the metrics of every trellis step (R206): start in state 0, end in state 0. -/
def viterbi (ms : List (Int × Int)) : List Bool :=
  viterbiRun ms.length ms (0 :: List.replicate 63 (-1000000)) [] 0

/-- The data bytes of transmitted bits, least significant bit of each byte first. -/
def bitsBytes (bs : List Bool) (n : Nat) : List Byte :=
  (List.range n).map fun i => BitVec.ofNat 8 ((List.range 8).foldl (fun a j => a + bit (bs.getD (8 * i + j) false) * 2 ^ j) 0)

/-- The bits of a block decoded from its received metrics, descrambled (R205, R206, R211). -/
def decodeBlock (bt rate : Nat) (ms : List Int) : List Bool :=
  let b := blockBytes bt
  scramble ((viterbi (depuncture rate (8 * b + 4) (8 * b + 6) 0 ms)).take (8 * b))

/-- The header word and data of a block that passes its CRC-32 (R211). -/
def checkBlock (bt : Nat) (bits : List Bool) : Option (Nat × List Byte) :=
  let body := bits.take (8 * (blockBytes bt - 4))
  if bits.drop (8 * (blockBytes bt - 4)) = msbFirst 32 (crc32 body) then
    let bytes := bitsBytes body (blockBytes bt - 4)
    some (leNat (bytes.take 4), bytes.drop 4)
  else none

/-- Whether a block's header holds a field R68 does not permit (R212). -/
def formatBlock (bt word : Nat) (uplink : Bool) : Bool :=
  let h := BlkHdr.ofWord word
  decide (word / 2 ^ 29 ≠ 0) || (bt == 1 && decide (128 < h.vlen)) || (h.fill && !uplink)

/-- A robust entry's metric as the slip stores and restores it (R216). -/
def slipQuant (x : Int) : Int :=
  let q : Int := min 15 (((x.natAbs + 1) / 2 : Nat) : Int)
  if x < 0 then -(2 * q) else 2 * q

/-- Metrics as an entry of a block type holds them. -/
def slipStore (bt : Nat) (ms : List Int) : List Int := if bt = 1 then ms.map slipQuant else ms

/-- Stored and new metrics added, each position limited to +-31 (R219). -/
def slipSum (a b : List Int) : List Int := List.zipWith (fun x y => clampInt (-31) 31 (x + y)) a b

end Sys2Proof.Machine
end

