-- ==== Sys2Proof/Config.lean ====
section
/-!
DEFINITION. What the spec leaves open.  `Config.free k` is the k-th value that the spec does not fix: it has no body,
so nothing can be proved of it, and every claim holds for each of its values.  A step reads it at the counter
`State.chip.free` and advances the counter, so that no two uses share a value.
-/
namespace Sys2Proof

/-- The k-th value the spec leaves open (a natural number; each use takes it modulo the range the spec states).
DESIGN CHOICE: log entry 2. -/
opaque Config.free : Nat → Nat

/-- What a sensor function yields: a temperature in 0.001 °C, or no solution, with the limit of the range that lies nearer. -/
inductive CurveOut
  | temp (t : Int)
  | below
  | above
deriving DecidableEq, Repr, Inhabited

/-- The inverse of IEC 60751: temperature from R / R0.  The function stands in the standard, not in the spec: log entry 43. -/
opaque Config.platinum : Rat → CurveOut

/-- The inverse of the IEC 60584 reference function of curve 4 (type K) or 5 (type J): temperature from an emf in volts (log entry
43). -/
opaque Config.thermocouple : Nat → Rat → CurveOut

/-- The emf in volts of the same reference function at a temperature in 0.01 °C (R351, log entry 43). -/
opaque Config.thermoEmf : Nat → Int → Rat

/-- The natural logarithm, as the lane computes it (Table 13-3); to what precision is not stated: log entry 43. -/
opaque Config.ln : Rat → Rat

/-- The AUX excitation current in amperes that a curve and a factory trim word give; the coding of the word is not stated (R350):
log entry 43. -/
opaque Config.auxCurrent : Nat → Nat → Rat

/-- The network identifier SNID that the GX8 puts into its frame controls and expects in those of its network (R61, R82).
No register or command of the spec sets it: log entry 66. -/
opaque Config.snid : Nat

/-- The body that device firmware writes into configuration block `b` for its settings, as (item, value) pairs.  The layout of
the bodies is not stated (R370): log entry 79. -/
opaque Config.cfgBody : Nat → List (Nat × Nat) → List Byte

/-- What a body of configuration block `b` holds for an item, where CFGSAVE did not write it in this power cycle: log entry
79. -/
opaque Config.cfgItem : Nat → List Byte → Nat → Nat

/-- Word `k` of the default tables in a TABLES section: the layout is not stated (R363): log entry 80. -/
opaque Config.tablesWord : List Byte → Nat → Nat

/-! Arithmetic of the lanes' signal processing.  The rules state what is computed; with what precision a lane computes it is not
stated (log entry 188). -/

/-- Cosine of an angle in turns, as the lane computes it: log entry 188. -/
opaque Config.cosine : Rat → Rat

/-- Sine of an angle in turns: log entry 188. -/
opaque Config.sine : Rat → Rat

/-- Angle in turns of the point (re, im), from -1/2 to 1/2: log entry 188. -/
opaque Config.angle : Rat → Rat → Rat

/-- The power ratio of a number of decibels, 10^(x/10): log entry 188. -/
opaque Config.ofDecibels : Rat → Rat

/-- The decibels of a power ratio, 10 log10 x: log entry 188. -/
opaque Config.decibels : Rat → Rat

/-- The square root of a number that is not negative: log entry 188. -/
opaque Config.root : Rat → Rat

/-- Tap `j` (0 to 126) of the receive half-band filter of a stage, 1 or 2 (R165): its response is bounded, its taps are not stated (log
entry 189). -/
opaque Config.halfBand : Nat → Nat → Rat

/-- Taps of the transmit interpolator of a profile that brings its rate up to 204.8 MS/s (R118): their response is bounded, they are
not stated (log entry 189). -/
opaque Config.interpolator : Nat → List Rat

/-- Tap of a half-band stage (1 to 5) of the measurement chain: how many there are is stated, their values are not (R340): log entry
211. -/
opaque Config.measTap : Nat → Nat → Rat

/-- Noise of an input where none has been measured: all that is stated is that it is equal for all inputs (R179): log entry 196. -/
opaque Config.equalNoise : Rat

/-- The sample that decimation makes of as many as it replaces (R194): the filter is not stated (log entry 190). -/
opaque Config.decimate : List Rat → Rat

/-- Sixteen-bit entry of a spyhole source for a value in carrier units (R194): the scale is not stated (log entry 190). -/
opaque Config.spyEntry : Nat → Rat → Int

end Sys2Proof
end

