-- ==== Sys2Proof/Machine/Dsp.lean ====
section
/-!
DEFINITION. Signal arithmetic of a lane (R55, R57, R115, R138, R146, R165): complex values, levels, windows, Fourier transforms and
filters, over exact numbers.  What no finite arithmetic gives exactly stands as a constant of Config (log entry 188).
-/
namespace Sys2Proof.Machine

/-! Complex values. -/

/-- The sum of two values. -/
def Cx.add (x y : Cx) : Cx := ⟨x.re + y.re, x.im + y.im⟩

/-- The product of two values. -/
def Cx.mul (x y : Cx) : Cx := ⟨x.re * y.re - x.im * y.im, x.re * y.im + x.im * y.re⟩

/-- The conjugate. -/
def Cx.conj (x : Cx) : Cx := ⟨x.re, -x.im⟩

/-- A value times a real number. -/
def Cx.scale (a : Rat) (x : Cx) : Cx := ⟨a * x.re, a * x.im⟩

/-- The difference of two values. -/
def Cx.sub (x y : Cx) : Cx := x.add (y.scale (-1))

/-- The squared magnitude. -/
def Cx.power (x : Cx) : Rat := x.re * x.re + x.im * x.im

/-- The quotient of two values; 0 where the divisor is 0. -/
def Cx.div (x y : Cx) : Cx := Cx.scale (1 / y.power) (x.mul y.conj)

/-- The sum of a list. -/
def Cx.sum (xs : List Cx) : Cx := xs.foldl Cx.add ⟨0, 0⟩

/-- A real value. -/
def Cx.real (a : Rat) : Cx := ⟨a, 0⟩

/-- The value of magnitude 1 at an angle in turns. -/
def Cx.turn (a : Rat) : Cx := ⟨Config.cosine a, Config.sine a⟩

/-- The angle of a value, in turns. -/
def Cx.angle (x : Cx) : Rat := Config.angle x.re x.im

/-- The mean of a list; 0 of an empty one. -/
def Cx.mean (xs : List Cx) : Cx := Cx.scale (1 / (xs.length : Rat)) (Cx.sum xs)

/-- The sum of a list of numbers. -/
def ratSum (xs : List Rat) : Rat := xs.foldl (· + ·) 0

/-- The mean of a list of numbers; 0 of an empty one. -/
def ratMean (xs : List Rat) : Rat := ratSum xs / (xs.length : Rat)

/-- The median of a list: of an even number of values the lower of the two in the middle (log entry 191). -/
def ratMedian (xs : List Rat) : Rat := (xs.mergeSort fun a b => decide (a ≤ b)).getD ((xs.length - 1) / 2) 0

/-- A value between `a` and `b`, `j` fortieths of the way: the rule of R127 within a sherd. -/
def Cx.between (a b : Cx) (j : Nat) : Cx := a.add (Cx.scale ((j : Rat) / 40) (b.sub a))

/-! Levels. -/

/-- The factor of a gain in decibels on an amplitude, 10^(x/20). -/
def gainOf (x : Rat) : Rat := Config.ofDecibels (x / 2)

/-- A power ratio in units of 0.5 dB, to the nearest. -/
def halfDecibels (x : Rat) : Int := (2 * Config.decibels x + 1 / 2).floor

/-- Volts of the peak of a carrier of value 1: -78 dBm/Hz over 12.5 kHz into 100 Ω (R115, R146). -/
def unitVolt : Rat := 50 * gainOf (-78)

/-- Full scale of a transmit DAC at the pre-driver, and of an ADC at PGA 0 dB and of the replica DAC, in volts (Tables 5-1 and 5-2). -/
def txFullScale : Rat := 1575 / 1000
/-- Full scale of an input at PGA 0 dB. -/
def rxFullScale : Rat := 1

/-- A value in volts as a DAC of `bits` bits delivers it: clipped to full scale and rounded to a step (R117, Table 5-1). -/
def dacOut (bits : Nat) (fs v : Rat) : Rat :=
  let top : Int := 2 ^ (bits - 1) - 1
  (clampInt (-top - 1) top (v / fs * top + 1 / 2).floor : Rat) * fs / top

/-- Whether a value lies beyond full scale. -/
def beyond (fs v : Rat) : Bool := decide (fs < v) || decide (v < -fs)

/-! Symbols in time (R55, R57). -/

/-- The rising half of the raised-cosine ramp, `m` ticks into it (R55; at what point of a tick it is taken is not stated: log entry
191). -/
def ramp (m : Rat) : Rat := (1 - Config.cosine (m / 512)) / 2

/-- The window of a symbol that lasts `len` ticks, at `m` ticks from its start: ramps over its first 256 ticks and over the postfix
(R55). -/
def symWindow (len : Nat) (m : Rat) : Rat :=
  if m < 0 then 0
  else if m < 256 then ramp m
  else if m < len then 1
  else if m < len + 256 then ramp (256 - (m - len))
  else 0

/-- The window of short symbol `s` (1 to 12): a ramp inside S1, none between short symbols, and the cyclic continuation of S12 under
the ramp of the FC (R57). -/
def shortWindow (s : Nat) (m : Rat) : Rat :=
  if m < 0 then 0
  else if s = 1 ∧ m < 256 then ramp m
  else if m < 1024 then 1
  else if s = 12 ∧ m < 1280 then ramp (256 - (m - 1024))
  else 0

/-- The sum of carriers at `m` ticks from the origin of their phases: the IFFT of a symbol and its cyclic continuation (stages 8 and 9 of
Table 4-1). -/
def carriersAt (xs : List (Nat × Cx)) (m : Rat) : Rat :=
  ratSum (xs.map fun e => (e.2.mul (Cx.turn ((e.1 : Rat) * m / 8192))).re)

/-! Transforms and filters. -/

/-- The value of carrier `k` in `len` samples that lie `step` ticks apart from tick `w` on, with its phase counted from tick `origin`: the
FFT of a window, in carrier units (R146, R176). -/
def carrierIn (x : Int → Rat) (w origin : Int) (len step : Nat) (k : Nat) : Cx :=
  Cx.scale (2 / ((len : Rat) * unitVolt)) (Cx.sum ((List.range len).map fun m =>
    Cx.scale (x (w + (m * step : Nat))) (Cx.turn (-((k : Rat) * ((w + (m * step : Nat) - origin : Int) : Rat) / 8192)))))

/-- A filter of 127 taps about its middle one, on samples that lie `step` ticks apart: the delay of 63 samples is compensated (R165,
Table 6-1). -/
def halfBandAt (stage step : Nat) (x : Int → Rat) (t : Int) : Rat :=
  ratSum ((List.range 127).map fun j => Config.halfBand stage j * x (t + ((63 : Int) - j) * step))

/-- A signal after the half-band stages of a profile (Table 6-1): none in FULL, one in HALF, two in QUARTER.  Its samples are taken
`rateStep` ticks apart. -/
def decimated (bp : Nat) (x : Int → Rat) : Int → Rat :=
  match bp with
  | 0 => x
  | 1 => halfBandAt 1 1 x
  | _ => halfBandAt 2 2 (halfBandAt 1 1 x)

/-- Ticks between samples at a profile's processing rate (Table 2-1, Table 6-1). -/
def rateStep (bp : Nat) : Nat := if bp = 0 then 1 else if bp = 1 then 2 else 4

end Sys2Proof.Machine
end

