-- ==== Sys2Proof/Machine/Demod.lean ====
section
/-!
DEFINITION. From samples and carriers to metrics (R165, R172, R175 to R181, R184, R190, R204): decimation, the detection
metric, FFT windows, channel estimates, combining and the max-log demapper, over exact complex numbers.
-/
namespace Sys2Proof.Machine

/-! Rates, detection and FFT windows. -/

/-- Whether the metric M of a window of samples is at or above THR / 256 (R172): `rs` holds r(n) and r(n - 1,024) in pairs. -/
def metricHolds (thr : Nat) (rs : List (Cx × Cx)) : Bool :=
  let num := (Cx.sum (rs.map fun e => e.1.mul e.2.conj)).power
  let den := ratSum (rs.map fun e => e.1.power)
  decide ((thr : Rat) * (den * den) ≤ 256 * num) && decide (den ≠ 0)

/-- How far into a symbol with a guard of `g` ticks its FFT window starts (R176); `su` is WINPOS.SU, or 6 in an uplink. -/
def windowStart (g su : Nat) : Nat := su * g / 8

/-- Whole ticks by which the FFT window has moved once the drift has built up to `d` ticks (R175): one at every half tick passed. -/
def windowShift (d : Rat) : Int := (d + 1 / 2).floor

/-! Channel estimates (R177, R178, R184). -/

/-- Whether a carrier of power `p` counts as missing in a sherd of median power `med`: it lies more than 20 dB below (R177). -/
def carrierMissing (med p : Rat) : Bool := decide (100 * p < med)

/-- The estimate at carrier `k` from those at measured carriers, in rising order: its own, or linear between its nearest
neighbours; beyond the outermost one that one's (R177). -/
def estimateAt (known : List (Nat × Cx)) (k : Nat) : Cx :=
  match (known.filter fun e => decide (e.1 ≤ k)).getLast?, known.find? fun e => decide (k ≤ e.1) with
  | some a, some b =>
    if a.1 = b.1 then a.2
    else a.2.add (Cx.scale (((k - a.1 : Nat) : Rat) / ((b.1 - a.1 : Nat) : Rat)) (b.2.sub a.2))
  | some a, none => a.2
  | none, some b => b.2
  | none, none => ⟨0, 0⟩

/-- The estimate of an input at a measured carrier: the mean of its short symbols over the known preamble value `v` (R177). -/
def preambleEstimate (ys : List Cx) (v : Cx) : Cx := (Cx.scale (1 / (ys.length : Rat)) (Cx.sum ys)).div v

/-- The correction that the pilot of a sherd asks for: cs = y / (H v) (R178). -/
def pilotFactor (y h : Cx) (v : Int) : Cx := y.div (Cx.scale v h)

/-- The correction at carrier `k`, between the pilots of its sherd and the next by the rule of R127; `cs` gives those of the sherds from
`lo` on (R178). -/
def correctionAt (lo : Nat) (cs : List Cx) (k : Nat) : Cx :=
  let s := (k - 40) / 40 - lo
  match cs[s]?, cs[s + 1]? with
  | some a, some b => a.between b ((k - 40) % 40)
  | some a, none => a
  | none, _ => ⟨0, 0⟩

/-- The channel of a present user on a carrier: the mean of its two sherd-pilot symbols over v(k) (R184). -/
def userEstimate (y1 y2 : Cx) (v : Int) : Cx := Cx.div (Cx.scale (1 / 2) (y1.add y2)) ⟨v, 0⟩

/-! Combining (R179, R180). -/

/-- One input on one carrier: channel, received value and noise. -/
structure InCarrier where
  h : Cx
  r : Cx
  noise : Rat
deriving DecidableEq, Repr

/-- SNR that an input gives: |H|² over the noise. -/
def InCarrier.snr (x : InCarrier) : Rat := x.h.power / x.noise

/-- The SNR of a carrier over the inputs that take part (R179). -/
def carrierSnr (xs : List InCarrier) : Rat := ratSum (xs.map InCarrier.snr)

/-- Maximum-ratio combining: the sum of conj(H) r over the noise (R179). -/
def combineMrc (xs : List InCarrier) : Cx := Cx.sum (xs.map fun x => Cx.scale (1 / x.noise) (x.h.conj.mul x.r))

/-- The input of the largest SNR, the first of equals (R179, COMB = 1). -/
def bestInput : List InCarrier → Option InCarrier
  | [] => none
  | x :: xs => match bestInput xs with
    | some y => if x.snr < y.snr then some y else some x
    | none => some x

/-- The inputs that COMB takes into the sum: all, the best one, or FIXIN; `xs` by input (R179). -/
def combChoice (comb fixin : Nat) (xs : List (Nat × InCarrier)) : List InCarrier :=
  if comb = 1 then (bestInput (xs.map Prod.snd)).toList
  else if comb = 2 then (xs.filter fun e => e.1 == fixin).map Prod.snd
  else xs.map Prod.snd

/-- The inputs of a symbol that keep their weight: those that clip at most CLIPS samples in it (R180). -/
def unclipped (limit : Nat) (xs : List (Nat × Nat × InCarrier)) : List (Nat × InCarrier) :=
  (xs.filter fun e => decide (e.2.1 ≤ limit)).map fun e => (e.1, e.2.2)

/-- The equalised value and SNR of a carrier; none where every input is excluded (R179, R180). -/
def equalise (comb fixin limit : Nat) (xs : List (Nat × Nat × InCarrier)) : Option (Cx × Rat) :=
  let ys := combChoice comb fixin (unclipped limit xs)
  let snr := carrierSnr ys
  if ys = [] then none else some (Cx.scale (1 / snr) (combineMrc ys), snr)

/-! The demapper (R181, R204). -/

/-- The bits of `i`, most significant first, in `m` places. -/
def pointBits (m i : Nat) : List Bool := msbFirst m i

/-- Squared distance of a value, in units of the constellation's grid, from a point. -/
def gridDist (y : Cx) (p : Int × Int) : Rat := (y.add ⟨-p.1, -p.2⟩).power

/-- Least distance from the points of a loading code whose bit `b` is `v`. -/
def nearest (code : Nat) (y : Cx) (b : Nat) (v : Bool) : Option Rat :=
  let m := loadBits code
  let ds := ((List.range (2 ^ m)).filterMap fun i =>
    if (pointBits m i).getD b false = v then some (gridDist y (constPoint code (pointBits m i))) else none)
  ds.foldl (fun a d => match a with
    | none => some d
    | some x => some (min x d)) none

/-- Max-log LLR of bit `b` of a carrier with equalised value `y`, in units of the grid, and SNR `snr`; positive for 0 (R181,
R203).  For BPSK it is 4 SNR Re(y) (R204). -/
def maxLog (code : Nat) (y : Cx) (snr : Rat) (b : Nat) : Rat :=
  match nearest code y b true, nearest code y b false with
  | some d1, some d0 => snr / (loadNorm code : Nat) * (d1 - d0)
  | _, _ => 0

/-- The metric delivered: round(LLR × S), limited to ±31, with S = `scale` / 16 (R204). -/
def deliver (scale : Nat) (llr : Rat) : Int := clampInt (-31) 31 (llr * (scale : Rat) / 16 + 1 / 2).floor

/-- An equalised value in units of a loading code's grid (R73). -/
def onGrid (code : Nat) (y : Cx) : Cx := y.scale (Config.root (loadNorm code : Nat))

/-- The metrics of one REP1 symbol in wedge output order: for each data carrier its code, equalised value and SNR.  Code 0
gives none, and an excluded symbol gives 0 (R180, R181, R204). -/
def symbolMetrics (scale : Nat) (cs : List (Nat × Option (Cx × Rat))) : List Int :=
  cs.flatMap fun e => (List.range (loadBits e.1)).map fun b =>
    match e.2 with
    | some (y, snr) => deliver scale (maxLog e.1 (onGrid e.1 y) snr b)
    | none => 0

/-- The metrics of a REP1 symbol in encoder order (R74, R205 step 1). -/
def symbolCoded (scale : Nat) (cs : List (Nat × Option (Cx × Rat))) : List Int := unwedge 0 (symbolMetrics scale cs) 0

/-- The metric of a carrier that carries BPSK (R204); 0 for one that is off or whose inputs are all excluded (R180, R205). -/
def bpskMetric (scale : Nat) (y : Option (Cx × Rat)) : Int :=
  match y with
  | some (v, snr) => deliver scale (maxLog 1 v snr 0)
  | none => 0

/-- Metrics of positions added over copies, each sum limited to ±31 (R205 step 2). -/
def addCopies (n : Nat) (copies : List (List Int)) : List Int :=
  (List.range n).map fun j => clampInt (-31) 31 ((copies.map fun c => c.getD j 0).foldl (· + ·) 0)

/-- The metrics of a repetition-mode symbol over `nd` data carriers, in encoder order: the wedge of each copy is inverted and the copies
are added (R75, R205).  `y d` is the metric of data carrier `d`. -/
def repCoded (nd mode : Nat) (y : Nat → Int) : List Int :=
  let ncb := repNcb nd mode
  addCopies ncb ((List.range (repsOf mode)).map fun c =>
    unwedge 0 ((List.range ncb).map fun j => y ((j + c * (nd / repsOf mode)) % nd)) c)

/-- The 320 metrics of an FC or extension pair from those of the carriers of its two symbols (R58, R205).  `y j k` is the metric of
carrier `k` in symbol `j`. -/
def pairCoded (y : Nat → Nat → Int) : List Int :=
  addCopies 320 ((List.range 6).map fun m =>
    unwedge 0 ((List.range 320).map fun e => y (m / 3) (40 + 320 * (m % 3) + e)) m)

/-- The 128 bits and the check bits that the FC decoder finds in 320 metrics: rate 1/2 over 160 trellis steps (R58, R206). -/
def decodePair (ms : List Int) : Nat × Nat :=
  let bits := scramble ((viterbi ((List.range 160).map fun i => (ms.getD (2 * i) 0, ms.getD (2 * i + 1) 0))).take 154)
  let num (bs : List Bool) : Nat := bs.foldl (fun a b => 2 * a + bit b) 0
  (num (bits.take 128).reverse, num ((bits.drop 128).take 24))

/-! Link quality (R189, R190). -/

/-- The point of a loading code nearest to an equalised value: its hard decision (R190). -/
def hardPoint (code : Nat) (y : Cx) : Cx :=
  let g := onGrid code y
  let points := (List.range (2 ^ loadBits code)).map fun i => constPoint code (pointBits (loadBits code) i)
  let best := points.foldl (fun (a : Int × Int) p => if gridDist g p < gridDist g a then p else a) (points.headD (0, 0))
  Cx.scale (1 / Config.root (loadNorm code : Nat)) ⟨best.1, best.2⟩

/-- A clock offset from phases that carriers have turned by in `ticks` ticks: the least-squares slope over the carriers (R175, R184;
log entry 194). -/
def offsetOf (ticks : Nat) (turns : List (Nat × Cx)) : Rat :=
  8192 / (ticks : Rat) * ratSum (turns.map fun e => (e.1 : Rat) * e.2.angle) / ratSum (turns.map fun e => (e.1 * e.1 : Nat))

/-- FOFS of a clock offset, 0.1 Hz at carrier 1,000 (R189). -/
def fofsOf (eps : Rat) : Int := (eps * 125000000 + 1 / 2).floor

/-- EVM in 0.1 dB of equalised values and their references (R190). -/
def evmOf (power : Rat) : Int := (10 * Config.decibels power + 1 / 2).floor

/-- The square of the EVM: error power over reference power, for equalised values and their references (R190). -/
def evmPower (xs : List (Cx × Cx)) : Rat :=
  ratSum (xs.map fun e => (e.1.sub e.2).power) / ratSum (xs.map fun e => e.2.power)

end Sys2Proof.Machine
end

