-- ==== Sys2Proof/Machine/RegTypes.lean ====
section
/-!
DEFINITION. What a register field is: its place, width, type, reset value and reserved encodings (Table 0-6, R13 to
R15), and how a register is made of slices of fields.
-/
namespace Sys2Proof.Machine

/-- Field types of Table 0-6 as far as a stored field needs them (BW and PR fields are RW fields whose accesses
differ; WO and port fields store nothing). -/
inductive FTy
  | ro | rw | w1c | wos
deriving DecidableEq, Repr

/-- Which encodings of a field are not reserved (R15). -/
inductive Enc
  /-- every encoding -/
  | any
  /-- `lo` to `hi` -/
  | range (lo hi : Nat)
  /-- `lo` to `hi` in two's complement -/
  | srange (lo hi : Int)
  /-- from the value of the field of the same register at bit `lo'` (width `w'`) to `hi` -/
  | atLeast (lo' w' hi : Nat)
  /-- from 1 to one below the value of the field of the same register at bit `lo'` (width `w'`) -/
  | below (lo' w' : Nat)
  /-- ECHO.MADDR.WORD: up to the last word of the matrix that MADDR.MAT names (R161) -/
  | maddr
deriving DecidableEq, Repr

/-- One stored register field. -/
structure Fld where
  addr : Nat
  lo : Nat
  width : Nat
  ty : FTy
  reset : Nat
  enc : Enc
deriving DecidableEq, Repr

/-- The key under which a field's value is stored: its bit address in BAR0. -/
def Fld.key (f : Fld) : Nat := f.addr * 32 + f.lo

/-- A piece of a register: `width` bits at bit `pos`, which show the field's bits from bit `src` on. -/
structure Slice where
  fld : Fld
  pos : Nat
  src : Nat
  width : Nat
deriving DecidableEq, Repr

/-- A register of a page: its offset, whether it is a port register (P), accepts narrow writes (BW) or is half of a
paired register (PR), and its stored fields. -/
structure Reg where
  off : Nat
  port : Bool
  bw : Bool
  pr : Bool
  slices : List Slice
deriving DecidableEq, Repr

/-- Reset value of HEALTH.THRc.THR (Table 15-2, R383). -/
def thrReset : Nat → Nat
  | 0 => 8 | 1 => 4 | 2 => 3 | 3 => 4 | 4 => 32 | 5 => 16 | _ => 4

/-- Reset value of HEALTH.THRc.LEAK (Table 15-2, R383). -/
def leakReset : Nat → Nat
  | 2 => 26 | 4 => 0 | _ => 22

end Sys2Proof.Machine
end

