-- ==== Sys2Proof/Machine/RegsHub.lean ====
section
/-!
DEFINITION. The stored register fields of the hub pages, one definition per field of the register tables of
the chapters (name PAGE_REGISTER_FIELD, BAR0 offset, bits, type, reset value, reserved encodings), and the list of the
registers of each page.  Registers that only show other state (Views.lean) have no field here; their list entry is empty.
-/
namespace Sys2Proof.Machine

namespace F

/-- SKEJO.LINKSTAT.STATE (R31, 01_architecture.md). -/
def SKEJO_LINKSTAT_STATE (n : Lane): Fld := ⟨0x16000 + (0x040 + 0x20 * n.idx + 0x00), 0, 3, .ro, 0, .any⟩
/-- SKEJO.LINKSTAT.TXLANES (R31, 01_architecture.md). -/
def SKEJO_LINKSTAT_TXLANES (n : Lane): Fld := ⟨0x16000 + (0x040 + 0x20 * n.idx + 0x00), 8, 4, .ro, 0, .any⟩
/-- SKEJO.LINKSTAT.RXLANES (R31, 01_architecture.md). -/
def SKEJO_LINKSTAT_RXLANES (n : Lane): Fld := ⟨0x16000 + (0x040 + 0x20 * n.idx + 0x00), 12, 4, .ro, 0, .any⟩
/-- SKEJO.LINKSTAT.TXSPARE (R31, 01_architecture.md). -/
def SKEJO_LINKSTAT_TXSPARE (n : Lane): Fld := ⟨0x16000 + (0x040 + 0x20 * n.idx + 0x00), 16, 1, .ro, 0, .any⟩
/-- SKEJO.LINKSTAT.RXSPARE (R31, 01_architecture.md). -/
def SKEJO_LINKSTAT_RXSPARE (n : Lane): Fld := ⟨0x16000 + (0x040 + 0x20 * n.idx + 0x00), 17, 1, .ro, 0, .any⟩
/-- SKEJO.LANEMAP.TXRET (R31, 01_architecture.md). -/
def SKEJO_LANEMAP_TXRET (n : Lane): Fld := ⟨0x16000 + (0x040 + 0x20 * n.idx + 0x04), 0, 5, .ro, 0, .any⟩
/-- SKEJO.LANEMAP.RXRET (R31, 01_architecture.md). -/
def SKEJO_LANEMAP_RXRET (n : Lane): Fld := ⟨0x16000 + (0x040 + 0x20 * n.idx + 0x04), 8, 5, .ro, 0, .any⟩
/-- SKEJO.CRCERR.HUBRX (R31, 01_architecture.md). -/
def SKEJO_CRCERR_HUBRX (n : Lane): Fld := ⟨0x16000 + (0x040 + 0x20 * n.idx + 0x08), 0, 16, .ro, 0, .any⟩
/-- SKEJO.CRCERR.LANERX (R31, 01_architecture.md). -/
def SKEJO_CRCERR_LANERX (n : Lane): Fld := ⟨0x16000 + (0x040 + 0x20 * n.idx + 0x08), 16, 16, .ro, 0, .any⟩
/-- SKEJO.RETRY.REPLAYS (R31, 01_architecture.md). -/
def SKEJO_RETRY_REPLAYS (n : Lane): Fld := ⟨0x16000 + (0x040 + 0x20 * n.idx + 0x0C), 0, 16, .ro, 0, .any⟩
/-- SKEJO.RETRY.RETRAINS (R31, 01_architecture.md). -/
def SKEJO_RETRY_RETRAINS (n : Lane): Fld := ⟨0x16000 + (0x040 + 0x20 * n.idx + 0x0C), 16, 16, .ro, 0, .any⟩
/-- SKEJO.SPYDROP.COUNT (R31, 01_architecture.md). -/
def SKEJO_SPYDROP_COUNT (n : Lane): Fld := ⟨0x16000 + (0x040 + 0x20 * n.idx + 0x10), 0, 32, .ro, 0, .any⟩
/-- SKEJO.RETLIM.LIMIT (R31, 01_architecture.md). -/
def SKEJO_RETLIM_LIMIT : Fld := ⟨0x16000 + 0x404, 0, 4, .rw, 8, .range 2 15⟩
/-- SKEJO.SPYCAP.SHARE (R31, 01_architecture.md). -/
def SKEJO_SPYCAP_SHARE : Fld := ⟨0x16000 + 0x408, 0, 4, .rw, 8, .range 1 15⟩
/-- CLK.CLKSTAT.REFOK (R49, 01_architecture.md). -/
def CLK_CLKSTAT_REFOK : Fld := ⟨0x1000 + 0x040, 0, 1, .ro, 0, .any⟩
/-- CLK.CLKSTAT.HUBPLL (R49, 01_architecture.md). -/
def CLK_CLKSTAT_HUBPLL : Fld := ⟨0x1000 + 0x040, 1, 1, .ro, 0, .any⟩
/-- CLK.CLKSTAT.LINKPLL (R49, 01_architecture.md). -/
def CLK_CLKSTAT_LINKPLL : Fld := ⟨0x1000 + 0x040, 2, 1, .ro, 0, .any⟩
/-- CLK.CLKSTAT.AONRC (R49, 01_architecture.md). -/
def CLK_CLKSTAT_AONRC : Fld := ⟨0x1000 + 0x040, 3, 1, .ro, 1, .any⟩
/-- CLK.CLKSTAT.REFLOSS (R49, 01_architecture.md). -/
def CLK_CLKSTAT_REFLOSS : Fld := ⟨0x1000 + 0x040, 8, 8, .ro, 0, .any⟩
/-- CLK.PWRSTAT.STATE (R49, 01_architecture.md). -/
def CLK_PWRSTAT_STATE : Fld := ⟨0x1000 + 0x044, 0, 3, .ro, 1, .any⟩
/-- CLK.PWRSTAT.LANEPWR (R49, 01_architecture.md). -/
def CLK_PWRSTAT_LANEPWR : Fld := ⟨0x1000 + 0x044, 8, 7, .ro, 0, .any⟩
/-- CLK.PWRSTAT.WAKECAUSE (R49, 01_architecture.md). -/
def CLK_PWRSTAT_WAKECAUSE : Fld := ⟨0x1000 + 0x044, 16, 4, .ro, 0, .any⟩
/-- CLK.PWRSTAT.STBYPEND (R49, 01_architecture.md). -/
def CLK_PWRSTAT_STBYPEND : Fld := ⟨0x1000 + 0x044, 20, 1, .ro, 0, .any⟩
/-- CLK.PWRCTL.STBY (R49, 01_architecture.md). -/
def CLK_PWRCTL_STBY : Fld := ⟨0x1000 + 0x048, 0, 1, .rw, 0, .any⟩
/-- CLK.PWRCTL.PINEN (R49, 01_architecture.md). -/
def CLK_PWRCTL_PINEN : Fld := ⟨0x1000 + 0x048, 1, 1, .rw, 0, .any⟩
/-- CLK.PWRCTL.UARTWAKE0 (R49, 01_architecture.md). -/
def CLK_PWRCTL_UARTWAKE0 : Fld := ⟨0x1000 + 0x048, 2, 1, .rw, 0, .any⟩
/-- CLK.PWRCTL.UARTWAKE1 (R49, 01_architecture.md). -/
def CLK_PWRCTL_UARTWAKE1 : Fld := ⟨0x1000 + 0x048, 3, 1, .rw, 0, .any⟩
/-- WHEEL.WCTL.RUN (R111, 03_wheel_schedule.md). -/
def WHEEL_WCTL_RUN : Fld := ⟨0xa000 + 0x040, 0, 1, .rw, 0, .any⟩
/-- WHEEL.WCTL.NOMFREQ (R111, 03_wheel_schedule.md). -/
def WHEEL_WCTL_NOMFREQ : Fld := ⟨0xa000 + 0x040, 1, 1, .rw, 0, .any⟩
/-- WHEEL.WCTL.FREEOK (R111, 03_wheel_schedule.md). -/
def WHEEL_WCTL_FREEOK : Fld := ⟨0xa000 + 0x040, 2, 1, .rw, 0, .any⟩
/-- WHEEL.WCTL.G6EN (R111, 03_wheel_schedule.md). -/
def WHEEL_WCTL_G6EN : Fld := ⟨0xa000 + 0x040, 3, 1, .rw, 0, .any⟩
/-- WHEEL.WCTL.G6QTR (R111, 03_wheel_schedule.md). -/
def WHEEL_WCTL_G6QTR : Fld := ⟨0xa000 + 0x040, 4, 1, .rw, 0, .any⟩
/-- WHEEL.WSTAT.PAT (R111, 03_wheel_schedule.md). -/
def WHEEL_WSTAT_PAT : Fld := ⟨0xa000 + 0x044, 0, 4, .ro, 0, .any⟩
/-- WHEEL.WSTAT.EPOCH (R111, 03_wheel_schedule.md). -/
def WHEEL_WSTAT_EPOCH : Fld := ⟨0xa000 + 0x044, 4, 8, .ro, 0, .any⟩
/-- WHEEL.WSTAT.EPPEND (R111, 03_wheel_schedule.md). -/
def WHEEL_WSTAT_EPPEND : Fld := ⟨0xa000 + 0x044, 12, 1, .ro, 0, .any⟩
/-- WHEEL.WSTAT.STRAG (R111, 03_wheel_schedule.md). -/
def WHEEL_WSTAT_STRAG : Fld := ⟨0xa000 + 0x044, 13, 1, .ro, 0, .any⟩
/-- WHEEL.WSTAT.QPEND (R111, 03_wheel_schedule.md). -/
def WHEEL_WSTAT_QPEND : Fld := ⟨0xa000 + 0x044, 14, 1, .ro, 0, .any⟩
/-- WHEEL.WSTAT.QACT (R111, 03_wheel_schedule.md). -/
def WHEEL_WSTAT_QACT : Fld := ⟨0xa000 + 0x044, 15, 1, .ro, 0, .any⟩
/-- WHEEL.WSTAT.PPEND (R111, 03_wheel_schedule.md). -/
def WHEEL_WSTAT_PPEND : Fld := ⟨0xa000 + 0x044, 16, 1, .ro, 0, .any⟩
/-- WHEEL.TURNSET.TURN (R111, 03_wheel_schedule.md). -/
def WHEEL_TURNSET_TURN : Fld := ⟨0xa000 + 0x048, 0, 32, .rw, 0, .any⟩
/-- WHEEL.BCNCFG.GI (R111, 03_wheel_schedule.md). -/
def WHEEL_BCNCFG_GI : Fld := ⟨0xa000 + 0x04C, 0, 2, .rw, 1, .any⟩
/-- WHEEL.BCNCFG.REP6 (R111, 03_wheel_schedule.md). -/
def WHEEL_BCNCFG_REP6 : Fld := ⟨0xa000 + 0x04C, 2, 1, .rw, 0, .any⟩
/-- WHEEL.QTURN.TURN (R111, 03_wheel_schedule.md). -/
def WHEEL_QTURN_TURN : Fld := ⟨0xa000 + 0x050, 0, 32, .rw, 0, .any⟩
/-- WHEEL.QCTL.QLEN (R111, 03_wheel_schedule.md). -/
def WHEEL_QCTL_QLEN : Fld := ⟨0xa000 + 0x054, 0, 16, .rw, 0, .any⟩
/-- WHEEL.QRES.STATUS (R111, 03_wheel_schedule.md). -/
def WHEEL_QRES_STATUS : Fld := ⟨0xa000 + 0x05C, 0, 8, .ro, 0, .any⟩
/-- WHEEL.QRES.PEND (R111, 03_wheel_schedule.md). -/
def WHEEL_QRES_PEND : Fld := ⟨0xa000 + 0x05C, 8, 1, .ro, 0, .any⟩
/-- WHEEL.EPNX.BP (R111, 03_wheel_schedule.md). -/
def WHEEL_EPNX_BP : Fld := ⟨0xa000 + 0x060, 0, 2, .rw, 0, .range 0 2⟩
/-- WHEEL.EPNX.PAT (R111, 03_wheel_schedule.md). -/
def WHEEL_EPNX_PAT : Fld := ⟨0xa000 + 0x060, 4, 4, .rw, 0, .any⟩
/-- WHEEL.EPNX.GLZ (R111, 03_wheel_schedule.md). -/
def WHEEL_EPNX_GLZ : Fld := ⟨0xa000 + 0x060, 8, 4, .rw, 0, .any⟩
/-- WHEEL.EPNX.GKEY (R111, 03_wheel_schedule.md). -/
def WHEEL_EPNX_GKEY : Fld := ⟨0xa000 + 0x060, 16, 6, .rw, 0, .any⟩
/-- WHEEL.EPSW.TURN (R111, 03_wheel_schedule.md). -/
def WHEEL_EPSW_TURN : Fld := ⟨0xa000 + 0x064, 0, 32, .rw, 0, .any⟩
/-- WHEEL.EPCFG.STRAG (R111, 03_wheel_schedule.md). -/
def WHEEL_EPCFG_STRAG : Fld := ⟨0xa000 + 0x068, 0, 8, .rw, 16, .any⟩
/-- WHEEL.EPCFG.EPLEAD (R111, 03_wheel_schedule.md). -/
def WHEEL_EPCFG_EPLEAD : Fld := ⟨0xa000 + 0x068, 8, 8, .rw, 16, .range 4 255⟩
/-- WHEEL.EPRES.STATUS (R111, 03_wheel_schedule.md). -/
def WHEEL_EPRES_STATUS : Fld := ⟨0xa000 + 0x070, 0, 8, .ro, 0, .any⟩
/-- WHEEL.EPRES.PEND (R111, 03_wheel_schedule.md). -/
def WHEEL_EPRES_PEND : Fld := ⟨0xa000 + 0x070, 8, 1, .ro, 0, .any⟩
/-- WHEEL.PTURN.TURN (R111, 03_wheel_schedule.md). -/
def WHEEL_PTURN_TURN : Fld := ⟨0xa000 + 0x078, 0, 32, .ro, 0, .any⟩
/-- WHEEL.PLEN.LEN (R111, 03_wheel_schedule.md). -/
def WHEEL_PLEN_LEN : Fld := ⟨0xa000 + 0x07C, 0, 4, .ro, 0, .any⟩
/-- WHEEL.WAKECFG.WAKEG (R111, 03_wheel_schedule.md). -/
def WHEEL_WAKECFG_WAKEG : Fld := ⟨0xa000 + 0x0F0, 0, 16, .rw, 200, .range 1 65535⟩
/-- WHEEL.WAKECFG.WMISS (R111, 03_wheel_schedule.md). -/
def WHEEL_WAKECFG_WMISS : Fld := ⟨0xa000 + 0x0F0, 16, 8, .rw, 3, .range 1 255⟩
/-- WHEEL.COUNTS.BCNOVR (R111, 03_wheel_schedule.md). -/
def WHEEL_COUNTS_BCNOVR : Fld := ⟨0xa000 + 0x0F4, 0, 16, .ro, 0, .any⟩
/-- WHEEL.COUNTS.WAKEMISS (R111, 03_wheel_schedule.md). -/
def WHEEL_COUNTS_WAKEMISS : Fld := ⟨0xa000 + 0x0F4, 16, 16, .ro, 0, .any⟩
/-- WHEEL.QCNT.QCANCEL (R111, 03_wheel_schedule.md). -/
def WHEEL_QCNT_QCANCEL : Fld := ⟨0xa000 + 0x0F8, 0, 16, .ro, 0, .any⟩
/-- WHEEL.QCNT.QSERVED (R111, 03_wheel_schedule.md). -/
def WHEEL_QCNT_QSERVED : Fld := ⟨0xa000 + 0x0F8, 16, 16, .ro, 0, .any⟩
/-- WHEEL.GCTL.REFPH (R111, 03_wheel_schedule.md). -/
def WHEEL_GCTL_REFPH (n : Lane): Fld := ⟨0xa000 + (0x080 + 0x10 * n.idx + 0x0), 0, 2, .rw, 1, .range 1 3⟩
/-- WHEEL.GSTAT.LSTATE (R111, 03_wheel_schedule.md). -/
def WHEEL_GSTAT_LSTATE (n : Lane): Fld := ⟨0xa000 + (0x080 + 0x10 * n.idx + 0x4), 0, 3, .ro, 0, .any⟩
/-- WHEEL.GSTAT.FACET (R111, 03_wheel_schedule.md). -/
def WHEEL_GSTAT_FACET (n : Lane): Fld := ⟨0xa000 + (0x080 + 0x10 * n.idx + 0x4), 8, 7, .ro, 0, .any⟩
/-- WHEEL.GSTAT.MISSES (R111, 03_wheel_schedule.md). -/
def WHEEL_GSTAT_MISSES (n : Lane): Fld := ⟨0xa000 + (0x080 + 0x10 * n.idx + 0x4), 16, 16, .ro, 0, .any⟩
/-- WHEEL.TURN.TURN (R111, 03_wheel_schedule.md). -/
def WHEEL_TURN_TURN (n : Lane): Fld := ⟨0xa000 + (0x080 + 0x10 * n.idx + 0x8), 0, 32, .ro, 0, .any⟩
/-- WHEEL.PERIOD.P (R111, 03_wheel_schedule.md). -/
def WHEEL_PERIOD_P (n : Lane): Fld := ⟨0xa000 + (0x080 + 0x10 * n.idx + 0xC), 0, 32, .ro, 0, .any⟩
/-- WHEEL.TBLADDR.ENTRY (R111, 03_wheel_schedule.md). -/
def WHEEL_TBLADDR_ENTRY : Fld := ⟨0xa000 + 0x400, 0, 7, .rw, 0, .range 0 95⟩
/-- WHEEL.TBLADDR.PAT (R111, 03_wheel_schedule.md). -/
def WHEEL_TBLADDR_PAT : Fld := ⟨0xa000 + 0x400, 8, 4, .rw, 0, .any⟩
/-- WHEEL.TBLRES.STATUS (R111, 03_wheel_schedule.md). -/
def WHEEL_TBLRES_STATUS : Fld := ⟨0xa000 + 0x40C, 0, 8, .ro, 0, .any⟩
/-- WHEEL.TBLRES.ENTRY (R111, 03_wheel_schedule.md). -/
def WHEEL_TBLRES_ENTRY : Fld := ⟨0xa000 + 0x40C, 8, 7, .ro, 0, .any⟩
/-- WHEEL.LOOP.KP (R111, 03_wheel_schedule.md). -/
def WHEEL_LOOP_KP : Fld := ⟨0xa000 + 0x410, 0, 3, .rw, 2, .any⟩
/-- WHEEL.LOOP.KI (R111, 03_wheel_schedule.md). -/
def WHEEL_LOOP_KI : Fld := ⟨0xa000 + 0x410, 4, 3, .rw, 5, .any⟩
/-- WHEEL.LOOP.ACCWIN (R111, 03_wheel_schedule.md). -/
def WHEEL_LOOP_ACCWIN : Fld := ⟨0xa000 + 0x410, 8, 8, .rw, 10, .range 1 255⟩
/-- WHEEL.LOOP.PHCLAMP (R111, 03_wheel_schedule.md). -/
def WHEEL_LOOP_PHCLAMP : Fld := ⟨0xa000 + 0x410, 16, 8, .rw, 10, .range 1 255⟩
/-- WHEEL.LOOP.PRCLAMP (R111, 03_wheel_schedule.md). -/
def WHEEL_LOOP_PRCLAMP : Fld := ⟨0xa000 + 0x410, 24, 8, .rw, 20, .range 1 255⟩
/-- WHEEL.WAKEUNC.UNCMIN (R111, 03_wheel_schedule.md). -/
def WHEEL_WAKEUNC_UNCMIN : Fld := ⟨0xa000 + 0x414, 0, 16, .rw, 20, .any⟩
/-- WHEEL.WAKEUNC.UNCINIT (R111, 03_wheel_schedule.md). -/
def WHEEL_WAKEUNC_UNCINIT : Fld := ⟨0xa000 + 0x414, 16, 16, .rw, 5000, .any⟩
/-- MAC.RSCFG.MAXATT (R272, 09_mac_frames.md). -/
def MAC_RSCFG_MAXATT : Fld := ⟨0x9000 + 0x040, 0, 3, .rw, 7, .range 1 7⟩
/-- MAC.RSCFG.REASM (R272, 09_mac_frames.md). -/
def MAC_RSCFG_REASM : Fld := ⟨0x9000 + 0x040, 8, 8, .rw, 8, .range 1 255⟩
/-- MAC.CONTCFG.CSLOT (R272, 09_mac_frames.md). -/
def MAC_CONTCFG_CSLOT : Fld := ⟨0x9000 + 0x044, 0, 5, .rw, 4, .range 3 31⟩
/-- MAC.CONTCFG.CWMIN (R272, 09_mac_frames.md). -/
def MAC_CONTCFG_CWMIN : Fld := ⟨0x9000 + 0x044, 8, 4, .rw, 3, .range 0 10⟩
/-- MAC.CONTCFG.CWMAX (R272, 09_mac_frames.md). -/
def MAC_CONTCFG_CWMAX : Fld := ⟨0x9000 + 0x044, 12, 4, .rw, 8, .atLeast 8 4 10⟩
/-- MAC.FDCFG.FDCONE (R272, 09_mac_frames.md). -/
def MAC_FDCFG_FDCONE : Fld := ⟨0x9000 + 0x048, 0, 6, .rw, 40, .any⟩
/-- MAC.FDCFG.AUTOCLR (R272, 09_mac_frames.md). -/
def MAC_FDCFG_AUTOCLR : Fld := ⟨0x9000 + 0x048, 8, 1, .rw, 1, .any⟩
/-- MAC.G6CFG.FILT (R272, 09_mac_frames.md). -/
def MAC_G6CFG_FILT : Fld := ⟨0x9000 + 0x04C, 0, 1, .rw, 1, .any⟩
/-- MAC.G6CFG.IFS (R272, 09_mac_frames.md). -/
def MAC_G6CFG_IFS : Fld := ⟨0x9000 + 0x04C, 8, 8, .rw, 30, .range 10 255⟩
/-- MAC.TXMPDU.COUNT (R272, 09_mac_frames.md). -/
def MAC_TXMPDU_COUNT : Fld := ⟨0x9000 + 0x050, 0, 32, .ro, 0, .any⟩
/-- MAC.RXMPDU.COUNT (R272, 09_mac_frames.md). -/
def MAC_RXMPDU_COUNT : Fld := ⟨0x9000 + 0x054, 0, 32, .ro, 0, .any⟩
/-- MAC.SEQERR.DUPS (R272, 09_mac_frames.md). -/
def MAC_SEQERR_DUPS : Fld := ⟨0x9000 + 0x058, 0, 16, .ro, 0, .any⟩
/-- MAC.SEQERR.REPLAYS (R272, 09_mac_frames.md). -/
def MAC_SEQERR_REPLAYS : Fld := ⟨0x9000 + 0x058, 16, 16, .ro, 0, .any⟩
/-- MAC.SECERR.AUTHF (R272, 09_mac_frames.md). -/
def MAC_SECERR_AUTHF : Fld := ⟨0x9000 + 0x05C, 0, 16, .ro, 0, .any⟩
/-- MAC.SECERR.FMTMPDU (R272, 09_mac_frames.md). -/
def MAC_SECERR_FMTMPDU : Fld := ⟨0x9000 + 0x05C, 16, 16, .ro, 0, .any⟩
/-- MAC.SLOTERR.QDROP (R272, 09_mac_frames.md). -/
def MAC_SLOTERR_QDROP : Fld := ⟨0x9000 + 0x060, 0, 16, .ro, 0, .any⟩
/-- MAC.SLOTERR.UNKNOWN (R272, 09_mac_frames.md). -/
def MAC_SLOTERR_UNKNOWN : Fld := ⟨0x9000 + 0x060, 16, 16, .ro, 0, .any⟩
/-- MAC.ACCERR.FADROP (R272, 09_mac_frames.md). -/
def MAC_ACCERR_FADROP : Fld := ⟨0x9000 + 0x064, 0, 16, .ro, 0, .any⟩
/-- MAC.ACCERR.ROLEERR (R272, 09_mac_frames.md). -/
def MAC_ACCERR_ROLEERR : Fld := ⟨0x9000 + 0x064, 16, 16, .ro, 0, .any⟩
/-- MAC.LOSSES.REASMTO (R272, 09_mac_frames.md). -/
def MAC_LOSSES_REASMTO : Fld := ⟨0x9000 + 0x068, 0, 16, .ro, 0, .any⟩
/-- MAC.LOSSES.ABANDON (R272, 09_mac_frames.md). -/
def MAC_LOSSES_ABANDON : Fld := ⟨0x9000 + 0x068, 16, 16, .ro, 0, .any⟩
/-- MAC.MISC.G6FILT (R272, 09_mac_frames.md). -/
def MAC_MISC_G6FILT : Fld := ⟨0x9000 + 0x06C, 0, 16, .ro, 0, .any⟩
/-- MAC.MISC.COMMITMISS (R272, 09_mac_frames.md). -/
def MAC_MISC_COMMITMISS : Fld := ⟨0x9000 + 0x06C, 16, 16, .ro, 0, .any⟩
/-- MAC.FDEXCH.COUNT (R272, 09_mac_frames.md). -/
def MAC_FDEXCH_COUNT : Fld := ⟨0x9000 + 0x070, 0, 32, .ro, 0, .any⟩
/-- MAC.FAADDR.INDEX (R272, 09_mac_frames.md). -/
def MAC_FAADDR_INDEX : Fld := ⟨0x9000 + 0x400, 0, 9, .rw, 0, .range 0 319⟩
/-- NBR.SELFEUIL.EUI (R273, 09_mac_frames.md). -/
def NBR_SELFEUIL_EUI : Fld := ⟨0xb000 + 0x040, 0, 32, .rw, 0, .any⟩
/-- NBR.SELFEUIH.EUI (R273, 09_mac_frames.md). -/
def NBR_SELFEUIH_EUI : Fld := ⟨0xb000 + 0x044, 0, 32, .rw, 0, .any⟩
/-- NBR.NEUIL.EUI (R273, 09_mac_frames.md). -/
def NBR_NEUIL_EUI : Fld := ⟨0xb000 + 0x048, 0, 32, .rw, 0, .any⟩
/-- NBR.NEUIH.EUI (R273, 09_mac_frames.md). -/
def NBR_NEUIH_EUI : Fld := ⟨0xb000 + 0x04C, 0, 32, .rw, 0, .any⟩
/-- NBR.NARG.SLOT (R273, 09_mac_frames.md). -/
def NBR_NARG_SLOT : Fld := ⟨0xb000 + 0x050, 0, 14, .rw, 0, .any⟩
/-- NBR.NARG.GEN (R273, 09_mac_frames.md). -/
def NBR_NARG_GEN : Fld := ⟨0xb000 + 0x050, 16, 4, .rw, 0, .any⟩
/-- NBR.NARG.GROUP (R273, 09_mac_frames.md). -/
def NBR_NARG_GROUP : Fld := ⟨0xb000 + 0x050, 20, 3, .rw, 0, .any⟩
/-- NBR.NARG.PROTO (R273, 09_mac_frames.md). -/
def NBR_NARG_PROTO : Fld := ⟨0xb000 + 0x050, 23, 1, .rw, 0, .any⟩
/-- NBR.NARG.FD (R273, 09_mac_frames.md). -/
def NBR_NARG_FD : Fld := ⟨0xb000 + 0x050, 24, 1, .rw, 0, .any⟩
/-- NBR.NCPL.CPL (R273, 09_mac_frames.md). -/
def NBR_NCPL_CPL : Fld := ⟨0xb000 + 0x054, 0, 12, .rw, 0, .any⟩
/-- NBR.NRES.STATUS (R273, 09_mac_frames.md). -/
def NBR_NRES_STATUS : Fld := ⟨0xb000 + 0x05C, 0, 8, .ro, 0, .any⟩
/-- NBR.NRES.SLOT (R273, 09_mac_frames.md). -/
def NBR_NRES_SLOT : Fld := ⟨0xb000 + 0x05C, 8, 14, .ro, 0, .any⟩
/-- NBR.NRES.GEN (R273, 09_mac_frames.md). -/
def NBR_NRES_GEN : Fld := ⟨0xb000 + 0x05C, 22, 4, .ro, 0, .any⟩
/-- NBR.NRES.PEND (R273, 09_mac_frames.md). -/
def NBR_NRES_PEND : Fld := ⟨0xb000 + 0x05C, 26, 1, .ro, 0, .any⟩
/-- NBR.NCFG.HIWAT (R273, 09_mac_frames.md). -/
def NBR_NCFG_HIWAT : Fld := ⟨0xb000 + 0x064, 0, 14, .rw, 8000, .range 1 8191⟩
/-- NBR.NSTATS.ASSIGNS (R273, 09_mac_frames.md). -/
def NBR_NSTATS_ASSIGNS : Fld := ⟨0xb000 + 0x068, 0, 16, .ro, 0, .any⟩
/-- NBR.NSTATS.RELEASES (R273, 09_mac_frames.md). -/
def NBR_NSTATS_RELEASES : Fld := ⟨0xb000 + 0x068, 16, 16, .ro, 0, .any⟩
/-- NBR.DMSEL.SLOT (R273, 09_mac_frames.md). -/
def NBR_DMSEL_SLOT : Fld := ⟨0xb000 + 0x070, 0, 14, .rw, 0, .any⟩
/-- NBR.DMSEL.BANK (R273, 09_mac_frames.md). -/
def NBR_DMSEL_BANK : Fld := ⟨0xb000 + 0x070, 16, 2, .rw, 0, .range 0 2⟩
/-- NBR.DMW.DATA (R273, 09_mac_frames.md). -/
def NBR_DMW_DATA (i : Nat): Fld := ⟨0xb000 + (0x074 + 4 * i), 0, 32, .rw, 0, .any⟩
/-- NBR.DMRES.STATUS (R273, 09_mac_frames.md). -/
def NBR_DMRES_STATUS : Fld := ⟨0xb000 + 0x084, 0, 8, .ro, 0, .any⟩
/-- NBR.LRSEL.SLOT (R273, 09_mac_frames.md). -/
def NBR_LRSEL_SLOT : Fld := ⟨0xb000 + 0x090, 0, 14, .rw, 0, .any⟩
/-- NBR.LRSEL.WORD (R273, 09_mac_frames.md). -/
def NBR_LRSEL_WORD : Fld := ⟨0xb000 + 0x090, 16, 4, .rw, 0, .any⟩
/-- QM.QCFG.RINGWAKE (R293, 10_queues_mailboxes.md). -/
def QM_QCFG_RINGWAKE : Fld := ⟨0x8000 + 0x040, 0, 1, .rw, 0, .any⟩
/-- QM.QCFG.RXRES (R293, 10_queues_mailboxes.md). -/
def QM_QCFG_RXRES : Fld := ⟨0x8000 + 0x040, 8, 8, .rw, 16, .any⟩
/-- QM.QCFG.LIFE (R293, 10_queues_mailboxes.md). -/
def QM_QCFG_LIFE : Fld := ⟨0x8000 + 0x040, 16, 8, .rw, 0, .any⟩
/-- QM.QCFG.RXHOLD (R293, 10_queues_mailboxes.md). -/
def QM_QCFG_RXHOLD : Fld := ⟨0x8000 + 0x040, 24, 8, .rw, 4, .range 1 255⟩
/-- QM.CELLSTAT.FREE (R293, 10_queues_mailboxes.md). -/
def QM_CELLSTAT_FREE : Fld := ⟨0x8000 + 0x044, 0, 16, .ro, 32768, .any⟩
/-- QM.CELLSTAT.LOW (R293, 10_queues_mailboxes.md). -/
def QM_CELLSTAT_LOW : Fld := ⟨0x8000 + 0x044, 16, 16, .ro, 32768, .any⟩
/-- QM.RSEL.RING (R293, 10_queues_mailboxes.md). -/
def QM_RSEL_RING : Fld := ⟨0x8000 + 0x04C, 0, 8, .rw, 0, .any⟩
/-- QM.RBASE.BASE (R293, 10_queues_mailboxes.md). -/
def QM_RBASE_BASE : Fld := ⟨0x8000 + 0x050, 0, 64, .rw, 0, .any⟩
/-- QM.RCFG.SIZE (R293, 10_queues_mailboxes.md). -/
def QM_RCFG_SIZE : Fld := ⟨0x8000 + 0x058, 0, 5, .rw, 4, .any⟩
/-- QM.RCFG.LOC (R293, 10_queues_mailboxes.md). -/
def QM_RCFG_LOC : Fld := ⟨0x8000 + 0x058, 5, 1, .rw, 0, .any⟩
/-- QM.RCFG.KIND (R293, 10_queues_mailboxes.md). -/
def QM_RCFG_KIND : Fld := ⟨0x8000 + 0x058, 6, 1, .rw, 0, .any⟩
/-- QM.RCFG.PAIR (R293, 10_queues_mailboxes.md). -/
def QM_RCFG_PAIR : Fld := ⟨0x8000 + 0x058, 8, 7, .rw, 0, .any⟩
/-- QM.RCFG.VEC (R293, 10_queues_mailboxes.md). -/
def QM_RCFG_VEC : Fld := ⟨0x8000 + 0x058, 16, 5, .rw, 0, .any⟩
/-- QM.RCFG.IRQEN (R293, 10_queues_mailboxes.md). -/
def QM_RCFG_IRQEN : Fld := ⟨0x8000 + 0x058, 21, 1, .rw, 0, .any⟩
/-- QM.RCFG.WEIGHT (R293, 10_queues_mailboxes.md). -/
def QM_RCFG_WEIGHT : Fld := ⟨0x8000 + 0x058, 24, 4, .rw, 1, .any⟩
/-- QM.RCFG.FULLPOL (R293, 10_queues_mailboxes.md). -/
def QM_RCFG_FULLPOL : Fld := ⟨0x8000 + 0x058, 28, 1, .rw, 0, .any⟩
/-- QM.MOD.COUNT (R293, 10_queues_mailboxes.md). -/
def QM_MOD_COUNT : Fld := ⟨0x8000 + 0x05C, 0, 16, .rw, 1, .range 1 65535⟩
/-- QM.MOD.TIME (R293, 10_queues_mailboxes.md). -/
def QM_MOD_TIME : Fld := ⟨0x8000 + 0x05C, 16, 16, .rw, 0, .any⟩
/-- QM.RRES.STATUS (R293, 10_queues_mailboxes.md). -/
def QM_RRES_STATUS : Fld := ⟨0x8000 + 0x070, 0, 8, .ro, 0, .any⟩
/-- QM.QSEL.QUEUE (R293, 10_queues_mailboxes.md). -/
def QM_QSEL_QUEUE : Fld := ⟨0x8000 + 0x080, 0, 14, .rw, 0, .any⟩
/-- QM.QRES.STATUS (R293, 10_queues_mailboxes.md). -/
def QM_QRES_STATUS : Fld := ⟨0x8000 + 0x08C, 0, 8, .ro, 0, .any⟩
/-- QM.TXFETCH.COUNT (R293, 10_queues_mailboxes.md). -/
def QM_TXFETCH_COUNT : Fld := ⟨0x8000 + 0x0A0, 0, 32, .ro, 0, .any⟩
/-- QM.RXDELIV.COUNT (R293, 10_queues_mailboxes.md). -/
def QM_RXDELIV_COUNT : Fld := ⟨0x8000 + 0x0A4, 0, 32, .ro, 0, .any⟩
/-- QM.DROPS.NOBUF (R293, 10_queues_mailboxes.md). -/
def QM_DROPS_NOBUF : Fld := ⟨0x8000 + 0x0A8, 0, 16, .ro, 0, .any⟩
/-- QM.DROPS.RXOVF (R293, 10_queues_mailboxes.md). -/
def QM_DROPS_RXOVF : Fld := ⟨0x8000 + 0x0A8, 16, 16, .ro, 0, .any⟩
/-- QM.DROPS2.RXDROP (R293, 10_queues_mailboxes.md). -/
def QM_DROPS2_RXDROP : Fld := ⟨0x8000 + 0x0AC, 0, 16, .ro, 0, .any⟩
/-- QM.DROPS2.DMAERRS (R293, 10_queues_mailboxes.md). -/
def QM_DROPS2_DMAERRS : Fld := ⟨0x8000 + 0x0AC, 16, 16, .ro, 0, .any⟩
/-- QM.QLIM.CELLS (R293, 10_queues_mailboxes.md). -/
def QM_QLIM_CELLS : Fld := ⟨0x8000 + 0x400, 0, 16, .rw, 512, .range 16 32768⟩
/-- MBX.H2DPENDL.PEND (R294, 10_queues_mailboxes.md). -/
def MBX_H2DPENDL_PEND : Fld := ⟨0x7000 + 0x048, 0, 32, .ro, 0, .any⟩
/-- MBX.H2DPENDH.PEND (R294, 10_queues_mailboxes.md). -/
def MBX_H2DPENDH_PEND : Fld := ⟨0x7000 + 0x04C, 0, 32, .ro, 0, .any⟩
/-- MBX.D2HL.DB (R294, 10_queues_mailboxes.md). -/
def MBX_D2HL_DB : Fld := ⟨0x7000 + 0x050, 0, 32, .w1c, 0, .any⟩
/-- MBX.D2HH.DB (R294, 10_queues_mailboxes.md). -/
def MBX_D2HH_DB : Fld := ⟨0x7000 + 0x054, 0, 32, .w1c, 0, .any⟩
/-- MBX.H2DWAKEL.WAKE (R294, 10_queues_mailboxes.md). -/
def MBX_H2DWAKEL_WAKE : Fld := ⟨0x7000 + 0x058, 0, 32, .rw, 4294967295, .any⟩
/-- MBX.H2DWAKEH.WAKE (R294, 10_queues_mailboxes.md). -/
def MBX_H2DWAKEH_WAKE : Fld := ⟨0x7000 + 0x05C, 0, 32, .rw, 4294967295, .any⟩
/-- MBX.D2HWAKEL.WAKE (R294, 10_queues_mailboxes.md). -/
def MBX_D2HWAKEL_WAKE : Fld := ⟨0x7000 + 0x060, 0, 32, .rw, 0, .any⟩
/-- MBX.D2HWAKEH.WAKE (R294, 10_queues_mailboxes.md). -/
def MBX_D2HWAKEH_WAKE : Fld := ⟨0x7000 + 0x064, 0, 32, .rw, 0, .any⟩
/-- MBX.MBSTAT.H2DBUSY (R294, 10_queues_mailboxes.md). -/
def MBX_MBSTAT_H2DBUSY : Fld := ⟨0x7000 + 0x068, 0, 32, .ro, 0, .any⟩
/-- MBX.D2HFULL.FULL (R294, 10_queues_mailboxes.md). -/
def MBX_D2HFULL_FULL : Fld := ⟨0x7000 + 0x06C, 0, 32, .w1c, 0, .any⟩
/-- MBX.MBCNT.REFUSALS (R294, 10_queues_mailboxes.md). -/
def MBX_MBCNT_REFUSALS : Fld := ⟨0x7000 + 0x074, 0, 16, .ro, 0, .any⟩
/-- MBX.MBCNT.LOST (R294, 10_queues_mailboxes.md). -/
def MBX_MBCNT_LOST : Fld := ⟨0x7000 + 0x074, 16, 16, .ro, 0, .any⟩
/-- MBX.D2HBASE.BASE (R294, 10_queues_mailboxes.md). -/
def MBX_D2HBASE_BASE : Fld := ⟨0x7000 + 0x078, 0, 64, .rw, 0, .any⟩
/-- MBX.PTRL.PTR (R294, 10_queues_mailboxes.md). -/
def MBX_PTRL_PTR (i : Nat): Fld := ⟨0x7000 + (0x100 + 16 * i), 0, 32, .rw, 0, .any⟩
/-- MBX.PTRH.PTR (R294, 10_queues_mailboxes.md). -/
def MBX_PTRH_PTR (i : Nat): Fld := ⟨0x7000 + (0x104 + 16 * i), 0, 32, .rw, 0, .any⟩
/-- MBX.HDR.TAG (R294, 10_queues_mailboxes.md). -/
def MBX_HDR_TAG (i : Nat): Fld := ⟨0x7000 + (0x108 + 16 * i), 0, 16, .rw, 0, .any⟩
/-- MBX.HDR.TYPE (R294, 10_queues_mailboxes.md). -/
def MBX_HDR_TYPE (i : Nat): Fld := ⟨0x7000 + (0x108 + 16 * i), 16, 8, .rw, 0, .any⟩
/-- MBX.HDR.LOC (R294, 10_queues_mailboxes.md). -/
def MBX_HDR_LOC (i : Nat): Fld := ⟨0x7000 + (0x108 + 16 * i), 24, 1, .rw, 0, .any⟩
/-- MBX.LENGO.LEN (R294, 10_queues_mailboxes.md). -/
def MBX_LENGO_LEN (i : Nat): Fld := ⟨0x7000 + (0x10C + 16 * i), 0, 24, .rw, 0, .any⟩
/-- MBX.RES.STATUS (R294, 10_queues_mailboxes.md). -/
def MBX_RES_STATUS (i : Nat): Fld := ⟨0x7000 + (0x300 + 4 * i), 0, 8, .ro, 0, .any⟩
/-- MBX.RES.TAG (R294, 10_queues_mailboxes.md). -/
def MBX_RES_TAG (i : Nat): Fld := ⟨0x7000 + (0x300 + 4 * i), 8, 16, .ro, 0, .any⟩
/-- MBX.RES.PEND (R294, 10_queues_mailboxes.md). -/
def MBX_RES_PEND (i : Nat): Fld := ⟨0x7000 + (0x300 + 4 * i), 24, 1, .ro, 0, .any⟩
/-- SAGGAR.PROT.COUNT (R320, 11_saggar_cipher.md). -/
def SAGGAR_PROT_COUNT : Fld := ⟨0xc000 + 0x040, 0, 32, .ro, 0, .any⟩
/-- SAGGAR.VERIF.COUNT (R320, 11_saggar_cipher.md). -/
def SAGGAR_VERIF_COUNT : Fld := ⟨0xc000 + 0x044, 0, 32, .ro, 0, .any⟩
/-- SAGGAR.FAILS.TAGFAIL (R320, 11_saggar_cipher.md). -/
def SAGGAR_FAILS_TAGFAIL : Fld := ⟨0xc000 + 0x048, 0, 16, .ro, 0, .any⟩
/-- SAGGAR.FAILS.CHKMIS (R320, 11_saggar_cipher.md). -/
def SAGGAR_FAILS_CHKMIS : Fld := ⟨0xc000 + 0x048, 16, 16, .ro, 0, .any⟩
/-- SAGGAR.SKIPS.BCNSKIP (R320, 11_saggar_cipher.md). -/
def SAGGAR_SKIPS_BCNSKIP : Fld := ⟨0xc000 + 0x04C, 0, 16, .ro, 0, .any⟩
/-- SAGGAR.SKIPS.CTREXH (R320, 11_saggar_cipher.md). -/
def SAGGAR_SKIPS_CTREXH : Fld := ⟨0xc000 + 0x04C, 16, 16, .ro, 0, .any⟩
/-- SAGGAR.JOBCFG.MODE (R320, 11_saggar_cipher.md). -/
def SAGGAR_JOBCFG_MODE : Fld := ⟨0xc000 + 0x050, 0, 2, .rw, 0, .any⟩
/-- SAGGAR.JOBCFG.TAG16 (R320, 11_saggar_cipher.md). -/
def SAGGAR_JOBCFG_TAG16 : Fld := ⟨0xc000 + 0x050, 2, 1, .rw, 0, .any⟩
/-- SAGGAR.JOBCFG.DKEY (R320, 11_saggar_cipher.md). -/
def SAGGAR_JOBCFG_DKEY : Fld := ⟨0xc000 + 0x050, 4, 4, .rw, 0, .any⟩
/-- SAGGAR.JOBCFG.AADLEN (R320, 11_saggar_cipher.md). -/
def SAGGAR_JOBCFG_AADLEN : Fld := ⟨0xc000 + 0x050, 8, 6, .rw, 0, .any⟩
/-- SAGGAR.JOBSRC.OFFS (R320, 11_saggar_cipher.md). -/
def SAGGAR_JOBSRC_OFFS : Fld := ⟨0xc000 + 0x054, 4, 20, .rw, 0, .any⟩
/-- SAGGAR.JOBDST.OFFS (R320, 11_saggar_cipher.md). -/
def SAGGAR_JOBDST_OFFS : Fld := ⟨0xc000 + 0x058, 4, 20, .rw, 0, .any⟩
/-- SAGGAR.JOBLEN.LEN (R320, 11_saggar_cipher.md). -/
def SAGGAR_JOBLEN_LEN : Fld := ⟨0xc000 + 0x05C, 0, 13, .rw, 0, .any⟩
/-- SAGGAR.JOBIV.IV (R320, 11_saggar_cipher.md). -/
def SAGGAR_JOBIV_IV (i : Nat): Fld := ⟨0xc000 + (0x060 + 4 * i), 0, 32, .rw, 0, .any⟩
/-- SAGGAR.JOBTAG.TAG (R320, 11_saggar_cipher.md). -/
def SAGGAR_JOBTAG_TAG (i : Nat): Fld := ⟨0xc000 + (0x070 + 4 * i), 0, 32, .rw, 0, .any⟩
/-- SAGGAR.JOBRES.STATUS (R320, 11_saggar_cipher.md). -/
def SAGGAR_JOBRES_STATUS : Fld := ⟨0xc000 + 0x084, 0, 8, .ro, 0, .any⟩
/-- SAGGAR.HSRC.OFFS (R320, 11_saggar_cipher.md). -/
def SAGGAR_HSRC_OFFS : Fld := ⟨0xc000 + 0x090, 0, 24, .rw, 0, .any⟩
/-- SAGGAR.HLEN.LEN (R320, 11_saggar_cipher.md). -/
def SAGGAR_HLEN_LEN : Fld := ⟨0xc000 + 0x094, 0, 25, .rw, 0, .range 0 16777216⟩
/-- SAGGAR.HRES.STATUS (R320, 11_saggar_cipher.md). -/
def SAGGAR_HRES_STATUS : Fld := ⟨0xc000 + 0x09C, 0, 8, .ro, 0, .any⟩
/-- SAGGAR.HRES.FZMATCH (R320, 11_saggar_cipher.md). -/
def SAGGAR_HRES_FZMATCH : Fld := ⟨0xc000 + 0x09C, 8, 1, .ro, 0, .any⟩
/-- SAGGAR.HRES.OEMMATCH (R320, 11_saggar_cipher.md). -/
def SAGGAR_HRES_OEMMATCH : Fld := ⟨0xc000 + 0x09C, 9, 1, .ro, 0, .any⟩
/-- SAGGAR.HDIG.DIGEST (R320, 11_saggar_cipher.md). -/
def SAGGAR_HDIG_DIGEST (i : Nat): Fld := ⟨0xc000 + (0x0A0 + 4 * i), 0, 32, .rw, 0, .any⟩
/-- SAGGAR.SCACFG.DMIN (R320, 11_saggar_cipher.md). -/
def SAGGAR_SCACFG_DMIN : Fld := ⟨0xc000 + 0x400, 0, 4, .rw, 4, .range 4 8⟩
/-- SAGGAR.SCACFG.DMAX (R320, 11_saggar_cipher.md). -/
def SAGGAR_SCACFG_DMAX : Fld := ⟨0xc000 + 0x400, 4, 4, .rw, 8, .atLeast 0 4 8⟩
/-- KEYS.KEYDATA.DATA (R321, 11_saggar_cipher.md). -/
def KEYS_KEYDATA_DATA (i : Nat): Fld := ⟨0xd000 + (0x040 + 4 * i), 0, 32, .wos, 0, .any⟩
/-- KEYS.KRES.BUSY (R321, 11_saggar_cipher.md). -/
def KEYS_KRES_BUSY : Fld := ⟨0xd000 + 0x064, 0, 1, .ro, 0, .any⟩
/-- KEYS.KRES.STATUS (R321, 11_saggar_cipher.md). -/
def KEYS_KRES_STATUS : Fld := ⟨0xd000 + 0x064, 8, 8, .ro, 0, .any⟩
/-- KEYS.KSEL.CLASS (R321, 11_saggar_cipher.md). -/
def KEYS_KSEL_CLASS : Fld := ⟨0xd000 + 0x068, 4, 2, .rw, 0, .any⟩
/-- KEYS.KSEL.INDEX (R321, 11_saggar_cipher.md). -/
def KEYS_KSEL_INDEX : Fld := ⟨0xd000 + 0x068, 16, 13, .rw, 0, .any⟩
/-- KEYS.KCNT.ACCEPTS (R321, 11_saggar_cipher.md). -/
def KEYS_KCNT_ACCEPTS : Fld := ⟨0xd000 + 0x07C, 0, 16, .ro, 0, .any⟩
/-- KEYS.KCNT.REFUSALS (R321, 11_saggar_cipher.md). -/
def KEYS_KCNT_REFUSALS : Fld := ⟨0xd000 + 0x07C, 16, 16, .ro, 0, .any⟩
/-- KEYS.KDETAIL.REASON (R321, 11_saggar_cipher.md). -/
def KEYS_KDETAIL_REASON : Fld := ⟨0xd000 + 0x400, 0, 3, .ro, 0, .any⟩
/-- KEYS.KDETAIL.OP (R321, 11_saggar_cipher.md). -/
def KEYS_KDETAIL_OP : Fld := ⟨0xd000 + 0x400, 4, 4, .ro, 0, .any⟩
/-- TIME.TCFG.SRC (R336, 12_time_pulse.md). -/
def TIME_TCFG_SRC : Fld := ⟨0x6000 + 0x040, 0, 2, .rw, 0, .range 0 2⟩
/-- TIME.TCFG.PPSPOL (R336, 12_time_pulse.md). -/
def TIME_TCFG_PPSPOL : Fld := ⟨0x6000 + 0x040, 2, 1, .rw, 0, .any⟩
/-- TIME.TCFG.EVTEDGE (R336, 12_time_pulse.md). -/
def TIME_TCFG_EVTEDGE : Fld := ⟨0x6000 + 0x040, 3, 2, .rw, 0, .range 0 2⟩
/-- TIME.TCFG.FREEPULSE (R336, 12_time_pulse.md). -/
def TIME_TCFG_FREEPULSE : Fld := ⟨0x6000 + 0x040, 5, 1, .rw, 1, .any⟩
/-- TIME.TSTAT.STATE (R336, 12_time_pulse.md). -/
def TIME_TSTAT_STATE : Fld := ⟨0x6000 + 0x044, 0, 2, .ro, 0, .any⟩
/-- TIME.TSTAT.REFOK (R336, 12_time_pulse.md). -/
def TIME_TSTAT_REFOK : Fld := ⟨0x6000 + 0x044, 2, 1, .ro, 0, .any⟩
/-- TIME.TSTAT.TVALID (R336, 12_time_pulse.md). -/
def TIME_TSTAT_TVALID : Fld := ⟨0x6000 + 0x044, 3, 1, .ro, 0, .any⟩
/-- TIME.TSTAT.RCRUN (R336, 12_time_pulse.md). -/
def TIME_TSTAT_RCRUN : Fld := ⟨0x6000 + 0x044, 4, 1, .ro, 0, .any⟩
/-- TIME.TSTAT.SLEWING (R336, 12_time_pulse.md). -/
def TIME_TSTAT_SLEWING : Fld := ⟨0x6000 + 0x044, 5, 1, .ro, 0, .any⟩
/-- TIME.TSTAT.AGE (R336, 12_time_pulse.md). -/
def TIME_TSTAT_AGE : Fld := ⟨0x6000 + 0x044, 8, 24, .ro, 0, .any⟩
/-- TIME.SNAPSECL.SEC (R336, 12_time_pulse.md). -/
def TIME_SNAPSECL_SEC : Fld := ⟨0x6000 + 0x050, 0, 32, .ro, 0, .any⟩
/-- TIME.SNAPSECH.SEC (R336, 12_time_pulse.md). -/
def TIME_SNAPSECH_SEC : Fld := ⟨0x6000 + 0x054, 0, 16, .ro, 0, .any⟩
/-- TIME.SNAPNS.NS (R336, 12_time_pulse.md). -/
def TIME_SNAPNS_NS : Fld := ⟨0x6000 + 0x058, 0, 30, .ro, 0, .any⟩
/-- TIME.BOUND.NS (R336, 12_time_pulse.md). -/
def TIME_BOUND_NS : Fld := ⟨0x6000 + 0x05C, 0, 32, .ro, 4294967295, .any⟩
/-- TIME.DRIFT.D (R336, 12_time_pulse.md). -/
def TIME_DRIFT_D : Fld := ⟨0x6000 + 0x060, 0, 32, .ro, 0, .any⟩
/-- TIME.UTCOFS.OFS (R336, 12_time_pulse.md). -/
def TIME_UTCOFS_OFS : Fld := ⟨0x6000 + 0x064, 0, 16, .rw, 0, .any⟩
/-- TIME.TPCFG.EN (R336, 12_time_pulse.md). -/
def TIME_TPCFG_EN : Fld := ⟨0x6000 + 0x068, 0, 1, .rw, 1, .any⟩
/-- TIME.TPCFG.POL (R336, 12_time_pulse.md). -/
def TIME_TPCFG_POL : Fld := ⟨0x6000 + 0x068, 1, 1, .rw, 0, .any⟩
/-- TIME.TPCFG.FREQ (R336, 12_time_pulse.md). -/
def TIME_TPCFG_FREQ : Fld := ⟨0x6000 + 0x068, 2, 10, .rw, 1, .range 1 1000⟩
/-- TIME.TPWIDTH.US (R336, 12_time_pulse.md). -/
def TIME_TPWIDTH_US : Fld := ⟨0x6000 + 0x06C, 0, 20, .rw, 100000, .range 1 999999⟩
/-- TIME.TSETSECL.SEC (R336, 12_time_pulse.md). -/
def TIME_TSETSECL_SEC : Fld := ⟨0x6000 + 0x070, 0, 32, .rw, 0, .any⟩
/-- TIME.TSETSECH.SEC (R336, 12_time_pulse.md). -/
def TIME_TSETSECH_SEC : Fld := ⟨0x6000 + 0x074, 0, 16, .rw, 0, .any⟩
/-- TIME.TSETNS.NS (R336, 12_time_pulse.md). -/
def TIME_TSETNS_NS : Fld := ⟨0x6000 + 0x078, 0, 30, .rw, 0, .any⟩
/-- TIME.TSETTICK.TICK (R336, 12_time_pulse.md). -/
def TIME_TSETTICK_TICK : Fld := ⟨0x6000 + 0x080, 0, 64, .rw, 0, .any⟩
/-- TIME.TRES.STATUS (R336, 12_time_pulse.md). -/
def TIME_TRES_STATUS : Fld := ⟨0x6000 + 0x08C, 0, 8, .ro, 0, .any⟩
/-- TIME.STEERPH.NS (R336, 12_time_pulse.md). -/
def TIME_STEERPH_NS : Fld := ⟨0x6000 + 0x090, 0, 32, .rw, 0, .any⟩
/-- TIME.STEERFR.FR (R336, 12_time_pulse.md). -/
def TIME_STEERFR_FR : Fld := ⟨0x6000 + 0x094, 0, 32, .rw, 0, .srange (-10000000) 10000000⟩
/-- TIME.HOSTCFG.TO (R336, 12_time_pulse.md). -/
def TIME_HOSTCFG_TO : Fld := ⟨0x6000 + 0x098, 0, 8, .rw, 4, .range 1 255⟩
/-- TIME.STEPSIZE.NS (R336, 12_time_pulse.md). -/
def TIME_STEPSIZE_NS : Fld := ⟨0x6000 + 0x0A0, 0, 32, .ro, 0, .any⟩
/-- TIME.STEPSEC.SEC (R336, 12_time_pulse.md). -/
def TIME_STEPSEC_SEC : Fld := ⟨0x6000 + 0x0A4, 0, 32, .ro, 0, .any⟩
/-- TIME.EVTSTAT.LEVEL (R336, 12_time_pulse.md). -/
def TIME_EVTSTAT_LEVEL : Fld := ⟨0x6000 + 0x0A8, 0, 5, .ro, 0, .any⟩
/-- TIME.EVTSTAT.OVF (R336, 12_time_pulse.md). -/
def TIME_EVTSTAT_OVF : Fld := ⟨0x6000 + 0x0A8, 16, 16, .ro, 0, .any⟩
/-- TIME.EVTTICKH.TICK (R336, 12_time_pulse.md). -/
def TIME_EVTTICKH_TICK : Fld := ⟨0x6000 + 0x0B4, 0, 32, .ro, 0, .any⟩
/-- TIME.EVTSECL.SEC (R336, 12_time_pulse.md). -/
def TIME_EVTSECL_SEC : Fld := ⟨0x6000 + 0x0B8, 0, 32, .ro, 0, .any⟩
/-- TIME.EVTSECH.SEC (R336, 12_time_pulse.md). -/
def TIME_EVTSECH_SEC : Fld := ⟨0x6000 + 0x0BC, 0, 16, .ro, 0, .any⟩
/-- TIME.EVTNS.NS (R336, 12_time_pulse.md). -/
def TIME_EVTNS_NS : Fld := ⟨0x6000 + 0x0C0, 0, 30, .ro, 0, .any⟩
/-- TIME.EVTNS.VALID (R336, 12_time_pulse.md). -/
def TIME_EVTNS_VALID : Fld := ⟨0x6000 + 0x0C0, 30, 1, .ro, 0, .any⟩
/-- TIME.EVTNS.EDGE (R336, 12_time_pulse.md). -/
def TIME_EVTNS_EDGE : Fld := ⟨0x6000 + 0x0C0, 31, 1, .ro, 0, .any⟩
/-- TIME.PPSLAST.NS (R336, 12_time_pulse.md). -/
def TIME_PPSLAST_NS : Fld := ⟨0x6000 + 0x0C4, 0, 32, .ro, 0, .any⟩
/-- TIME.COUNTS.PPSMISS (R336, 12_time_pulse.md). -/
def TIME_COUNTS_PPSMISS : Fld := ⟨0x6000 + 0x0C8, 0, 16, .ro, 0, .any⟩
/-- TIME.COUNTS.PPSREJ (R336, 12_time_pulse.md). -/
def TIME_COUNTS_PPSREJ : Fld := ⟨0x6000 + 0x0C8, 16, 16, .ro, 0, .any⟩
/-- TIME.COUNTS2.STEPS (R336, 12_time_pulse.md). -/
def TIME_COUNTS2_STEPS : Fld := ⟨0x6000 + 0x0CC, 0, 16, .ro, 0, .any⟩
/-- TIME.COUNTS2.TPSKIP (R336, 12_time_pulse.md). -/
def TIME_COUNTS2_TPSKIP : Fld := ⟨0x6000 + 0x0CC, 16, 16, .ro, 0, .any⟩
/-- TIME.LOOPCFG.PPSWIN (R336, 12_time_pulse.md). -/
def TIME_LOOPCFG_PPSWIN : Fld := ⟨0x6000 + 0x400, 0, 8, .rw, 10, .range 1 255⟩
/-- TIME.LOOPCFG.QUAL (R336, 12_time_pulse.md). -/
def TIME_LOOPCFG_QUAL : Fld := ⟨0x6000 + 0x400, 8, 4, .rw, 4, .range 2 15⟩
/-- TIME.LOOPCFG.DK (R336, 12_time_pulse.md). -/
def TIME_LOOPCFG_DK : Fld := ⟨0x6000 + 0x400, 12, 4, .rw, 8, .range 2 12⟩
/-- TIME.LOOPCFG.SLEWMAX (R336, 12_time_pulse.md). -/
def TIME_LOOPCFG_SLEWMAX : Fld := ⟨0x6000 + 0x400, 16, 4, .rw, 10, .range 1 10⟩
/-- TIME.HOLDCFG.HOLDLIM (R336, 12_time_pulse.md). -/
def TIME_HOLDCFG_HOLDLIM : Fld := ⟨0x6000 + 0x404, 0, 16, .rw, 24, .range 1 65535⟩
/-- TIME.HOLDCFG.DUMIN (R336, 12_time_pulse.md). -/
def TIME_HOLDCFG_DUMIN : Fld := ⟨0x6000 + 0x404, 16, 8, .rw, 1, .range 1 255⟩
/-- TIME.HOLDCFG.HAGE (R336, 12_time_pulse.md). -/
def TIME_HOLDCFG_HAGE : Fld := ⟨0x6000 + 0x404, 24, 8, .rw, 20, .any⟩
/-- TIME.CABDLY.PPSDLY (R336, 12_time_pulse.md). -/
def TIME_CABDLY_PPSDLY : Fld := ⟨0x6000 + 0x408, 0, 16, .rw, 0, .any⟩
/-- TIME.CABDLY.TPDLY (R336, 12_time_pulse.md). -/
def TIME_CABDLY_TPDLY : Fld := ⟨0x6000 + 0x408, 16, 16, .rw, 0, .any⟩
/-- BOOT.BSTAT.STAGE (R379, 14_boot_update.md). -/
def BOOT_BSTAT_STAGE : Fld := ⟨0x5000 + 0x040, 0, 2, .ro, 0, .any⟩
/-- BOOT.BSTAT.ACTSLOT (R379, 14_boot_update.md). -/
def BOOT_BSTAT_ACTSLOT : Fld := ⟨0x5000 + 0x040, 2, 1, .ro, 0, .any⟩
/-- BOOT.BSTAT.GREEN (R379, 14_boot_update.md). -/
def BOOT_BSTAT_GREEN : Fld := ⟨0x5000 + 0x040, 3, 1, .ro, 0, .any⟩
/-- BOOT.BSTAT.FIRED (R379, 14_boot_update.md). -/
def BOOT_BSTAT_FIRED : Fld := ⟨0x5000 + 0x040, 4, 1, .ro, 0, .any⟩
/-- BOOT.BSTAT.RAMIMG (R379, 14_boot_update.md). -/
def BOOT_BSTAT_RAMIMG : Fld := ⟨0x5000 + 0x040, 5, 1, .ro, 0, .any⟩
/-- BOOT.BCAUSE.CODEA (R379, 14_boot_update.md). -/
def BOOT_BCAUSE_CODEA : Fld := ⟨0x5000 + 0x044, 0, 4, .ro, 0, .any⟩
/-- BOOT.BCAUSE.CODEB (R379, 14_boot_update.md). -/
def BOOT_BCAUSE_CODEB : Fld := ⟨0x5000 + 0x044, 4, 4, .ro, 0, .any⟩
/-- BOOT.VERA.VERSION (R379, 14_boot_update.md). -/
def BOOT_VERA_VERSION : Fld := ⟨0x5000 + 0x048, 0, 32, .ro, 0, .any⟩
/-- BOOT.VERB.VERSION (R379, 14_boot_update.md). -/
def BOOT_VERB_VERSION : Fld := ⟨0x5000 + 0x04C, 0, 32, .ro, 0, .any⟩
/-- BOOT.SLOTST.STA (R379, 14_boot_update.md). -/
def BOOT_SLOTST_STA : Fld := ⟨0x5000 + 0x050, 0, 3, .ro, 0, .any⟩
/-- BOOT.SLOTST.STB (R379, 14_boot_update.md). -/
def BOOT_SLOTST_STB : Fld := ⟨0x5000 + 0x050, 4, 3, .ro, 0, .any⟩
/-- BOOT.SLOTST.TRIES (R379, 14_boot_update.md). -/
def BOOT_SLOTST_TRIES : Fld := ⟨0x5000 + 0x050, 8, 2, .ro, 0, .any⟩
/-- BOOT.RBFLOOR.FLOOR (R379, 14_boot_update.md). -/
def BOOT_RBFLOOR_FLOOR : Fld := ⟨0x5000 + 0x054, 0, 6, .ro, 0, .any⟩
/-- BOOT.RBFLOOR.LATCHED (R379, 14_boot_update.md). -/
def BOOT_RBFLOOR_LATCHED : Fld := ⟨0x5000 + 0x054, 8, 6, .ro, 0, .any⟩
/-- BOOT.GWIN.SEC (R379, 14_boot_update.md). -/
def BOOT_GWIN_SEC : Fld := ⟨0x5000 + 0x058, 0, 12, .rw, 600, .range 60 3600⟩
/-- BOOT.GREMAIN.SEC (R379, 14_boot_update.md). -/
def BOOT_GREMAIN_SEC : Fld := ⟨0x5000 + 0x05C, 0, 12, .ro, 0, .any⟩
/-- BOOT.GCFG.HOSTGATE (R379, 14_boot_update.md). -/
def BOOT_GCFG_HOSTGATE : Fld := ⟨0x5000 + 0x064, 0, 1, .rw, 0, .any⟩
/-- BOOT.GCFG.HOSTOK (R379, 14_boot_update.md). -/
def BOOT_GCFG_HOSTOK : Fld := ⟨0x5000 + 0x064, 1, 1, .rw, 0, .any⟩
/-- BOOT.GCFG.RBADV (R379, 14_boot_update.md). -/
def BOOT_GCFG_RBADV : Fld := ⟨0x5000 + 0x064, 2, 1, .rw, 1, .any⟩
/-- BOOT.BOOTCNT.BOOTS (R379, 14_boot_update.md). -/
def BOOT_BOOTCNT_BOOTS : Fld := ⟨0x5000 + 0x068, 0, 16, .ro, 0, .any⟩
/-- BOOT.BOOTCNT.FALLBACKS (R379, 14_boot_update.md). -/
def BOOT_BOOTCNT_FALLBACKS : Fld := ⟨0x5000 + 0x068, 16, 16, .ro, 0, .any⟩
/-- BOOT.CFGSTAT.BLOCKS (R379, 14_boot_update.md). -/
def BOOT_CFGSTAT_BLOCKS : Fld := ⟨0x5000 + 0x06C, 0, 16, .ro, 0, .any⟩
/-- BOOT.BTIME.MS (R379, 14_boot_update.md). -/
def BOOT_BTIME_MS : Fld := ⟨0x5000 + 0x070, 0, 16, .ro, 0, .any⟩
/-- BOOT.RECRES.STATUS (R379, 14_boot_update.md). -/
def BOOT_RECRES_STATUS : Fld := ⟨0x5000 + 0x078, 0, 8, .ro, 0, .any⟩
/-- BOOT.RECRES.CODE (R379, 14_boot_update.md). -/
def BOOT_RECRES_CODE : Fld := ⟨0x5000 + 0x078, 8, 4, .ro, 0, .any⟩
/-- HEALTH.HSTAT.KSRST (R400, 15_health_recovery.md). -/
def HEALTH_HSTAT_KSRST : Fld := ⟨0x3000 + 0x040, 0, 2, .ro, 0, .any⟩
/-- HEALTH.HSTAT.WARMS (R400, 15_health_recovery.md). -/
def HEALTH_HSTAT_WARMS : Fld := ⟨0x3000 + 0x040, 8, 8, .ro, 0, .any⟩
/-- HEALTH.HSTAT.LANEFAIL (R400, 15_health_recovery.md). -/
def HEALTH_HSTAT_LANEFAIL : Fld := ⟨0x3000 + 0x040, 16, 7, .ro, 0, .any⟩
/-- HEALTH.STICKY.KINDS (R400, 15_health_recovery.md). -/
def HEALTH_STICKY_KINDS : Fld := ⟨0x3000 + 0x044, 0, 9, .w1c, 0, .any⟩
/-- HEALTH.BSEL.CLASS (R400, 15_health_recovery.md). -/
def HEALTH_BSEL_CLASS : Fld := ⟨0x3000 + 0x048, 0, 3, .rw, 0, .range 0 6⟩
/-- HEALTH.BSEL.DIE (R400, 15_health_recovery.md). -/
def HEALTH_BSEL_DIE : Fld := ⟨0x3000 + 0x048, 8, 3, .rw, 0, .any⟩
/-- HEALTH.BSEL.UNIT (R400, 15_health_recovery.md). -/
def HEALTH_BSEL_UNIT : Fld := ⟨0x3000 + 0x048, 16, 7, .rw, 0, .any⟩
/-- HEALTH.RETCNT.TOTAL (R400, 15_health_recovery.md). -/
def HEALTH_RETCNT_TOTAL : Fld := ⟨0x3000 + 0x050, 0, 16, .ro, 0, .any⟩
/-- HEALTH.RETCNT.UNCORR (R400, 15_health_recovery.md). -/
def HEALTH_RETCNT_UNCORR : Fld := ⟨0x3000 + 0x050, 16, 16, .ro, 0, .any⟩
/-- HEALTH.CORRCNT.COUNT (R400, 15_health_recovery.md). -/
def HEALTH_CORRCNT_COUNT : Fld := ⟨0x3000 + 0x054, 0, 32, .ro, 0, .any⟩
/-- HEALTH.SCRUB.PERIOD (R400, 15_health_recovery.md). -/
def HEALTH_SCRUB_PERIOD : Fld := ⟨0x3000 + 0x058, 0, 5, .rw, 1, .range 1 24⟩
/-- HEALTH.HBCFG.HBPER (R400, 15_health_recovery.md). -/
def HEALTH_HBCFG_HBPER : Fld := ⟨0x3000 + 0x05C, 0, 8, .rw, 10, .range 2 100⟩
/-- HEALTH.HBCFG.HBTO (R400, 15_health_recovery.md). -/
def HEALTH_HBCFG_HBTO : Fld := ⟨0x3000 + 0x05C, 8, 8, .rw, 50, .range 10 255⟩
/-- HEALTH.TRSEQ.SEQ (R400, 15_health_recovery.md). -/
def HEALTH_TRSEQ_SEQ : Fld := ⟨0x3000 + 0x068, 0, 32, .ro, 0, .any⟩
/-- HEALTH.THR.THR (R400, 15_health_recovery.md). -/
def HEALTH_THR_THR (i : Nat): Fld := ⟨0x3000 + (0x400 + 4 * i), 0, 8, .rw, thrReset i, .range 1 255⟩
/-- HEALTH.THR.LEAK (R400, 15_health_recovery.md). -/
def HEALTH_THR_LEAK (i : Nat): Fld := ⟨0x3000 + (0x400 + 4 * i), 8, 5, .rw, leakReset i, .any⟩
/-- FUSE.FSTAT.MARGDIES (R401, 15_health_recovery.md). -/
def FUSE_FSTAT_MARGDIES : Fld := ⟨0x4000 + 0x040, 0, 8, .ro, 0, .any⟩
/-- FUSE.FSTAT.DEFDIES (R401, 15_health_recovery.md). -/
def FUSE_FSTAT_DEFDIES : Fld := ⟨0x4000 + 0x040, 8, 8, .ro, 0, .any⟩
/-- FUSE.FSEL.DIE (R401, 15_health_recovery.md). -/
def FUSE_FSEL_DIE : Fld := ⟨0x4000 + 0x044, 0, 3, .rw, 0, .any⟩
/-- FUSE.FSEL.WORD (R401, 15_health_recovery.md). -/
def FUSE_FSEL_WORD : Fld := ⟨0x4000 + 0x044, 8, 8, .rw, 0, .any⟩
/-- FUSE.FWSTAT.MARGBOOT (R401, 15_health_recovery.md). -/
def FUSE_FWSTAT_MARGBOOT : Fld := ⟨0x4000 + 0x04C, 0, 1, .ro, 0, .any⟩
/-- FUSE.FWSTAT.MARGNOW (R401, 15_health_recovery.md). -/
def FUSE_FWSTAT_MARGNOW : Fld := ⟨0x4000 + 0x04C, 1, 1, .ro, 0, .any⟩
/-- FUSE.FWSTAT.COPY (R401, 15_health_recovery.md). -/
def FUSE_FWSTAT_COPY : Fld := ⟨0x4000 + 0x04C, 2, 2, .ro, 0, .any⟩
/-- FUSE.FRES.STATUS (R401, 15_health_recovery.md). -/
def FUSE_FRES_STATUS : Fld := ⟨0x4000 + 0x054, 0, 8, .ro, 0, .any⟩
/-- FUSE.FCNT.MARGWORDS (R401, 15_health_recovery.md). -/
def FUSE_FCNT_MARGWORDS : Fld := ⟨0x4000 + 0x058, 0, 16, .ro, 0, .any⟩
/-- FUSE.FCNT.DEFGROUPS (R401, 15_health_recovery.md). -/
def FUSE_FCNT_DEFGROUPS : Fld := ⟨0x4000 + 0x058, 16, 16, .ro, 0, .any⟩
/-- SYS.ACCADDR.ADDR (R427, 16_host_ports.md). -/
def SYS_ACCADDR_ADDR : Fld := ⟨0x0 + 0x040, 0, 32, .ro, 0, .any⟩
/-- SYS.ACCINFO.CAUSE (R427, 16_host_ports.md). -/
def SYS_ACCINFO_CAUSE : Fld := ⟨0x0 + 0x044, 0, 4, .ro, 0, .any⟩
/-- SYS.ACCINFO.INIT (R427, 16_host_ports.md). -/
def SYS_ACCINFO_INIT : Fld := ⟨0x0 + 0x044, 4, 3, .ro, 0, .any⟩
/-- SYS.ACCINFO.WRITE (R427, 16_host_ports.md). -/
def SYS_ACCINFO_WRITE : Fld := ⟨0x0 + 0x044, 7, 1, .ro, 0, .any⟩
/-- SYS.ACCINFO.SIZE (R427, 16_host_ports.md). -/
def SYS_ACCINFO_SIZE : Fld := ⟨0x0 + 0x044, 8, 2, .ro, 0, .any⟩
/-- SYS.ACCCNT.COUNT (R427, 16_host_ports.md). -/
def SYS_ACCCNT_COUNT : Fld := ⟨0x0 + 0x048, 0, 16, .ro, 0, .any⟩
/-- SYS.SCRATCH.DATA (R427, 16_host_ports.md). -/
def SYS_SCRATCH_DATA : Fld := ⟨0x0 + 0x04C, 0, 32, .rw, 0, .any⟩
/-- EVT.RTSEL.SOURCE (R428, 16_host_ports.md). -/
def EVT_RTSEL_SOURCE : Fld := ⟨0x2000 + 0x040, 0, 9, .rw, 0, .range 0 287⟩
/-- EVT.VECSTAT.SIG (R428, 16_host_ports.md). -/
def EVT_VECSTAT_SIG : Fld := ⟨0x2000 + 0x048, 0, 32, .w1c, 0, .any⟩
/-- EVT.IRQMASK.EN (R428, 16_host_ports.md). -/
def EVT_IRQMASK_EN : Fld := ⟨0x2000 + 0x04C, 0, 32, .rw, 0, .any⟩
/-- PCIE.LNKSTAT.SPEED (R429, 16_host_ports.md). -/
def PCIE_LNKSTAT_SPEED : Fld := ⟨0xe000 + 0x040, 0, 4, .ro, 0, .any⟩
/-- PCIE.LNKSTAT.WIDTH (R429, 16_host_ports.md). -/
def PCIE_LNKSTAT_WIDTH : Fld := ⟨0xe000 + 0x040, 4, 4, .ro, 0, .any⟩
/-- PCIE.LNKSTAT.PMSUB (R429, 16_host_ports.md). -/
def PCIE_LNKSTAT_PMSUB : Fld := ⟨0xe000 + 0x040, 8, 2, .ro, 0, .any⟩
/-- PCIE.LNKSTAT.DSTATE (R429, 16_host_ports.md). -/
def PCIE_LNKSTAT_DSTATE : Fld := ⟨0xe000 + 0x040, 10, 2, .ro, 0, .any⟩
/-- PCIE.LNKSTAT.MSIXEN (R429, 16_host_ports.md). -/
def PCIE_LNKSTAT_MSIXEN : Fld := ⟨0xe000 + 0x040, 12, 1, .ro, 0, .any⟩
/-- PCIE.WAKECFG.WAKEPIN (R429, 16_host_ports.md). -/
def PCIE_WAKECFG_WAKEPIN : Fld := ⟨0xe000 + 0x044, 0, 1, .rw, 1, .any⟩
/-- PCIE.ERRCNT.CORR (R429, 16_host_ports.md). -/
def PCIE_ERRCNT_CORR : Fld := ⟨0xe000 + 0x048, 0, 16, .ro, 0, .any⟩
/-- PCIE.ERRCNT.UNCORR (R429, 16_host_ports.md). -/
def PCIE_ERRCNT_UNCORR : Fld := ⟨0xe000 + 0x048, 16, 16, .ro, 0, .any⟩
/-- PCIE.RSTCNT.RESETS (R429, 16_host_ports.md). -/
def PCIE_RSTCNT_RESETS : Fld := ⟨0xe000 + 0x04C, 0, 16, .ro, 0, .any⟩
/-- PCIE.RSTCNT.RECOV (R429, 16_host_ports.md). -/
def PCIE_RSTCNT_RECOV : Fld := ⟨0xe000 + 0x04C, 16, 16, .ro, 0, .any⟩
/-- QSPIT.QCFG.DUMMY (R430, 16_host_ports.md). -/
def QSPIT_QCFG_DUMMY : Fld := ⟨0xf000 + 0x040, 0, 6, .rw, 24, .range 8 63⟩
/-- QSPIT.QSTAT.LATE (R430, 16_host_ports.md). -/
def QSPIT_QSTAT_LATE : Fld := ⟨0xf000 + 0x044, 0, 1, .ro, 0, .any⟩
/-- QSPIT.QSTAT.WBUSY (R430, 16_host_ports.md). -/
def QSPIT_QSTAT_WBUSY : Fld := ⟨0xf000 + 0x044, 1, 1, .ro, 0, .any⟩
/-- QSPIT.LATEDATA.DATA (R430, 16_host_ports.md). -/
def QSPIT_LATEDATA_DATA : Fld := ⟨0xf000 + 0x048, 0, 32, .ro, 0, .any⟩
/-- QSPIT.LATEADDR.ADDR (R430, 16_host_ports.md). -/
def QSPIT_LATEADDR_ADDR : Fld := ⟨0xf000 + 0x04C, 0, 26, .ro, 0, .any⟩
/-- QSPIT.QCNT.LATES (R430, 16_host_ports.md). -/
def QSPIT_QCNT_LATES : Fld := ⟨0xf000 + 0x050, 0, 16, .ro, 0, .any⟩
/-- QSPIT.QCNT.SHORTS (R430, 16_host_ports.md). -/
def QSPIT_QCNT_SHORTS : Fld := ⟨0xf000 + 0x050, 16, 16, .ro, 0, .any⟩
/-- XSPI.XSTAT.OWNER (R431, 16_host_ports.md). -/
def XSPI_XSTAT_OWNER : Fld := ⟨0x10000 + 0x040, 0, 2, .ro, 1, .any⟩
/-- XSPI.XSTAT.OCTAL (R431, 16_host_ports.md). -/
def XSPI_XSTAT_OCTAL : Fld := ⟨0x10000 + 0x040, 2, 1, .ro, 0, .any⟩
/-- XSPI.XSTAT.CLK (R431, 16_host_ports.md). -/
def XSPI_XSTAT_CLK : Fld := ⟨0x10000 + 0x040, 8, 8, .ro, 0, .any⟩
/-- XSPI.XINFO.SIZE (R431, 16_host_ports.md). -/
def XSPI_XINFO_SIZE : Fld := ⟨0x10000 + 0x044, 0, 10, .ro, 0, .any⟩
/-- XSPI.XCFG.MAXCLK (R431, 16_host_ports.md). -/
def XSPI_XCFG_MAXCLK : Fld := ⟨0x10000 + 0x048, 0, 8, .rw, 100, .range 25 200⟩
/-- XSPI.XCFG.NOOCT (R431, 16_host_ports.md). -/
def XSPI_XCFG_NOOCT : Fld := ⟨0x10000 + 0x048, 8, 1, .rw, 0, .any⟩
/-- XSPI.XERRS.TIMEOUTS (R431, 16_host_ports.md). -/
def XSPI_XERRS_TIMEOUTS : Fld := ⟨0x10000 + 0x04C, 0, 16, .ro, 0, .any⟩
/-- XSPI.XERRS.FAILS (R431, 16_host_ports.md). -/
def XSPI_XERRS_FAILS : Fld := ⟨0x10000 + 0x04C, 16, 16, .ro, 0, .any⟩
/-- UART.UCFG.D7 (R432, 16_host_ports.md). -/
def UART_UCFG_D7 (u : Dual): Fld := ⟨0x11000 + 0x1000 * u.idx + 0x040, 0, 1, .rw, 0, .any⟩
/-- UART.UCFG.PARITY (R432, 16_host_ports.md). -/
def UART_UCFG_PARITY (u : Dual): Fld := ⟨0x11000 + 0x1000 * u.idx + 0x040, 1, 2, .rw, 0, .range 0 2⟩
/-- UART.UCFG.STOP2 (R432, 16_host_ports.md). -/
def UART_UCFG_STOP2 (u : Dual): Fld := ⟨0x11000 + 0x1000 * u.idx + 0x040, 3, 1, .rw, 0, .any⟩
/-- UART.UCFG.FLOW (R432, 16_host_ports.md). -/
def UART_UCFG_FLOW (u : Dual): Fld := ⟨0x11000 + 0x1000 * u.idx + 0x040, 4, 1, .rw, 0, .any⟩
/-- UART.BAUD.FRAC (R432, 16_host_ports.md). -/
def UART_BAUD_FRAC (u : Dual): Fld := ⟨0x11000 + 0x1000 * u.idx + 0x044, 0, 8, .rw, 199, .any⟩
/-- UART.BAUD.INT (R432, 16_host_ports.md). -/
def UART_BAUD_INT (u : Dual): Fld := ⟨0x11000 + 0x1000 * u.idx + 0x044, 8, 20, .rw, 277, .range 2 1048575⟩
/-- UART.RCDIV.FRAC (R432, 16_host_ports.md). -/
def UART_RCDIV_FRAC (u : Dual): Fld := ⟨0x11000 + 0x1000 * u.idx + 0x048, 0, 8, .rw, 11, .any⟩
/-- UART.RCDIV.INT (R432, 16_host_ports.md). -/
def UART_RCDIV_INT (u : Dual): Fld := ⟨0x11000 + 0x1000 * u.idx + 0x048, 8, 12, .rw, 26, .range 2 4095⟩
/-- UART.FLOWLVL.RTSOFF (R432, 16_host_ports.md). -/
def UART_FLOWLVL_RTSOFF (u : Dual): Fld := ⟨0x11000 + 0x1000 * u.idx + 0x04C, 0, 8, .rw, 96, .range 2 128⟩
/-- UART.FLOWLVL.RTSON (R432, 16_host_ports.md). -/
def UART_FLOWLVL_RTSON (u : Dual): Fld := ⟨0x11000 + 0x1000 * u.idx + 0x04C, 8, 8, .rw, 32, .below 0 8⟩
/-- UART.RTO.CHARS (R432, 16_host_ports.md). -/
def UART_RTO_CHARS (u : Dual): Fld := ⟨0x11000 + 0x1000 * u.idx + 0x050, 0, 8, .rw, 4, .range 1 255⟩
/-- UART.BRKLEN.BITS (R432, 16_host_ports.md). -/
def UART_BRKLEN_BITS (u : Dual): Fld := ⟨0x11000 + 0x1000 * u.idx + 0x060, 0, 16, .rw, 16, .range 1 65535⟩
/-- UART.BRKRX.LEN (R432, 16_host_ports.md). -/
def UART_BRKRX_LEN (u : Dual): Fld := ⟨0x11000 + 0x1000 * u.idx + 0x064, 0, 16, .ro, 0, .any⟩
/-- UART.RXRING.BASE (R432, 16_host_ports.md). -/
def UART_RXRING_BASE (u : Dual): Fld := ⟨0x11000 + 0x1000 * u.idx + 0x068, 8, 16, .rw, 0, .any⟩
/-- UART.RXRING.SIZE (R432, 16_host_ports.md). -/
def UART_RXRING_SIZE (u : Dual): Fld := ⟨0x11000 + 0x1000 * u.idx + 0x068, 24, 4, .rw, 10, .range 10 16⟩
/-- UART.RXRING.SLOT (R432, 16_host_ports.md). -/
def UART_RXRING_SLOT (u : Dual): Fld := ⟨0x11000 + 0x1000 * u.idx + 0x068, 28, 2, .rw, 1, .any⟩
/-- UART.RXRING.DMAEN (R432, 16_host_ports.md). -/
def UART_RXRING_DMAEN (u : Dual): Fld := ⟨0x11000 + 0x1000 * u.idx + 0x068, 31, 1, .rw, 0, .any⟩
/-- UART.RXWPTR.PTR (R432, 16_host_ports.md). -/
def UART_RXWPTR_PTR (u : Dual): Fld := ⟨0x11000 + 0x1000 * u.idx + 0x06C, 0, 12, .ro, 0, .any⟩
/-- UART.RXRPTR.PTR (R432, 16_host_ports.md). -/
def UART_RXRPTR_PTR (u : Dual): Fld := ⟨0x11000 + 0x1000 * u.idx + 0x070, 0, 12, .rw, 0, .any⟩
/-- UART.UCNT.OVR (R432, 16_host_ports.md). -/
def UART_UCNT_OVR (u : Dual): Fld := ⟨0x11000 + 0x1000 * u.idx + 0x074, 0, 16, .ro, 0, .any⟩
/-- UART.UCNT.ERR (R432, 16_host_ports.md). -/
def UART_UCNT_ERR (u : Dual): Fld := ⟨0x11000 + 0x1000 * u.idx + 0x074, 16, 16, .ro, 0, .any⟩
/-- TWI.TCFG.SPEED (R433, 16_host_ports.md). -/
def TWI_TCFG_SPEED (u : Dual): Fld := ⟨0x13000 + 0x1000 * u.idx + 0x040, 0, 2, .rw, 0, .range 0 2⟩
/-- TWI.TCFG.RETRY (R433, 16_host_ports.md). -/
def TWI_TCFG_RETRY (u : Dual): Fld := ⟨0x13000 + 0x1000 * u.idx + 0x040, 8, 8, .rw, 10, .range 1 255⟩
/-- TWI.TCFG.STRTO (R433, 16_host_ports.md). -/
def TWI_TCFG_STRTO (u : Dual): Fld := ⟨0x13000 + 0x1000 * u.idx + 0x040, 16, 8, .rw, 25, .range 1 255⟩
/-- TWI.TADDR.ADDR (R433, 16_host_ports.md). -/
def TWI_TADDR_ADDR (u : Dual): Fld := ⟨0x13000 + 0x1000 * u.idx + 0x044, 0, 7, .rw, 0, .any⟩
/-- TWI.TLEN.WLEN (R433, 16_host_ports.md). -/
def TWI_TLEN_WLEN (u : Dual): Fld := ⟨0x13000 + 0x1000 * u.idx + 0x048, 0, 6, .rw, 0, .any⟩
/-- TWI.TLEN.RLEN (R433, 16_host_ports.md). -/
def TWI_TLEN_RLEN (u : Dual): Fld := ⟨0x13000 + 0x1000 * u.idx + 0x048, 8, 6, .rw, 0, .any⟩
/-- TWI.TRES.STATUS (R433, 16_host_ports.md). -/
def TWI_TRES_STATUS (u : Dual): Fld := ⟨0x13000 + 0x1000 * u.idx + 0x054, 0, 8, .ro, 0, .any⟩
/-- TWI.TRES.ACKED (R433, 16_host_ports.md). -/
def TWI_TRES_ACKED (u : Dual): Fld := ⟨0x13000 + 0x1000 * u.idx + 0x054, 8, 6, .ro, 0, .any⟩
/-- TWI.TSTAT.BUS (R433, 16_host_ports.md). -/
def TWI_TSTAT_BUS (u : Dual): Fld := ⟨0x13000 + 0x1000 * u.idx + 0x058, 0, 2, .ro, 0, .any⟩
/-- TWI.TSTAT.TRIES (R433, 16_host_ports.md). -/
def TWI_TSTAT_TRIES (u : Dual): Fld := ⟨0x13000 + 0x1000 * u.idx + 0x058, 8, 8, .ro, 0, .any⟩
/-- TWI.TCNT.RECOV (R433, 16_host_ports.md). -/
def TWI_TCNT_RECOV (u : Dual): Fld := ⟨0x13000 + 0x1000 * u.idx + 0x05C, 0, 16, .ro, 0, .any⟩
/-- TWI.TCNT.NAKS (R433, 16_host_ports.md). -/
def TWI_TCNT_NAKS (u : Dual): Fld := ⟨0x13000 + 0x1000 * u.idx + 0x05C, 16, 16, .ro, 0, .any⟩
/-- GPIO.DIR.OUT (R434, 16_host_ports.md). -/
def GPIO_DIR_OUT : Fld := ⟨0x15000 + 0x040, 0, 32, .rw, 0, .any⟩
/-- GPIO.DOUT.LEVEL (R434, 16_host_ports.md). -/
def GPIO_DOUT_LEVEL : Fld := ⟨0x15000 + 0x044, 0, 32, .rw, 0, .any⟩
/-- GPIO.ODRAIN.OD (R434, 16_host_ports.md). -/
def GPIO_ODRAIN_OD : Fld := ⟨0x15000 + 0x054, 0, 32, .rw, 0, .any⟩
/-- GPIO.IMODEL.MODE (R434, 16_host_ports.md). -/
def GPIO_IMODEL_MODE : Fld := ⟨0x15000 + 0x058, 0, 32, .rw, 0, .any⟩
/-- GPIO.IMODEH.MODE (R434, 16_host_ports.md). -/
def GPIO_IMODEH_MODE : Fld := ⟨0x15000 + 0x05C, 0, 32, .rw, 0, .any⟩
/-- GPIO.ISTAT.EDGE (R434, 16_host_ports.md). -/
def GPIO_ISTAT_EDGE : Fld := ⟨0x15000 + 0x060, 0, 32, .w1c, 0, .any⟩
/-- GPIO.ALT.IRQN (R434, 16_host_ports.md). -/
def GPIO_ALT_IRQN : Fld := ⟨0x15000 + 0x064, 0, 1, .rw, 0, .any⟩

end F

/-- The registers of the SKEJO page beyond the common layout of Table 0-4. -/
def regsSKEJO : List Reg :=
  (Lane.all.flatMap fun n => [⟨(0x040 + 0x20 * n.idx + 0x00), false, false, false, [⟨F.SKEJO_LINKSTAT_STATE n, 0, 0, 3⟩, ⟨F.SKEJO_LINKSTAT_TXLANES n, 8, 0, 4⟩, ⟨F.SKEJO_LINKSTAT_RXLANES n, 12, 0, 4⟩, ⟨F.SKEJO_LINKSTAT_TXSPARE n, 16, 0, 1⟩, ⟨F.SKEJO_LINKSTAT_RXSPARE n, 17, 0, 1⟩]⟩]) ++
  (Lane.all.flatMap fun n => [⟨(0x040 + 0x20 * n.idx + 0x04), false, false, false, [⟨F.SKEJO_LANEMAP_TXRET n, 0, 0, 5⟩, ⟨F.SKEJO_LANEMAP_RXRET n, 8, 0, 5⟩]⟩]) ++
  (Lane.all.flatMap fun n => [⟨(0x040 + 0x20 * n.idx + 0x08), false, false, false, [⟨F.SKEJO_CRCERR_HUBRX n, 0, 0, 16⟩, ⟨F.SKEJO_CRCERR_LANERX n, 16, 0, 16⟩]⟩]) ++
  (Lane.all.flatMap fun n => [⟨(0x040 + 0x20 * n.idx + 0x0C), false, false, false, [⟨F.SKEJO_RETRY_REPLAYS n, 0, 0, 16⟩, ⟨F.SKEJO_RETRY_RETRAINS n, 16, 0, 16⟩]⟩]) ++
  (Lane.all.flatMap fun n => [⟨(0x040 + 0x20 * n.idx + 0x10), false, false, false, [⟨F.SKEJO_SPYDROP_COUNT n, 0, 0, 32⟩]⟩]) ++
  [⟨0x120, false, false, false, []⟩,
   ⟨0x400, false, false, false, []⟩,
   ⟨0x404, false, false, false, [⟨F.SKEJO_RETLIM_LIMIT, 0, 0, 4⟩]⟩,
   ⟨0x408, false, false, false, [⟨F.SKEJO_SPYCAP_SHARE, 0, 0, 4⟩]⟩]

/-- The registers of the CLK page beyond the common layout of Table 0-4. -/
def regsCLK : List Reg :=
  [⟨0x040, false, false, false, [⟨F.CLK_CLKSTAT_REFOK, 0, 0, 1⟩, ⟨F.CLK_CLKSTAT_HUBPLL, 1, 0, 1⟩, ⟨F.CLK_CLKSTAT_LINKPLL, 2, 0, 1⟩, ⟨F.CLK_CLKSTAT_AONRC, 3, 0, 1⟩, ⟨F.CLK_CLKSTAT_REFLOSS, 8, 0, 8⟩]⟩,
   ⟨0x044, false, false, false, [⟨F.CLK_PWRSTAT_STATE, 0, 0, 3⟩, ⟨F.CLK_PWRSTAT_LANEPWR, 8, 0, 7⟩, ⟨F.CLK_PWRSTAT_WAKECAUSE, 16, 0, 4⟩, ⟨F.CLK_PWRSTAT_STBYPEND, 20, 0, 1⟩]⟩,
   ⟨0x048, false, false, false, [⟨F.CLK_PWRCTL_STBY, 0, 0, 1⟩, ⟨F.CLK_PWRCTL_PINEN, 1, 0, 1⟩, ⟨F.CLK_PWRCTL_UARTWAKE0, 2, 0, 1⟩, ⟨F.CLK_PWRCTL_UARTWAKE1, 3, 0, 1⟩]⟩]

/-- The registers of the WHEEL page beyond the common layout of Table 0-4. -/
def regsWHEEL : List Reg :=
  [⟨0x040, false, false, false, [⟨F.WHEEL_WCTL_RUN, 0, 0, 1⟩, ⟨F.WHEEL_WCTL_NOMFREQ, 1, 0, 1⟩, ⟨F.WHEEL_WCTL_FREEOK, 2, 0, 1⟩, ⟨F.WHEEL_WCTL_G6EN, 3, 0, 1⟩, ⟨F.WHEEL_WCTL_G6QTR, 4, 0, 1⟩]⟩,
   ⟨0x044, false, false, false, [⟨F.WHEEL_WSTAT_PAT, 0, 0, 4⟩, ⟨F.WHEEL_WSTAT_EPOCH, 4, 0, 8⟩, ⟨F.WHEEL_WSTAT_EPPEND, 12, 0, 1⟩, ⟨F.WHEEL_WSTAT_STRAG, 13, 0, 1⟩, ⟨F.WHEEL_WSTAT_QPEND, 14, 0, 1⟩, ⟨F.WHEEL_WSTAT_QACT, 15, 0, 1⟩, ⟨F.WHEEL_WSTAT_PPEND, 16, 0, 1⟩]⟩,
   ⟨0x048, false, false, false, [⟨F.WHEEL_TURNSET_TURN, 0, 0, 32⟩]⟩,
   ⟨0x04C, false, false, false, [⟨F.WHEEL_BCNCFG_GI, 0, 0, 2⟩, ⟨F.WHEEL_BCNCFG_REP6, 2, 0, 1⟩]⟩,
   ⟨0x050, false, false, false, [⟨F.WHEEL_QTURN_TURN, 0, 0, 32⟩]⟩,
   ⟨0x054, false, false, false, [⟨F.WHEEL_QCTL_QLEN, 0, 0, 16⟩]⟩,
   ⟨0x058, false, false, false, []⟩,
   ⟨0x05C, false, false, false, [⟨F.WHEEL_QRES_STATUS, 0, 0, 8⟩, ⟨F.WHEEL_QRES_PEND, 8, 0, 1⟩]⟩] ++
  [⟨0x060, false, false, false, [⟨F.WHEEL_EPNX_BP, 0, 0, 2⟩, ⟨F.WHEEL_EPNX_PAT, 4, 0, 4⟩, ⟨F.WHEEL_EPNX_GLZ, 8, 0, 4⟩, ⟨F.WHEEL_EPNX_GKEY, 16, 0, 6⟩]⟩,
   ⟨0x064, false, false, false, [⟨F.WHEEL_EPSW_TURN, 0, 0, 32⟩]⟩,
   ⟨0x068, false, false, false, [⟨F.WHEEL_EPCFG_STRAG, 0, 0, 8⟩, ⟨F.WHEEL_EPCFG_EPLEAD, 8, 0, 8⟩]⟩,
   ⟨0x06C, false, false, false, []⟩,
   ⟨0x070, false, false, false, [⟨F.WHEEL_EPRES_STATUS, 0, 0, 8⟩, ⟨F.WHEEL_EPRES_PEND, 8, 0, 1⟩]⟩,
   ⟨0x074, false, false, false, []⟩,
   ⟨0x078, false, false, false, [⟨F.WHEEL_PTURN_TURN, 0, 0, 32⟩]⟩,
   ⟨0x07C, false, false, false, [⟨F.WHEEL_PLEN_LEN, 0, 0, 4⟩]⟩] ++
  [⟨0x0F0, false, false, false, [⟨F.WHEEL_WAKECFG_WAKEG, 0, 0, 16⟩, ⟨F.WHEEL_WAKECFG_WMISS, 16, 0, 8⟩]⟩,
   ⟨0x0F4, false, false, false, [⟨F.WHEEL_COUNTS_BCNOVR, 0, 0, 16⟩, ⟨F.WHEEL_COUNTS_WAKEMISS, 16, 0, 16⟩]⟩,
   ⟨0x0F8, false, false, false, [⟨F.WHEEL_QCNT_QCANCEL, 0, 0, 16⟩, ⟨F.WHEEL_QCNT_QSERVED, 16, 0, 16⟩]⟩] ++
  (Lane.all.flatMap fun n => [⟨(0x080 + 0x10 * n.idx + 0x0), false, false, false, [⟨F.WHEEL_GCTL_REFPH n, 0, 0, 2⟩]⟩]) ++
  (Lane.all.flatMap fun n => [⟨(0x080 + 0x10 * n.idx + 0x4), false, false, false, [⟨F.WHEEL_GSTAT_LSTATE n, 0, 0, 3⟩, ⟨F.WHEEL_GSTAT_FACET n, 8, 0, 7⟩, ⟨F.WHEEL_GSTAT_MISSES n, 16, 0, 16⟩]⟩]) ++
  (Lane.all.flatMap fun n => [⟨(0x080 + 0x10 * n.idx + 0x8), false, false, false, [⟨F.WHEEL_TURN_TURN n, 0, 0, 32⟩]⟩]) ++
  (Lane.all.flatMap fun n => [⟨(0x080 + 0x10 * n.idx + 0xC), false, false, false, [⟨F.WHEEL_PERIOD_P n, 0, 0, 32⟩]⟩]) ++
  [⟨0x400, false, false, false, [⟨F.WHEEL_TBLADDR_ENTRY, 0, 0, 7⟩, ⟨F.WHEEL_TBLADDR_PAT, 8, 0, 4⟩]⟩,
   ⟨0x404, true, false, false, []⟩,
   ⟨0x408, false, false, false, []⟩,
   ⟨0x40C, false, false, false, [⟨F.WHEEL_TBLRES_STATUS, 0, 0, 8⟩, ⟨F.WHEEL_TBLRES_ENTRY, 8, 0, 7⟩]⟩,
   ⟨0x410, false, false, false, [⟨F.WHEEL_LOOP_KP, 0, 0, 3⟩, ⟨F.WHEEL_LOOP_KI, 4, 0, 3⟩, ⟨F.WHEEL_LOOP_ACCWIN, 8, 0, 8⟩, ⟨F.WHEEL_LOOP_PHCLAMP, 16, 0, 8⟩, ⟨F.WHEEL_LOOP_PRCLAMP, 24, 0, 8⟩]⟩,
   ⟨0x414, false, false, false, [⟨F.WHEEL_WAKEUNC_UNCMIN, 0, 0, 16⟩, ⟨F.WHEEL_WAKEUNC_UNCINIT, 16, 0, 16⟩]⟩,
   ⟨0x418, false, false, false, []⟩]

/-- The registers of the MAC page beyond the common layout of Table 0-4. -/
def regsMAC : List Reg :=
  [⟨0x040, false, false, false, [⟨F.MAC_RSCFG_MAXATT, 0, 0, 3⟩, ⟨F.MAC_RSCFG_REASM, 8, 0, 8⟩]⟩,
   ⟨0x044, false, false, false, [⟨F.MAC_CONTCFG_CSLOT, 0, 0, 5⟩, ⟨F.MAC_CONTCFG_CWMIN, 8, 0, 4⟩, ⟨F.MAC_CONTCFG_CWMAX, 12, 0, 4⟩]⟩,
   ⟨0x048, false, false, false, [⟨F.MAC_FDCFG_FDCONE, 0, 0, 6⟩, ⟨F.MAC_FDCFG_AUTOCLR, 8, 0, 1⟩]⟩,
   ⟨0x04C, false, false, false, [⟨F.MAC_G6CFG_FILT, 0, 0, 1⟩, ⟨F.MAC_G6CFG_IFS, 8, 0, 8⟩]⟩,
   ⟨0x050, false, false, false, [⟨F.MAC_TXMPDU_COUNT, 0, 0, 32⟩]⟩,
   ⟨0x054, false, false, false, [⟨F.MAC_RXMPDU_COUNT, 0, 0, 32⟩]⟩,
   ⟨0x058, false, false, false, [⟨F.MAC_SEQERR_DUPS, 0, 0, 16⟩, ⟨F.MAC_SEQERR_REPLAYS, 16, 0, 16⟩]⟩,
   ⟨0x05C, false, false, false, [⟨F.MAC_SECERR_AUTHF, 0, 0, 16⟩, ⟨F.MAC_SECERR_FMTMPDU, 16, 0, 16⟩]⟩] ++
  [⟨0x060, false, false, false, [⟨F.MAC_SLOTERR_QDROP, 0, 0, 16⟩, ⟨F.MAC_SLOTERR_UNKNOWN, 16, 0, 16⟩]⟩,
   ⟨0x064, false, false, false, [⟨F.MAC_ACCERR_FADROP, 0, 0, 16⟩, ⟨F.MAC_ACCERR_ROLEERR, 16, 0, 16⟩]⟩,
   ⟨0x068, false, false, false, [⟨F.MAC_LOSSES_REASMTO, 0, 0, 16⟩, ⟨F.MAC_LOSSES_ABANDON, 16, 0, 16⟩]⟩,
   ⟨0x06C, false, false, false, [⟨F.MAC_MISC_G6FILT, 0, 0, 16⟩, ⟨F.MAC_MISC_COMMITMISS, 16, 0, 16⟩]⟩,
   ⟨0x070, false, false, false, [⟨F.MAC_FDEXCH_COUNT, 0, 0, 32⟩]⟩,
   ⟨0x0B0, false, false, false, []⟩,
   ⟨0x400, false, false, false, [⟨F.MAC_FAADDR_INDEX, 0, 0, 9⟩]⟩,
   ⟨0x404, true, false, false, []⟩] ++
  [⟨0x408, false, false, false, []⟩]

/-- The registers of the NBR page beyond the common layout of Table 0-4. -/
def regsNBR : List Reg :=
  [⟨0x040, false, false, false, [⟨F.NBR_SELFEUIL_EUI, 0, 0, 32⟩]⟩,
   ⟨0x044, false, false, false, [⟨F.NBR_SELFEUIH_EUI, 0, 0, 32⟩]⟩,
   ⟨0x048, false, false, false, [⟨F.NBR_NEUIL_EUI, 0, 0, 32⟩]⟩,
   ⟨0x04C, false, false, false, [⟨F.NBR_NEUIH_EUI, 0, 0, 32⟩]⟩,
   ⟨0x050, false, false, false, [⟨F.NBR_NARG_SLOT, 0, 0, 14⟩, ⟨F.NBR_NARG_GEN, 16, 0, 4⟩, ⟨F.NBR_NARG_GROUP, 20, 0, 3⟩, ⟨F.NBR_NARG_PROTO, 23, 0, 1⟩, ⟨F.NBR_NARG_FD, 24, 0, 1⟩]⟩,
   ⟨0x054, false, false, false, [⟨F.NBR_NCPL_CPL, 0, 0, 12⟩]⟩,
   ⟨0x058, false, false, false, []⟩,
   ⟨0x05C, false, false, false, [⟨F.NBR_NRES_STATUS, 0, 0, 8⟩, ⟨F.NBR_NRES_SLOT, 8, 0, 14⟩, ⟨F.NBR_NRES_GEN, 22, 0, 4⟩, ⟨F.NBR_NRES_PEND, 26, 0, 1⟩]⟩] ++
  [⟨0x060, false, false, false, []⟩,
   ⟨0x064, false, false, false, [⟨F.NBR_NCFG_HIWAT, 0, 0, 14⟩]⟩,
   ⟨0x068, false, false, false, [⟨F.NBR_NSTATS_ASSIGNS, 0, 0, 16⟩, ⟨F.NBR_NSTATS_RELEASES, 16, 0, 16⟩]⟩,
   ⟨0x070, false, false, false, [⟨F.NBR_DMSEL_SLOT, 0, 0, 14⟩, ⟨F.NBR_DMSEL_BANK, 16, 0, 2⟩]⟩] ++
  ((List.range 3).flatMap fun i => [⟨(0x074 + 4 * i), false, false, false, [⟨F.NBR_DMW_DATA i, 0, 0, 32⟩]⟩]) ++
  [⟨0x080, false, false, false, []⟩,
   ⟨0x084, false, false, false, [⟨F.NBR_DMRES_STATUS, 0, 0, 8⟩]⟩,
   ⟨0x090, false, false, false, [⟨F.NBR_LRSEL_SLOT, 0, 0, 14⟩, ⟨F.NBR_LRSEL_WORD, 16, 0, 4⟩]⟩,
   ⟨0x094, true, false, false, []⟩,
   ⟨0x400, false, false, false, []⟩]

/-- The registers of the QM page beyond the common layout of Table 0-4. -/
def regsQM : List Reg :=
  [⟨0x040, false, false, false, [⟨F.QM_QCFG_RINGWAKE, 0, 0, 1⟩, ⟨F.QM_QCFG_RXRES, 8, 0, 8⟩, ⟨F.QM_QCFG_LIFE, 16, 0, 8⟩, ⟨F.QM_QCFG_RXHOLD, 24, 0, 8⟩]⟩,
   ⟨0x044, false, false, false, [⟨F.QM_CELLSTAT_FREE, 0, 0, 16⟩, ⟨F.QM_CELLSTAT_LOW, 16, 0, 16⟩]⟩,
   ⟨0x048, false, false, false, []⟩,
   ⟨0x04C, false, false, false, [⟨F.QM_RSEL_RING, 0, 0, 8⟩]⟩,
   ⟨0x050, false, false, true, [⟨F.QM_RBASE_BASE, 0, 0, 32⟩]⟩, ⟨0x050 + 4, false, false, true, [⟨F.QM_RBASE_BASE, 0, 32, 32⟩]⟩,
   ⟨0x058, false, false, false, [⟨F.QM_RCFG_SIZE, 0, 0, 5⟩, ⟨F.QM_RCFG_LOC, 5, 0, 1⟩, ⟨F.QM_RCFG_KIND, 6, 0, 1⟩, ⟨F.QM_RCFG_PAIR, 8, 0, 7⟩, ⟨F.QM_RCFG_VEC, 16, 0, 5⟩, ⟨F.QM_RCFG_IRQEN, 21, 0, 1⟩, ⟨F.QM_RCFG_WEIGHT, 24, 0, 4⟩, ⟨F.QM_RCFG_FULLPOL, 28, 0, 1⟩]⟩,
   ⟨0x05C, false, false, false, [⟨F.QM_MOD_COUNT, 0, 0, 16⟩, ⟨F.QM_MOD_TIME, 16, 0, 16⟩]⟩,
   ⟨0x060, false, false, false, []⟩] ++
  [⟨0x064, false, false, false, []⟩,
   ⟨0x068, false, false, false, []⟩,
   ⟨0x06C, false, false, false, []⟩,
   ⟨0x070, false, false, false, [⟨F.QM_RRES_STATUS, 0, 0, 8⟩]⟩,
   ⟨0x080, false, false, false, [⟨F.QM_QSEL_QUEUE, 0, 0, 14⟩]⟩,
   ⟨0x084, false, false, false, []⟩,
   ⟨0x088, false, false, false, []⟩,
   ⟨0x08C, false, false, false, [⟨F.QM_QRES_STATUS, 0, 0, 8⟩]⟩] ++
  [⟨0x0A0, false, false, false, [⟨F.QM_TXFETCH_COUNT, 0, 0, 32⟩]⟩,
   ⟨0x0A4, false, false, false, [⟨F.QM_RXDELIV_COUNT, 0, 0, 32⟩]⟩,
   ⟨0x0A8, false, false, false, [⟨F.QM_DROPS_NOBUF, 0, 0, 16⟩, ⟨F.QM_DROPS_RXOVF, 16, 0, 16⟩]⟩,
   ⟨0x0AC, false, false, false, [⟨F.QM_DROPS2_RXDROP, 0, 0, 16⟩, ⟨F.QM_DROPS2_DMAERRS, 16, 0, 16⟩]⟩,
   ⟨0x0B0, false, false, false, []⟩,
   ⟨0x400, false, false, false, [⟨F.QM_QLIM_CELLS, 0, 0, 16⟩]⟩]

/-- The registers of the MBX page beyond the common layout of Table 0-4. -/
def regsMBX : List Reg :=
  [⟨0x040, false, false, false, []⟩,
   ⟨0x044, false, false, false, []⟩,
   ⟨0x048, false, false, false, [⟨F.MBX_H2DPENDL_PEND, 0, 0, 32⟩]⟩,
   ⟨0x04C, false, false, false, [⟨F.MBX_H2DPENDH_PEND, 0, 0, 32⟩]⟩,
   ⟨0x050, false, false, false, [⟨F.MBX_D2HL_DB, 0, 0, 32⟩]⟩,
   ⟨0x054, false, false, false, [⟨F.MBX_D2HH_DB, 0, 0, 32⟩]⟩,
   ⟨0x058, false, false, false, [⟨F.MBX_H2DWAKEL_WAKE, 0, 0, 32⟩]⟩,
   ⟨0x05C, false, false, false, [⟨F.MBX_H2DWAKEH_WAKE, 0, 0, 32⟩]⟩] ++
  [⟨0x060, false, false, false, [⟨F.MBX_D2HWAKEL_WAKE, 0, 0, 32⟩]⟩,
   ⟨0x064, false, false, false, [⟨F.MBX_D2HWAKEH_WAKE, 0, 0, 32⟩]⟩,
   ⟨0x068, false, false, false, [⟨F.MBX_MBSTAT_H2DBUSY, 0, 0, 32⟩]⟩,
   ⟨0x06C, false, false, false, [⟨F.MBX_D2HFULL_FULL, 0, 0, 32⟩]⟩,
   ⟨0x070, false, false, false, []⟩,
   ⟨0x074, false, false, false, [⟨F.MBX_MBCNT_REFUSALS, 0, 0, 16⟩, ⟨F.MBX_MBCNT_LOST, 16, 0, 16⟩]⟩,
   ⟨0x078, false, false, true, [⟨F.MBX_D2HBASE_BASE, 0, 0, 32⟩]⟩, ⟨0x078 + 4, false, false, true, [⟨F.MBX_D2HBASE_BASE, 0, 32, 32⟩]⟩] ++
  ((List.range 32).flatMap fun i => [⟨(0x100 + 16 * i), false, false, false, [⟨F.MBX_PTRL_PTR i, 0, 0, 32⟩]⟩]) ++
  ((List.range 32).flatMap fun i => [⟨(0x104 + 16 * i), false, false, false, [⟨F.MBX_PTRH_PTR i, 0, 0, 32⟩]⟩]) ++
  ((List.range 32).flatMap fun i => [⟨(0x108 + 16 * i), false, false, false, [⟨F.MBX_HDR_TAG i, 0, 0, 16⟩, ⟨F.MBX_HDR_TYPE i, 16, 0, 8⟩, ⟨F.MBX_HDR_LOC i, 24, 0, 1⟩]⟩]) ++
  ((List.range 32).flatMap fun i => [⟨(0x10C + 16 * i), false, false, false, [⟨F.MBX_LENGO_LEN i, 0, 0, 24⟩]⟩]) ++
  ((List.range 32).flatMap fun i => [⟨(0x300 + 4 * i), false, false, false, [⟨F.MBX_RES_STATUS i, 0, 0, 8⟩, ⟨F.MBX_RES_TAG i, 8, 0, 16⟩, ⟨F.MBX_RES_PEND i, 24, 0, 1⟩]⟩])

/-- The registers of the SAGGAR page beyond the common layout of Table 0-4. -/
def regsSAGGAR : List Reg :=
  [⟨0x040, false, false, false, [⟨F.SAGGAR_PROT_COUNT, 0, 0, 32⟩]⟩,
   ⟨0x044, false, false, false, [⟨F.SAGGAR_VERIF_COUNT, 0, 0, 32⟩]⟩,
   ⟨0x048, false, false, false, [⟨F.SAGGAR_FAILS_TAGFAIL, 0, 0, 16⟩, ⟨F.SAGGAR_FAILS_CHKMIS, 16, 0, 16⟩]⟩,
   ⟨0x04C, false, false, false, [⟨F.SAGGAR_SKIPS_BCNSKIP, 0, 0, 16⟩, ⟨F.SAGGAR_SKIPS_CTREXH, 16, 0, 16⟩]⟩,
   ⟨0x050, false, false, false, [⟨F.SAGGAR_JOBCFG_MODE, 0, 0, 2⟩, ⟨F.SAGGAR_JOBCFG_TAG16, 2, 0, 1⟩, ⟨F.SAGGAR_JOBCFG_DKEY, 4, 0, 4⟩, ⟨F.SAGGAR_JOBCFG_AADLEN, 8, 0, 6⟩]⟩,
   ⟨0x054, false, false, false, [⟨F.SAGGAR_JOBSRC_OFFS, 4, 0, 20⟩]⟩,
   ⟨0x058, false, false, false, [⟨F.SAGGAR_JOBDST_OFFS, 4, 0, 20⟩]⟩,
   ⟨0x05C, false, false, false, [⟨F.SAGGAR_JOBLEN_LEN, 0, 0, 13⟩]⟩] ++
  ((List.range 4).flatMap fun i => [⟨(0x060 + 4 * i), false, false, false, [⟨F.SAGGAR_JOBIV_IV i, 0, 0, 32⟩]⟩]) ++
  ((List.range 4).flatMap fun i => [⟨(0x070 + 4 * i), false, false, false, [⟨F.SAGGAR_JOBTAG_TAG i, 0, 0, 32⟩]⟩]) ++
  [⟨0x080, false, false, false, []⟩,
   ⟨0x084, false, false, false, [⟨F.SAGGAR_JOBRES_STATUS, 0, 0, 8⟩]⟩,
   ⟨0x090, false, false, false, [⟨F.SAGGAR_HSRC_OFFS, 0, 0, 24⟩]⟩,
   ⟨0x094, false, false, false, [⟨F.SAGGAR_HLEN_LEN, 0, 0, 25⟩]⟩,
   ⟨0x098, false, false, false, []⟩,
   ⟨0x09C, false, false, false, [⟨F.SAGGAR_HRES_STATUS, 0, 0, 8⟩, ⟨F.SAGGAR_HRES_FZMATCH, 8, 0, 1⟩, ⟨F.SAGGAR_HRES_OEMMATCH, 9, 0, 1⟩]⟩] ++
  ((List.range 8).flatMap fun i => [⟨(0x0A0 + 4 * i), false, false, false, [⟨F.SAGGAR_HDIG_DIGEST i, 0, 0, 32⟩]⟩]) ++
  [⟨0x0C0, false, false, false, []⟩,
   ⟨0x400, false, false, false, [⟨F.SAGGAR_SCACFG_DMIN, 0, 0, 4⟩, ⟨F.SAGGAR_SCACFG_DMAX, 4, 0, 4⟩]⟩,
   ⟨0x404, false, false, false, []⟩]

/-- The registers of the KEYS page beyond the common layout of Table 0-4. -/
def regsKEYS : List Reg :=
  ((List.range 8).flatMap fun i => [⟨(0x040 + 4 * i), false, false, false, [⟨F.KEYS_KEYDATA_DATA i, 0, 0, 32⟩]⟩]) ++
  [⟨0x060, false, false, false, []⟩,
   ⟨0x064, false, false, false, [⟨F.KEYS_KRES_BUSY, 0, 0, 1⟩, ⟨F.KEYS_KRES_STATUS, 8, 0, 8⟩]⟩,
   ⟨0x068, false, false, false, [⟨F.KEYS_KSEL_CLASS, 4, 0, 2⟩, ⟨F.KEYS_KSEL_INDEX, 16, 0, 13⟩]⟩,
   ⟨0x06C, false, false, false, []⟩,
   ⟨0x070, false, false, false, []⟩,
   ⟨0x074, false, false, false, []⟩,
   ⟨0x078, false, false, false, []⟩,
   ⟨0x07C, false, false, false, [⟨F.KEYS_KCNT_ACCEPTS, 0, 0, 16⟩, ⟨F.KEYS_KCNT_REFUSALS, 16, 0, 16⟩]⟩] ++
  [⟨0x080, false, false, false, []⟩,
   ⟨0x400, false, false, false, [⟨F.KEYS_KDETAIL_REASON, 0, 0, 3⟩, ⟨F.KEYS_KDETAIL_OP, 4, 0, 4⟩]⟩]

/-- The registers of the TIME page beyond the common layout of Table 0-4. -/
def regsTIME : List Reg :=
  [⟨0x040, false, false, false, [⟨F.TIME_TCFG_SRC, 0, 0, 2⟩, ⟨F.TIME_TCFG_PPSPOL, 2, 0, 1⟩, ⟨F.TIME_TCFG_EVTEDGE, 3, 0, 2⟩, ⟨F.TIME_TCFG_FREEPULSE, 5, 0, 1⟩]⟩,
   ⟨0x044, false, false, false, [⟨F.TIME_TSTAT_STATE, 0, 0, 2⟩, ⟨F.TIME_TSTAT_REFOK, 2, 0, 1⟩, ⟨F.TIME_TSTAT_TVALID, 3, 0, 1⟩, ⟨F.TIME_TSTAT_RCRUN, 4, 0, 1⟩, ⟨F.TIME_TSTAT_SLEWING, 5, 0, 1⟩, ⟨F.TIME_TSTAT_AGE, 8, 0, 24⟩]⟩,
   ⟨0x048, false, false, true, []⟩, ⟨0x048 + 4, false, false, true, []⟩,
   ⟨0x050, false, false, false, [⟨F.TIME_SNAPSECL_SEC, 0, 0, 32⟩]⟩,
   ⟨0x054, false, false, false, [⟨F.TIME_SNAPSECH_SEC, 0, 0, 16⟩]⟩,
   ⟨0x058, false, false, false, [⟨F.TIME_SNAPNS_NS, 0, 0, 30⟩]⟩,
   ⟨0x05C, false, false, false, [⟨F.TIME_BOUND_NS, 0, 0, 32⟩]⟩,
   ⟨0x060, false, false, false, [⟨F.TIME_DRIFT_D, 0, 0, 32⟩]⟩] ++
  [⟨0x064, false, false, false, [⟨F.TIME_UTCOFS_OFS, 0, 0, 16⟩]⟩,
   ⟨0x068, false, false, false, [⟨F.TIME_TPCFG_EN, 0, 0, 1⟩, ⟨F.TIME_TPCFG_POL, 1, 0, 1⟩, ⟨F.TIME_TPCFG_FREQ, 2, 0, 10⟩]⟩,
   ⟨0x06C, false, false, false, [⟨F.TIME_TPWIDTH_US, 0, 0, 20⟩]⟩,
   ⟨0x070, false, false, false, [⟨F.TIME_TSETSECL_SEC, 0, 0, 32⟩]⟩,
   ⟨0x074, false, false, false, [⟨F.TIME_TSETSECH_SEC, 0, 0, 16⟩]⟩,
   ⟨0x078, false, false, false, [⟨F.TIME_TSETNS_NS, 0, 0, 30⟩]⟩,
   ⟨0x080, false, false, true, [⟨F.TIME_TSETTICK_TICK, 0, 0, 32⟩]⟩, ⟨0x080 + 4, false, false, true, [⟨F.TIME_TSETTICK_TICK, 0, 32, 32⟩]⟩,
   ⟨0x088, false, false, false, []⟩] ++
  [⟨0x08C, false, false, false, [⟨F.TIME_TRES_STATUS, 0, 0, 8⟩]⟩,
   ⟨0x090, false, false, false, [⟨F.TIME_STEERPH_NS, 0, 0, 32⟩]⟩,
   ⟨0x094, false, false, false, [⟨F.TIME_STEERFR_FR, 0, 0, 32⟩]⟩,
   ⟨0x098, false, false, false, [⟨F.TIME_HOSTCFG_TO, 0, 0, 8⟩]⟩,
   ⟨0x0A0, false, false, false, [⟨F.TIME_STEPSIZE_NS, 0, 0, 32⟩]⟩,
   ⟨0x0A4, false, false, false, [⟨F.TIME_STEPSEC_SEC, 0, 0, 32⟩]⟩,
   ⟨0x0A8, false, false, false, [⟨F.TIME_EVTSTAT_LEVEL, 0, 0, 5⟩, ⟨F.TIME_EVTSTAT_OVF, 16, 0, 16⟩]⟩,
   ⟨0x0B0, true, false, false, []⟩] ++
  [⟨0x0B4, false, false, false, [⟨F.TIME_EVTTICKH_TICK, 0, 0, 32⟩]⟩,
   ⟨0x0B8, false, false, false, [⟨F.TIME_EVTSECL_SEC, 0, 0, 32⟩]⟩,
   ⟨0x0BC, false, false, false, [⟨F.TIME_EVTSECH_SEC, 0, 0, 16⟩]⟩,
   ⟨0x0C0, false, false, false, [⟨F.TIME_EVTNS_NS, 0, 0, 30⟩, ⟨F.TIME_EVTNS_VALID, 30, 0, 1⟩, ⟨F.TIME_EVTNS_EDGE, 31, 0, 1⟩]⟩,
   ⟨0x0C4, false, false, false, [⟨F.TIME_PPSLAST_NS, 0, 0, 32⟩]⟩,
   ⟨0x0C8, false, false, false, [⟨F.TIME_COUNTS_PPSMISS, 0, 0, 16⟩, ⟨F.TIME_COUNTS_PPSREJ, 16, 0, 16⟩]⟩,
   ⟨0x0CC, false, false, false, [⟨F.TIME_COUNTS2_STEPS, 0, 0, 16⟩, ⟨F.TIME_COUNTS2_TPSKIP, 16, 0, 16⟩]⟩,
   ⟨0x0D0, false, false, false, []⟩] ++
  [⟨0x400, false, false, false, [⟨F.TIME_LOOPCFG_PPSWIN, 0, 0, 8⟩, ⟨F.TIME_LOOPCFG_QUAL, 8, 0, 4⟩, ⟨F.TIME_LOOPCFG_DK, 12, 0, 4⟩, ⟨F.TIME_LOOPCFG_SLEWMAX, 16, 0, 4⟩]⟩,
   ⟨0x404, false, false, false, [⟨F.TIME_HOLDCFG_HOLDLIM, 0, 0, 16⟩, ⟨F.TIME_HOLDCFG_DUMIN, 16, 0, 8⟩, ⟨F.TIME_HOLDCFG_HAGE, 24, 0, 8⟩]⟩,
   ⟨0x408, false, false, false, [⟨F.TIME_CABDLY_PPSDLY, 0, 0, 16⟩, ⟨F.TIME_CABDLY_TPDLY, 16, 0, 16⟩]⟩]

/-- The registers of the BOOT page beyond the common layout of Table 0-4. -/
def regsBOOT : List Reg :=
  [⟨0x040, false, false, false, [⟨F.BOOT_BSTAT_STAGE, 0, 0, 2⟩, ⟨F.BOOT_BSTAT_ACTSLOT, 2, 0, 1⟩, ⟨F.BOOT_BSTAT_GREEN, 3, 0, 1⟩, ⟨F.BOOT_BSTAT_FIRED, 4, 0, 1⟩, ⟨F.BOOT_BSTAT_RAMIMG, 5, 0, 1⟩]⟩,
   ⟨0x044, false, false, false, [⟨F.BOOT_BCAUSE_CODEA, 0, 0, 4⟩, ⟨F.BOOT_BCAUSE_CODEB, 4, 0, 4⟩]⟩,
   ⟨0x048, false, false, false, [⟨F.BOOT_VERA_VERSION, 0, 0, 32⟩]⟩,
   ⟨0x04C, false, false, false, [⟨F.BOOT_VERB_VERSION, 0, 0, 32⟩]⟩,
   ⟨0x050, false, false, false, [⟨F.BOOT_SLOTST_STA, 0, 0, 3⟩, ⟨F.BOOT_SLOTST_STB, 4, 0, 3⟩, ⟨F.BOOT_SLOTST_TRIES, 8, 0, 2⟩]⟩,
   ⟨0x054, false, false, false, [⟨F.BOOT_RBFLOOR_FLOOR, 0, 0, 6⟩, ⟨F.BOOT_RBFLOOR_LATCHED, 8, 0, 6⟩]⟩,
   ⟨0x058, false, false, false, [⟨F.BOOT_GWIN_SEC, 0, 0, 12⟩]⟩,
   ⟨0x05C, false, false, false, [⟨F.BOOT_GREMAIN_SEC, 0, 0, 12⟩]⟩] ++
  [⟨0x060, false, false, false, []⟩,
   ⟨0x064, false, false, false, [⟨F.BOOT_GCFG_HOSTGATE, 0, 0, 1⟩, ⟨F.BOOT_GCFG_HOSTOK, 1, 0, 1⟩, ⟨F.BOOT_GCFG_RBADV, 2, 0, 1⟩]⟩,
   ⟨0x068, false, false, false, [⟨F.BOOT_BOOTCNT_BOOTS, 0, 0, 16⟩, ⟨F.BOOT_BOOTCNT_FALLBACKS, 16, 0, 16⟩]⟩,
   ⟨0x06C, false, false, false, [⟨F.BOOT_CFGSTAT_BLOCKS, 0, 0, 16⟩]⟩,
   ⟨0x070, false, false, false, [⟨F.BOOT_BTIME_MS, 0, 0, 16⟩]⟩,
   ⟨0x074, false, false, false, []⟩,
   ⟨0x078, false, false, false, [⟨F.BOOT_RECRES_STATUS, 0, 0, 8⟩, ⟨F.BOOT_RECRES_CODE, 8, 0, 4⟩]⟩]

/-- The registers of the HEALTH page beyond the common layout of Table 0-4. -/
def regsHEALTH : List Reg :=
  [⟨0x040, false, false, false, [⟨F.HEALTH_HSTAT_KSRST, 0, 0, 2⟩, ⟨F.HEALTH_HSTAT_WARMS, 8, 0, 8⟩, ⟨F.HEALTH_HSTAT_LANEFAIL, 16, 0, 7⟩]⟩,
   ⟨0x044, false, false, false, [⟨F.HEALTH_STICKY_KINDS, 0, 0, 9⟩]⟩,
   ⟨0x048, false, false, false, [⟨F.HEALTH_BSEL_CLASS, 0, 0, 3⟩, ⟨F.HEALTH_BSEL_DIE, 8, 0, 3⟩, ⟨F.HEALTH_BSEL_UNIT, 16, 0, 7⟩]⟩,
   ⟨0x04C, false, false, false, []⟩,
   ⟨0x050, false, false, false, [⟨F.HEALTH_RETCNT_TOTAL, 0, 0, 16⟩, ⟨F.HEALTH_RETCNT_UNCORR, 16, 0, 16⟩]⟩,
   ⟨0x054, false, false, false, [⟨F.HEALTH_CORRCNT_COUNT, 0, 0, 32⟩]⟩,
   ⟨0x058, false, false, false, [⟨F.HEALTH_SCRUB_PERIOD, 0, 0, 5⟩]⟩,
   ⟨0x05C, false, false, false, [⟨F.HEALTH_HBCFG_HBPER, 0, 0, 8⟩, ⟨F.HEALTH_HBCFG_HBTO, 8, 0, 8⟩]⟩] ++
  [⟨0x060, false, false, false, []⟩,
   ⟨0x064, false, false, false, []⟩,
   ⟨0x068, false, false, false, [⟨F.HEALTH_TRSEQ_SEQ, 0, 0, 32⟩]⟩] ++
  ((List.range 7).flatMap fun i => [⟨(0x400 + 4 * i), false, false, false, [⟨F.HEALTH_THR_THR i, 0, 0, 8⟩, ⟨F.HEALTH_THR_LEAK i, 8, 0, 5⟩]⟩]) ++
  [⟨0x420, false, false, false, []⟩]

/-- The registers of the FUSE page beyond the common layout of Table 0-4. -/
def regsFUSE : List Reg :=
  [⟨0x040, false, false, false, [⟨F.FUSE_FSTAT_MARGDIES, 0, 0, 8⟩, ⟨F.FUSE_FSTAT_DEFDIES, 8, 0, 8⟩]⟩,
   ⟨0x044, false, false, false, [⟨F.FUSE_FSEL_DIE, 0, 0, 3⟩, ⟨F.FUSE_FSEL_WORD, 8, 0, 8⟩]⟩,
   ⟨0x048, true, false, false, []⟩,
   ⟨0x04C, false, false, false, [⟨F.FUSE_FWSTAT_MARGBOOT, 0, 0, 1⟩, ⟨F.FUSE_FWSTAT_MARGNOW, 1, 0, 1⟩, ⟨F.FUSE_FWSTAT_COPY, 2, 0, 2⟩]⟩,
   ⟨0x050, false, false, false, []⟩,
   ⟨0x054, false, false, false, [⟨F.FUSE_FRES_STATUS, 0, 0, 8⟩]⟩,
   ⟨0x058, false, false, false, [⟨F.FUSE_FCNT_MARGWORDS, 0, 0, 16⟩, ⟨F.FUSE_FCNT_DEFGROUPS, 16, 0, 16⟩]⟩] ++
  ((List.range 24).flatMap fun i => [⟨(0x080 + 16 * (i / 3) + 4 * (i % 3)), false, false, false, []⟩]) ++
  [⟨0x400, false, false, false, []⟩]

/-- The registers of the SYS page beyond the common layout of Table 0-4. -/
def regsSYS : List Reg :=
  [⟨0x040, false, false, false, [⟨F.SYS_ACCADDR_ADDR, 0, 0, 32⟩]⟩,
   ⟨0x044, false, false, false, [⟨F.SYS_ACCINFO_CAUSE, 0, 0, 4⟩, ⟨F.SYS_ACCINFO_INIT, 4, 0, 3⟩, ⟨F.SYS_ACCINFO_WRITE, 7, 0, 1⟩, ⟨F.SYS_ACCINFO_SIZE, 8, 0, 2⟩]⟩,
   ⟨0x048, false, false, false, [⟨F.SYS_ACCCNT_COUNT, 0, 0, 16⟩]⟩,
   ⟨0x04C, false, true, false, [⟨F.SYS_SCRATCH_DATA, 0, 0, 32⟩]⟩,
   ⟨0x050, false, false, false, []⟩]

/-- The registers of the EVT page beyond the common layout of Table 0-4. -/
def regsEVT : List Reg :=
  [⟨0x040, false, false, false, [⟨F.EVT_RTSEL_SOURCE, 0, 0, 9⟩]⟩,
   ⟨0x044, true, false, false, []⟩,
   ⟨0x048, false, false, false, [⟨F.EVT_VECSTAT_SIG, 0, 0, 32⟩]⟩,
   ⟨0x04C, false, false, false, [⟨F.EVT_IRQMASK_EN, 0, 0, 32⟩]⟩,
   ⟨0x050, false, false, false, []⟩]

/-- The registers of the PCIE page beyond the common layout of Table 0-4. -/
def regsPCIE : List Reg :=
  [⟨0x040, false, false, false, [⟨F.PCIE_LNKSTAT_SPEED, 0, 0, 4⟩, ⟨F.PCIE_LNKSTAT_WIDTH, 4, 0, 4⟩, ⟨F.PCIE_LNKSTAT_PMSUB, 8, 0, 2⟩, ⟨F.PCIE_LNKSTAT_DSTATE, 10, 0, 2⟩, ⟨F.PCIE_LNKSTAT_MSIXEN, 12, 0, 1⟩]⟩,
   ⟨0x044, false, false, false, [⟨F.PCIE_WAKECFG_WAKEPIN, 0, 0, 1⟩]⟩,
   ⟨0x048, false, false, false, [⟨F.PCIE_ERRCNT_CORR, 0, 0, 16⟩, ⟨F.PCIE_ERRCNT_UNCORR, 16, 0, 16⟩]⟩,
   ⟨0x04C, false, false, false, [⟨F.PCIE_RSTCNT_RESETS, 0, 0, 16⟩, ⟨F.PCIE_RSTCNT_RECOV, 16, 0, 16⟩]⟩,
   ⟨0x050, false, false, false, []⟩]

/-- The registers of the QSPIT page beyond the common layout of Table 0-4. -/
def regsQSPIT : List Reg :=
  [⟨0x040, false, false, false, [⟨F.QSPIT_QCFG_DUMMY, 0, 0, 6⟩]⟩,
   ⟨0x044, false, false, false, [⟨F.QSPIT_QSTAT_LATE, 0, 0, 1⟩, ⟨F.QSPIT_QSTAT_WBUSY, 1, 0, 1⟩]⟩,
   ⟨0x048, false, false, false, [⟨F.QSPIT_LATEDATA_DATA, 0, 0, 32⟩]⟩,
   ⟨0x04C, false, false, false, [⟨F.QSPIT_LATEADDR_ADDR, 0, 0, 26⟩]⟩,
   ⟨0x050, false, false, false, [⟨F.QSPIT_QCNT_LATES, 0, 0, 16⟩, ⟨F.QSPIT_QCNT_SHORTS, 16, 0, 16⟩]⟩,
   ⟨0x054, false, false, false, []⟩]

/-- The registers of the XSPI page beyond the common layout of Table 0-4. -/
def regsXSPI : List Reg :=
  [⟨0x040, false, false, false, [⟨F.XSPI_XSTAT_OWNER, 0, 0, 2⟩, ⟨F.XSPI_XSTAT_OCTAL, 2, 0, 1⟩, ⟨F.XSPI_XSTAT_CLK, 8, 0, 8⟩]⟩,
   ⟨0x044, false, false, false, [⟨F.XSPI_XINFO_SIZE, 0, 0, 10⟩]⟩,
   ⟨0x048, false, false, false, [⟨F.XSPI_XCFG_MAXCLK, 0, 0, 8⟩, ⟨F.XSPI_XCFG_NOOCT, 8, 0, 1⟩]⟩,
   ⟨0x04C, false, false, false, [⟨F.XSPI_XERRS_TIMEOUTS, 0, 0, 16⟩, ⟨F.XSPI_XERRS_FAILS, 16, 0, 16⟩]⟩]

/-- The registers of the UART page beyond the common layout of Table 0-4. -/
def regsUART (u : Dual) : List Reg :=
  [⟨0x040, false, false, false, [⟨F.UART_UCFG_D7 u, 0, 0, 1⟩, ⟨F.UART_UCFG_PARITY u, 1, 0, 2⟩, ⟨F.UART_UCFG_STOP2 u, 3, 0, 1⟩, ⟨F.UART_UCFG_FLOW u, 4, 0, 1⟩]⟩,
   ⟨0x044, false, false, false, [⟨F.UART_BAUD_FRAC u, 0, 0, 8⟩, ⟨F.UART_BAUD_INT u, 8, 0, 20⟩]⟩,
   ⟨0x048, false, false, false, [⟨F.UART_RCDIV_FRAC u, 0, 0, 8⟩, ⟨F.UART_RCDIV_INT u, 8, 0, 12⟩]⟩,
   ⟨0x04C, false, false, false, [⟨F.UART_FLOWLVL_RTSOFF u, 0, 0, 8⟩, ⟨F.UART_FLOWLVL_RTSON u, 8, 0, 8⟩]⟩,
   ⟨0x050, false, false, false, [⟨F.UART_RTO_CHARS u, 0, 0, 8⟩]⟩,
   ⟨0x054, false, false, false, []⟩,
   ⟨0x058, true, false, false, []⟩,
   ⟨0x05C, false, false, false, []⟩] ++
  [⟨0x060, false, false, false, [⟨F.UART_BRKLEN_BITS u, 0, 0, 16⟩]⟩,
   ⟨0x064, false, false, false, [⟨F.UART_BRKRX_LEN u, 0, 0, 16⟩]⟩,
   ⟨0x068, false, false, false, [⟨F.UART_RXRING_BASE u, 8, 0, 16⟩, ⟨F.UART_RXRING_SIZE u, 24, 0, 4⟩, ⟨F.UART_RXRING_SLOT u, 28, 0, 2⟩, ⟨F.UART_RXRING_DMAEN u, 31, 0, 1⟩]⟩,
   ⟨0x06C, false, false, false, [⟨F.UART_RXWPTR_PTR u, 0, 0, 12⟩]⟩,
   ⟨0x070, false, false, false, [⟨F.UART_RXRPTR_PTR u, 0, 0, 12⟩]⟩,
   ⟨0x074, false, false, false, [⟨F.UART_UCNT_OVR u, 0, 0, 16⟩, ⟨F.UART_UCNT_ERR u, 16, 0, 16⟩]⟩,
   ⟨0x078, false, false, false, []⟩]

/-- The registers of the TWI page beyond the common layout of Table 0-4. -/
def regsTWI (u : Dual) : List Reg :=
  [⟨0x040, false, false, false, [⟨F.TWI_TCFG_SPEED u, 0, 0, 2⟩, ⟨F.TWI_TCFG_RETRY u, 8, 0, 8⟩, ⟨F.TWI_TCFG_STRTO u, 16, 0, 8⟩]⟩,
   ⟨0x044, false, false, false, [⟨F.TWI_TADDR_ADDR u, 0, 0, 7⟩]⟩,
   ⟨0x048, false, false, false, [⟨F.TWI_TLEN_WLEN u, 0, 0, 6⟩, ⟨F.TWI_TLEN_RLEN u, 8, 0, 6⟩]⟩,
   ⟨0x04C, true, false, false, []⟩,
   ⟨0x050, false, false, false, []⟩,
   ⟨0x054, false, false, false, [⟨F.TWI_TRES_STATUS u, 0, 0, 8⟩, ⟨F.TWI_TRES_ACKED u, 8, 0, 6⟩]⟩,
   ⟨0x058, false, false, false, [⟨F.TWI_TSTAT_BUS u, 0, 0, 2⟩, ⟨F.TWI_TSTAT_TRIES u, 8, 0, 8⟩]⟩,
   ⟨0x05C, false, false, false, [⟨F.TWI_TCNT_RECOV u, 0, 0, 16⟩, ⟨F.TWI_TCNT_NAKS u, 16, 0, 16⟩]⟩]

/-- The registers of the GPIO page beyond the common layout of Table 0-4. -/
def regsGPIO : List Reg :=
  [⟨0x040, false, false, false, [⟨F.GPIO_DIR_OUT, 0, 0, 32⟩]⟩,
   ⟨0x044, false, false, false, [⟨F.GPIO_DOUT_LEVEL, 0, 0, 32⟩]⟩,
   ⟨0x048, false, false, false, []⟩,
   ⟨0x04C, false, false, false, []⟩,
   ⟨0x050, false, false, false, []⟩,
   ⟨0x054, false, false, false, [⟨F.GPIO_ODRAIN_OD, 0, 0, 32⟩]⟩,
   ⟨0x058, false, false, false, [⟨F.GPIO_IMODEL_MODE, 0, 0, 32⟩]⟩,
   ⟨0x05C, false, false, false, [⟨F.GPIO_IMODEH_MODE, 0, 0, 32⟩]⟩] ++
  [⟨0x060, false, false, false, [⟨F.GPIO_ISTAT_EDGE, 0, 0, 32⟩]⟩,
   ⟨0x064, false, false, false, [⟨F.GPIO_ALT_IRQN, 0, 0, 1⟩]⟩]

end Sys2Proof.Machine
end

