-- ==== Sys2Proof/Machine/RegsLane.lean ====
section
/-!
DEFINITION. The stored register fields of the lane pages, one definition per field of the register tables of
the chapters (name PAGE_REGISTER_FIELD, BAR0 offset, bits, type, reset value, reserved encodings), and the list of the
registers of each page.  Registers that only show other state (Views.lean) have no field here; their list entry is empty.
-/
namespace Sys2Proof.Machine

namespace F

/-- TXP.TXCTL.PORTEN (R137, 04_transmit_glaze.md). -/
def TXP_TXCTL_PORTEN (n : Lane): Fld := ⟨n.base + 0x4000 + 0x040, 0, 3, .rw, 7, .any⟩
/-- TXP.TXCTL.G6BCAST (R137, 04_transmit_glaze.md). -/
def TXP_TXCTL_G6BCAST (n : Lane): Fld := ⟨n.base + 0x4000 + 0x040, 3, 1, .rw, 1, .any⟩
/-- TXP.TXCTL.G6PORT (R137, 04_transmit_glaze.md). -/
def TXP_TXCTL_G6PORT (n : Lane): Fld := ⟨n.base + 0x4000 + 0x040, 4, 2, .rw, 1, .range 1 3⟩
/-- TXP.CEIL.PSD (R137, 04_transmit_glaze.md). -/
def TXP_CEIL_PSD (n : Lane): Fld := ⟨n.base + 0x4000 + 0x044, 0, 8, .rw, 110, .range 100 170⟩
/-- TXP.CDD.DELAY (R137, 04_transmit_glaze.md). -/
def TXP_CDD_DELAY (n : Lane): Fld := ⟨n.base + 0x4000 + 0x048, 0, 9, .rw, 64, .any⟩
/-- TXP.TXDLY.PORT1 (R137, 04_transmit_glaze.md). -/
def TXP_TXDLY_PORT1 (n : Lane): Fld := ⟨n.base + 0x4000 + 0x04C, 0, 8, .rw, 0, .any⟩
/-- TXP.TXDLY.PORT2 (R137, 04_transmit_glaze.md). -/
def TXP_TXDLY_PORT2 (n : Lane): Fld := ⟨n.base + 0x4000 + 0x04C, 8, 8, .rw, 0, .any⟩
/-- TXP.TXDLY.PORT3 (R137, 04_transmit_glaze.md). -/
def TXP_TXDLY_PORT3 (n : Lane): Fld := ⟨n.base + 0x4000 + 0x04C, 16, 8, .rw, 0, .any⟩
/-- TXP.PGAIN.GAIN (R137, 04_transmit_glaze.md). -/
def TXP_PGAIN_GAIN (n : Lane) (i : Nat): Fld := ⟨n.base + 0x4000 + (0x050 + 4 * i), 0, 8, .rw, 0, .srange (-96) 24⟩
/-- TXP.PGAIN.EFF (R137, 04_transmit_glaze.md). -/
def TXP_PGAIN_EFF (n : Lane) (i : Nat): Fld := ⟨n.base + 0x4000 + (0x050 + 4 * i), 8, 8, .ro, 0, .any⟩
/-- TXP.PGAIN.DRVGAIN (R137, 04_transmit_glaze.md). -/
def TXP_PGAIN_DRVGAIN (n : Lane) (i : Nat): Fld := ⟨n.base + 0x4000 + (0x050 + 4 * i), 16, 12, .rw, 0, .srange (-400) 600⟩
/-- TXP.GXLATL.G0 to G7 (R137, 04_transmit_glaze.md). -/
def TXP_GXLATL_G0 (n : Lane) (i : Nat): Fld := ⟨n.base + 0x4000 + (0x060 + 8 * i), 0, 32, .rw, 1985229328, .any⟩
/-- TXP.GXLATH.G8 to G15 (R137, 04_transmit_glaze.md). -/
def TXP_GXLATH_G8 (n : Lane) (i : Nat): Fld := ⟨n.base + 0x4000 + (0x064 + 8 * i), 0, 32, .rw, 4275878552, .any⟩
/-- TXP.GLZVALID.VALID (R137, 04_transmit_glaze.md). -/
def TXP_GLZVALID_VALID (n : Lane): Fld := ⟨n.base + 0x4000 + 0x07C, 0, 16, .ro, 15, .any⟩
/-- TXP.FRAMES.COUNT (R137, 04_transmit_glaze.md). -/
def TXP_FRAMES_COUNT (n : Lane) (i : Nat): Fld := ⟨n.base + 0x4000 + (0x080 + 0x10 * i + 0x0), 0, 32, .ro, 0, .any⟩
/-- TXP.DROPCNT.DROPS (R137, 04_transmit_glaze.md). -/
def TXP_DROPCNT_DROPS (n : Lane) (i : Nat): Fld := ⟨n.base + 0x4000 + (0x080 + 0x10 * i + 0x4), 0, 16, .ro, 0, .any⟩
/-- TXP.DROPCNT.CLIPSYM (R137, 04_transmit_glaze.md). -/
def TXP_DROPCNT_CLIPSYM (n : Lane) (i : Nat): Fld := ⟨n.base + 0x4000 + (0x080 + 0x10 * i + 0x4), 16, 16, .ro, 0, .any⟩
/-- TXP.LASTDROP.CAUSE (R137, 04_transmit_glaze.md). -/
def TXP_LASTDROP_CAUSE (n : Lane) (i : Nat): Fld := ⟨n.base + 0x4000 + (0x080 + 0x10 * i + 0x8), 0, 3, .ro, 0, .any⟩
/-- TXP.GLZADDR.WORD (R137, 04_transmit_glaze.md). -/
def TXP_GLZADDR_WORD (n : Lane): Fld := ⟨n.base + 0x4000 + 0x400, 0, 10, .rw, 0, .range 0 824⟩
/-- TXP.GLZADDR.TABLE (R137, 04_transmit_glaze.md). -/
def TXP_GLZADDR_TABLE (n : Lane): Fld := ⟨n.base + 0x4000 + 0x400, 12, 4, .rw, 0, .any⟩
/-- TXP.GLZRES.STATUS (R137, 04_transmit_glaze.md). -/
def TXP_GLZRES_STATUS (n : Lane): Fld := ⟨n.base + 0x4000 + 0x40C, 0, 8, .ro, 0, .any⟩
/-- TXP.GLZRES.TABLE (R137, 04_transmit_glaze.md). -/
def TXP_GLZRES_TABLE (n : Lane): Fld := ⟨n.base + 0x4000 + 0x40C, 8, 4, .ro, 0, .any⟩
/-- TXP.WSADDR.WORD (R137, 04_transmit_glaze.md). -/
def TXP_WSADDR_WORD (n : Lane): Fld := ⟨n.base + 0x4000 + 0x410, 0, 9, .rw, 0, .range 0 297⟩
/-- TXP.WSADDR.SET (R137, 04_transmit_glaze.md). -/
def TXP_WSADDR_SET (n : Lane): Fld := ⟨n.base + 0x4000 + 0x410, 16, 8, .rw, 0, .any⟩
/-- TXP.WSRES.STATUS (R137, 04_transmit_glaze.md). -/
def TXP_WSRES_STATUS (n : Lane): Fld := ⟨n.base + 0x4000 + 0x41C, 0, 8, .ro, 0, .any⟩
/-- TXP.WCLAMP.COUNT (R137, 04_transmit_glaze.md). -/
def TXP_WCLAMP_COUNT (n : Lane): Fld := ⟨n.base + 0x4000 + 0x420, 0, 32, .ro, 0, .any⟩
/-- AFE.DRVCFG.MODE1 to MODE3 (R161, 05_line_front_end.md). -/
def AFE_DRVCFG_MODE (n : Lane) (k : Nat) : Fld := ⟨n.base + 0x1000 + 0x040, 0 + 2 * k, 2, .rw, 0, .range 0 2⟩
/-- AFE.DRVCFG.FLTPOL (R161, 05_line_front_end.md). -/
def AFE_DRVCFG_FLTPOL (n : Lane): Fld := ⟨n.base + 0x1000 + 0x040, 8, 1, .rw, 0, .any⟩
/-- AFE.DRVTIM.LEAD (R161, 05_line_front_end.md). -/
def AFE_DRVTIM_LEAD (n : Lane): Fld := ⟨n.base + 0x1000 + 0x044, 0, 8, .rw, 20, .any⟩
/-- AFE.DRVTIM.LAG (R161, 05_line_front_end.md). -/
def AFE_DRVTIM_LAG (n : Lane): Fld := ⟨n.base + 0x1000 + 0x044, 8, 8, .rw, 10, .any⟩
/-- AFE.DRVTIM.FLTHOLD (R161, 05_line_front_end.md). -/
def AFE_DRVTIM_FLTHOLD (n : Lane): Fld := ⟨n.base + 0x1000 + 0x044, 16, 8, .rw, 10, .range 1 255⟩
/-- AFE.DRVSTAT.DRVEN (R161, 05_line_front_end.md). -/
def AFE_DRVSTAT_DRVEN (n : Lane): Fld := ⟨n.base + 0x1000 + 0x048, 0, 3, .ro, 0, .any⟩
/-- AFE.DRVSTAT.FLT (R161, 05_line_front_end.md). -/
def AFE_DRVSTAT_FLT (n : Lane): Fld := ⟨n.base + 0x1000 + 0x048, 4, 3, .ro, 0, .any⟩
/-- AFE.DRVSTAT.HELD (R161, 05_line_front_end.md). -/
def AFE_DRVSTAT_HELD (n : Lane): Fld := ⟨n.base + 0x1000 + 0x048, 8, 3, .ro, 0, .any⟩
/-- AFE.RXCFG.INEN (R161, 05_line_front_end.md). -/
def AFE_RXCFG_INEN (n : Lane): Fld := ⟨n.base + 0x1000 + 0x04C, 0, 4, .rw, 15, .any⟩
/-- AFE.RXCFG.TERM1 to TERM4 (R161, 05_line_front_end.md). -/
def AFE_RXCFG_TERM (n : Lane) (k : Nat) : Fld := ⟨n.base + 0x1000 + 0x04C, 8 + 2 * k, 2, .rw, 0, .any⟩
/-- AFE.UGAIN.GAIN (R161, 05_line_front_end.md). -/
def AFE_UGAIN_GAIN (n : Lane) (i : Nat): Fld := ⟨n.base + 0x1000 + (0x050 + 4 * i), 0, 12, .rw, 0, .srange (-1200) 1200⟩
/-- AFE.PGA.CODE (R161, 05_line_front_end.md). -/
def AFE_PGA_CODE (n : Lane) (i : Nat): Fld := ⟨n.base + 0x1000 + (0x070 + 4 * i), 0, 7, .ro, 0, .any⟩
/-- AFE.CLIPSAMP.COUNT (R161, 05_line_front_end.md). -/
def AFE_CLIPSAMP_COUNT (n : Lane) (i : Nat): Fld := ⟨n.base + 0x1000 + (0x080 + 8 * i), 0, 32, .ro, 0, .any⟩
/-- AFE.OVLSTK.OVLCNT (R161, 05_line_front_end.md). -/
def AFE_OVLSTK_OVLCNT (n : Lane) (i : Nat): Fld := ⟨n.base + 0x1000 + (0x084 + 8 * i), 0, 16, .ro, 0, .any⟩
/-- AFE.OVLSTK.STUCK (R161, 05_line_front_end.md). -/
def AFE_OVLSTK_STUCK (n : Lane) (i : Nat): Fld := ⟨n.base + 0x1000 + (0x084 + 8 * i), 16, 16, .ro, 0, .any⟩
/-- AFE.FLTCNT.PORT1 to PORT3 (R161, 05_line_front_end.md). -/
def AFE_FLTCNT_PORT (n : Lane) (k : Nat) : Fld := ⟨n.base + 0x1000 + 0x0A0, 0 + 8 * k, 8, .ro, 0, .any⟩
/-- AFE.CALSTAT.CALOK (R161, 05_line_front_end.md). -/
def AFE_CALSTAT_CALOK (n : Lane): Fld := ⟨n.base + 0x1000 + 0x0A4, 0, 4, .ro, 0, .any⟩
/-- AFE.CALRES.STATUS (R161, 05_line_front_end.md). -/
def AFE_CALRES_STATUS (n : Lane): Fld := ⟨n.base + 0x1000 + 0x404, 0, 8, .ro, 0, .any⟩
/-- AFE.OVLCFG.CLIPS (R161, 05_line_front_end.md). -/
def AFE_OVLCFG_CLIPS (n : Lane): Fld := ⟨n.base + 0x1000 + 0x408, 0, 8, .rw, 16, .range 1 255⟩
/-- AFE.OVLCFG.STUCKMS (R161, 05_line_front_end.md). -/
def AFE_OVLCFG_STUCKMS (n : Lane): Fld := ⟨n.base + 0x1000 + 0x408, 8, 8, .rw, 10, .range 1 255⟩
/-- ECHO.ECTL.EN (R162, 05_line_front_end.md). -/
def ECHO_ECTL_EN (n : Lane): Fld := ⟨n.base + 0x3000 + 0x040, 0, 1, .rw, 1, .any⟩
/-- ECHO.ECTL.FDEN (R162, 05_line_front_end.md). -/
def ECHO_ECTL_FDEN (n : Lane): Fld := ⟨n.base + 0x3000 + 0x040, 1, 1, .rw, 1, .any⟩
/-- ECHO.ECTL.MONEN (R162, 05_line_front_end.md). -/
def ECHO_ECTL_MONEN (n : Lane): Fld := ⟨n.base + 0x3000 + 0x040, 2, 1, .rw, 1, .any⟩
/-- ECHO.ESTAT.STATE (R162, 05_line_front_end.md). -/
def ECHO_ESTAT_STATE (n : Lane): Fld := ⟨n.base + 0x3000 + 0x044, 0, 3, .ro, 0, .any⟩
/-- ECHO.ESTAT.FDOK (R162, 05_line_front_end.md). -/
def ECHO_ESTAT_FDOK (n : Lane): Fld := ⟨n.base + 0x3000 + 0x044, 3, 1, .ro, 0, .any⟩
/-- ECHO.ESTAT.REPON (R162, 05_line_front_end.md). -/
def ECHO_ESTAT_REPON (n : Lane): Fld := ⟨n.base + 0x3000 + 0x044, 4, 1, .ro, 0, .any⟩
/-- ECHO.ESTAT.DIGON (R162, 05_line_front_end.md). -/
def ECHO_ESTAT_DIGON (n : Lane): Fld := ⟨n.base + 0x3000 + 0x044, 5, 1, .ro, 0, .any⟩
/-- ECHO.ESTAT.PASS (R162, 05_line_front_end.md). -/
def ECHO_ESTAT_PASS (n : Lane): Fld := ⟨n.base + 0x3000 + 0x044, 6, 2, .ro, 0, .any⟩
/-- ECHO.ESTAT.INOK (R162, 05_line_front_end.md). -/
def ECHO_ESTAT_INOK (n : Lane): Fld := ⟨n.base + 0x3000 + 0x044, 8, 4, .ro, 0, .any⟩
/-- ECHO.ESTAT.AGE (R162, 05_line_front_end.md). -/
def ECHO_ESTAT_AGE (n : Lane): Fld := ⟨n.base + 0x3000 + 0x044, 12, 20, .ro, 0, .any⟩
/-- ECHO.ECFG.FDMIN (R162, 05_line_front_end.md). -/
def ECHO_ECFG_FDMIN (n : Lane): Fld := ⟨n.base + 0x3000 + 0x048, 0, 8, .rw, 80, .range 40 120⟩
/-- ECHO.ECFG.TREP (R162, 05_line_front_end.md). -/
def ECHO_ECFG_TREP (n : Lane): Fld := ⟨n.base + 0x3000 + 0x048, 8, 4, .rw, 2, .range 2 10⟩
/-- ECHO.ECFG.TRAINIV (R162, 05_line_front_end.md). -/
def ECHO_ECFG_TRAINIV (n : Lane): Fld := ⟨n.base + 0x3000 + 0x048, 16, 8, .rw, 16, .range 1 255⟩
/-- ECHO.ECFG.AGEMAX (R162, 05_line_front_end.md). -/
def ECHO_ECFG_AGEMAX (n : Lane): Fld := ⟨n.base + 0x3000 + 0x048, 24, 8, .rw, 64, .range 1 255⟩
/-- ECHO.ERL.HYB (R162, 05_line_front_end.md). -/
def ECHO_ERL_HYB (n : Lane) (i : Nat): Fld := ⟨n.base + 0x3000 + (0x050 + 4 * i), 0, 8, .ro, 0, .any⟩
/-- ECHO.ERL.REP (R162, 05_line_front_end.md). -/
def ECHO_ERL_REP (n : Lane) (i : Nat): Fld := ⟨n.base + 0x3000 + (0x050 + 4 * i), 8, 8, .ro, 0, .any⟩
/-- ECHO.ERL.DIG (R162, 05_line_front_end.md). -/
def ECHO_ERL_DIG (n : Lane) (i : Nat): Fld := ⟨n.base + 0x3000 + (0x050 + 4 * i), 16, 8, .ro, 0, .any⟩
/-- ECHO.ERL.RESN (R162, 05_line_front_end.md). -/
def ECHO_ERL_RESN (n : Lane) (i : Nat): Fld := ⟨n.base + 0x3000 + (0x050 + 4 * i), 24, 8, .ro, 0, .any⟩
/-- ECHO.COUNTS.PASSES (R162, 05_line_front_end.md). -/
def ECHO_COUNTS_PASSES (n : Lane): Fld := ⟨n.base + 0x3000 + 0x060, 0, 16, .ro, 0, .any⟩
/-- ECHO.COUNTS.TRNFAIL (R162, 05_line_front_end.md). -/
def ECHO_COUNTS_TRNFAIL (n : Lane): Fld := ⟨n.base + 0x3000 + 0x060, 16, 16, .ro, 0, .any⟩
/-- ECHO.COUNTS2.DIVERGE (R162, 05_line_front_end.md). -/
def ECHO_COUNTS2_DIVERGE (n : Lane): Fld := ⟨n.base + 0x3000 + 0x064, 0, 16, .ro, 0, .any⟩
/-- ECHO.COUNTS2.TRNSKIP (R162, 05_line_front_end.md). -/
def ECHO_COUNTS2_TRNSKIP (n : Lane): Fld := ⟨n.base + 0x3000 + 0x064, 16, 16, .ro, 0, .any⟩
/-- ECHO.COUNTS3.PARTIAL (R162, 05_line_front_end.md). -/
def ECHO_COUNTS3_PARTIAL (n : Lane): Fld := ⟨n.base + 0x3000 + 0x068, 0, 16, .ro, 0, .any⟩
/-- ECHO.COUNTS3.WITHDRAW (R162, 05_line_front_end.md). -/
def ECHO_COUNTS3_WITHDRAW (n : Lane): Fld := ⟨n.base + 0x3000 + 0x068, 16, 16, .ro, 0, .any⟩
/-- ECHO.MON.DIVTHR (R162, 05_line_front_end.md). -/
def ECHO_MON_DIVTHR (n : Lane): Fld := ⟨n.base + 0x3000 + 0x400, 0, 8, .rw, 12, .range 2 80⟩
/-- ECHO.MON.DIVCNT (R162, 05_line_front_end.md). -/
def ECHO_MON_DIVCNT (n : Lane): Fld := ⟨n.base + 0x3000 + 0x400, 8, 4, .rw, 3, .range 1 15⟩
/-- ECHO.MON.MONSYM (R162, 05_line_front_end.md). -/
def ECHO_MON_MONSYM (n : Lane): Fld := ⟨n.base + 0x3000 + 0x400, 12, 4, .rw, 8, .range 1 15⟩
/-- ECHO.MON.RESNMAX (R162, 05_line_front_end.md). -/
def ECHO_MON_RESNMAX (n : Lane): Fld := ⟨n.base + 0x3000 + 0x400, 16, 8, .rw, 3, .range 0 20⟩
/-- ECHO.TGAIN.CODE (R162, 05_line_front_end.md). -/
def ECHO_TGAIN_CODE (n : Lane): Fld := ⟨n.base + 0x3000 + 0x404, 0, 7, .rw, 12, .any⟩
/-- ECHO.TGAIN.TGEFF (R162, 05_line_front_end.md). -/
def ECHO_TGAIN_TGEFF (n : Lane): Fld := ⟨n.base + 0x3000 + 0x404, 8, 7, .ro, 12, .any⟩
/-- ECHO.RDLY.D1 to D4 (R162, 05_line_front_end.md). -/
def ECHO_RDLY_D (n : Lane) (k : Nat) : Fld := ⟨n.base + 0x3000 + 0x408, 0 + 8 * k, 8, .ro, 0, .any⟩
/-- ECHO.EOVR.NOREP (R162, 05_line_front_end.md). -/
def ECHO_EOVR_NOREP (n : Lane): Fld := ⟨n.base + 0x3000 + 0x40C, 0, 1, .rw, 0, .any⟩
/-- ECHO.EOVR.NODIG (R162, 05_line_front_end.md). -/
def ECHO_EOVR_NODIG (n : Lane): Fld := ⟨n.base + 0x3000 + 0x40C, 1, 1, .rw, 0, .any⟩
/-- ECHO.EOVR.FDFORCE (R162, 05_line_front_end.md). -/
def ECHO_EOVR_FDFORCE (n : Lane): Fld := ⟨n.base + 0x3000 + 0x40C, 2, 1, .rw, 0, .any⟩
/-- ECHO.EOVR.HOLD (R162, 05_line_front_end.md). -/
def ECHO_EOVR_HOLD (n : Lane): Fld := ⟨n.base + 0x3000 + 0x40C, 3, 1, .rw, 0, .any⟩
/-- ECHO.MADDR.WORD (R162, 05_line_front_end.md). -/
def ECHO_MADDR_WORD (n : Lane): Fld := ⟨n.base + 0x3000 + 0x410, 0, 16, .rw, 0, .maddr⟩
/-- ECHO.MADDR.MAT (R162, 05_line_front_end.md). -/
def ECHO_MADDR_MAT (n : Lane): Fld := ⟨n.base + 0x3000 + 0x410, 16, 1, .rw, 0, .any⟩
/-- ECHO.MADDR.BANK (R162, 05_line_front_end.md). -/
def ECHO_MADDR_BANK (n : Lane): Fld := ⟨n.base + 0x3000 + 0x410, 17, 1, .rw, 0, .any⟩
/-- AGC.AGCCFG.TARGET (R197, 06_receive_path.md). -/
def AGC_AGCCFG_TARGET (n : Lane): Fld := ⟨n.base + 0x2000 + 0x040, 0, 8, .rw, 28, .range 12 60⟩
/-- AGC.AGCCFG.LOOPEN (R197, 06_receive_path.md). -/
def AGC_AGCCFG_LOOPEN (n : Lane): Fld := ⟨n.base + 0x2000 + 0x040, 8, 1, .rw, 1, .any⟩
/-- AGC.AGCCFG.LEARN (R197, 06_receive_path.md). -/
def AGC_AGCCFG_LEARN (n : Lane): Fld := ⟨n.base + 0x2000 + 0x040, 9, 1, .rw, 1, .any⟩
/-- AGC.AGCFIX.CODE (R197, 06_receive_path.md). -/
def AGC_AGCFIX_CODE (n : Lane): Fld := ⟨n.base + 0x2000 + 0x044, 0, 7, .rw, 12, .range 0 96⟩
/-- AGC.COUNTS.FREEZES (R197, 06_receive_path.md). -/
def AGC_COUNTS_FREEZES (n : Lane): Fld := ⟨n.base + 0x2000 + 0x048, 0, 16, .ro, 0, .any⟩
/-- AGC.COUNTS.DEFER (R197, 06_receive_path.md). -/
def AGC_COUNTS_DEFER (n : Lane): Fld := ⟨n.base + 0x2000 + 0x048, 16, 16, .ro, 0, .any⟩
/-- AGC.RAILCNT.RAIL (R197, 06_receive_path.md). -/
def AGC_RAILCNT_RAIL (n : Lane): Fld := ⟨n.base + 0x2000 + 0x04C, 0, 16, .ro, 0, .any⟩
/-- AGC.LOOPK.ATTACK (R197, 06_receive_path.md). -/
def AGC_LOOPK_ATTACK (n : Lane): Fld := ⟨n.base + 0x2000 + 0x400, 0, 5, .rw, 12, .range 1 24⟩
/-- AGC.LOOPK.DECAY (R197, 06_receive_path.md). -/
def AGC_LOOPK_DECAY (n : Lane): Fld := ⟨n.base + 0x2000 + 0x400, 8, 6, .rw, 5, .range 1 50⟩
/-- AGC.LOOPK.WIN (R197, 06_receive_path.md). -/
def AGC_LOOPK_WIN (n : Lane): Fld := ⟨n.base + 0x2000 + 0x400, 16, 4, .rw, 6, .range 5 9⟩
/-- AGC.LOOPK.MUSET (R197, 06_receive_path.md). -/
def AGC_LOOPK_MUSET (n : Lane): Fld := ⟨n.base + 0x2000 + 0x400, 20, 4, .rw, 8, .range 4 15⟩
/-- AGC.STADDR.FACET (R197, 06_receive_path.md). -/
def AGC_STADDR_FACET (n : Lane): Fld := ⟨n.base + 0x2000 + 0x404, 0, 7, .rw, 0, .range 0 95⟩
/-- RXP.RXCTL.EN (R198, 06_receive_path.md). -/
def RXP_RXCTL_EN (n : Lane): Fld := ⟨n.base + 0x5000 + 0x040, 0, 1, .rw, 1, .any⟩
/-- RXP.RXCTL.COMB (R198, 06_receive_path.md). -/
def RXP_RXCTL_COMB (n : Lane): Fld := ⟨n.base + 0x5000 + 0x040, 1, 2, .rw, 0, .range 0 2⟩
/-- RXP.RXCTL.FIXIN (R198, 06_receive_path.md). -/
def RXP_RXCTL_FIXIN (n : Lane): Fld := ⟨n.base + 0x5000 + 0x040, 4, 2, .rw, 0, .any⟩
/-- RXP.RXDLY.DELAY (R198, 06_receive_path.md). -/
def RXP_RXDLY_DELAY (n : Lane): Fld := ⟨n.base + 0x5000 + 0x044, 0, 8, .rw, 0, .any⟩
/-- RXP.DETCFG.THR (R198, 06_receive_path.md). -/
def RXP_DETCFG_THR (n : Lane): Fld := ⟨n.base + 0x5000 + 0x048, 0, 8, .rw, 96, .range 32 240⟩
/-- RXP.TACFG.TAK (R198, 06_receive_path.md). -/
def RXP_TACFG_TAK (n : Lane): Fld := ⟨n.base + 0x5000 + 0x04C, 0, 3, .rw, 1, .range 0 4⟩
/-- RXP.TACFG.DEADB (R198, 06_receive_path.md). -/
def RXP_TACFG_DEADB (n : Lane): Fld := ⟨n.base + 0x5000 + 0x04C, 8, 8, .rw, 2, .any⟩
/-- RXP.TACFG.TAMISS (R198, 06_receive_path.md). -/
def RXP_TACFG_TAMISS (n : Lane): Fld := ⟨n.base + 0x5000 + 0x04C, 16, 4, .rw, 3, .range 1 15⟩
/-- RXP.CONECFG.CONEK (R198, 06_receive_path.md). -/
def RXP_CONECFG_CONEK (n : Lane): Fld := ⟨n.base + 0x5000 + 0x050, 0, 3, .rw, 3, .range 0 6⟩
/-- RXP.CONECFG.LOWTHR (R198, 06_receive_path.md). -/
def RXP_CONECFG_LOWTHR (n : Lane): Fld := ⟨n.base + 0x5000 + 0x050, 8, 6, .rw, 16, .any⟩
/-- RXP.LASTID.STID (R198, 06_receive_path.md). -/
def RXP_LASTID_STID (n : Lane): Fld := ⟨n.base + 0x5000 + 0x054, 0, 14, .ro, 0, .any⟩
/-- RXP.LASTID.CONE (R198, 06_receive_path.md). -/
def RXP_LASTID_CONE (n : Lane): Fld := ⟨n.base + 0x5000 + 0x054, 14, 6, .ro, 0, .any⟩
/-- RXP.LASTOFS.FOFS (R198, 06_receive_path.md). -/
def RXP_LASTOFS_FOFS (n : Lane): Fld := ⟨n.base + 0x5000 + 0x058, 0, 16, .ro, 0, .any⟩
/-- RXP.LASTOFS.PPM (R198, 06_receive_path.md). -/
def RXP_LASTOFS_PPM (n : Lane): Fld := ⟨n.base + 0x5000 + 0x058, 16, 16, .ro, 0, .any⟩
/-- RXP.LASTTIM.EVM (R198, 06_receive_path.md). -/
def RXP_LASTTIM_EVM (n : Lane): Fld := ⟨n.base + 0x5000 + 0x05C, 0, 16, .ro, 0, .any⟩
/-- RXP.LASTTIM.DELTA (R198, 06_receive_path.md). -/
def RXP_LASTTIM_DELTA (n : Lane): Fld := ⟨n.base + 0x5000 + 0x05C, 16, 12, .ro, 0, .any⟩
/-- RXP.LASTTIM.DSRC (R198, 06_receive_path.md). -/
def RXP_LASTTIM_DSRC (n : Lane): Fld := ⟨n.base + 0x5000 + 0x05C, 28, 2, .ro, 0, .any⟩
/-- RXP.LOWSLOT.CONE (R198, 06_receive_path.md). -/
def RXP_LOWSLOT_CONE (n : Lane): Fld := ⟨n.base + 0x5000 + 0x060, 0, 14, .ro, 0, .any⟩
/-- RXP.LOWSLOT.TA (R198, 06_receive_path.md). -/
def RXP_LOWSLOT_TA (n : Lane): Fld := ⟨n.base + 0x5000 + 0x060, 16, 14, .ro, 0, .any⟩
/-- RXP.DETECT.COUNT (R198, 06_receive_path.md). -/
def RXP_DETECT_COUNT (n : Lane): Fld := ⟨n.base + 0x5000 + 0x070, 0, 32, .ro, 0, .any⟩
/-- RXP.ERR1.FCERR (R198, 06_receive_path.md). -/
def RXP_ERR1_FCERR (n : Lane): Fld := ⟨n.base + 0x5000 + 0x074, 0, 16, .ro, 0, .any⟩
/-- RXP.ERR1.FMTERR (R198, 06_receive_path.md). -/
def RXP_ERR1_FMTERR (n : Lane): Fld := ⟨n.base + 0x5000 + 0x074, 16, 16, .ro, 0, .any⟩
/-- RXP.ERR2.FOREIGN (R198, 06_receive_path.md). -/
def RXP_ERR2_FOREIGN (n : Lane): Fld := ⟨n.base + 0x5000 + 0x078, 0, 16, .ro, 0, .any⟩
/-- RXP.ERR2.EPMIS (R198, 06_receive_path.md). -/
def RXP_ERR2_EPMIS (n : Lane): Fld := ⟨n.base + 0x5000 + 0x078, 16, 16, .ro, 0, .any⟩
/-- RXP.ERR3.LATEDET (R198, 06_receive_path.md). -/
def RXP_ERR3_LATEDET (n : Lane): Fld := ⟨n.base + 0x5000 + 0x07C, 0, 16, .ro, 0, .any⟩
/-- RXP.ERR3.ACKMISS (R198, 06_receive_path.md). -/
def RXP_ERR3_ACKMISS (n : Lane): Fld := ⟨n.base + 0x5000 + 0x07C, 16, 16, .ro, 0, .any⟩
/-- RXP.MU1.MUUSERS (R198, 06_receive_path.md). -/
def RXP_MU1_MUUSERS (n : Lane): Fld := ⟨n.base + 0x5000 + 0x080, 0, 16, .ro, 0, .any⟩
/-- RXP.MU1.MUABS (R198, 06_receive_path.md). -/
def RXP_MU1_MUABS (n : Lane): Fld := ⟨n.base + 0x5000 + 0x080, 16, 16, .ro, 0, .any⟩
/-- RXP.MU2.MUMISAL (R198, 06_receive_path.md). -/
def RXP_MU2_MUMISAL (n : Lane): Fld := ⟨n.base + 0x5000 + 0x084, 0, 16, .ro, 0, .any⟩
/-- RXP.MU2.MISSES (R198, 06_receive_path.md). -/
def RXP_MU2_MISSES (n : Lane): Fld := ⟨n.base + 0x5000 + 0x084, 16, 16, .ro, 0, .any⟩
/-- RXP.LOSS.OVLEXCL (R198, 06_receive_path.md). -/
def RXP_LOSS_OVLEXCL (n : Lane): Fld := ⟨n.base + 0x5000 + 0x088, 0, 16, .ro, 0, .any⟩
/-- RXP.LOSS.STAGEOVF (R198, 06_receive_path.md). -/
def RXP_LOSS_STAGEOVF (n : Lane): Fld := ⟨n.base + 0x5000 + 0x088, 16, 16, .ro, 0, .any⟩
/-- RXP.WINPOS.SU (R198, 06_receive_path.md). -/
def RXP_WINPOS_SU (n : Lane): Fld := ⟨n.base + 0x5000 + 0x400, 0, 3, .rw, 6, .any⟩
/-- RXP.MUCFG.UPDET (R198, 06_receive_path.md). -/
def RXP_MUCFG_UPDET (n : Lane): Fld := ⟨n.base + 0x5000 + 0x404, 0, 8, .rw, 12, .range 4 40⟩
/-- RXP.DETOVR.NOSEARCH (R198, 06_receive_path.md). -/
def RXP_DETOVR_NOSEARCH (n : Lane): Fld := ⟨n.base + 0x5000 + 0x408, 0, 1, .rw, 0, .any⟩
/-- SPY.SPCFG.SRC (R199, 06_receive_path.md). -/
def SPY_SPCFG_SRC (n : Lane): Fld := ⟨n.base + 0xc000 + 0x040, 0, 3, .rw, 0, .range 0 4⟩
/-- SPY.SPCFG.INPUT (R199, 06_receive_path.md). -/
def SPY_SPCFG_INPUT (n : Lane): Fld := ⟨n.base + 0xc000 + 0x040, 3, 2, .rw, 0, .any⟩
/-- SPY.SPCFG.DEC (R199, 06_receive_path.md). -/
def SPY_SPCFG_DEC (n : Lane): Fld := ⟨n.base + 0xc000 + 0x040, 5, 3, .rw, 0, .range 0 4⟩
/-- SPY.SPCFG.WRAP (R199, 06_receive_path.md). -/
def SPY_SPCFG_WRAP (n : Lane): Fld := ⟨n.base + 0xc000 + 0x040, 8, 1, .rw, 0, .any⟩
/-- SPY.SPCFG.PRETRIG (R199, 06_receive_path.md). -/
def SPY_SPCFG_PRETRIG (n : Lane): Fld := ⟨n.base + 0xc000 + 0x040, 12, 4, .rw, 0, .any⟩
/-- SPY.SPCFG.SHERD0 (R199, 06_receive_path.md). -/
def SPY_SPCFG_SHERD0 (n : Lane): Fld := ⟨n.base + 0xc000 + 0x040, 16, 7, .rw, 0, .range 0 98⟩
/-- SPY.SPCFG.SHERDN (R199, 06_receive_path.md). -/
def SPY_SPCFG_SHERDN (n : Lane): Fld := ⟨n.base + 0xc000 + 0x040, 23, 7, .rw, 0, .any⟩
/-- SPY.SPTRIG.TRIG (R199, 06_receive_path.md). -/
def SPY_SPTRIG_TRIG (n : Lane): Fld := ⟨n.base + 0xc000 + 0x044, 0, 3, .rw, 0, .range 0 3⟩
/-- SPY.SPTRIG.FACET (R199, 06_receive_path.md). -/
def SPY_SPTRIG_FACET (n : Lane): Fld := ⟨n.base + 0xc000 + 0x044, 8, 7, .rw, 0, .any⟩
/-- SPY.SPTRIG.TURN (R199, 06_receive_path.md). -/
def SPY_SPTRIG_TURN (n : Lane): Fld := ⟨n.base + 0xc000 + 0x044, 16, 8, .rw, 0, .any⟩
/-- SPY.SPTRIG.ANYTURN (R199, 06_receive_path.md). -/
def SPY_SPTRIG_ANYTURN (n : Lane): Fld := ⟨n.base + 0xc000 + 0x044, 24, 1, .rw, 0, .any⟩
/-- SPY.SPLEN.RECORDS (R199, 06_receive_path.md). -/
def SPY_SPLEN_RECORDS (n : Lane): Fld := ⟨n.base + 0xc000 + 0x048, 0, 32, .rw, 0, .any⟩
/-- SPY.SPDEST.BASE (R199, 06_receive_path.md). -/
def SPY_SPDEST_BASE (n : Lane): Fld := ⟨n.base + 0xc000 + 0x04C, 12, 12, .rw, 0, .any⟩
/-- SPY.SPDEST.SIZE (R199, 06_receive_path.md). -/
def SPY_SPDEST_SIZE (n : Lane): Fld := ⟨n.base + 0xc000 + 0x04C, 24, 5, .rw, 12, .range 12 20⟩
/-- SPY.SPWPTR.PTR (R199, 06_receive_path.md). -/
def SPY_SPWPTR_PTR (n : Lane): Fld := ⟨n.base + 0xc000 + 0x054, 0, 12, .ro, 0, .any⟩
/-- SPY.SPRPTR.PTR (R199, 06_receive_path.md). -/
def SPY_SPRPTR_PTR (n : Lane): Fld := ⟨n.base + 0xc000 + 0x058, 0, 12, .rw, 0, .any⟩
/-- SPY.SPCOUNT.COUNT (R199, 06_receive_path.md). -/
def SPY_SPCOUNT_COUNT (n : Lane): Fld := ⟨n.base + 0xc000 + 0x05C, 0, 32, .ro, 0, .any⟩
/-- DEC.DECCTL.ACTMAX (R223, 07_coding_resend.md). -/
def DEC_DECCTL_ACTMAX (n : Lane): Fld := ⟨n.base + 0x6000 + 0x040, 0, 3, .rw, 6, .range 1 6⟩
/-- DEC.ENGSTAT.ACTIVE (R223, 07_coding_resend.md). -/
def DEC_ENGSTAT_ACTIVE (n : Lane): Fld := ⟨n.base + 0x6000 + 0x044, 0, 7, .ro, 63, .any⟩
/-- DEC.ENGSTAT.RESERVE (R223, 07_coding_resend.md). -/
def DEC_ENGSTAT_RESERVE (n : Lane): Fld := ⟨n.base + 0x6000 + 0x044, 8, 7, .ro, 64, .any⟩
/-- DEC.ENGSTAT.RETIRED (R223, 07_coding_resend.md). -/
def DEC_ENGSTAT_RETIRED (n : Lane): Fld := ⟨n.base + 0x6000 + 0x044, 16, 7, .ro, 0, .any⟩
/-- DEC.BLOCKS.COUNT (R223, 07_coding_resend.md). -/
def DEC_BLOCKS_COUNT (n : Lane): Fld := ⟨n.base + 0x6000 + 0x048, 0, 32, .ro, 0, .any⟩
/-- DEC.CRCFAIL.COUNT (R223, 07_coding_resend.md). -/
def DEC_CRCFAIL_COUNT (n : Lane): Fld := ⟨n.base + 0x6000 + 0x04C, 0, 32, .ro, 0, .any⟩
/-- DEC.ERRS.LATE (R223, 07_coding_resend.md). -/
def DEC_ERRS_LATE (n : Lane): Fld := ⟨n.base + 0x6000 + 0x050, 0, 16, .ro, 0, .any⟩
/-- DEC.ERRS.FMTBLK (R223, 07_coding_resend.md). -/
def DEC_ERRS_FMTBLK (n : Lane): Fld := ⟨n.base + 0x6000 + 0x050, 16, 16, .ro, 0, .any⟩
/-- DEC.MISC.QOVF (R223, 07_coding_resend.md). -/
def DEC_MISC_QOVF (n : Lane): Fld := ⟨n.base + 0x6000 + 0x054, 0, 16, .ro, 0, .any⟩
/-- DEC.MISC.STFAIL (R223, 07_coding_resend.md). -/
def DEC_MISC_STFAIL (n : Lane): Fld := ⟨n.base + 0x6000 + 0x054, 16, 16, .ro, 0, .any⟩
/-- DEC.LLRCFG.SCALE1 (R223, 07_coding_resend.md). -/
def DEC_LLRCFG_SCALE1 (n : Lane): Fld := ⟨n.base + 0x6000 + 0x400, 0, 8, .rw, 32, .range 1 255⟩
/-- DEC.LLRCFG.SCALE4 (R223, 07_coding_resend.md). -/
def DEC_LLRCFG_SCALE4 (n : Lane): Fld := ⟨n.base + 0x6000 + 0x400, 8, 8, .rw, 12, .range 1 255⟩
/-- DEC.LLRCFG.SCALE6 (R223, 07_coding_resend.md). -/
def DEC_LLRCFG_SCALE6 (n : Lane): Fld := ⟨n.base + 0x6000 + 0x400, 16, 8, .rw, 8, .range 1 255⟩
/-- DEC.STCFG.IVAL (R223, 07_coding_resend.md). -/
def DEC_STCFG_IVAL (n : Lane): Fld := ⟨n.base + 0x6000 + 0x404, 0, 8, .rw, 10, .range 1 255⟩
/-- DEC.STCFG.STEN (R223, 07_coding_resend.md). -/
def DEC_STCFG_STEN (n : Lane): Fld := ⟨n.base + 0x6000 + 0x404, 8, 1, .rw, 1, .any⟩
/-- SLIP.SLCFG.EN (R224, 07_coding_resend.md). -/
def SLIP_SLCFG_EN (n : Lane): Fld := ⟨n.base + 0x7000 + 0x040, 0, 1, .rw, 1, .any⟩
/-- SLIP.SLCFG.AGE (R224, 07_coding_resend.md). -/
def SLIP_SLCFG_AGE (n : Lane): Fld := ⟨n.base + 0x7000 + 0x040, 8, 8, .rw, 4, .range 1 255⟩
/-- SLIP.SLCFG.MAXMISS (R224, 07_coding_resend.md). -/
def SLIP_SLCFG_MAXMISS (n : Lane): Fld := ⟨n.base + 0x7000 + 0x040, 16, 4, .rw, 2, .range 1 15⟩
/-- SLIP.SLCFG.PEERMAX (R224, 07_coding_resend.md). -/
def SLIP_SLCFG_PEERMAX (n : Lane): Fld := ⟨n.base + 0x7000 + 0x040, 24, 6, .rw, 32, .range 1 32⟩
/-- SLIP.PEAK.LINES (R224, 07_coding_resend.md). -/
def SLIP_PEAK_LINES (n : Lane): Fld := ⟨n.base + 0x7000 + 0x048, 0, 15, .ro, 0, .any⟩
/-- SLIP.STORED.COUNT (R224, 07_coding_resend.md). -/
def SLIP_STORED_COUNT (n : Lane): Fld := ⟨n.base + 0x7000 + 0x04C, 0, 32, .ro, 0, .any⟩
/-- SLIP.COMB.COMBINED (R224, 07_coding_resend.md). -/
def SLIP_COMB_COMBINED (n : Lane): Fld := ⟨n.base + 0x7000 + 0x050, 0, 16, .ro, 0, .any⟩
/-- SLIP.COMB.RECOVERED (R224, 07_coding_resend.md). -/
def SLIP_COMB_RECOVERED (n : Lane): Fld := ⟨n.base + 0x7000 + 0x050, 16, 16, .ro, 0, .any⟩
/-- SLIP.DISC1.MAPCHG (R224, 07_coding_resend.md). -/
def SLIP_DISC1_MAPCHG (n : Lane): Fld := ⟨n.base + 0x7000 + 0x054, 0, 16, .ro, 0, .any⟩
/-- SLIP.DISC1.AGED (R224, 07_coding_resend.md). -/
def SLIP_DISC1_AGED (n : Lane): Fld := ⟨n.base + 0x7000 + 0x054, 16, 16, .ro, 0, .any⟩
/-- SLIP.DISC2.NEWFRAME (R224, 07_coding_resend.md). -/
def SLIP_DISC2_NEWFRAME (n : Lane): Fld := ⟨n.base + 0x7000 + 0x058, 0, 16, .ro, 0, .any⟩
/-- SLIP.DISC2.MISSED (R224, 07_coding_resend.md). -/
def SLIP_DISC2_MISSED (n : Lane): Fld := ⟨n.base + 0x7000 + 0x058, 16, 16, .ro, 0, .any⟩
/-- SLIP.DISC3.EVICTED (R224, 07_coding_resend.md). -/
def SLIP_DISC3_EVICTED (n : Lane): Fld := ⟨n.base + 0x7000 + 0x05C, 0, 16, .ro, 0, .any⟩
/-- SLIP.DISC3.NOSTORE (R224, 07_coding_resend.md). -/
def SLIP_DISC3_NOSTORE (n : Lane): Fld := ⟨n.base + 0x7000 + 0x05C, 16, 16, .ro, 0, .any⟩
/-- SLIP.SLRES.STATUS (R224, 07_coding_resend.md). -/
def SLIP_SLRES_STATUS (n : Lane): Fld := ⟨n.base + 0x7000 + 0x064, 0, 8, .ro, 0, .any⟩
/-- SLIP.MATCH.MINMAG (R224, 07_coding_resend.md). -/
def SLIP_MATCH_MINMAG (n : Lane): Fld := ⟨n.base + 0x7000 + 0x400, 0, 4, .rw, 4, .range 1 15⟩
/-- SLIP.MATCH.AGREE (R224, 07_coding_resend.md). -/
def SLIP_MATCH_AGREE (n : Lane): Fld := ⟨n.base + 0x7000 + 0x400, 8, 8, .rw, 192, .range 128 255⟩
/-- SLIP.MATCH.MINPOS (R224, 07_coding_resend.md). -/
def SLIP_MATCH_MINPOS (n : Lane): Fld := ⟨n.base + 0x7000 + 0x400, 16, 12, .rw, 256, .range 1 4095⟩
/-- SLIP.SLOVR.POSONLY (R224, 07_coding_resend.md). -/
def SLIP_SLOVR_POSONLY (n : Lane): Fld := ⟨n.base + 0x7000 + 0x404, 0, 1, .rw, 0, .any⟩
/-- SLIP.SLOVR.NOCOMB (R224, 07_coding_resend.md). -/
def SLIP_SLOVR_NOCOMB (n : Lane): Fld := ⟨n.base + 0x7000 + 0x404, 1, 1, .rw, 0, .any⟩
/-- TMAP.MARGIN.DB (R248, 08_tone_maps.md). -/
def TMAP_MARGIN_DB (n : Lane): Fld := ⟨n.base + 0x8000 + 0x040, 0, 8, .rw, 12, .range 0 80⟩
/-- TMAP.MARGIN.TARGET (R248, 08_tone_maps.md). -/
def TMAP_MARGIN_TARGET (n : Lane): Fld := ⟨n.base + 0x8000 + 0x040, 8, 2, .rw, 1, .range 0 2⟩
/-- TMAP.MARGIN.REQADD (R248, 08_tone_maps.md). -/
def TMAP_MARGIN_REQADD (n : Lane): Fld := ⟨n.base + 0x8000 + 0x040, 16, 8, .rw, 12, .any⟩
/-- TMAP.TMCFG.AUTOUL (R248, 08_tone_maps.md). -/
def TMAP_TMCFG_AUTOUL (n : Lane): Fld := ⟨n.base + 0x8000 + 0x044, 0, 1, .rw, 1, .any⟩
/-- TMAP.TMCFG.RATEMASK (R248, 08_tone_maps.md). -/
def TMAP_TMCFG_RATEMASK (n : Lane): Fld := ⟨n.base + 0x8000 + 0x044, 1, 5, .rw, 31, .range 1 31⟩
/-- TMAP.TMCFG.REFRESH (R248, 08_tone_maps.md). -/
def TMAP_TMCFG_REFRESH (n : Lane): Fld := ⟨n.base + 0x8000 + 0x044, 8, 8, .rw, 64, .range 1 255⟩
/-- TMAP.TMCFG.SWWAIT (R248, 08_tone_maps.md). -/
def TMAP_TMCFG_SWWAIT (n : Lane): Fld := ⟨n.base + 0x8000 + 0x044, 16, 4, .rw, 2, .range 1 15⟩
/-- TMAP.TMCFG.NSND (R248, 08_tone_maps.md). -/
def TMAP_TMCFG_NSND (n : Lane): Fld := ⟨n.base + 0x8000 + 0x044, 24, 6, .rw, 6, .range 3 63⟩
/-- TMAP.NOISECFG.IDLE (R248, 08_tone_maps.md). -/
def TMAP_NOISECFG_IDLE (n : Lane): Fld := ⟨n.base + 0x8000 + 0x048, 0, 1, .rw, 1, .any⟩
/-- TMAP.NOISECFG.NK (R248, 08_tone_maps.md). -/
def TMAP_NOISECFG_NK (n : Lane): Fld := ⟨n.base + 0x8000 + 0x048, 1, 3, .rw, 3, .range 0 6⟩
/-- TMAP.NOISECFG.NPKREL (R248, 08_tone_maps.md). -/
def TMAP_NOISECFG_NPKREL (n : Lane): Fld := ⟨n.base + 0x8000 + 0x048, 8, 8, .rw, 12, .range 0 80⟩
/-- TMAP.NOISECFG.NPDEC (R248, 08_tone_maps.md). -/
def TMAP_NOISECFG_NPDEC (n : Lane): Fld := ⟨n.base + 0x8000 + 0x048, 16, 8, .rw, 2, .range 1 20⟩
/-- TMAP.LIBCFG.LOWTHR (R248, 08_tone_maps.md). -/
def TMAP_LIBCFG_LOWTHR (n : Lane): Fld := ⟨n.base + 0x8000 + 0x050, 0, 11, .rw, 64, .any⟩
/-- TMAP.BRES.STATUS (R248, 08_tone_maps.md). -/
def TMAP_BRES_STATUS (n : Lane): Fld := ⟨n.base + 0x8000 + 0x058, 0, 8, .ro, 0, .any⟩
/-- TMAP.BRES.SLOT (R248, 08_tone_maps.md). -/
def TMAP_BRES_SLOT (n : Lane): Fld := ⟨n.base + 0x8000 + 0x058, 8, 14, .ro, 0, .any⟩
/-- TMAP.BRES.TMV (R248, 08_tone_maps.md). -/
def TMAP_BRES_TMV (n : Lane): Fld := ⟨n.base + 0x8000 + 0x058, 22, 4, .ro, 0, .any⟩
/-- TMAP.COUNTS1.BUILDS (R248, 08_tone_maps.md). -/
def TMAP_COUNTS1_BUILDS (n : Lane): Fld := ⟨n.base + 0x8000 + 0x05C, 0, 16, .ro, 0, .any⟩
/-- TMAP.COUNTS1.SETSIN (R248, 08_tone_maps.md). -/
def TMAP_COUNTS1_SETSIN (n : Lane): Fld := ⟨n.base + 0x8000 + 0x05C, 16, 16, .ro, 0, .any⟩
/-- TMAP.COUNTS2.LIBFULL (R248, 08_tone_maps.md). -/
def TMAP_COUNTS2_LIBFULL (n : Lane): Fld := ⟨n.base + 0x8000 + 0x060, 0, 16, .ro, 0, .any⟩
/-- TMAP.COUNTS2.NOREPLY (R248, 08_tone_maps.md). -/
def TMAP_COUNTS2_NOREPLY (n : Lane): Fld := ⟨n.base + 0x8000 + 0x060, 16, 16, .ro, 0, .any⟩
/-- TMAP.COUNTS3.MAPMIS (R248, 08_tone_maps.md). -/
def TMAP_COUNTS3_MAPMIS (n : Lane): Fld := ⟨n.base + 0x8000 + 0x064, 0, 16, .ro, 0, .any⟩
/-- TMAP.COUNTS3.FORCED (R248, 08_tone_maps.md). -/
def TMAP_COUNTS3_FORCED (n : Lane): Fld := ⟨n.base + 0x8000 + 0x064, 16, 16, .ro, 0, .any⟩
/-- TMAP.NOISESTAT.PHASES (R248, 08_tone_maps.md). -/
def TMAP_NOISESTAT_PHASES (n : Lane): Fld := ⟨n.base + 0x8000 + 0x068, 0, 24, .ro, 0, .any⟩
/-- TMAP.LDSRC.OFFS (R248, 08_tone_maps.md). -/
def TMAP_LDSRC_OFFS (n : Lane): Fld := ⟨n.base + 0x8000 + 0x400, 11, 13, .rw, 0, .any⟩
/-- TMAP.LDRES.STATUS (R248, 08_tone_maps.md). -/
def TMAP_LDRES_STATUS (n : Lane): Fld := ⟨n.base + 0x8000 + 0x408, 0, 8, .ro, 0, .any⟩
/-- TMAP.LDRES.INDEX (R248, 08_tone_maps.md). -/
def TMAP_LDRES_INDEX (n : Lane): Fld := ⟨n.base + 0x8000 + 0x408, 8, 10, .ro, 0, .any⟩
/-- TMAP.LDRES.DUP (R248, 08_tone_maps.md). -/
def TMAP_LDRES_DUP (n : Lane): Fld := ⟨n.base + 0x8000 + 0x408, 18, 1, .ro, 0, .any⟩
/-- TMAP.MITSEL.SLOT (R248, 08_tone_maps.md). -/
def TMAP_MITSEL_SLOT (n : Lane): Fld := ⟨n.base + 0x8000 + 0x40C, 0, 14, .rw, 0, .any⟩
/-- TMAP.MITSEL.BANK (R248, 08_tone_maps.md). -/
def TMAP_MITSEL_BANK (n : Lane): Fld := ⟨n.base + 0x8000 + 0x40C, 16, 1, .rw, 0, .any⟩
/-- TMAP.MITW.DATA (R248, 08_tone_maps.md). -/
def TMAP_MITW_DATA (n : Lane) (i : Nat): Fld := ⟨n.base + 0x8000 + (0x410 + 4 * i), 0, 32, .rw, 0, .any⟩
/-- TMAP.MITRES.STATUS (R248, 08_tone_maps.md). -/
def TMAP_MITRES_STATUS (n : Lane): Fld := ⟨n.base + 0x8000 + 0x420, 0, 8, .ro, 0, .any⟩
/-- TMAP.MERGE.TOL (R248, 08_tone_maps.md). -/
def TMAP_MERGE_TOL (n : Lane): Fld := ⟨n.base + 0x8000 + 0x424, 0, 8, .rw, 8, .any⟩
/-- TMAP.MERGE.CLTOL (R248, 08_tone_maps.md). -/
def TMAP_MERGE_CLTOL (n : Lane): Fld := ⟨n.base + 0x8000 + 0x424, 8, 8, .rw, 4, .any⟩
/-- TMAP.SNRLO.BASE1 to BASE4 (R248, 08_tone_maps.md). -/
def TMAP_SNRLO_BASE1 (n : Lane): Fld := ⟨n.base + 0x8000 + 0x428, 0, 32, .rw, 706744838, .any⟩
/-- TMAP.SNRHI.BASE5 to BASE8 (R248, 08_tone_maps.md). -/
def TMAP_SNRHI_BASE5 (n : Lane): Fld := ⟨n.base + 0x8000 + 0x42C, 0, 32, .rw, 2221824066, .any⟩
/-- TMAP.RATEOFS.OFS1 to OFS4 (R248, 08_tone_maps.md). -/
def TMAP_RATEOFS_OFS1 (n : Lane): Fld := ⟨n.base + 0x8000 + 0x430, 0, 32, .rw, 269355526, .any⟩
/-- TMAP.NADDR.CARR (R248, 08_tone_maps.md). -/
def TMAP_NADDR_CARR (n : Lane): Fld := ⟨n.base + 0x8000 + 0x434, 0, 12, .rw, 40, .range 40 3999⟩
/-- TMAP.NADDR.PHASE (R248, 08_tone_maps.md). -/
def TMAP_NADDR_PHASE (n : Lane): Fld := ⟨n.base + 0x8000 + 0x434, 16, 5, .rw, 0, .range 0 23⟩
/-- MEAS.MCFG.GSTAGE (R358, 13_mains_sensing.md). -/
def MEAS_MCFG_GSTAGE (n : Lane): Fld := ⟨n.base + 0x9000 + 0x040, 0, 3, .rw, 4, .range 2 5⟩
/-- MEAS.MCFG.TXBLANK (R358, 13_mains_sensing.md). -/
def MEAS_MCFG_TXBLANK (n : Lane): Fld := ⟨n.base + 0x9000 + 0x040, 3, 1, .rw, 0, .any⟩
/-- MEAS.MCFG.PINBLANK (R358, 13_mains_sensing.md). -/
def MEAS_MCFG_PINBLANK (n : Lane): Fld := ⟨n.base + 0x9000 + 0x040, 4, 1, .rw, 1, .any⟩
/-- MEAS.MCFG.BLKPOL (R358, 13_mains_sensing.md). -/
def MEAS_MCFG_BLKPOL (n : Lane): Fld := ⟨n.base + 0x9000 + 0x040, 5, 1, .rw, 0, .any⟩
/-- MEAS.MCFG.DCCORN (R358, 13_mains_sensing.md). -/
def MEAS_MCFG_DCCORN (n : Lane): Fld := ⟨n.base + 0x9000 + 0x040, 6, 2, .rw, 1, .any⟩
/-- MEAS.MCFG.DCFREEZE (R358, 13_mains_sensing.md). -/
def MEAS_MCFG_DCFREEZE (n : Lane): Fld := ⟨n.base + 0x9000 + 0x040, 8, 1, .rw, 0, .any⟩
/-- MEAS.BLEXT.EXT (R358, 13_mains_sensing.md). -/
def MEAS_BLEXT_EXT (n : Lane): Fld := ⟨n.base + 0x9000 + 0x044, 0, 8, .rw, 5, .any⟩
/-- MEAS.ZCCFG.HYST (R358, 13_mains_sensing.md). -/
def MEAS_ZCCFG_HYST (n : Lane): Fld := ⟨n.base + 0x9000 + 0x048, 0, 8, .rw, 20, .range 1 255⟩
/-- MEAS.ZCCFG.HOLDOFF (R358, 13_mains_sensing.md). -/
def MEAS_ZCCFG_HOLDOFF (n : Lane): Fld := ⟨n.base + 0x9000 + 0x048, 8, 8, .rw, 12, .range 5 15⟩
/-- MEAS.ZCTICK.TICK (R358, 13_mains_sensing.md). -/
def MEAS_ZCTICK_TICK (n : Lane) (i : Nat): Fld := ⟨n.base + 0x9000 + (0x050 + 8 * i), 0, 64, .ro, 0, .any⟩
/-- MEAS.ZCPER.PER (R358, 13_mains_sensing.md). -/
def MEAS_ZCPER_PER (n : Lane) (i : Nat): Fld := ⟨n.base + 0x9000 + (0x068 + 4 * i), 0, 32, .ro, 0, .any⟩
/-- MEAS.ZCCNT.CROSS (R358, 13_mains_sensing.md). -/
def MEAS_ZCCNT_CROSS (n : Lane): Fld := ⟨n.base + 0x9000 + 0x074, 0, 16, .ro, 0, .any⟩
/-- MEAS.ZCCNT.DISC (R358, 13_mains_sensing.md). -/
def MEAS_ZCCNT_DISC (n : Lane): Fld := ⟨n.base + 0x9000 + 0x074, 16, 16, .ro, 0, .any⟩
/-- MEAS.BISQUE.VALUE (R358, 13_mains_sensing.md). -/
def MEAS_BISQUE_VALUE (n : Lane) (i : Nat): Fld := ⟨n.base + 0x9000 + (0x080 + 4 * i), 0, 16, .ro, 0, .any⟩
/-- MEAS.BISQUE.BLK (R358, 13_mains_sensing.md). -/
def MEAS_BISQUE_BLK (n : Lane) (i : Nat): Fld := ⟨n.base + 0x9000 + (0x080 + 4 * i), 16, 1, .ro, 0, .any⟩
/-- MEAS.BISQUE.OVR (R358, 13_mains_sensing.md). -/
def MEAS_BISQUE_OVR (n : Lane) (i : Nat): Fld := ⟨n.base + 0x9000 + (0x080 + 4 * i), 17, 1, .ro, 0, .any⟩
/-- MEAS.BISQUE.PRIME (R358, 13_mains_sensing.md). -/
def MEAS_BISQUE_PRIME (n : Lane) (i : Nat): Fld := ⟨n.base + 0x9000 + (0x080 + 4 * i), 18, 1, .ro, 1, .any⟩
/-- MEAS.GLOST.VALUE (R358, 13_mains_sensing.md). -/
def MEAS_GLOST_VALUE (n : Lane) (i : Nat): Fld := ⟨n.base + 0x9000 + (0x0A0 + 4 * i), 0, 24, .ro, 0, .any⟩
/-- MEAS.GLOST.BLK (R358, 13_mains_sensing.md). -/
def MEAS_GLOST_BLK (n : Lane) (i : Nat): Fld := ⟨n.base + 0x9000 + (0x0A0 + 4 * i), 24, 1, .ro, 0, .any⟩
/-- MEAS.GLOST.OVR (R358, 13_mains_sensing.md). -/
def MEAS_GLOST_OVR (n : Lane) (i : Nat): Fld := ⟨n.base + 0x9000 + (0x0A0 + 4 * i), 25, 1, .ro, 0, .any⟩
/-- MEAS.GLOST.PRIME (R358, 13_mains_sensing.md). -/
def MEAS_GLOST_PRIME (n : Lane) (i : Nat): Fld := ⟨n.base + 0x9000 + (0x0A0 + 4 * i), 26, 1, .ro, 1, .any⟩
/-- MEAS.DIETEMP.TEMP (R358, 13_mains_sensing.md). -/
def MEAS_DIETEMP_TEMP (n : Lane): Fld := ⟨n.base + 0x9000 + 0x0C0, 0, 16, .ro, 0, .any⟩
/-- MEAS.DIETEMP.VALID (R358, 13_mains_sensing.md). -/
def MEAS_DIETEMP_VALID (n : Lane): Fld := ⟨n.base + 0x9000 + 0x0C0, 16, 1, .ro, 0, .any⟩
/-- MEAS.OVRCNT.COUNT (R358, 13_mains_sensing.md). -/
def MEAS_OVRCNT_COUNT (n : Lane): Fld := ⟨n.base + 0x9000 + 0x0C4, 0, 32, .ro, 0, .any⟩
/-- MEAS.ZCOFS.OFS (R358, 13_mains_sensing.md). -/
def MEAS_ZCOFS_OFS (n : Lane): Fld := ⟨n.base + 0x9000 + 0x400, 0, 16, .rw, 0, .any⟩
/-- LINEAR.UGAIN.GAIN (R359, 13_mains_sensing.md). -/
def LINEAR_UGAIN_GAIN (n : Lane) (i : Nat): Fld := ⟨n.base + 0xa000 + (0x040 + 8 * i), 0, 32, .rw, 16777216, .any⟩
/-- LINEAR.UOFS.OFS (R359, 13_mains_sensing.md). -/
def LINEAR_UOFS_OFS (n : Lane) (i : Nat): Fld := ⟨n.base + 0xa000 + (0x044 + 8 * i), 0, 32, .rw, 0, .any⟩
/-- LINEAR.AUXCFG.CURVE1 (R359, 13_mains_sensing.md). -/
def LINEAR_AUXCFG_CURVE1 (n : Lane): Fld := ⟨n.base + 0xa000 + 0x070, 0, 3, .rw, 0, .any⟩
/-- LINEAR.AUXCFG.EXC1 (R359, 13_mains_sensing.md). -/
def LINEAR_AUXCFG_EXC1 (n : Lane): Fld := ⟨n.base + 0xa000 + 0x070, 4, 2, .rw, 0, .any⟩
/-- LINEAR.AUXCFG.CURVE2 (R359, 13_mains_sensing.md). -/
def LINEAR_AUXCFG_CURVE2 (n : Lane): Fld := ⟨n.base + 0xa000 + 0x070, 8, 3, .rw, 0, .any⟩
/-- LINEAR.AUXCFG.EXC2 (R359, 13_mains_sensing.md). -/
def LINEAR_AUXCFG_EXC2 (n : Lane): Fld := ⟨n.base + 0xa000 + 0x070, 12, 2, .rw, 0, .any⟩
/-- LINEAR.CJOFS.OFS (R359, 13_mains_sensing.md). -/
def LINEAR_CJOFS_OFS (n : Lane): Fld := ⟨n.base + 0xa000 + 0x074, 0, 16, .rw, 0, .any⟩
/-- LINEAR.ENG.E (R359, 13_mains_sensing.md). -/
def LINEAR_ENG_E (n : Lane) (i : Nat): Fld := ⟨n.base + 0xa000 + (0x080 + 4 * i), 0, 32, .ro, 0, .any⟩
/-- LINEAR.LSTAT.RANGE (R359, 13_mains_sensing.md). -/
def LINEAR_LSTAT_RANGE (n : Lane): Fld := ⟨n.base + 0xa000 + 0x0A0, 0, 6, .ro, 0, .any⟩
/-- LINEAR.LSTAT.BLK (R359, 13_mains_sensing.md). -/
def LINEAR_LSTAT_BLK (n : Lane): Fld := ⟨n.base + 0xa000 + 0x0A0, 8, 6, .ro, 0, .any⟩
/-- LINEAR.LSTAT.PRIME (R359, 13_mains_sensing.md). -/
def LINEAR_LSTAT_PRIME (n : Lane): Fld := ⟨n.base + 0xa000 + 0x0A0, 16, 6, .ro, 63, .any⟩
/-- LINEAR.RMS.RMS (R359, 13_mains_sensing.md). -/
def LINEAR_RMS_RMS (n : Lane) (i : Nat): Fld := ⟨n.base + 0xa000 + (0x0B0 + 4 * i), 0, 32, .ro, 0, .any⟩
/-- LINEAR.RMSSTAT.VALID (R359, 13_mains_sensing.md). -/
def LINEAR_RMSSTAT_VALID (n : Lane): Fld := ⟨n.base + 0xa000 + 0x0C0, 0, 4, .ro, 0, .any⟩
/-- LINEAR.RMSSTAT.CYCLE (R359, 13_mains_sensing.md). -/
def LINEAR_RMSSTAT_CYCLE (n : Lane): Fld := ⟨n.base + 0xa000 + 0x0C0, 16, 16, .ro, 0, .any⟩
/-- LINEAR.CSEL.CHAN (R359, 13_mains_sensing.md). -/
def LINEAR_CSEL_CHAN (n : Lane): Fld := ⟨n.base + 0xa000 + 0x400, 0, 2, .rw, 0, .any⟩
/-- LINEAR.CSEL.COEF (R359, 13_mains_sensing.md). -/
def LINEAR_CSEL_COEF (n : Lane): Fld := ⟨n.base + 0xa000 + 0x400, 4, 4, .rw, 0, .range 0 11⟩
/-- LINEAR.LINOVR.RAW (R359, 13_mains_sensing.md). -/
def LINEAR_LINOVR_RAW (n : Lane): Fld := ⟨n.base + 0xa000 + 0x408, 0, 4, .rw, 0, .any⟩
/-- WARDEN.WSTAT.STATE (R402, 15_health_recovery.md). -/
def WARDEN_WSTAT_STATE (n : Lane): Fld := ⟨n.base + 0xb000 + 0x040, 0, 3, .ro, 0, .any⟩
/-- WARDEN.WSTAT.RESTARTS (R402, 15_health_recovery.md). -/
def WARDEN_WSTAT_RESTARTS (n : Lane): Fld := ⟨n.base + 0xb000 + 0x040, 8, 4, .ro, 0, .any⟩
/-- WARDEN.WSTAT.CAUSE (R402, 15_health_recovery.md). -/
def WARDEN_WSTAT_CAUSE (n : Lane): Fld := ⟨n.base + 0xb000 + 0x040, 12, 4, .ro, 0, .any⟩
/-- WARDEN.WCFG.HBTO (R402, 15_health_recovery.md). -/
def WARDEN_WCFG_HBTO (n : Lane): Fld := ⟨n.base + 0xb000 + 0x044, 0, 8, .rw, 5, .range 1 50⟩
/-- WARDEN.WCFG.RSTMAX (R402, 15_health_recovery.md). -/
def WARDEN_WCFG_RSTMAX (n : Lane): Fld := ⟨n.base + 0xb000 + 0x044, 8, 3, .rw, 3, .range 1 7⟩
/-- WARDEN.WCNT.HANGS (R402, 15_health_recovery.md). -/
def WARDEN_WCNT_HANGS (n : Lane): Fld := ⟨n.base + 0xb000 + 0x048, 0, 16, .ro, 0, .any⟩
/-- WARDEN.WCNT.REQS (R402, 15_health_recovery.md). -/
def WARDEN_WCNT_REQS (n : Lane): Fld := ⟨n.base + 0xb000 + 0x048, 16, 16, .ro, 0, .any⟩
/-- LSYS.LSTAT.STATE (R403, 15_health_recovery.md). -/
def LSYS_LSTAT_STATE (n : Lane): Fld := ⟨n.base + 0x0 + 0x040, 0, 3, .ro, 1, .any⟩
/-- LSYS.LCNT.LOADS (R403, 15_health_recovery.md). -/
def LSYS_LCNT_LOADS (n : Lane): Fld := ⟨n.base + 0x0 + 0x044, 0, 16, .ro, 0, .any⟩
/-- LSYS.LCNT.COASTS (R403, 15_health_recovery.md). -/
def LSYS_LCNT_COASTS (n : Lane): Fld := ⟨n.base + 0x0 + 0x044, 16, 16, .ro, 0, .any⟩
/-- LSYS.COASTSTAT.USED (R403, 15_health_recovery.md). -/
def LSYS_COASTSTAT_USED (n : Lane): Fld := ⟨n.base + 0x0 + 0x048, 0, 21, .ro, 0, .any⟩
/-- LSYS.COASTSTAT.OVF (R403, 15_health_recovery.md). -/
def LSYS_COASTSTAT_OVF (n : Lane): Fld := ⟨n.base + 0x0 + 0x048, 31, 1, .ro, 0, .any⟩

end F

/-- The registers of the TXP page beyond the common layout of Table 0-4. -/
def regsTXP (n : Lane) : List Reg :=
  [⟨0x040, false, false, false, [⟨F.TXP_TXCTL_PORTEN n, 0, 0, 3⟩, ⟨F.TXP_TXCTL_G6BCAST n, 3, 0, 1⟩, ⟨F.TXP_TXCTL_G6PORT n, 4, 0, 2⟩]⟩,
   ⟨0x044, false, false, false, [⟨F.TXP_CEIL_PSD n, 0, 0, 8⟩]⟩,
   ⟨0x048, false, false, false, [⟨F.TXP_CDD_DELAY n, 0, 0, 9⟩]⟩,
   ⟨0x04C, false, false, false, [⟨F.TXP_TXDLY_PORT1 n, 0, 0, 8⟩, ⟨F.TXP_TXDLY_PORT2 n, 8, 0, 8⟩, ⟨F.TXP_TXDLY_PORT3 n, 16, 0, 8⟩]⟩] ++
  ((List.range 3).flatMap fun i => [⟨(0x050 + 4 * i), false, false, false, [⟨F.TXP_PGAIN_GAIN n i, 0, 0, 8⟩, ⟨F.TXP_PGAIN_EFF n i, 8, 0, 8⟩, ⟨F.TXP_PGAIN_DRVGAIN n i, 16, 0, 12⟩]⟩]) ++
  ((List.range 3).flatMap fun i => [⟨(0x060 + 8 * i), false, false, false, [⟨F.TXP_GXLATL_G0 n i, 0, 0, 32⟩]⟩]) ++
  ((List.range 3).flatMap fun i => [⟨(0x064 + 8 * i), false, false, false, [⟨F.TXP_GXLATH_G8 n i, 0, 0, 32⟩]⟩]) ++
  [⟨0x078, false, false, false, []⟩,
   ⟨0x07C, false, false, false, [⟨F.TXP_GLZVALID_VALID n, 0, 0, 16⟩]⟩,
   ⟨0x0B0, false, false, false, []⟩] ++
  ((List.range 3).flatMap fun i => [⟨(0x080 + 0x10 * i + 0x0), false, false, false, [⟨F.TXP_FRAMES_COUNT n i, 0, 0, 32⟩]⟩]) ++
  ((List.range 3).flatMap fun i => [⟨(0x080 + 0x10 * i + 0x4), false, false, false, [⟨F.TXP_DROPCNT_DROPS n i, 0, 0, 16⟩, ⟨F.TXP_DROPCNT_CLIPSYM n i, 16, 0, 16⟩]⟩]) ++
  ((List.range 3).flatMap fun i => [⟨(0x080 + 0x10 * i + 0x8), false, false, false, [⟨F.TXP_LASTDROP_CAUSE n i, 0, 0, 3⟩]⟩]) ++
  ((List.range 3).flatMap fun i => [⟨(0x080 + 0x10 * i + 0xC), false, false, false, []⟩]) ++
  [⟨0x400, false, false, false, [⟨F.TXP_GLZADDR_WORD n, 0, 0, 10⟩, ⟨F.TXP_GLZADDR_TABLE n, 12, 0, 4⟩]⟩,
   ⟨0x404, true, false, false, []⟩,
   ⟨0x408, false, false, false, []⟩,
   ⟨0x40C, false, false, false, [⟨F.TXP_GLZRES_STATUS n, 0, 0, 8⟩, ⟨F.TXP_GLZRES_TABLE n, 8, 0, 4⟩]⟩,
   ⟨0x410, false, false, false, [⟨F.TXP_WSADDR_WORD n, 0, 0, 9⟩, ⟨F.TXP_WSADDR_SET n, 16, 0, 8⟩]⟩,
   ⟨0x414, true, false, false, []⟩,
   ⟨0x418, false, false, false, []⟩,
   ⟨0x41C, false, false, false, [⟨F.TXP_WSRES_STATUS n, 0, 0, 8⟩]⟩] ++
  [⟨0x420, false, false, false, [⟨F.TXP_WCLAMP_COUNT n, 0, 0, 32⟩]⟩]

/-- The registers of the AFE page beyond the common layout of Table 0-4. -/
def regsAFE (n : Lane) : List Reg :=
  [⟨0x040, false, false, false, [⟨F.AFE_DRVCFG_MODE n 0, 0, 0, 2⟩, ⟨F.AFE_DRVCFG_MODE n 1, 2, 0, 2⟩, ⟨F.AFE_DRVCFG_MODE n 2, 4, 0, 2⟩, ⟨F.AFE_DRVCFG_FLTPOL n, 8, 0, 1⟩]⟩,
   ⟨0x044, false, false, false, [⟨F.AFE_DRVTIM_LEAD n, 0, 0, 8⟩, ⟨F.AFE_DRVTIM_LAG n, 8, 0, 8⟩, ⟨F.AFE_DRVTIM_FLTHOLD n, 16, 0, 8⟩]⟩,
   ⟨0x048, false, false, false, [⟨F.AFE_DRVSTAT_DRVEN n, 0, 0, 3⟩, ⟨F.AFE_DRVSTAT_FLT n, 4, 0, 3⟩, ⟨F.AFE_DRVSTAT_HELD n, 8, 0, 3⟩]⟩,
   ⟨0x04C, false, false, false, [⟨F.AFE_RXCFG_INEN n, 0, 0, 4⟩, ⟨F.AFE_RXCFG_TERM n 0, 8, 0, 2⟩, ⟨F.AFE_RXCFG_TERM n 1, 10, 0, 2⟩, ⟨F.AFE_RXCFG_TERM n 2, 12, 0, 2⟩, ⟨F.AFE_RXCFG_TERM n 3, 14, 0, 2⟩]⟩] ++
  ((List.range 4).flatMap fun i => [⟨(0x050 + 4 * i), false, false, false, [⟨F.AFE_UGAIN_GAIN n i, 0, 0, 12⟩]⟩]) ++
  ((List.range 4).flatMap fun i => [⟨(0x060 + 4 * i), false, false, false, []⟩]) ++
  ((List.range 4).flatMap fun i => [⟨(0x070 + 4 * i), false, false, false, [⟨F.AFE_PGA_CODE n i, 0, 0, 7⟩]⟩]) ++
  ((List.range 4).flatMap fun i => [⟨(0x080 + 8 * i), false, false, false, [⟨F.AFE_CLIPSAMP_COUNT n i, 0, 0, 32⟩]⟩]) ++
  ((List.range 4).flatMap fun i => [⟨(0x084 + 8 * i), false, false, false, [⟨F.AFE_OVLSTK_OVLCNT n i, 0, 0, 16⟩, ⟨F.AFE_OVLSTK_STUCK n i, 16, 0, 16⟩]⟩]) ++
  [⟨0x0A0, false, false, false, [⟨F.AFE_FLTCNT_PORT n 0, 0, 0, 8⟩, ⟨F.AFE_FLTCNT_PORT n 1, 8, 0, 8⟩, ⟨F.AFE_FLTCNT_PORT n 2, 16, 0, 8⟩]⟩,
   ⟨0x0A4, false, false, false, [⟨F.AFE_CALSTAT_CALOK n, 0, 0, 4⟩]⟩,
   ⟨0x0B0, false, false, false, []⟩,
   ⟨0x400, false, false, false, []⟩,
   ⟨0x404, false, false, false, [⟨F.AFE_CALRES_STATUS n, 0, 0, 8⟩]⟩,
   ⟨0x408, false, false, false, [⟨F.AFE_OVLCFG_CLIPS n, 0, 0, 8⟩, ⟨F.AFE_OVLCFG_STUCKMS n, 8, 0, 8⟩]⟩]

/-- The registers of the ECHO page beyond the common layout of Table 0-4. -/
def regsECHO (n : Lane) : List Reg :=
  [⟨0x040, false, false, false, [⟨F.ECHO_ECTL_EN n, 0, 0, 1⟩, ⟨F.ECHO_ECTL_FDEN n, 1, 0, 1⟩, ⟨F.ECHO_ECTL_MONEN n, 2, 0, 1⟩]⟩,
   ⟨0x044, false, false, false, [⟨F.ECHO_ESTAT_STATE n, 0, 0, 3⟩, ⟨F.ECHO_ESTAT_FDOK n, 3, 0, 1⟩, ⟨F.ECHO_ESTAT_REPON n, 4, 0, 1⟩, ⟨F.ECHO_ESTAT_DIGON n, 5, 0, 1⟩, ⟨F.ECHO_ESTAT_PASS n, 6, 0, 2⟩, ⟨F.ECHO_ESTAT_INOK n, 8, 0, 4⟩, ⟨F.ECHO_ESTAT_AGE n, 12, 0, 20⟩]⟩,
   ⟨0x048, false, false, false, [⟨F.ECHO_ECFG_FDMIN n, 0, 0, 8⟩, ⟨F.ECHO_ECFG_TREP n, 8, 0, 4⟩, ⟨F.ECHO_ECFG_TRAINIV n, 16, 0, 8⟩, ⟨F.ECHO_ECFG_AGEMAX n, 24, 0, 8⟩]⟩,
   ⟨0x04C, false, false, false, []⟩] ++
  ((List.range 4).flatMap fun i => [⟨(0x050 + 4 * i), false, false, false, [⟨F.ECHO_ERL_HYB n i, 0, 0, 8⟩, ⟨F.ECHO_ERL_REP n i, 8, 0, 8⟩, ⟨F.ECHO_ERL_DIG n i, 16, 0, 8⟩, ⟨F.ECHO_ERL_RESN n i, 24, 0, 8⟩]⟩]) ++
  [⟨0x060, false, false, false, [⟨F.ECHO_COUNTS_PASSES n, 0, 0, 16⟩, ⟨F.ECHO_COUNTS_TRNFAIL n, 16, 0, 16⟩]⟩,
   ⟨0x064, false, false, false, [⟨F.ECHO_COUNTS2_DIVERGE n, 0, 0, 16⟩, ⟨F.ECHO_COUNTS2_TRNSKIP n, 16, 0, 16⟩]⟩,
   ⟨0x068, false, false, false, [⟨F.ECHO_COUNTS3_PARTIAL n, 0, 0, 16⟩, ⟨F.ECHO_COUNTS3_WITHDRAW n, 16, 0, 16⟩]⟩,
   ⟨0x070, false, false, false, []⟩,
   ⟨0x400, false, false, false, [⟨F.ECHO_MON_DIVTHR n, 0, 0, 8⟩, ⟨F.ECHO_MON_DIVCNT n, 8, 0, 4⟩, ⟨F.ECHO_MON_MONSYM n, 12, 0, 4⟩, ⟨F.ECHO_MON_RESNMAX n, 16, 0, 8⟩]⟩,
   ⟨0x404, false, false, false, [⟨F.ECHO_TGAIN_CODE n, 0, 0, 7⟩, ⟨F.ECHO_TGAIN_TGEFF n, 8, 0, 7⟩]⟩,
   ⟨0x408, false, false, false, [⟨F.ECHO_RDLY_D n 0, 0, 0, 8⟩, ⟨F.ECHO_RDLY_D n 1, 8, 0, 8⟩, ⟨F.ECHO_RDLY_D n 2, 16, 0, 8⟩, ⟨F.ECHO_RDLY_D n 3, 24, 0, 8⟩]⟩,
   ⟨0x40C, false, false, false, [⟨F.ECHO_EOVR_NOREP n, 0, 0, 1⟩, ⟨F.ECHO_EOVR_NODIG n, 1, 0, 1⟩, ⟨F.ECHO_EOVR_FDFORCE n, 2, 0, 1⟩, ⟨F.ECHO_EOVR_HOLD n, 3, 0, 1⟩]⟩] ++
  [⟨0x410, false, false, false, [⟨F.ECHO_MADDR_MAT n, 16, 0, 1⟩, ⟨F.ECHO_MADDR_WORD n, 0, 0, 16⟩, ⟨F.ECHO_MADDR_BANK n, 17, 0, 1⟩]⟩,
   ⟨0x414, true, false, false, []⟩,
   ⟨0x418, false, false, false, []⟩]

/-- The registers of the AGC page beyond the common layout of Table 0-4. -/
def regsAGC (n : Lane) : List Reg :=
  [⟨0x040, false, false, false, [⟨F.AGC_AGCCFG_TARGET n, 0, 0, 8⟩, ⟨F.AGC_AGCCFG_LOOPEN n, 8, 0, 1⟩, ⟨F.AGC_AGCCFG_LEARN n, 9, 0, 1⟩]⟩,
   ⟨0x044, false, false, false, [⟨F.AGC_AGCFIX_CODE n, 0, 0, 7⟩]⟩,
   ⟨0x048, false, false, false, [⟨F.AGC_COUNTS_FREEZES n, 0, 0, 16⟩, ⟨F.AGC_COUNTS_DEFER n, 16, 0, 16⟩]⟩,
   ⟨0x04C, false, false, false, [⟨F.AGC_RAILCNT_RAIL n, 0, 0, 16⟩]⟩,
   ⟨0x060, false, false, false, []⟩,
   ⟨0x400, false, false, false, [⟨F.AGC_LOOPK_ATTACK n, 0, 0, 5⟩, ⟨F.AGC_LOOPK_DECAY n, 8, 0, 6⟩, ⟨F.AGC_LOOPK_WIN n, 16, 0, 4⟩, ⟨F.AGC_LOOPK_MUSET n, 20, 0, 4⟩]⟩,
   ⟨0x404, false, false, false, [⟨F.AGC_STADDR_FACET n, 0, 0, 7⟩]⟩,
   ⟨0x408, true, false, false, []⟩]

/-- The registers of the RXP page beyond the common layout of Table 0-4. -/
def regsRXP (n : Lane) : List Reg :=
  [⟨0x040, false, false, false, [⟨F.RXP_RXCTL_EN n, 0, 0, 1⟩, ⟨F.RXP_RXCTL_COMB n, 1, 0, 2⟩, ⟨F.RXP_RXCTL_FIXIN n, 4, 0, 2⟩]⟩,
   ⟨0x044, false, false, false, [⟨F.RXP_RXDLY_DELAY n, 0, 0, 8⟩]⟩,
   ⟨0x048, false, false, false, [⟨F.RXP_DETCFG_THR n, 0, 0, 8⟩]⟩,
   ⟨0x04C, false, false, false, [⟨F.RXP_TACFG_TAK n, 0, 0, 3⟩, ⟨F.RXP_TACFG_DEADB n, 8, 0, 8⟩, ⟨F.RXP_TACFG_TAMISS n, 16, 0, 4⟩]⟩,
   ⟨0x050, false, false, false, [⟨F.RXP_CONECFG_CONEK n, 0, 0, 3⟩, ⟨F.RXP_CONECFG_LOWTHR n, 8, 0, 6⟩]⟩,
   ⟨0x054, false, false, false, [⟨F.RXP_LASTID_STID n, 0, 0, 14⟩, ⟨F.RXP_LASTID_CONE n, 14, 0, 6⟩]⟩,
   ⟨0x058, false, false, false, [⟨F.RXP_LASTOFS_FOFS n, 0, 0, 16⟩, ⟨F.RXP_LASTOFS_PPM n, 16, 0, 16⟩]⟩,
   ⟨0x05C, false, false, false, [⟨F.RXP_LASTTIM_EVM n, 0, 0, 16⟩, ⟨F.RXP_LASTTIM_DELTA n, 16, 0, 12⟩, ⟨F.RXP_LASTTIM_DSRC n, 28, 0, 2⟩]⟩] ++
  [⟨0x060, false, false, false, [⟨F.RXP_LOWSLOT_CONE n, 0, 0, 14⟩, ⟨F.RXP_LOWSLOT_TA n, 16, 0, 14⟩]⟩,
   ⟨0x070, false, false, false, [⟨F.RXP_DETECT_COUNT n, 0, 0, 32⟩]⟩,
   ⟨0x074, false, false, false, [⟨F.RXP_ERR1_FCERR n, 0, 0, 16⟩, ⟨F.RXP_ERR1_FMTERR n, 16, 0, 16⟩]⟩,
   ⟨0x078, false, false, false, [⟨F.RXP_ERR2_FOREIGN n, 0, 0, 16⟩, ⟨F.RXP_ERR2_EPMIS n, 16, 0, 16⟩]⟩,
   ⟨0x07C, false, false, false, [⟨F.RXP_ERR3_LATEDET n, 0, 0, 16⟩, ⟨F.RXP_ERR3_ACKMISS n, 16, 0, 16⟩]⟩,
   ⟨0x080, false, false, false, [⟨F.RXP_MU1_MUUSERS n, 0, 0, 16⟩, ⟨F.RXP_MU1_MUABS n, 16, 0, 16⟩]⟩,
   ⟨0x084, false, false, false, [⟨F.RXP_MU2_MUMISAL n, 0, 0, 16⟩, ⟨F.RXP_MU2_MISSES n, 16, 0, 16⟩]⟩,
   ⟨0x088, false, false, false, [⟨F.RXP_LOSS_OVLEXCL n, 0, 0, 16⟩, ⟨F.RXP_LOSS_STAGEOVF n, 16, 0, 16⟩]⟩] ++
  [⟨0x0B0, false, false, false, []⟩,
   ⟨0x400, false, false, false, [⟨F.RXP_WINPOS_SU n, 0, 0, 3⟩]⟩,
   ⟨0x404, false, false, false, [⟨F.RXP_MUCFG_UPDET n, 0, 0, 8⟩]⟩,
   ⟨0x408, false, false, false, [⟨F.RXP_DETOVR_NOSEARCH n, 0, 0, 1⟩]⟩,
   ⟨0x40C, false, false, false, []⟩]

/-- The registers of the SPY page beyond the common layout of Table 0-4. -/
def regsSPY (n : Lane) : List Reg :=
  [⟨0x040, false, false, false, [⟨F.SPY_SPCFG_SRC n, 0, 0, 3⟩, ⟨F.SPY_SPCFG_INPUT n, 3, 0, 2⟩, ⟨F.SPY_SPCFG_DEC n, 5, 0, 3⟩, ⟨F.SPY_SPCFG_WRAP n, 8, 0, 1⟩, ⟨F.SPY_SPCFG_PRETRIG n, 12, 0, 4⟩, ⟨F.SPY_SPCFG_SHERD0 n, 16, 0, 7⟩, ⟨F.SPY_SPCFG_SHERDN n, 23, 0, 7⟩]⟩,
   ⟨0x044, false, false, false, [⟨F.SPY_SPTRIG_TRIG n, 0, 0, 3⟩, ⟨F.SPY_SPTRIG_FACET n, 8, 0, 7⟩, ⟨F.SPY_SPTRIG_TURN n, 16, 0, 8⟩, ⟨F.SPY_SPTRIG_ANYTURN n, 24, 0, 1⟩]⟩,
   ⟨0x048, false, false, false, [⟨F.SPY_SPLEN_RECORDS n, 0, 0, 32⟩]⟩,
   ⟨0x04C, false, false, false, [⟨F.SPY_SPDEST_BASE n, 12, 0, 12⟩, ⟨F.SPY_SPDEST_SIZE n, 24, 0, 5⟩]⟩,
   ⟨0x050, false, false, false, []⟩,
   ⟨0x054, false, false, false, [⟨F.SPY_SPWPTR_PTR n, 0, 0, 12⟩]⟩,
   ⟨0x058, false, false, false, [⟨F.SPY_SPRPTR_PTR n, 0, 0, 12⟩]⟩,
   ⟨0x05C, false, false, false, [⟨F.SPY_SPCOUNT_COUNT n, 0, 0, 32⟩]⟩]

/-- The registers of the DEC page beyond the common layout of Table 0-4. -/
def regsDEC (n : Lane) : List Reg :=
  [⟨0x040, false, false, false, [⟨F.DEC_DECCTL_ACTMAX n, 0, 0, 3⟩]⟩,
   ⟨0x044, false, false, false, [⟨F.DEC_ENGSTAT_ACTIVE n, 0, 0, 7⟩, ⟨F.DEC_ENGSTAT_RESERVE n, 8, 0, 7⟩, ⟨F.DEC_ENGSTAT_RETIRED n, 16, 0, 7⟩]⟩,
   ⟨0x048, false, false, false, [⟨F.DEC_BLOCKS_COUNT n, 0, 0, 32⟩]⟩,
   ⟨0x04C, false, false, false, [⟨F.DEC_CRCFAIL_COUNT n, 0, 0, 32⟩]⟩,
   ⟨0x050, false, false, false, [⟨F.DEC_ERRS_LATE n, 0, 0, 16⟩, ⟨F.DEC_ERRS_FMTBLK n, 16, 0, 16⟩]⟩,
   ⟨0x054, false, false, false, [⟨F.DEC_MISC_QOVF n, 0, 0, 16⟩, ⟨F.DEC_MISC_STFAIL n, 16, 0, 16⟩]⟩,
   ⟨0x060, false, false, false, []⟩,
   ⟨0x400, false, false, false, [⟨F.DEC_LLRCFG_SCALE1 n, 0, 0, 8⟩, ⟨F.DEC_LLRCFG_SCALE4 n, 8, 0, 8⟩, ⟨F.DEC_LLRCFG_SCALE6 n, 16, 0, 8⟩]⟩] ++
  [⟨0x404, false, false, false, [⟨F.DEC_STCFG_IVAL n, 0, 0, 8⟩, ⟨F.DEC_STCFG_STEN n, 8, 0, 1⟩]⟩,
   ⟨0x408, false, false, false, []⟩]

/-- The registers of the SLIP page beyond the common layout of Table 0-4. -/
def regsSLIP (n : Lane) : List Reg :=
  [⟨0x040, false, false, false, [⟨F.SLIP_SLCFG_EN n, 0, 0, 1⟩, ⟨F.SLIP_SLCFG_AGE n, 8, 0, 8⟩, ⟨F.SLIP_SLCFG_MAXMISS n, 16, 0, 4⟩, ⟨F.SLIP_SLCFG_PEERMAX n, 24, 0, 6⟩]⟩,
   ⟨0x044, false, false, false, []⟩,
   ⟨0x048, false, false, false, [⟨F.SLIP_PEAK_LINES n, 0, 0, 15⟩]⟩,
   ⟨0x04C, false, false, false, [⟨F.SLIP_STORED_COUNT n, 0, 0, 32⟩]⟩,
   ⟨0x050, false, false, false, [⟨F.SLIP_COMB_COMBINED n, 0, 0, 16⟩, ⟨F.SLIP_COMB_RECOVERED n, 16, 0, 16⟩]⟩,
   ⟨0x054, false, false, false, [⟨F.SLIP_DISC1_MAPCHG n, 0, 0, 16⟩, ⟨F.SLIP_DISC1_AGED n, 16, 0, 16⟩]⟩,
   ⟨0x058, false, false, false, [⟨F.SLIP_DISC2_NEWFRAME n, 0, 0, 16⟩, ⟨F.SLIP_DISC2_MISSED n, 16, 0, 16⟩]⟩,
   ⟨0x05C, false, false, false, [⟨F.SLIP_DISC3_EVICTED n, 0, 0, 16⟩, ⟨F.SLIP_DISC3_NOSTORE n, 16, 0, 16⟩]⟩] ++
  [⟨0x060, false, false, false, []⟩,
   ⟨0x064, false, false, false, [⟨F.SLIP_SLRES_STATUS n, 0, 0, 8⟩]⟩,
   ⟨0x070, false, false, false, []⟩,
   ⟨0x400, false, false, false, [⟨F.SLIP_MATCH_MINMAG n, 0, 0, 4⟩, ⟨F.SLIP_MATCH_AGREE n, 8, 0, 8⟩, ⟨F.SLIP_MATCH_MINPOS n, 16, 0, 12⟩]⟩,
   ⟨0x404, false, false, false, [⟨F.SLIP_SLOVR_POSONLY n, 0, 0, 1⟩, ⟨F.SLIP_SLOVR_NOCOMB n, 1, 0, 1⟩]⟩]

/-- The registers of the TMAP page beyond the common layout of Table 0-4. -/
def regsTMAP (n : Lane) : List Reg :=
  [⟨0x040, false, false, false, [⟨F.TMAP_MARGIN_DB n, 0, 0, 8⟩, ⟨F.TMAP_MARGIN_TARGET n, 8, 0, 2⟩, ⟨F.TMAP_MARGIN_REQADD n, 16, 0, 8⟩]⟩,
   ⟨0x044, false, false, false, [⟨F.TMAP_TMCFG_AUTOUL n, 0, 0, 1⟩, ⟨F.TMAP_TMCFG_RATEMASK n, 1, 0, 5⟩, ⟨F.TMAP_TMCFG_REFRESH n, 8, 0, 8⟩, ⟨F.TMAP_TMCFG_SWWAIT n, 16, 0, 4⟩, ⟨F.TMAP_TMCFG_NSND n, 24, 0, 6⟩]⟩,
   ⟨0x048, false, false, false, [⟨F.TMAP_NOISECFG_IDLE n, 0, 0, 1⟩, ⟨F.TMAP_NOISECFG_NK n, 1, 0, 3⟩, ⟨F.TMAP_NOISECFG_NPKREL n, 8, 0, 8⟩, ⟨F.TMAP_NOISECFG_NPDEC n, 16, 0, 8⟩]⟩,
   ⟨0x04C, false, false, false, []⟩,
   ⟨0x050, false, false, false, [⟨F.TMAP_LIBCFG_LOWTHR n, 0, 0, 11⟩]⟩,
   ⟨0x054, false, false, false, []⟩,
   ⟨0x058, false, false, false, [⟨F.TMAP_BRES_STATUS n, 0, 0, 8⟩, ⟨F.TMAP_BRES_SLOT n, 8, 0, 14⟩, ⟨F.TMAP_BRES_TMV n, 22, 0, 4⟩]⟩,
   ⟨0x05C, false, false, false, [⟨F.TMAP_COUNTS1_BUILDS n, 0, 0, 16⟩, ⟨F.TMAP_COUNTS1_SETSIN n, 16, 0, 16⟩]⟩] ++
  [⟨0x060, false, false, false, [⟨F.TMAP_COUNTS2_LIBFULL n, 0, 0, 16⟩, ⟨F.TMAP_COUNTS2_NOREPLY n, 16, 0, 16⟩]⟩,
   ⟨0x064, false, false, false, [⟨F.TMAP_COUNTS3_MAPMIS n, 0, 0, 16⟩, ⟨F.TMAP_COUNTS3_FORCED n, 16, 0, 16⟩]⟩,
   ⟨0x068, false, false, false, [⟨F.TMAP_NOISESTAT_PHASES n, 0, 0, 24⟩]⟩,
   ⟨0x070, false, false, false, []⟩,
   ⟨0x400, false, false, false, [⟨F.TMAP_LDSRC_OFFS n, 11, 0, 13⟩]⟩,
   ⟨0x404, false, false, false, []⟩,
   ⟨0x408, false, false, false, [⟨F.TMAP_LDRES_STATUS n, 0, 0, 8⟩, ⟨F.TMAP_LDRES_INDEX n, 8, 0, 10⟩, ⟨F.TMAP_LDRES_DUP n, 18, 0, 1⟩]⟩,
   ⟨0x40C, false, false, false, [⟨F.TMAP_MITSEL_SLOT n, 0, 0, 14⟩, ⟨F.TMAP_MITSEL_BANK n, 16, 0, 1⟩]⟩] ++
  ((List.range 3).flatMap fun i => [⟨(0x410 + 4 * i), false, false, false, [⟨F.TMAP_MITW_DATA n i, 0, 0, 32⟩]⟩]) ++
  [⟨0x41C, false, false, false, []⟩,
   ⟨0x420, false, false, false, [⟨F.TMAP_MITRES_STATUS n, 0, 0, 8⟩]⟩,
   ⟨0x424, false, false, false, [⟨F.TMAP_MERGE_TOL n, 0, 0, 8⟩, ⟨F.TMAP_MERGE_CLTOL n, 8, 0, 8⟩]⟩,
   ⟨0x428, false, false, false, [⟨F.TMAP_SNRLO_BASE1 n, 0, 0, 32⟩]⟩,
   ⟨0x42C, false, false, false, [⟨F.TMAP_SNRHI_BASE5 n, 0, 0, 32⟩]⟩,
   ⟨0x430, false, false, false, [⟨F.TMAP_RATEOFS_OFS1 n, 0, 0, 32⟩]⟩,
   ⟨0x434, false, false, false, [⟨F.TMAP_NADDR_CARR n, 0, 0, 12⟩, ⟨F.TMAP_NADDR_PHASE n, 16, 0, 5⟩]⟩,
   ⟨0x438, true, false, false, []⟩] ++
  [⟨0x43C, false, false, false, []⟩]

/-- The registers of the MEAS page beyond the common layout of Table 0-4. -/
def regsMEAS (n : Lane) : List Reg :=
  [⟨0x040, false, false, false, [⟨F.MEAS_MCFG_GSTAGE n, 0, 0, 3⟩, ⟨F.MEAS_MCFG_TXBLANK n, 3, 0, 1⟩, ⟨F.MEAS_MCFG_PINBLANK n, 4, 0, 1⟩, ⟨F.MEAS_MCFG_BLKPOL n, 5, 0, 1⟩, ⟨F.MEAS_MCFG_DCCORN n, 6, 0, 2⟩, ⟨F.MEAS_MCFG_DCFREEZE n, 8, 0, 1⟩]⟩,
   ⟨0x044, false, false, false, [⟨F.MEAS_BLEXT_EXT n, 0, 0, 8⟩]⟩,
   ⟨0x048, false, false, false, [⟨F.MEAS_ZCCFG_HYST n, 0, 0, 8⟩, ⟨F.MEAS_ZCCFG_HOLDOFF n, 8, 0, 8⟩]⟩] ++
  ((List.range 3).flatMap fun i => [⟨(0x050 + 8 * i), false, false, true, [⟨F.MEAS_ZCTICK_TICK n i, 0, 0, 32⟩]⟩, ⟨(0x050 + 8 * i) + 4, false, false, true, [⟨F.MEAS_ZCTICK_TICK n i, 0, 32, 32⟩]⟩]) ++
  ((List.range 3).flatMap fun i => [⟨(0x068 + 4 * i), false, false, false, [⟨F.MEAS_ZCPER_PER n i, 0, 0, 32⟩]⟩]) ++
  [⟨0x074, false, false, false, [⟨F.MEAS_ZCCNT_CROSS n, 0, 0, 16⟩, ⟨F.MEAS_ZCCNT_DISC n, 16, 0, 16⟩]⟩] ++
  ((List.range 6).flatMap fun i => [⟨(0x080 + 4 * i), false, false, false, [⟨F.MEAS_BISQUE_VALUE n i, 0, 0, 16⟩, ⟨F.MEAS_BISQUE_BLK n i, 16, 0, 1⟩, ⟨F.MEAS_BISQUE_OVR n i, 17, 0, 1⟩, ⟨F.MEAS_BISQUE_PRIME n i, 18, 0, 1⟩]⟩]) ++
  ((List.range 6).flatMap fun i => [⟨(0x0A0 + 4 * i), false, false, false, [⟨F.MEAS_GLOST_VALUE n i, 0, 0, 24⟩, ⟨F.MEAS_GLOST_BLK n i, 24, 0, 1⟩, ⟨F.MEAS_GLOST_OVR n i, 25, 0, 1⟩, ⟨F.MEAS_GLOST_PRIME n i, 26, 0, 1⟩]⟩]) ++
  [⟨0x0C0, false, false, false, [⟨F.MEAS_DIETEMP_TEMP n, 0, 0, 16⟩, ⟨F.MEAS_DIETEMP_VALID n, 16, 0, 1⟩]⟩,
   ⟨0x0C4, false, false, false, [⟨F.MEAS_OVRCNT_COUNT n, 0, 0, 32⟩]⟩,
   ⟨0x0D0, false, false, false, []⟩,
   ⟨0x400, false, false, false, [⟨F.MEAS_ZCOFS_OFS n, 0, 0, 16⟩]⟩]

/-- The registers of the LINEAR page beyond the common layout of Table 0-4. -/
def regsLINEAR (n : Lane) : List Reg :=
  ((List.range 6).flatMap fun i => [⟨(0x040 + 8 * i), false, false, false, [⟨F.LINEAR_UGAIN_GAIN n i, 0, 0, 32⟩]⟩]) ++
  ((List.range 6).flatMap fun i => [⟨(0x044 + 8 * i), false, false, false, [⟨F.LINEAR_UOFS_OFS n i, 0, 0, 32⟩]⟩]) ++
  [⟨0x070, false, false, false, [⟨F.LINEAR_AUXCFG_CURVE1 n, 0, 0, 3⟩, ⟨F.LINEAR_AUXCFG_EXC1 n, 4, 0, 2⟩, ⟨F.LINEAR_AUXCFG_CURVE2 n, 8, 0, 3⟩, ⟨F.LINEAR_AUXCFG_EXC2 n, 12, 0, 2⟩]⟩,
   ⟨0x074, false, false, false, [⟨F.LINEAR_CJOFS_OFS n, 0, 0, 16⟩]⟩] ++
  ((List.range 6).flatMap fun i => [⟨(0x080 + 4 * i), false, false, false, [⟨F.LINEAR_ENG_E n i, 0, 0, 32⟩]⟩]) ++
  [⟨0x0A0, false, false, false, [⟨F.LINEAR_LSTAT_RANGE n, 0, 0, 6⟩, ⟨F.LINEAR_LSTAT_BLK n, 8, 0, 6⟩, ⟨F.LINEAR_LSTAT_PRIME n, 16, 0, 6⟩]⟩] ++
  ((List.range 4).flatMap fun i => [⟨(0x0B0 + 4 * i), false, false, false, [⟨F.LINEAR_RMS_RMS n i, 0, 0, 32⟩]⟩]) ++
  [⟨0x0C0, false, false, false, [⟨F.LINEAR_RMSSTAT_VALID n, 0, 0, 4⟩, ⟨F.LINEAR_RMSSTAT_CYCLE n, 16, 0, 16⟩]⟩,
   ⟨0x0C4, false, false, false, []⟩,
   ⟨0x400, false, false, false, [⟨F.LINEAR_CSEL_CHAN n, 0, 0, 2⟩, ⟨F.LINEAR_CSEL_COEF n, 4, 0, 4⟩]⟩,
   ⟨0x404, true, false, false, []⟩,
   ⟨0x408, false, false, false, [⟨F.LINEAR_LINOVR_RAW n, 0, 0, 4⟩]⟩]

/-- The registers of the WARDEN page beyond the common layout of Table 0-4. -/
def regsWARDEN (n : Lane) : List Reg :=
  [⟨0x040, false, false, false, [⟨F.WARDEN_WSTAT_STATE n, 0, 0, 3⟩, ⟨F.WARDEN_WSTAT_RESTARTS n, 8, 0, 4⟩, ⟨F.WARDEN_WSTAT_CAUSE n, 12, 0, 4⟩]⟩,
   ⟨0x044, false, false, false, [⟨F.WARDEN_WCFG_HBTO n, 0, 0, 8⟩, ⟨F.WARDEN_WCFG_RSTMAX n, 8, 0, 3⟩]⟩,
   ⟨0x048, false, false, false, [⟨F.WARDEN_WCNT_HANGS n, 0, 0, 16⟩, ⟨F.WARDEN_WCNT_REQS n, 16, 0, 16⟩]⟩]

/-- The registers of the LSYS page beyond the common layout of Table 0-4. -/
def regsLSYS (n : Lane) : List Reg :=
  [⟨0x040, false, false, false, [⟨F.LSYS_LSTAT_STATE n, 0, 0, 3⟩]⟩,
   ⟨0x044, false, false, false, [⟨F.LSYS_LCNT_LOADS n, 0, 0, 16⟩, ⟨F.LSYS_LCNT_COASTS n, 16, 0, 16⟩]⟩,
   ⟨0x048, false, false, false, [⟨F.LSYS_COASTSTAT_USED n, 0, 0, 21⟩, ⟨F.LSYS_COASTSTAT_OVF n, 31, 0, 1⟩]⟩]

end Sys2Proof.Machine
end

