-- ==== Sys2Proof/Machine/TypesHealth.lean ====
section
/-!
DEFINITION. State of fuses, leaky buckets, supervision and boot that stands in no register field of its own (chapters 14
and 15).
-/
namespace Sys2Proof.Machine

/-- A fuse word as its three reads show it (R395). -/
structure FuseWord where
  normal : Nat
  low : Nat
  high : Nat
deriving DecidableEq, Repr

/-- The fuses: the words as they would read now (part of the world, keyed die * 256 + word; an unlisted word reads 0 at
each threshold), the reads latched at power-up, and the words found marginal at the last re-verification. -/
structure Fuses where
  array : NatMap FuseWord
  latched : NatMap FuseWord
  margNow : NatMap Nat
  /-- words ever found marginal in this power cycle by a re-verification -/
  margSeen : NatMap Nat
  /-- die whose re-verification runs (R397) -/
  running : Option Nat
deriving DecidableEq, Repr

/-- Supervision and retirement (R382 to R390). -/
structure Health where
  /-- bucket levels above 0, by `bucketKey` -/
  buckets : NatMap Nat
  /-- retired units, by `bucketKey` -/
  retired : NatMap Nat
  /-- redundant SRAM banks in use: key 0 hub, n lane n, 8 key SRAM (R385) -/
  banksUsed : NatMap Nat
  /-- backstop: 0 WATCH, 1 WARM, 2 FAILED (Table 15-4) -/
  backstop : Nat
  /-- the second hub warm restart of WARM has run -/
  secondWarm : Bool
  /-- restarts of cores 0 to 2, as (core, tick) pairs, newest first -/
  coreRestarts : List (Nat × Nat)
  /-- cores being restarted -/
  coresDown : List Nat
  /-- ticks of failed reloads and of sequencer restarts, by lane number, newest first -/
  reloadFails : NatMap (List Nat)
  seqRestarts : NatMap (List Nat)
  /-- ticks at which the running restarts of sequencers end, by lane number (R387) -/
  seqUntil : NatMap Nat
  /-- lanes whose wardens asked for a reload that is not yet answered, by lane number -/
  reloadAsked : List Nat
  /-- tick of the last KSBEAT, of the last restart of core 3 and of the last hub warm restart -/
  lastBeat : Nat
  lastKsrst : Nat
  warmAt : Nat
deriving DecidableEq, Repr

/-- States of the ROM (Table 14-4). -/
inductive RomState
  | select | header | copy | check | config | run | recovery
deriving DecidableEq, Repr

/-- Boot and update (chapter 14). -/
structure Boot where
  rom : RomState
  /-- slot the ROM works on (0 A, 1 B) -/
  slot : Nat
  /-- slots refused in this ROM run -/
  refused : List Nat
  /-- slots the ROM may still try in this run, in order; none before its first selection -/
  queue : Option (List Nat)
  /-- the trailer that COPY has read into ROM scratch -/
  trailer : List Byte
  /-- no valid boot header was found: the slot that passes becomes FIRED and ACTIVE -/
  noHeader : Bool
  /-- the running image is from the packet buffer (R369) -/
  fromRam : Bool
  /-- an activation is under way: the slot that was active before (R374) -/
  activating : Option Nat
  /-- the ROM is to run for the activation once the service pause has begun -/
  romDue : Bool
  /-- the activation fell back to the previous slot (R375) -/
  fellBack : Bool
  /-- the greenware window: tick at which it ends, and whether it has expired (R376, R377) -/
  greenEnd : Nat
  greenExpired : Bool
  /-- the kiln sitter has begun the fallback of R377 -/
  fallbackBegun : Bool
  /-- rollback steps burned since power-up (R378) -/
  burned : Nat
  /-- the settings of the hub have been restored since power-up (R399, log entry 79) -/
  configured : Bool
  /-- bodies of the configuration blocks in use, by block; a defaulted block is not listed (R370) -/
  cfg : NatMap (List Byte)
  /-- bodies that CFGSAVE has written since power-up, newest first: block, body and what it holds, by item (log entry 79) -/
  saved : List (Nat × List Byte × NatMap Nat)
deriving DecidableEq, Repr

end Sys2Proof.Machine
end

