-- ==== Sys2Proof/Machine/TypesKeys.lean ====
section
/-!
DEFINITION. The key store and the saggar's jobs (R305 to R315).
-/
namespace Sys2Proof.Machine

/-- Bank states (Table 11-5). -/
inductive BankSt
  | empty | next | current | previous | committed
deriving DecidableEq, Repr

/-- A key bank: its state, the size code (0 AES-128, 1 AES-256), the key bytes, the next transmit counter value where it
has one, whether an epoch switch bound it as PREVIOUS (R308), and whether it was made current by ROLL and has not yet
verified an MPDU (R304). -/
structure Bank where
  st : BankSt
  size : Nat
  key : List Byte
  ctr : Nat
  bound : Bool
  fresh : Bool
  /-- which accepted LOAD gave the key: what tells a bank that protected an MPDU from a later one (R300) -/
  load : Nat
deriving DecidableEq, Repr

/-- An empty bank. -/
def Bank.none : Bank := { st := .empty, size := 0, key := [], ctr := 0, bound := false, fresh := false, load := 0 }

/-- Whether a bank holds a key. -/
def Bank.holds (b : Bank) : Bool := b.st != .empty

/-- A key slot: the current and the second bank (R306) and its lock (R308). -/
structure KeySlot where
  cur : Bank
  sec : Bank
  locked : Bool
deriving DecidableEq, Repr

/-- An unused slot. -/
def KeySlot.blank : KeySlot := { cur := .none, sec := .none, locked := false }

/-- A captured KEYCMD (Table 11-6). -/
structure KeyCmd where
  op : Nat
  cls : Nat
  size : Nat
  idx : Nat
  data : List Byte
deriving DecidableEq, Repr

/-- A bank by place: neighbour slot, group slot, with `second` for the second bank. -/
inductive BankRef
  | nbr (slot : Nat) (second : Bool)
  | grp (slot : Nat) (second : Bool)
deriving DecidableEq, Repr

/-- A host job as captured at START (R313). -/
structure HostJob where
  mode : Nat
  tag16 : Bool
  dkey : Nat
  aadlen : Nat
  src : Nat
  dst : Nat
  len : Nat
  iv : List Byte
  tag : List Byte
  /-- key of the device slot's current bank, if it holds one -/
  key : Option (List Byte)
deriving DecidableEq, Repr

/-- A hash or signature command as captured (R314, R315). -/
inductive HashJob
  | hash (src len : Nat)
  | verify (src : Nat)
deriving DecidableEq, Repr

/-- The key store and the jobs that run.  Slots that are blank are not listed. -/
structure Keys where
  nbr : NatMap KeySlot
  grp : NatMap KeySlot
  dev : NatMap KeySlot
  cmd : Option KeyCmd
  /-- group slot in force, or that was in force when RUN went to 0 or was rolled last since (R309) -/
  inForce : Nat
  /-- number of the next accepted LOAD -/
  nextLoad : Nat
  /-- bank of the previous epoch, during a straggle window -/
  prev : Option BankRef
  /-- group slot of the committed next epoch -/
  next : Option Nat
  job : Option HostJob
  hash : Option HashJob
  /-- the random source passes its health test (PSTAT.RNGOK) -/
  rngOk : Bool
deriving DecidableEq, Repr

/-- The store at power-up: every bank empty. -/
def Keys.fresh : Keys :=
  { nbr := [], grp := [], dev := [], cmd := none, inForce := 0, nextLoad := 1, prev := none, next := none, job := none, hash := none,
    rngOk := true }

end Sys2Proof.Machine
end

