-- ==== Sys2Proof/Machine/TypesQueue.lean ====
section
/-!
DEFINITION. Transmit queues, MPDUs, rings and mailboxes (R274 to R291), and neighbour entries (R254).
-/
namespace Sys2Proof.Machine

/-- The protection of an MPDU (R300): the counter value, the nonce, the protected payload with its tag, the epoch, and
which LOAD gave the key of the bank that protected it. -/
structure Prot where
  fcnt : Nat
  nonce : List Byte
  body : List Byte
  epoch : Nat
  load : Nat
deriving DecidableEq, Repr

/-- One block of an MPDU to be sent: how often it was sent and whether it was acknowledged. -/
structure TxBlk where
  tries : Nat
  acked : Bool
deriving DecidableEq, Repr

/-- An MPDU of a transmit queue (R274, Table 10-1). -/
structure TxMpdu where
  id : Nat
  /-- TX ring it came from; none for an MPDU that device firmware queued -/
  ring : Option Nat
  /-- completion ring -/
  cq : Nat
  hLow : Nat
  dest : Nat
  cls : Nat
  gen : Nat
  mtype : Nat
  level : Nat
  gkey : Bool
  hops : Nat
  orig : Nat
  final : Nat
  silent : Bool
  epsel : Nat
  /-- the epoch that EPSEL named at the fetch, where it names one (log entry 69) -/
  target : Option Nat
  cookie : List Byte
  payload : List Byte
  fetchTurn : Nat
  mseq : Option Nat
  /-- protection for the current epoch, and for the previous one in a straggle window (broadcast) -/
  prot : Option Prot
  protOld : Option Prot
  bt : Nat
  /-- RATE and TMV of the first sending (R214) -/
  rate : Nat
  tmv : Nat
  blocks : List TxBlk
  /-- sendings of the block sent last (TRIES of Table 10-3) -/
  lastTries : Nat
  /-- where a broadcast has been sent: 256 * group + epoch -/
  sentIn : List Nat
  /-- committed frames that carry it -/
  inFrames : Nat
  /-- its queue was flushed while a committed frame carried it (R276) -/
  flushed : Bool
  /-- its result, once done; it then waits for its completion -/
  status : Option Nat
deriving DecidableEq, Repr

/-- Whether a committed frame carries the MPDU. -/
def TxMpdu.committed (m : TxMpdu) : Bool := m.inFrames != 0

/-- A transmit queue (R274, R276). -/
structure Queue where
  mpdus : List TxMpdu
  held : Bool
deriving DecidableEq, Repr

/-- An empty queue. -/
def Queue.empty : Queue := { mpdus := [], held := false }

/-- A receive buffer taken from an RXBUF descriptor (Table 10-2). -/
structure RxBuf where
  addr : Nat
  size : Nat
  loc : Bool
  cookie : List Byte
deriving DecidableEq, Repr

/-- A ring (R277 to R281, Table 10-9). -/
structure Ring where
  base : Nat
  size : Nat
  loc : Bool
  /-- a submission ring of kind RXBUF -/
  rxbuf : Bool
  pair : Nat
  vec : Nat
  irqen : Bool
  weight : Nat
  fullpol : Bool
  modCount : Nat
  modTime : Nat
  /-- 0 OFF, 1 RUN, 2 ERROR -/
  st : Nat
  /-- 0 none, 1 pointer, 2 DMA, 3 descriptor -/
  err : Nat
  h : Nat
  t : Nat
  /-- completion entries written and not yet signalled (R284) -/
  unsignalled : Nat
  /-- entries held for a completion ring that is full or not running, oldest first -/
  held : List (List Byte)
  /-- buffers fetched and not yet used, oldest first (RXBUF) -/
  bufs : List RxBuf
deriving DecidableEq, Repr

/-- A ring after reset. -/
def Ring.fresh : Ring :=
  { base := 0, size := 4, loc := false, rxbuf := false, pair := 0, vec := 0, irqen := false, weight := 1, fullpol := false,
    modCount := 1, modTime := 0, st := 0, err := 0, h := 0, t := 0, unsignalled := 0, held := [],
    bufs := [] }

/-- A received MPDU that waits for buffers or delivery (R282). -/
structure RxMpdu where
  slot : Nat
  gen : Nat
  eui : Nat
  cls : Nat
  group : Bool
  ring : Nat
  turn : Nat
  cone : Nat
  /-- lane of the sender and the turn in which it began to wait -/
  lane : Nat
  since : Nat
  /-- its place in the order in which the window check accepted MPDUs (R282) -/
  ord : Nat
  /-- header and decrypted payload -/
  bytes : List Byte
deriving DecidableEq, Repr

/-- Blocks of an incomplete received MPDU (R261): key (slot, MSEQ, CLS), block index with data, last index if known, the
turn of the first block, and the frame's epoch. -/
structure Reasm where
  slot : Nat
  mseq : Nat
  cls : Nat
  parts : NatMap (List Byte)
  last : Option Nat
  firstTurn : Nat
deriving DecidableEq, Repr

/-- A whole received MPDU that the saggar is to verify (R303). -/
structure RxWhole where
  lane : Nat
  slot : Nat
  epl : Nat
  g6 : Bool
  group : Bool
  cls : Nat
  mseq : Nat
  cone : Nat
  gen : Nat
  /-- turn of the reception -/
  turn : Nat
  bytes : List Byte
deriving DecidableEq, Repr

/-- A request accepted from an H2D mailbox and not yet answered, or answered and not yet acknowledged (R289). -/
structure Request where
  tag : Nat
  type : Nat
  ptr : Nat
  loc : Bool
  len : Nat
  answered : Bool
deriving DecidableEq, Repr

/-- A D2H post that waits for a free mailbox, or sits in one (R290). -/
structure D2hPost where
  ptr : Nat
  tag : Nat
  type : Nat
  status : Nat
  len : Nat
  /-- the body as far as the spec gives its contents -/
  body : List Byte
deriving DecidableEq, Repr

/-- Mailboxes beyond their registers. -/
structure Mbx where
  /-- requests whose tags are outstanding, oldest first -/
  requests : List Request
  /-- replies and notices that wait for a free D2H mailbox, oldest first -/
  waiting : List D2hPost
  /-- tag in each full D2H mailbox -/
  full : NatMap Nat
  /-- D2H posts since power-up -/
  seq : Nat
  /-- the D2H path is in ERROR -/
  err : Bool
  /-- a PCIe reset has stopped the D2H path (R410) -/
  stopped : Bool
deriving DecidableEq, Repr

/-- The queue manager beyond its registers. -/
structure Qm where
  /-- serial number of the next MPDU -/
  nextId : Nat
  queues : NatMap Queue
  rings : NatMap Ring
  /-- TX ring whose turn it is and how many descriptors it may still fetch -/
  rrRing : Nat
  rrLeft : Nat
  /-- RINGDB writes that wait for the hub to run, oldest first: ring and counter (R279) -/
  latched : List (Nat × Nat)
  /-- incomplete received MPDUs, oldest first -/
  reasm : List Reasm
  /-- MPDUs to be verified, oldest first -/
  whole : List RxWhole
  /-- accepted MPDUs that wait for delivery, oldest first -/
  deliver : List RxMpdu
  /-- place of the next accepted MPDU (R282) -/
  nextOrd : Nat
  /-- byte ranges (offset, length) written to the packet buffer through the SRAM window since the GX8 last took cells from it -/
  hostWrote : List (Nat × Nat)
deriving DecidableEq, Repr

/-- A hub neighbour entry (Table 9-3). -/
structure Nbr where
  eui : Nat
  st : Nat
  gen : Nat
  proto : Nat
  fdel : Bool
  group : Nat
  sleep : Bool
  epst : Nat
  g6pend : Bool
  seqvalid : Bool
  cpl : Nat
  port : Nat
  wset : Nat
  qexp : Nat
  txseq : Nat
  rxh : Nat
  rxw : Nat
  rxfc : Nat
  lastrx : Nat
  n : Nat
  f : Nat
  drift : Int
  unc : Nat
  tref : Nat
  dlcur : MapSet
  dlnext : MapSet
  dlepo : MapSet
  txmpdu : Nat
  rxmpdu : Nat
  dups : Nat
  replays : Nat
  authf : Nat
  abandon : Nat
  /-- turn starts of the group counted since the release (R252) -/
  qturns : Nat
  /-- consecutive missed wakes (R101) -/
  wmiss : Nat
  /-- host override of the coupling (SETCPL) is in force -/
  hostCpl : Bool
deriving DecidableEq, Repr

/-- A slot at power-up: FREE with generation 0 (R250). -/
def Nbr.free : Nbr :=
  { eui := 0, st := 0, gen := 0, proto := 0, fdel := false, group := 0, sleep := false, epst := 0, g6pend := false,
    seqvalid := false, cpl := 0, port := 0, wset := 0, qexp := 0, txseq := 0, rxh := 0, rxw := 0, rxfc := 0, lastrx := 0,
    n := 0, f := 0, drift := 0, unc := 0, tref := 0, dlcur := .zero, dlnext := .zero, dlepo := .zero, txmpdu := 0,
    rxmpdu := 0, dups := 0, replays := 0, authf := 0, abandon := 0, qturns := 0, wmiss := 0, hostCpl := false }

/-- An MPDU that the MAC engine has handed to device firmware (R269): lane and slot of its sender (0x3FFE for one that
holds no slot), type and payload. -/
structure FwMpdu where
  lane : Nat
  slot : Nat
  mtype : Nat
  /-- the 16 B header -/
  head : List Byte
  body : List Byte
deriving DecidableEq, Repr

/-- The MAC engine and the neighbour table beyond their registers. -/
structure Mac where
  nbr : NatMap Nbr
  /-- frame-action entries that differ from their reset contents (R269) -/
  fa : NatMap Nat
  /-- EUI-64s with a pending join, oldest first -/
  joins : List (Nat × Nat)
  /-- routes: FINAL to next-hop slot, generation and metric -/
  routes : NatMap (Nat × Nat × Nat)
  /-- GLP-6 addressees whose line has been free of detections, by lane: tick of the last detection -/
  lastDet : NatMap Nat
  /-- FDOK as the MAC engine knows it, bit n for group n (R157, R272) -/
  fdok : Nat
  /-- MPDUs that device firmware has yet to handle, oldest first -/
  fw : List FwMpdu
deriving DecidableEq, Repr

end Sys2Proof.Machine
end

