-- ==== Sys2Proof/Machine/TypesRx.lean ====
section
/-!
DEFINITION. State of a lane's receive side: the reception in progress, the decoders, the slip buffer, the gain loops, the
spyhole and the lane neighbour records (chapters 6 and 7).
-/
namespace Sys2Proof.Machine

/-- A slip entry (Table 7-3).  `metrics` are as restored from storage (R216). -/
structure SlipEntry where
  slot : Nat
  gen : Nat
  epl : Nat
  tmv : Nat
  rate : Nat
  bt : Nat
  order : Nat
  cnt : Nat
  miss : Nat
  uturn : Nat
  metrics : List Int
deriving DecidableEq, Repr

/-- Lines an entry occupies (R216). -/
def SlipEntry.lines (e : SlipEntry) : Nat := if e.bt = 1 then 24 else 102

/-- A freeing that waits for the block in decode (R222): every entry, or those of a slot; `counted` for those that count
in DISC1.AGED; `slcmd` for those that SLRES reports. -/
structure SlipFree where
  slot : Option Nat
  counted : Bool
  slcmd : Bool
deriving DecidableEq, Repr

/-- The slip buffer of a lane. -/
structure Slip where
  /-- entries in ORDER -/
  entries : List SlipEntry
  waiting : List SlipFree
deriving DecidableEq, Repr

/-- A block whose metrics are complete (R207): user and block index in the reception, the payload symbol that holds its last coded
bit, its received metrics, and its place in the order of dispatch once it has been dispatched. -/
structure RxBlk where
  user : Nat
  idx : Nat
  sym : Nat
  metrics : List Int
  num : Option Nat
deriving DecidableEq, Repr

/-- The decoders of a lane: ready blocks in order of dispatch, the block each engine decodes, the engines tested in the
current round of self-tests, and the self-test in progress (R207, R209). -/
structure Dec where
  queue : List RxBlk
  busy : NatMap RxBlk
  /-- blocks dispatched so far, and those that an engine has ended, with the tick, while one dispatched before them is still in
  decode: blocks are handled in the order of dispatch (R222) -/
  count : Nat
  ended : List (RxBlk × Nat)
  tested : Nat
  testing : Option Nat
  /-- a self-test waits until no ready block waits for an engine (R209) -/
  due : Bool
  /-- an exchange of the reserve and an active engine that waits for the block in progress on the latter -/
  swap : Option (Nat × Nat)
  /-- LATE has been raised in the reception in progress -/
  lateRaised : Bool
deriving DecidableEq, Repr

/-- What is known of one block of a reception. -/
structure BlkRes where
  /-- reported as passed -/
  pass : Bool
  /-- header word and data, for a passed block -/
  word : Nat
  data : List Byte
deriving DecidableEq, Repr

/-- One sender of a reception: the only one of a single-user frame, or a user of an uplink. -/
structure RxUser where
  slot : Nat
  gen : Nat
  tmv : Nat
  mode : Nat
  rate : Nat
  bt : Nat
  nblk : Nat
  present : Bool
  /-- ORDERs of the sender's matching entries at the start of the reception, for the rank of R218 -/
  ranks : List Nat
  /-- ORDERs of entries matched in this reception, and of those made in it (R218, R221) -/
  matched : List Nat
  made : List Nat
  results : NatMap BlkRes
  /-- MPDUs verified in this reception: MSEQ, CLS, and whether verification succeeded -/
  done : List (Nat × Nat × Bool)
deriving DecidableEq, Repr

/-- What becomes of a frame whose FC has been decoded (R82, R95, R249, R252, R265, R268, R269). -/
inductive RxFate
  | fcErr | fmtErr | foreign | epMis | mapMis | g6filt | qdrop | unknown | roleErr
  /-- the frame-action entry drops it, counted, or ignores it, or its action is reserved -/
  | faDrop | ignore | reserved
  /-- it is received -/
  | accept
deriving DecidableEq, Repr

/-- What a reception is (R163). -/
inductive RxKind
  /-- a preamble has been detected; the FC is still to come -/
  | detected
  /-- a single-user frame whose FC was accepted -/
  | frame (fc : Fc)
  /-- a multi-user uplink -/
  | uplink
deriving DecidableEq, Repr

/-- The reception in progress. -/
structure Rx where
  kind : RxKind
  /-- preamble start at the coupler, or B(GFAC) -/
  tp : Nat
  tend : Nat
  facet : Nat
  turn : Nat
  /-- role of the facet at the preamble start; QUIET in the length that a rephase adds (R87, R94) -/
  role : Nat
  /-- PGA codes at which it is taken (R168, R171) -/
  codes : List Nat
  /-- first short symbol that lies whole after the freeze (R172, R177) -/
  first : Nat
  /-- samples of the inputs from the start of its preamble on, as far as they were told (R165) -/
  kept : Option Capture
  /-- transforms that failed their energy check: input from 0 and a tick within the symbol at the pins (R384) -/
  bad : List (Nat × Nat)
  /-- its arrival against the nearest contention boundary, in TA units, in a CONTEND facet (R186, R266) -/
  contend : Option Int
  /-- band profile and epoch of the reception -/
  bp : Nat
  epl : Nat
  /-- it is the peer's frame of a full-duplex exchange -/
  fd : Bool
  /-- the lane coasted when it began, so that no slip entries are made of it (R222) -/
  coasted : Bool
  /-- it is the acknowledgement or reply expected by the frame with this serial number -/
  answers : Option Nat
  gi : Nat
  /-- the reception's blocks are re-send candidates (R218) -/
  cand : Bool
  users : List RxUser
  /-- frame-action entry bits of the frame (R269) -/
  action : Nat
  /-- MPDUs accepted for delivery, which goes ahead once the reception has been measured -/
  accepted : List RxMpdu
  serial : Nat
deriving DecidableEq, Repr

/-- The gain loops of a lane (R167 to R171). -/
structure Agc where
  /-- PGA codes of inputs 1 to 4, and what is left over of slow moves up, in 1/512 code (log entry 65) -/
  codes : List Nat
  frac : List Nat
  frozen : Bool
  /-- tick at which a frozen gain is released, once it is known (R168, R169) -/
  holdTo : Option Nat
  /-- facet and codes of a frame that the MAC engine refused, from which the gain learns when it is released (R171) -/
  learn : Option (Nat × List Nat)
  /-- 0 loop, 1 stored, 2 fixed, 3 uplink settling (Table 6-8) -/
  mode : Nat
  /-- a detection candidate is pending, and the tick from which it is -/
  cand : Bool
  since : Nat
  /-- PGA codes as STDATA packs them, with 2^28 while frozen, each with the tick from which they held, newest first (Table 6-6) -/
  trace : List (Nat × Nat)
  /-- a stored code that waits for the candidate: its facet -/
  deferred : Option Nat
  /-- start of an uplink's settling -/
  settle : Nat
  /-- stored entries (30 bits as STDATA shows them) that differ from their value at lane load -/
  stored : NatMap Nat
  /-- inputs whose code has been 0 since the facet began, inputs with an overload in the facet -/
  atZero : Nat
  ovl : Nat
deriving DecidableEq, Repr

/-- The spyhole of a lane (R194 to R196). -/
structure Spy where
  armed : Bool
  running : Bool
  done : Bool
  gap : Bool
  /-- record number since ARM -/
  seq : Nat
  /-- tick of the detection or failed FC that the armed trigger awaits, once it has occurred (R194) -/
  event : Option Nat
  /-- tick of the trigger point, until a record holds it, and tick of the next entry of a source whose entries follow each other (R194,
  R195) -/
  trigAt : Option Nat
  next : Nat
  /-- start of the FFT window that records have begun to hold, with the entries they have taken of it -/
  part : Option (Nat × Nat)
  /-- the last 4,096 samples of the inputs, as far as they were told (R194) -/
  hist : Option Capture
deriving DecidableEq, Repr

/-- A lane neighbour record (Tables 6-5 and 9-4). -/
structure LaneRec where
  tast : Nat
  tac : Int
  prev : Int
  miss : Nat
  aest : Int
  cavg : Nat
  lcone : Nat
  /-- a cone has been averaged -/
  coneSeen : Bool
  fofs : Int
  ppm : Int
  ldelta : Int
  lsrc : Nat
  tahit : Nat
  /-- uplink map set banks (Table 8-2), three words each -/
  bankA : MapSet
  bankB : MapSet
  gen : Nat
  active : Bool
  proto : Nat
deriving DecidableEq, Repr

/-- A record after reset (R255). -/
def LaneRec.zero : LaneRec :=
  { tast := 0, tac := 0, prev := 0, miss := 0, aest := 0, cavg := 0, lcone := 0, coneSeen := false, fofs := 0, ppm := 0,
    ldelta := 0, lsrc := 0, tahit := 0, bankA := .zero, bankB := .zero, gen := 0, active := false, proto := 0 }

/-- The receive side of a lane. -/
structure LaneRx where
  rx : Option Rx
  /-- a preamble detected after the reception in progress has ended on the line, while its blocks are still being decoded
  (Table 6-2) -/
  found : Option Rx
  /-- serial number of the next reception -/
  serial : Nat
  dec : Dec
  slip : Slip
  agc : Agc
  spy : Spy
  recs : NatMap LaneRec
  /-- spans of ticks, since the present facet began, in which a reception or a candidate was in progress or a detection spoils the noise
  windows (R234) -/
  spans : List (Nat × Nat)
  /-- inputs that took part at the last check (R180) -/
  inUse : Nat
deriving DecidableEq, Repr

/-- The receive side at lane load. -/
def LaneRx.fresh : LaneRx :=
  { rx := none, found := none, serial := 0, dec := { queue := [], busy := [], count := 0, ended := [], tested := 0, testing := none, due := false, swap := none, lateRaised := false },
    slip := { entries := [], waiting := [] },
    agc := { codes := [12, 12, 12, 12], frac := [0, 0, 0, 0], frozen := false, holdTo := none, learn := none, mode := 0, cand := false, since := 0, trace := [], deferred := none, settle := 0, stored := [],
             atZero := 0, ovl := 0 },
    spy := { armed := false, running := false, done := false, gap := false, seq := 0, event := none, trigAt := none, next := 0, part := none, hist := none },
    recs := [], spans := [], inUse := 0 }

end Sys2Proof.Machine
end

