-- ==== Sys2Proof/Machine/TypesTmap.lean ====
section
/-!
DEFINITION. A lane's tone-map library, noise table and builds (chapter 8).
-/
namespace Sys2Proof.Machine

/-- A map: band profile, rate code, GLP-6 mark, and the codes other than 0 by carrier (R225). -/
structure ToneMap where
  bp : Nat
  rate : Nat
  g6 : Bool
  codes : NatMap Nat
deriving DecidableEq, Repr

/-- A library entry: its map, the banks that name it, the host's hold, and when it was last released (R227). -/
structure LibEntry where
  map : ToneMap
  refs : Nat
  hold : Bool
  released : Nat
deriving DecidableEq, Repr

/-- A build of a peer's uplink set (R236, R240). -/
structure Build where
  slot : Nat
  /-- adaptation SOUNDs sent without a reply -/
  tries : Nat
  /-- ordered by BCMD.BUILD -/
  byCmd : Bool
  /-- a channel source is at hand: 0 none, 1 SOUND reply, 2 DATA or uplink -/
  source : Nat
  /-- the channel of that source: each input at each carrier from 40 up (R237) -/
  chan : List (List Cx)
  /-- margin to add that the peer asked for, 0.25 dB (R244) -/
  add : Nat
deriving DecidableEq, Repr

/-- A TMX the GX8 sent that the peer has not yet taken up (R242): the new version, the turns since it was sent, and how
often it was sent. -/
structure TmxOut where
  slot : Nat
  tmv : Nat
  turns : Nat
  sent : Nat
  /-- the new set is in bank B -/
  bankB : Bool
deriving DecidableEq, Repr

/-- The tone-map part of a lane. -/
structure Tmap where
  lib : NatMap LibEntry
  /-- count of releases, which orders the free entries -/
  clock : Nat
  builds : List Build
  /-- turns since the last build of each peer -/
  since : NatMap Nat
  tmx : List TmxOut
  /-- NEXT banks installed: slot to turns since the install (R243) -/
  pending : NatMap Nat
  /-- last turn in which each peer's DATA or uplink gave a channel, with that channel, and the channel of its most recent frame: each
  input at each carrier from 40 up (R129, R236) -/
  chan : NatMap (Nat × List (List Cx))
  est : NatMap (List (List Cx))
  /-- turn in which each peer's weight set was last recomputed (R129) -/
  wturn : NatMap Nat
  /-- phase of the QUIET facet that was measured last (R152) -/
  quietPh : Option Nat
  /-- TMV each peer last sent to the GX8 (R232) -/
  lastTmv : NatMap Nat
  /-- version the GX8 last gave each peer's uplink set -/
  version : NatMap Nat
  /-- means and peaks other than 0, by key (R233) -/
  mean : NatMap Nat
  peak : NatMap Nat
  /-- peers whose first sendings go at rate 1/2 until a new downlink set is in force (R245) -/
  halfRate : List Nat
deriving DecidableEq, Repr

/-- The tone-map part at lane load. -/
def Tmap.fresh : Tmap :=
  { lib := [], clock := 0, builds := [], since := [], tmx := [], pending := [], chan := [], est := [], wturn := [], quietPh := none, lastTmv := [], version := [],
    mean := [], peak := [], halfRate := [] }

end Sys2Proof.Machine
end

