-- ==== Sys2Proof/Machine/TypesWheel.lean ====
section
/-!
DEFINITION. State of the Wheel beyond its registers (chapter 3).
-/
namespace Sys2Proof.Machine

/-- An epoch: its number, band profile, pattern, glaze table and group key slot (R102 to R105). -/
structure EpochSet where
  num : Nat
  bp : Nat
  pat : Nat
  glz : Nat
  gkey : Nat
deriving DecidableEq, Repr

/-- A committed epoch change: the next epoch, the switch turn S and the straggle window W. -/
structure EpochChange where
  dest : EpochSet
  s : Nat
  w : Nat
deriving DecidableEq, Repr

/-- A quiet period announced or active: first turn T and length K. -/
structure Quiet where
  t : Nat
  k : Nat
deriving DecidableEq, Repr

/-- The constants of WHEEL.LOOP as a turn uses them: KP and KI, ACCWIN, PHCLAMP and PRCLAMP in 1/256 tick.  A change of the
register acts from the next turn start (Table 3-11). -/
structure LoopCfg where
  kp : Nat
  ki : Nat
  acc : Nat
  ph : Nat
  pr : Nat
deriving DecidableEq, Repr

/-- The facet clock and lock of one group (R83 to R89).  TS, P and the places of a rephase are in 1/256 tick. -/
structure WGroup where
  ts : Nat
  p : Nat
  nextTs : Nat
  nextP : Nat
  /-- the loop has set `nextTs` and `nextP` in facet 95 of this turn -/
  looped : Bool
  /-- errors of the accepted crossings of the turn, in 1/256 tick: sum and number -/
  errSum : Int
  errCnt : Nat
  /-- cycles of the turn whose crossing was accepted, and those counted as missed, as masks -/
  accepted : Nat
  missed : Nat
  /-- place, in 1/256 tick, of the crossing of the next turn's cycle 0, where it came before the turn did -/
  early : Option Nat
  /-- tick from which the turn before had the length that a rephase added, else the turn start; and the role of its last facet
  (R87, R89) -/
  ownEnd : Nat
  lastRole : Nat
  /-- start tick of the last run of the turn before, and CSLOT in that turn (R266) -/
  lastRun : Nat
  lastCslot : Nat
  /-- LOOP as it stood at the turn start -/
  loop : LoopCfg
  /-- consecutive misses in LOCKED -/
  consec : Nat
  /-- crossing ticks collected in ACQUIRE or FREE, newest first -/
  xs : List Nat
  /-- offsets, modulo P, of consecutive crossings off their predictions in HOLD, newest first, in 1/256 tick -/
  offs : List Int
  /-- mean interval found, in 1/256 tick, while the first turn or a rephase waits -/
  found : Option Nat
  /-- tick at which ACQUIRE began -/
  since : Nat
  /-- a rephase: the turn in which facet 95 is changed, and the place y of the next turn's start -/
  rephase : Option (Nat × Nat)
  /-- RUN was written 0: line activity ends with the current facet -/
  stopping : Bool
  /-- the epoch switch has been made in this group -/
  switched : Bool
  /-- the service pause holds in this group -/
  paused : Bool
  /-- the quiet period has been committed in this group -/
  quiet : Bool
  /-- turn whose beacon carries AMEND for the quiet period last cancelled (R104) -/
  amend : Option Nat
  /-- no opportunity opens before this tick: 40 µs after beacons that overran the BEACON run (R97) -/
  openFrom : Nat
  /-- MAC.CONTCFG.CSLOT as it stood at the turn start (R266) -/
  cslot : Nat
deriving DecidableEq, Repr

/-- A group whose Wheel is OFF. -/
def WGroup.off : WGroup :=
  { ts := 0, p := 0, nextTs := 0, nextP := 0, looped := false, errSum := 0, errCnt := 0, accepted := 0, missed := 0,
    early := none, ownEnd := 0, lastRole := 0, lastRun := 0, lastCslot := 4, loop := ⟨2, 5, 2621440, 262144, 524288⟩, consec := 0, xs := [], offs := [], found := none, since := 0,
    rephase := none, stopping := false, switched := false, paused := false, quiet := false, amend := none, openFrom := 0, cslot := 4 }

/-- A beacon of the store of R99: its turn, whether it is the coast copy or the previous-epoch copy, its period, its FC
bits and its 128 B body. -/
structure Beacon where
  turn : Nat
  coast : Bool
  old : Bool
  g6 : Bool
  period : Nat
  fc : Nat
  body : List Byte
deriving DecidableEq, Repr

/-- The Wheel. -/
structure Wheel where
  /-- entry words other than 0, by 96 * pattern + entry (R90) -/
  table : NatMap Nat
  cur : EpochSet
  prev : Option EpochSet
  next : Option EpochChange
  /-- the change whose switch or straggle window is under way -/
  active : Option EpochChange
  quiet : Option Quiet
  /-- ACTIVATE has completed, so that beacons may resume -/
  activated : Bool
  groups : NatMap WGroup
  store : NatMap (List Beacon)
  /-- peers whose wake window is open -/
  windows : List Nat
  /-- peers served in the quiet period, each with turn and facet of the arrival of its wake request (R104) -/
  calls : NatMap (Nat × Nat)
  /-- last turn number reached before a loss of REFCLK, and ticks since its start (R49) -/
  lost : Option (Nat × Nat)
deriving DecidableEq, Repr

/-- The Wheel after reset. -/
def Wheel.fresh : Wheel :=
  { table := [], cur := ⟨0, 0, 0, 0, 0⟩, prev := none, next := none, active := none, quiet := none, activated := false,
    groups := [], store := [], windows := [], calls := [], lost := none }

end Sys2Proof.Machine
end

