-- ==== Sys2Proof/Machine/TypesTx.lean ====
section
/-!
DEFINITION. State of a lane's transmit side and line front end: frames committed and sent, glaze tables, weight sets, the
canceller and the driver pins (chapters 4 and 5).
-/
namespace Sys2Proof.Machine

/-- Coupling of a frame (R124, R125). -/
inductive Coupling
  | single (p : Nat)
  | rotation
  | weights (set : Nat)
  /-- every working port sends the same signal (R125, G6BCAST) -/
  | same
deriving DecidableEq, Repr

/-- A block of a committed frame: where its MPDU is queued, the MPDU's serial number and the block index; with the header
word and data it carries on air. -/
structure FrameBlk where
  queue : Nat
  id : Nat
  bidx : Nat
  word : Nat
  data : List Byte
deriving DecidableEq, Repr

/-- What a lane fixes for a frame when its commitment arrives (R131). -/
structure TxSet where
  /-- working ports (R132), as a mask, and why each of the others is not working: 5 DISABLED, 3 CEILOFF, 4 PORTRET -/
  working : Nat
  causes : List Nat
  /-- the addressee's downlink set in force, by which a tone-mapped payload is loaded (R94, R231) -/
  maps : Option MapSet
  /-- words of the canceller's live banks, which the frame keeps to its end (R149) -/
  rep : NatMap Nat
  dig : NatMap Nat
  /-- glaze table of each port and its words that differ from those at lane load -/
  tables : List Nat
  glaze : List (NatMap Nat)
  cdd : Nat
  txdly : List Nat
  eff : List Int
  /-- words of the weight set's live bank, where one is used -/
  weights : Option (NatMap Nat)
deriving DecidableEq, Repr

/-- A granted uplink or full-duplex exchange that a lane awaits (R77, R182, R267). -/
structure Granted where
  t0 : Nat
  facet : Nat
  turn : Nat
  gtrn : Nat
  gi : Nat
  nsym : Nat
  bt : Nat
  bp : Nat
  epl : Nat
  fd : Bool
  users : List GrantRec
  /-- users, by index, whose sherds overlap those of a user of lower index and that count as absent (R182) -/
  ovl : List Nat
deriving DecidableEq, Repr

/-- A frame that the MAC engine has committed to a lane (R22). -/
structure TxFrame where
  serial : Nat
  t0 : Nat
  fc : Fc
  /-- user records of a GRANT or GROUP-ACK, as 32-bit words -/
  recs : List Nat
  blocks : List FrameBlk
  epoch : EpochSet
  coupling : Coupling
  /-- TXPORTS of the facet -/
  txports : Nat
  facet : Nat
  turn : Nat
  /-- addressee slot of a unicast frame, 0 otherwise -/
  slot : Nat
  /-- echo training pass: 0 none, 1 FULL, 2 TRACK -/
  training : Nat
  /-- GX8 frame of a full-duplex exchange -/
  fd : Bool
  /-- end of the exchange that the frame opens, ticks (R93) -/
  exEnd : Nat
  /-- what a GRANT announces -/
  grant : Option Granted
  /-- the arrival of the commitment missed its deadline -/
  late : Bool
  set : Option TxSet
deriving DecidableEq, Repr

/-- A frame on the air: the ports it left from, and the tick at the coupler from which a port that faulted sends no more of it
(R144). -/
structure AirFrame where
  frame : TxFrame
  ports : List Nat
  cuts : NatMap Nat
deriving DecidableEq, Repr

/-- The transmit side of a lane. -/
structure LaneTx where
  /-- commitments on their way to the lane, and those that have arrived, oldest first -/
  onWay : List TxFrame
  ready : List TxFrame
  /-- frames that the ports send or have lately sent, oldest first: the canceller's own signal (R136, R148) -/
  air : List AirFrame
  /-- sent frames whose answer is awaited, oldest first -/
  await : List TxFrame
  /-- end of the last postfix on each port, by port number -/
  busy : NatMap Nat
  /-- grants announced and not yet used -/
  grants : List Granted
  /-- glaze words that differ from those at lane load, by 1,024 * table + word -/
  glaze : NatMap Nat
  /-- weight words other than 0, by 512 * set + word, live and shadow bank, and the valid sets -/
  wlive : NatMap Nat
  wshadow : NatMap Nat
  wvalid : NatMap Nat
  /-- weight sets assigned to peers: set to slot -/
  wowner : NatMap Nat
deriving DecidableEq, Repr

/-- The canceller of a lane (R145 to R157). -/
structure Echo where
  /-- requested pass: 0 none, 1 FULL, 2 TRACK -/
  req : Nat
  /-- a FULL request waits for this many turns -/
  delay : Option Nat
  /-- running pass (1 FULL in phase A, 3 FULL from its guard on, 2 TRACK), the state before it, and whether it is void -/
  running : Nat
  before : Nat
  void : Bool
  /-- turns since the last completed pass -/
  since : Nat
  /-- residual of each input at the last successful pass, 0.5 dB -/
  resid : List Int
  /-- consecutive divergent frames -/
  divRun : Nat
  repLive : NatMap Nat
  repShadow : NatMap Nat
  digLive : NatMap Nat
  digShadow : NatMap Nat
  /-- banks to flip at the next commitment: bit 0 digital, bit 1 replica -/
  flip : Nat
  /-- samples of phase A of the pass that runs (R151) -/
  kept : Option Capture
  /-- PORTEN as it last stood for a whole turn, and a value that differs, seen at the last turn start and unchanged since -/
  porten : Nat
  portenNew : Option Nat
deriving DecidableEq, Repr

/-- Kind of the pass that runs: 0 none, 1 FULL, 2 TRACK. -/
def Echo.kind (e : Echo) : Nat := if e.running = 3 then 1 else e.running

/-- The line front end's pins and calibration. -/
structure Afe where
  /-- levels of the fault inputs, high as 1, port p in bit p - 1 (R144) -/
  fltPins : Nat
  /-- ports whose PORTEN bit does not return when the hold after a fault ends, because it was written since or was 0 -/
  written : Nat
  /-- inputs under calibration -/
  cal : Option Nat
deriving DecidableEq, Repr

/-- The transmit side at lane load. -/
def LaneTx.fresh : LaneTx :=
  { onWay := [], ready := [], air := [], await := [], busy := [], grants := [], glaze := [], wlive := [], wshadow := [], wvalid := [],
    wowner := [] }

/-- The canceller at lane load. -/
def Echo.fresh : Echo :=
  { req := 1, delay := none, running := 0, before := 1, void := false, since := 0,
    resid := [0, 0, 0, 0], divRun := 0, repLive := [], repShadow := [], digLive := [], digShadow := [], flip := 0, kept := none,
    porten := 7, portenNew := none }

/-- The front end at lane load. -/
def Afe.fresh : Afe := { fltPins := 7, written := 0, cal := none }

/-- Something that leaves the package: the model's record of outputs that no register shows, newest first. -/
inductive Emission
  /-- MSI-X message of a vector (R412) -/
  | msix (vec : Nat)
  /-- PM_PME message (R411) -/
  | pme
  /-- a character on a UART transmit line (R418) -/
  | uartChar (u : Nat) (b : Byte)
  /-- a break of `bits` bit times on a UART transmit line (R421) -/
  | uartBreak (u : Nat) (bits : Nat)
  /-- a two-wire transfer: address, bytes written, number of bytes read -/
  | twi (u : Nat) (addr : Nat) (out : List Byte) (rlen : Nat)
  /-- a frame on the line of a group, from the ports of a mask -/
  | frame (n : Nat) (f : TxFrame) (ports : Nat)
  /-- a port goes idle at a tick: it sends nothing more of what it was sending (R144) -/
  | cut (n p t : Nat)
  /-- a beacon a coasting lane sent from its store -/
  | beacon (n : Nat) (t0 : Nat) (b : Beacon)
  /-- a time pulse (R332) -/
  | tpulse
deriving DecidableEq, Repr

end Sys2Proof.Machine
end

