-- ==== Sys2Proof/Machine/TypesLane.lean ====
section
/-!
DEFINITION. A lane die beyond its registers and its measurement chain: receive side, transmit side, canceller, front end,
tone maps, and the coast buffer (R392).
-/
namespace Sys2Proof.Machine

/-- A reception that a coasting lane keeps: FC bits, the blocks that passed, and its place in time (R392). -/
structure Coasted where
  fc : Nat
  tp : Nat
  turn : Nat
  cone : Nat
  blocks : List (Nat × List Byte)
deriving DecidableEq, Repr

/-- A lane die. -/
structure LaneSt where
  rx : LaneRx
  tx : LaneTx
  echo : Echo
  afe : Afe
  tmap : Tmap
  /-- turns for which the lane has coasted, and whether it still sends beacons -/
  coastTurns : Nat
  coasted : List Coasted
  /-- user traffic is possible: the load is complete and the defaults applied (R372) -/
  ready : Bool
deriving DecidableEq, Repr

/-- A lane at lane load. -/
def LaneSt.fresh : LaneSt :=
  { rx := .fresh, tx := .fresh, echo := .fresh, afe := .fresh, tmap := .fresh, coastTurns := 0, coasted := [],
    ready := false }

end Sys2Proof.Machine
end

