-- ==== Sys2Proof/Machine/TypesPorts.lean ====
section
/-!
DEFINITION. State of the Skejo links, the event router, the PCIe endpoint, the QSPI target, the UARTs, the two-wire
controllers and the pins, as far as it stands in no register field of its own (R24 to R31, R412 to R425).
-/
namespace Sys2Proof.Machine

/-- Where the part stands (Table 1-15); CLK.PWRSTAT.STATE shows it except in RESET, where nothing is served. -/
inductive Power
  | reset | boot | active | coast | standby
deriving DecidableEq, Repr

/-- PWRSTAT.STATE code (Table 1-16); RESET has none and is given 0. -/
def Power.code : Power → Nat
  | .reset => 0 | .boot => 1 | .active => 2 | .coast => 3 | .standby => 4

/-- One Skejo packet: its virtual channel (0 to 3), its type and its payload, 0 to 256 B in units of 32 B (R24, R25). -/
structure SkejoPkt where
  vc : Nat
  kind : Nat
  payload : List Byte
deriving DecidableEq, Repr

/-- Units of 32 B of a packet's payload. -/
def SkejoPkt.units (p : SkejoPkt) : Nat := (p.payload.length + 31) / 32

/-- Sender and receiver of one direction of a link (R25 to R27). -/
structure SkejoDir where
  /-- packets waiting to be sent, oldest first -/
  waiting : List SkejoPkt
  /-- packets sent and not yet acknowledged, oldest first, with their sequence numbers -/
  replay : List (Nat × SkejoPkt)
  /-- sequence number of the next new packet (10 bits) -/
  nextSeq : Nat
  /-- credits the sender holds, 32 B units, VC0 to VC3 -/
  credit0 : Nat
  credit1 : Nat
  credit2 : Nat
  credit3 : Nat
  /-- sequence number the receiver expects -/
  expect : Nat
  /-- the receiver discards until the expected packet arrives -/
  discarding : Bool
  /-- the receiver has sent a NAK, naming the expected packet, that has not reached the sender -/
  nakSent : Bool
  /-- sequence number of the packet that failed last, and how often in a row it failed -/
  failSeq : Nat
  fails : Nat
  /-- packets the receiver has delivered, newest first -/
  delivered : List SkejoPkt
deriving DecidableEq, Repr

/-- A direction right after link training: receiver credits of Table 1-5. -/
def SkejoDir.fresh : SkejoDir :=
  { waiting := [], replay := [], nextSeq := 0, credit0 := 16, credit1 := 192, credit2 := 64, credit3 := 128,
    expect := 0, discarding := false, nakSent := false, failSeq := 0, fails := 0, delivered := [] }

/-- One link (R24). -/
structure Link where
  toLane : SkejoDir
  toHub : SkejoDir
  /-- how far the lane's copy of the sample-tick counter stands from the hub's, in ticks (R31) -/
  copyOff : Int
  /-- tick from which SPYCAP lets the next VC3 packet go (R26) -/
  spyFrom : Nat
deriving DecidableEq, Repr

/-- The direction `d` of a link. -/
def Link.dir (l : Link) : Dir → SkejoDir
  | .toLane => l.toLane
  | .toHub => l.toHub

/-- The link with direction `d` replaced. -/
def Link.setDir (l : Link) (d : Dir) (x : SkejoDir) : Link :=
  match d with
  | .toLane => { l with toLane := x }
  | .toHub => { l with toHub := x }

/-- What an initiator's latch for a page holds (R407). -/
inductive PrLatch
  /-- the previous access was no low access of a pair -/
  | none
  /-- the low word at page offset `off` was read and the high word latched -/
  | read (off high : Nat)
  /-- the low word `low` for the pair at page offset `off` is held -/
  | write (off low : Nat)
deriving DecidableEq, Repr

/-- PCIe endpoint state that stands in no BAR0 register (R409 to R412): MSI-X enable and function mask of the
configuration space, PME_En, the MSI-X table (words, reset value as written in `msixReset`) and the pending bits. -/
structure Pcie where
  msixEnable : Bool
  funcMask : Bool
  pmeEn : Bool
  table : NatMap Nat
  pending : Nat
  /-- the GX8 drives WAKE_N low (R411) -/
  wakeN : Bool
deriving DecidableEq, Repr

/-- A UART character in the receive FIFO. -/
structure UChar where
  data : Byte
  fe : Bool
  pe : Bool
deriving DecidableEq, Repr

/-- What a UART transmitter is sending. -/
inductive UTx
  | idle
  | char (b : Byte)
  | brk
deriving DecidableEq, Repr

/-- The open receive slot of a UART ring (R420): its data so far and the marks of Table 16-5. -/
structure USlot where
  data : List Byte
  err : Bool
  ovr : Bool
deriving DecidableEq, Repr

/-- One UART beyond its registers (R418 to R422). -/
structure Uart where
  txFifo : List Byte
  rxFifo : List UChar
  tx : UTx
  /-- SENDBRK waits for the character in progress -/
  brkPending : Bool
  /-- RTS asserted -/
  rts : Bool
  /-- level of the CTS input (asserted) -/
  cts : Bool
  /-- characters were lost since the last slot was opened -/
  lost : Bool
  slot : Option USlot
  /-- the receiver runs from the RC oscillator (R422) -/
  onRc : Bool
deriving DecidableEq, Repr

/-- One two-wire controller beyond its registers (R423, R424). -/
structure Twi where
  wfifo : List Byte
  rfifo : List Byte
  /-- a byte is in progress on the bus -/
  midByte : Bool
  /-- tick at which the last recovery failed (R424) -/
  failedAt : Nat
  /-- a START waits for the end of a bus recovery -/
  startWaits : Bool
  /-- SDA held low by a target -/
  sdaStuck : Bool
deriving DecidableEq, Repr

/-- The QSPI target beyond its registers (R414 to R416): the posted words and the shape of the last answer. -/
structure Qspi where
  buffer : List (Nat × Nat)
  /-- bytes the target sent in the last READ or STATUS frame -/
  sent : List Byte
deriving DecidableEq, Repr

/-- What the JTAG port's last instruction selects (R426). -/
inductive Jtag
  | bypass | boundary | debug
deriving DecidableEq, Repr

/-- Input pins of the system bank and what follows from them. -/
structure Pins where
  /-- level of STBY_REQ -/
  stbyReq : Bool
  /-- the pending STANDBY request came from the pin -/
  stbyPin : Bool
  /-- level of MAINS_OK -/
  mainsOk : Bool
  /-- a wake cause has begun the exit from STANDBY: the code of WAKECAUSE -/
  wake : Option Nat
  /-- PORST_N is low, and a rail of the hub is below its minimum: in either case the part is held in RESET and the hub's outputs
  are high-impedance (R437, R438) -/
  porstLow : Bool
  hubLow : Bool
  /-- lanes whose rail is below its minimum, by lane number (R438) -/
  railsLow : List Nat
  /-- the ROM found no bootable slot (R393) -/
  noBoot : Bool
  /-- REFCLK was lost and the hub does not run again yet (R49) -/
  refFault : Bool
deriving DecidableEq, Repr

end Sys2Proof.Machine
end

