-- ==== Sys2Proof/Machine/TypesTime.lean ====
section
/-!
DEFINITION. State of the time base (R322 to R335) and of the measurement chain (R337 to R356) that stands in no register
field of its own.
-/
namespace Sys2Proof.Machine

/-- A step of the time scale that waits to be applied. -/
inductive StepReq
  /-- at the next whole second of the scale, by `e` (R330), in units of 1/(64 * 10^10) ns -/
  | atSecond (e : Int)
  /-- at tick `t` the scale is to read `v` (R326 SET), in units of 1/(64 * 10^10) ns -/
  | atTick (t : Nat) (v : Nat)
deriving DecidableEq, Repr

/-- A stamped TIME_EVT edge (R335). -/
structure EvtStamp where
  tick : Nat
  sec : Nat
  ns : Nat
  falling : Bool
deriving DecidableEq, Repr

/-- The time base.  Scale values and errors are exact, in units of 1/(64 * 10^10) ns, so that one tick at
`r` tenths of a ppb is 625 * (10^10 + r) units (R323). -/
structure TimeBase where
  /-- the scale at the present tick -/
  scale : Nat
  /-- host frequency term, 0.1 ppb (R326) -/
  hostFr : Int
  /-- error still to be removed by slewing, reference minus GX8 time (R329) -/
  slew : Int
  /-- drift uncertainty u in 0.1 ppb (R327) -/
  uncert : Nat
  /-- mean absolute deviation behind u, in 2^-16 of 0.1 ppb -/
  dev : Nat
  /-- stamp of the last accepted edge of PPS_IN, or with SRC = 2 of the last STEER (R325, R326) -/
  lastEdge : Option Nat
  /-- consecutive accepted edges, and consecutive misses (R325) -/
  quals : Nat
  misses : Nat
  /-- step waiting to be applied -/
  step : Option StepReq
  /-- B0 of R331 in ns, and the tick at which the holdover began -/
  b0 : Nat
  holdFrom : Nat
  /-- FREQ, WIDTH and POL in force at TPULSE (R332) -/
  tpFreq : Nat
  tpWidth : Nat
  tpPol : Bool
  /-- start of the last pulse and the tick at which it ends -/
  pulseStart : Option Nat
  pulseEnd : Nat
  /-- event FIFO, oldest first, at most 16 entries (R335) -/
  events : List EvtStamp
deriving DecidableEq, Repr

/-- What the measurement chain of a lane keeps per channel. -/
structure MeasChan where
  /-- DC blocker estimate m in 2^-32 glost LSB (R342) -/
  dc : Int
  /-- sum of squares, number of samples and whether the cycle so far is clean (R353) -/
  sumSq : Nat
  count : Nat
  clean : Bool
  /-- modulator samples of the sinc filter's span, newest first, in 2^-31 V (R339) -/
  mods : List Int
  /-- outputs of the sinc filter since the glost path restarted (R340, R356) -/
  outs : Nat
  /-- inputs of the half-band stages 1 to 5, newest first, each with whether its own span was over range (R338, R340) -/
  stages : List (List (Int × Bool))
deriving DecidableEq, Repr

/-- What zero-crossing detection keeps per phase (R343). -/
structure MeasPhase where
  armed : Bool
  /-- no arming before this tick -/
  holdUntil : Nat
  /-- tick stamp of the last accepted crossing -/
  last : Option Nat
  /-- last glost sample: stamp, value, and whether it carries BLK, PRIME or OVR -/
  prev : Option (Nat × Int × Bool)
  /-- a crossing found and not yet reported: stamp of the sample before it, the two values, and whether either is marked -/
  found : Option (Nat × Int × Int × Bool)
deriving DecidableEq, Repr

/-- The measurement chain of one lane. -/
structure Meas where
  ch0 : MeasChan
  ch1 : MeasChan
  ch2 : MeasChan
  ch3 : MeasChan
  ch4 : MeasChan
  ch5 : MeasChan
  ph1 : MeasPhase
  ph2 : MeasPhase
  ph3 : MeasPhase
  /-- level of the Gn_BLANK pin, and the tick of its last change -/
  blankPin : Bool
  pinAt : Nat
  /-- a port of the group transmits (TXBLANK cause of R354), and the tick at which that ends -/
  transmitting : Bool
  txUntil : Nat
  /-- a blank is in force -/
  blanked : Bool
  /-- ticks at which the bisque and the glost path last restarted (R356) -/
  bisqueFrom : Nat
  glostFrom : Nat
  /-- the die is above +125 °C and has not yet cooled below +115 °C (R444) -/
  hot : Bool
  /-- the 20 °C band of the die temperature that counts for re-verification (R397), once known -/
  band : Option Int
  /-- compensated ticks of crossings of the reference phase that have not yet reached the Wheel, oldest first (R83) -/
  zcHeard : List Nat
deriving DecidableEq, Repr

/-- A channel at lane load. -/
def MeasChan.fresh : MeasChan := { dc := 0, sumSq := 0, count := 0, clean := false, mods := [], outs := 0, stages := List.replicate 5 [] }

/-- A phase at lane load. -/
def MeasPhase.fresh : MeasPhase := { armed := false, holdUntil := 0, last := none, prev := none, found := none }

/-- The chain at lane load (R342, R356). -/
def Meas.fresh : Meas :=
  { ch0 := .fresh, ch1 := .fresh, ch2 := .fresh, ch3 := .fresh, ch4 := .fresh, ch5 := .fresh,
    ph1 := .fresh, ph2 := .fresh, ph3 := .fresh, blankPin := false, pinAt := 0, transmitting := false, txUntil := 0, blanked := false, bisqueFrom := 0,
    glostFrom := 0, hot := false, band := none, zcHeard := [] }

/-- Channel `c` (0 to 5). -/
def Meas.chan (m : Meas) : Nat → MeasChan
  | 0 => m.ch0 | 1 => m.ch1 | 2 => m.ch2 | 3 => m.ch3 | 4 => m.ch4 | _ => m.ch5

/-- Replace channel `c`. -/
def Meas.setChan (m : Meas) (c : Nat) (x : MeasChan) : Meas :=
  match c with
  | 0 => { m with ch0 := x }
  | 1 => { m with ch1 := x }
  | 2 => { m with ch2 := x }
  | 3 => { m with ch3 := x }
  | 4 => { m with ch4 := x }
  | _ => { m with ch5 := x }

/-- Every channel as changed by `f`. -/
def Meas.onChans (m : Meas) (f : MeasChan → MeasChan) : Meas :=
  { m with ch0 := f m.ch0, ch1 := f m.ch1, ch2 := f m.ch2, ch3 := f m.ch3, ch4 := f m.ch4, ch5 := f m.ch5 }

/-- Phase `p`. -/
def Meas.phase (m : Meas) : Port → MeasPhase
  | .p1 => m.ph1 | .p2 => m.ph2 | .p3 => m.ph3

/-- Replace phase `p`. -/
def Meas.setPhase (m : Meas) (p : Port) (x : MeasPhase) : Meas :=
  match p with
  | .p1 => { m with ph1 := x }
  | .p2 => { m with ph2 := x }
  | .p3 => { m with ph3 := x }

end Sys2Proof.Machine
end

