-- ==== Sys2Proof/Machine/State.lean ====
section
/-!
DEFINITION. The state of the GX8 as plain data: the queue of waiting commands, the byte memories the part reaches and the
chip itself, and the state right after reset.
-/
namespace Sys2Proof.Machine

/-- The byte memories: the hub SRAM window (R32), host memory as the GX8's transfers reach it (R42), and the flash (R360).
Log entries 5 and 6 say what an unlisted byte reads as. -/
structure Mems where
  sram : Mem
  host : Mem
  flash : Mem
deriving DecidableEq, Repr

/-- Everything of the GX8 but the byte memories. -/
structure Chip where
  /-- which catalogue part this is (R1) -/
  part : Part
  power : Power
  /-- the islands other than AON stand still because REFCLK is absent (R49) -/
  stopped : Bool
  /-- the register fields whose value differs from their reset value, by bit address -/
  regs : NatMap Nat
  /-- sample-tick counter (R322) -/
  tick : Nat
  /-- the model's own counter of values the spec leaves open (Config.free) -/
  free : Nat
  /-- value the last served or refused read returned (the model's own record) -/
  rdata : Nat
  /-- latches of R407, by page base times 8 plus initiator code -/
  latches : NatMap PrLatch
  /-- event router entries (R412), by source -/
  router : NatMap Nat
  pcie : Pcie
  qspi : Qspi
  uart0 : Uart
  uart1 : Uart
  twi0 : Twi
  twi1 : Twi
  /-- levels driven onto the GPIO pins from outside -/
  gpioIn : Nat
  links : PerLane Link
  time : TimeBase
  meas : PerLane Meas
  fuses : Fuses
  health : Health
  boot : Boot
  pins : Pins
  keys : Keys
  qm : Qm
  mbx : Mbx
  mac : Mac
  wheel : Wheel
  lanes : PerLane LaneSt
  /-- serial number of the next committed frame -/
  frames : Nat
  jtag : Jtag
  /-- outputs so far, newest first -/
  out : List Emission
deriving DecidableEq, Repr

/-- The state: the waiting commands, first in first out, the memories and the chip. -/
structure State where
  pending : List Instr
  mem : Mems
  chip : Chip
deriving DecidableEq, Repr

/-- Why the block stops for good.  No command of the spec does; the type has no constructor. -/
inductive Fault
deriving DecidableEq, Repr

/-- Why a command has no meaning. -/
inductive Refusal
  /-- raised by an arm of `exec` whose command has no meaning yet: safe, nothing can be proved of its effect -/
  | notModelled (mnemonic : String)
deriving DecidableEq, Repr

/-- A UART after reset. -/
def Uart.reset : Uart :=
  { txFifo := [], rxFifo := [], tx := .idle, brkPending := false, rts := false, cts := false, lost := false, slot := none,
    onRc := false }

/-- A two-wire controller after reset. -/
def Twi.reset : Twi :=
  { wfifo := [], rfifo := [], midByte := false, failedAt := 0, startWaits := false, sdaStuck := false }

/-- The time base at power-up (R322, R323, R328). -/
def TimeBase.reset : TimeBase :=
  { scale := 0, hostFr := 0, slew := 0, uncert := 0, dev := 0, lastEdge := none, quals := 0, misses := 0, step := none,
    b0 := 0, holdFrom := 0, tpFreq := 1, tpWidth := 100000, tpPol := false, pulseStart := none, pulseEnd := 0,
    events := [] }

/-- Boot state at power-up: the ROM in SELECT (R365). -/
def Boot.fresh : Boot :=
  { rom := .select, slot := 0, refused := [], queue := none, trailer := [], noHeader := false, fromRam := false,
    activating := none, romDue := false, fellBack := false, greenEnd := 0, greenExpired := false, fallbackBegun := false, burned := 0,
    configured := false, cfg := [], saved := [] }

/-- The chip right after PORST_N has risen. -/
def Chip.reset : Chip :=
  { part := .gx880
    power := .boot
    stopped := false
    regs := []
    tick := 0
    free := 0
    rdata := 0
    latches := []
    router := []
    pcie := { msixEnable := false, funcMask := false, pmeEn := false, table := [], pending := 0, wakeN := false }
    qspi := { buffer := [], sent := [] }
    uart0 := .reset
    uart1 := .reset
    twi0 := .reset
    twi1 := .reset
    gpioIn := 0
    links := .const { toLane := .fresh, toHub := .fresh, copyOff := 0, spyFrom := 0 }
    time := .reset
    meas := .const .fresh
    fuses := { array := [], latched := [], margNow := [], margSeen := [], running := none }
    health := { buckets := [], retired := [], banksUsed := [], backstop := 0, secondWarm := false, coreRestarts := [],
                coresDown := [], reloadFails := [], seqRestarts := [], seqUntil := [], reloadAsked := [], lastBeat := 0, lastKsrst := 0,
                warmAt := 0 }
    boot := .fresh
    pins := { stbyReq := false, stbyPin := false, mainsOk := true, wake := none, porstLow := false, hubLow := false, railsLow := [],
              noBoot := false, refFault := false }
    keys := .fresh
    qm := { nextId := 0, queues := [], rings := [], rrRing := 0, rrLeft := 0, latched := [], reasm := [], whole := [], deliver := [], nextOrd := 0, hostWrote := [] }
    mbx := { requests := [], waiting := [], full := [], seq := 0, err := false, stopped := false }
    mac := { nbr := [], fa := [], joins := [], routes := [], lastDet := [], fdok := 0, fw := [] }
    wheel := .fresh
    lanes := .const .fresh
    frames := 0
    jtag := .bypass
    out := [] }

/-- The machine right after reset: nothing waiting, memories with nothing listed, the chip as PORST_N's rise leaves it
(R322, R365, R440). -/
def State.reset : State :=
  { pending := [], mem := { sram := [], host := [], flash := [] }, chip := Chip.reset }

end Sys2Proof.Machine
end

