-- ==== Sys2Proof/Machine/Ops.lean ====
section
/-!
DEFINITION. The named operations over the state: reading and writing register fields, saturating counters, free values,
byte memories, and the way a command's effect becomes the next state.
-/
namespace Sys2Proof.Machine

/-- Value of a register field. -/
def Chip.get (c : Chip) (f : Fld) : Nat := c.regs.getD f.key f.reset

/-- Set a register field (its low bits; a field at its reset value is not listed). -/
def Chip.set (c : Chip) (f : Fld) (v : Nat) : Chip :=
  let v' := v % 2 ^ f.width
  { c with regs := if v' = f.reset then c.regs.erase f.key else c.regs.insert f.key v' }

/-- A one-bit field as a Bool. -/
def Chip.flag (c : Chip) (f : Fld) : Bool := c.get f % 2 == 1

/-- Set a one-bit field. -/
def Chip.setFlag (c : Chip) (f : Fld) (b : Bool) : Chip := c.set f (bit b)

/-- Bit `b` of a field. -/
def Chip.bitAt (c : Chip) (f : Fld) (b : Nat) : Bool := (c.get f).testBit b

/-- Set or clear bit `b` of a field. -/
def Chip.setBitAt (c : Chip) (f : Fld) (b : Nat) (v : Bool) : Chip :=
  c.set f (if v then setBit (c.get f) b else clearMask (c.get f) (2 ^ b))

/-- Add `k` to a counter field, which stops at its largest value ("saturates"). -/
def Chip.count (c : Chip) (f : Fld) (k : Nat) : Chip := c.set f (satAdd f.width (c.get f) k)

/-- The signed reading of a field. -/
def Chip.getInt (c : Chip) (f : Fld) : Int := toSigned f.width (c.get f)

/-- Set a field to the two's complement form of a number. -/
def Chip.setInt (c : Chip) (f : Fld) (z : Int) : Chip := c.set f (ofSigned f.width z)

/-- The pins changed by `f`. -/
def Chip.onPins (c : Chip) (f : Pins → Pins) : Chip := { c with pins := f c.pins }

/-- The fuses changed by `f`. -/
def Chip.onFuses (c : Chip) (f : Fuses → Fuses) : Chip := { c with fuses := f c.fuses }

/-- Timekeeping changed by `f`. -/
def Chip.onTime (c : Chip) (f : TimeBase → TimeBase) : Chip := { c with time := f c.time }

/-- Boot state changed by `f`. -/
def Chip.onBoot (c : Chip) (f : Boot → Boot) : Chip := { c with boot := f c.boot }

/-- The PCIe function changed by `f`. -/
def Chip.onPcie (c : Chip) (f : Pcie → Pcie) : Chip := { c with pcie := f c.pcie }

/-- Return a field to its reset value. -/
def Chip.resetFld (c : Chip) (f : Fld) : Chip := { c with regs := c.regs.erase f.key }

/-- Apply `f` where `b` holds. -/
def Chip.iff (c : Chip) (b : Bool) (f : Chip → Chip) : Chip := if b then f c else c

/-- The next value the spec leaves open, below `m`. -/
def Chip.freeBelow (c : Chip) (m : Nat) : Nat := Config.free c.free % m

/-- Move on to the next free value. -/
def Chip.nextFree (c : Chip) : Chip := { c with free := c.free + 1 }

/-- Record the value a read returns (the model's own record). -/
def Chip.setRdata (c : Chip) (v : Nat) : Chip := { c with rdata := v }

/-- Record an output. -/
def Chip.emit (c : Chip) (e : Emission) : Chip := { c with out := e :: c.out }

/-- Whether lane `n` is fitted (R3). -/
def Chip.fitted (c : Chip) (n : Lane) : Bool := n.idx < c.part.lanes

/-! The common registers of Table 0-4. -/

/-- PCTL.ENABLE of a page (Table 0-5). -/
def pctlEnable (p : Page) : Fld := ⟨p.base + 0x008, 0, 1, .rw, 1, .any⟩
/-- PCTL.SOFTRESET of a page (Table 0-5). -/
def pctlSoftreset (p : Page) : Fld := ⟨p.base + 0x008, 1, 1, .rw, 0, .any⟩
/-- The ENABLE value that a soft reset carries until it completes (R9). -/
def pctlCarried (p : Page) : Fld := ⟨p.base + 0x008, 8, 1, .ro, 0, .any⟩
/-- PEVT of a page (R10). -/
def pevt (p : Page) : Fld := ⟨p.base + 0x010, 0, 32, .w1c, 0, .any⟩
/-- PEVTEN of a page. -/
def pevten (p : Page) : Fld := ⟨p.base + 0x014, 0, 32, .rw, 0, .any⟩
/-- PFAULT of a page (R10). -/
def pfault (p : Page) : Fld := ⟨p.base + 0x018, 0, 32, .w1c, 0, .any⟩
/-- PFCNT.COUNT of a page (R448). -/
def pfcntCount (p : Page) : Fld := ⟨p.base + 0x01C, 0, 16, .ro, 0, .any⟩
/-- PFCNT.LAST of a page (R448). -/
def pfcntLast (p : Page) : Fld := ⟨p.base + 0x01C, 16, 8, .ro, 0, .any⟩
/-- Expert lock of a page (R11): 0 locked, 1 locked with the first key written, 2 unlocked. -/
def plock (p : Page) : Fld := ⟨p.base + 0x020, 0, 2, .ro, 0, .any⟩

/-- Whether the page's expert level is unlocked (R11). -/
def Chip.unlocked (c : Chip) (p : Page) : Bool := c.get (plock p) == 2

/-! Byte memories. -/

/-- The memories a write can reach. -/
inductive Space
  | sram | host | flash
deriving DecidableEq, Repr

/-- What an unlisted byte reads as: 0 in SRAM and host memory (log entry 5), 0xFF in flash (log entry 6). -/
def Space.unlisted : Space → Byte
  | .sram => 0 | .host => 0 | .flash => 0xFF

/-- One past the highest address: the 16 MiB SRAM window (R32), 64-bit host addresses, the 512 MiB that the flash
controller reaches (R417). -/
def Space.top : Space → Nat
  | .sram => 0x01000000 | .host => 2 ^ 64 | .flash => 0x20000000

/-- A write to a memory: bytes from an address up, or a range returned to its unlisted value (erased). -/
inductive MemWr
  | bytes (sp : Space) (addr : Nat) (bs : List Byte)
  | clear (sp : Space) (addr : Nat) (len : Nat)
deriving DecidableEq, Repr

/-- The memory of a space. -/
def Mems.of (m : Mems) : Space → Mem
  | .sram => m.sram | .host => m.host | .flash => m.flash

/-- Replace the memory of a space. -/
def Mems.put (m : Mems) (sp : Space) (x : Mem) : Mems :=
  match sp with
  | .sram => { m with sram := x }
  | .host => { m with host := x }
  | .flash => { m with flash := x }

/-- The byte at an address of a space. -/
def Mems.read (m : Mems) (sp : Space) (a : Nat) : Byte := Mem.read sp.unlisted (m.of sp) a

/-- `n` bytes from an address of a space. -/
def Mems.readBytes (m : Mems) (sp : Space) (a n : Nat) : List Byte := Mem.readBytes sp.unlisted (m.of sp) a n

/-- Write bytes; those at or beyond the top of the space have no place and are dropped. -/
def Mems.writeBytes (m : Mems) (sp : Space) (a : Nat) (bs : List Byte) : Mems :=
  m.put sp (Mem.writeBytes sp.unlisted (m.of sp) a (bs.take (sp.top - a)))

/-- Apply one write. -/
def Mems.apply (m : Mems) : MemWr → Mems
  | .bytes sp a bs => m.writeBytes sp a bs
  | .clear sp a n => m.put sp (Mem.clear (m.of sp) a n)

/-- Apply writes in order. -/
def Mems.applyAll (m : Mems) (ws : List MemWr) : Mems := ws.foldl Mems.apply m

/-- The canonical form of all memories. -/
def Mems.wf (m : Mems) : Bool :=
  Mem.wf Space.sram.unlisted Space.sram.top m.sram && Mem.wf Space.host.unlisted Space.host.top m.host
    && Mem.wf Space.flash.unlisted Space.flash.top m.flash

/-- A command at work: the memories as the command finds them, the chip as changed so far, and the memory writes it has
made, oldest first. -/
structure Work where
  mem : Mems
  chip : Chip
  writes : List MemWr

/-- Change the chip. -/
def Work.onChip (w : Work) (f : Chip → Chip) : Work := { w with chip := f w.chip }

/-- Write bytes to a memory. -/
def Work.write (w : Work) (sp : Space) (a : Nat) (bs : List Byte) : Work :=
  { w with writes := w.writes ++ [.bytes sp a bs] }

/-- Return a range to its unlisted value. -/
def Work.clear (w : Work) (sp : Space) (a n : Nat) : Work := { w with writes := w.writes ++ [.clear sp a n] }

/-- Bytes of a memory as they stand after the writes made so far. -/
def Work.readBytes (w : Work) (sp : Space) (a n : Nat) : List Byte := (w.mem.applyAll w.writes).readBytes sp a n

/-- Apply `f` where `b` holds. -/
def Work.iff (w : Work) (b : Bool) (f : Work → Work) : Work := if b then f w else w

/-- The state after a command whose effect is on the chip alone. -/
def State.onChip (s : State) (f : Chip → Chip) : State := { s with chip := f s.chip }

/-- The state after a command that may also write memory. -/
def State.onWork (s : State) (f : Work → Work) : State :=
  let w := f ⟨s.mem, s.chip, []⟩
  { s with chip := w.chip, mem := s.mem.applyAll w.writes }

end Sys2Proof.Machine
end

