-- ==== Sys2Proof/Machine/Flags.lean ====
section
/-!
DEFINITION. Latched events and faults, the event router and the interrupt vectors (R10, R412, R413, R448).
-/
namespace Sys2Proof.Machine

/-- Router entry of a source (R412, Table 16-8): bits 4:0 VEC, bit 8 MSIX, bit 9 FAULT. -/
def Chip.routerEntry (c : Chip) (src : Nat) : Nat := c.router.getD src 0

/-- The vector-control word of MSI-X vector `v`; its bit 0 masks the vector and is 1 after reset (R405). -/
def Chip.msixControl (c : Chip) (v : Nat) : Nat := c.pcie.table.getD (4 * v + 3) 1

/-- Whether a message of vector `v` can be sent now (R412). -/
def Chip.vecOpen (c : Chip) (v : Nat) : Bool :=
  c.pcie.msixEnable && !c.pcie.funcMask && !(c.msixControl v).testBit 0

/-- Set bit `v` of VECSTAT and the vector's pending bit (R412). -/
def Chip.setVector (c : Chip) (v : Nat) : Chip :=
  let c := c.setBitAt F.EVT_VECSTAT_SIG v true
  c.onPcie fun x => { x with pending := setBit x.pending v }

/-- Latch bit `b` of the EVT page's own PEVT and, if it was clear and is enabled, signal its vector. -/
def Chip.raiseEvt (c : Chip) (b : Nat) : Chip :=
  let was := c.bitAt (pevt .evt) b
  let c := c.setBitAt (pevt .evt) b true
  if !was && c.bitAt (pevten .evt) b && (c.routerEntry (8 + b)).testBit 8 then
    c.setVector (bitField (c.routerEntry (8 + b)) 0 5)
  else c

/-- Signal a vector; a message that cannot leave raises MSIXOFF (R412, R428). -/
def Chip.signalVec (c : Chip) (v : Nat) : Chip :=
  let c := c.setVector v
  if c.vecOpen v then c else c.raiseEvt 1

/-- A source fires (R412): its entry's vector is signalled if MSIX is 1; a source routed to FAULT_N raises FAULTRT
(R413, R428). -/
def Chip.fire (c : Chip) (src : Nat) : Chip :=
  let e := c.routerEntry src
  let c := if e.testBit 8 then c.signalVec (bitField e 0 5) else c
  if e.testBit 9 then c.raiseEvt 0 else c

/-- Whether the page can raise events: the sources of an unfitted lane never fire (R5). -/
def Chip.pageLive (c : Chip) (p : Page) : Bool :=
  match p.lane? with
  | some n => c.fitted n
  | none => true

/-- An event: PEVT bit `b` latches and, if it was clear and PEVTEN is 1, its source fires (R10, R412). -/
def Chip.raise (c : Chip) (p : Page) (b : Nat) : Chip :=
  if c.pageLive p then
    let was := c.bitAt (pevt p) b
    let c := c.setBitAt (pevt p) b true
    if !was && c.bitAt (pevten p) b then c.fire (p.source b) else c
  else c

/-- Count a setting of PFAULT bit `b` (R448). -/
def Chip.countFault (c : Chip) (p : Page) (b : Nat) : Chip :=
  (c.count (pfcntCount p) 1).set (pfcntLast p) b

/-- A fault: PFAULT bit `b` is set, and counted if it was clear (R10, R448). -/
def Chip.pfaultSet (c : Chip) (p : Page) (b : Nat) : Chip :=
  let was := c.bitAt (pfault p) b
  let c := c.setBitAt (pfault p) b true
  if was then c else c.countFault p b

/-- The bits of a word that are set, lowest first. -/
def bitsOf (w x : Nat) : List Nat := (List.range w).filter fun b => x.testBit b

/-- W1C write of PEVT: the bits of `mask` clear, but a bit of `again` whose event recurs in the same cycle stays set and
fires anew if it is enabled (R10, R412). -/
def Chip.clearPevt (c : Chip) (p : Page) (mask again : Nat) : Chip :=
  let re := mask &&& again &&& c.get (pevt p)
  let c := c.set (pevt p) (clearMask (c.get (pevt p)) mask ||| re)
  (bitsOf 32 re).foldl (fun c b => if c.bitAt (pevten p) b then c.fire (p.source b) else c) c

/-- W1C write of PFAULT: the bits of `mask` clear, but a bit of `again` whose fault recurs in the same cycle stays set
and counts as a new setting (R10, R448). -/
def Chip.clearPfault (c : Chip) (p : Page) (mask again : Nat) : Chip :=
  let re := mask &&& again &&& c.get (pfault p)
  let c := c.set (pfault p) (clearMask (c.get (pfault p)) mask ||| re)
  (bitsOf 32 re).foldl (fun c b => c.countFault p b) c

/-- A write of PEVTEN: the enables take the value; a source whose PEVT bit is 1 fires when its enable goes from 0 to 1
(R412).  Bits beyond the page's event range stay 0 (log entry 13). -/
def Chip.writePevten (c : Chip) (p : Page) (v : Nat) : Chip :=
  let old := c.get (pevten p)
  let new := v &&& p.eventMask
  let c := c.set (pevten p) new
  (bitsOf 32 (clearMask new old &&& c.get (pevt p))).foldl (fun c b => c.fire (p.source b)) c

/-- Sources routed to FAULT_N whose event is latched and enabled, lowest first (R413). -/
def Chip.faultSources (c : Chip) : List Nat :=
  Page.all.flatMap fun p =>
    let live := if c.pageLive p then c.get (pevt p) &&& c.get (pevten p) else 0
    ((bitsOf 32 live).map p.source).filter fun src => (c.routerEntry src).testBit 9

/-- One MSI-X message of vector `v` leaves if the vector is pending and open; its pending bit clears (R412). -/
def Chip.sendVec (c : Chip) (v : Nat) : Chip :=
  if c.pcie.pending.testBit v && c.vecOpen v then
    (c.onPcie fun x => { x with pending := clearMask x.pending (2 ^ v) }).emit (.msix v)
  else c

end Sys2Proof.Machine
end

