-- ==== Sys2Proof/Machine/Operands.lean ====
section
/-!
DEFINITION. The operand forms of a register access: what a BAR0 offset names (Tables 16-1 and 16-2), when an access is
served, refused or left unserved (R5, R12, R30, R48, R405, R406, R408), and how a value is stored by register type
(R13 to R15, R407).
-/
namespace Sys2Proof.Machine

/-- The registers of a page beyond the common layout of Table 0-4. -/
def pageRegs : Page → List Reg
  | .sys => regsSYS | .clk => regsCLK | .evt => regsEVT | .health => regsHEALTH | .fuse => regsFUSE | .boot => regsBOOT
  | .time => regsTIME | .mbx => regsMBX | .qm => regsQM | .mac => regsMAC | .wheel => regsWHEEL | .nbr => regsNBR
  | .saggar => regsSAGGAR | .keys => regsKEYS | .pcie => regsPCIE | .qspit => regsQSPIT | .xspi => regsXSPI
  | .uart u => regsUART u | .twi u => regsTWI u | .gpio => regsGPIO | .skejo => regsSKEJO
  | .lsys n => regsLSYS n | .afe n => regsAFE n | .agc n => regsAGC n | .echo n => regsECHO n | .txp n => regsTXP n
  | .rxp n => regsRXP n | .dec n => regsDEC n | .slip n => regsSLIP n | .tmap n => regsTMAP n | .meas n => regsMEAS n
  | .linear n => regsLINEAR n | .warden n => regsWARDEN n | .spy n => regsSPY n

/-- The register at a page offset, if a register table lists one. -/
def findReg (p : Page) (off : Nat) : Option Reg := (pageRegs p).find? fun r => r.off == off

/-- Whether a page offset is one of the common registers of Table 0-4. -/
def commonOff (off : Nat) : Bool := off % 4 == 0 && off ≤ 0x020

/-- Whether a page offset holds a register (R406). -/
def isReg (p : Page) (off : Nat) : Bool := commonOff off || (findReg p off).isSome

/-- What a BAR0 offset names (Table 16-1). -/
inductive Region
  | page (p : Page) (off : Nat)
  | msixTable (off : Nat)
  | msixPba (off : Nat)
  | sram (off : Nat)
  | laneWindow (n : Lane) (off : Nat)
  | unmapped
deriving DecidableEq, Repr

/-- The page of a hub page number (Table 16-2). -/
def hubPage? : Nat → Option Page
  | 0x00 => some .sys | 0x01 => some .clk | 0x02 => some .evt | 0x03 => some .health | 0x04 => some .fuse
  | 0x05 => some .boot | 0x06 => some .time | 0x07 => some .mbx | 0x08 => some .qm | 0x09 => some .mac
  | 0x0A => some .wheel | 0x0B => some .nbr | 0x0C => some .saggar | 0x0D => some .keys | 0x0E => some .pcie
  | 0x0F => some .qspit | 0x10 => some .xspi | 0x11 => some (.uart .u0) | 0x12 => some (.uart .u1)
  | 0x13 => some (.twi .u0) | 0x14 => some (.twi .u1) | 0x15 => some .gpio | 0x16 => some .skejo
  | _ => none

/-- The page of a lane page number (Table 16-2). -/
def lanePage? (n : Lane) : Nat → Option Page
  | 0x0 => some (.lsys n) | 0x1 => some (.afe n) | 0x2 => some (.agc n) | 0x3 => some (.echo n) | 0x4 => some (.txp n)
  | 0x5 => some (.rxp n) | 0x6 => some (.dec n) | 0x7 => some (.slip n) | 0x8 => some (.tmap n) | 0x9 => some (.meas n)
  | 0xA => some (.linear n) | 0xB => some (.warden n) | 0xC => some (.spy n)
  | _ => none

/-- The region of a lane page or window, by distance from the start of the lanes' regions. -/
def laneRegion (d : Nat) : Region :=
  match Lane.ofNum (d / 0x00200000 + 1) with
  | none => .unmapped
  | some n =>
    match lanePage? n (d % 0x00200000 / 0x1000) with
    | some p => .page p (d % 0x1000)
    | none => .unmapped

/-- What a BAR0 offset names (Table 16-1). -/
def regionOf (addr : Nat) : Region :=
  if addr < 0x00017000 then
    match hubPage? (addr / 0x1000) with
    | some p => .page p (addr % 0x1000)
    | none => .unmapped
  else if 0x00F00000 ≤ addr ∧ addr < 0x00F00200 then .msixTable (addr - 0x00F00000)
  else if 0x00F01000 ≤ addr ∧ addr < 0x00F01008 then .msixPba (addr - 0x00F01000)
  else if 0x01000000 ≤ addr ∧ addr < 0x01000000 + 7 * 0x00200000 then laneRegion (addr - 0x01000000)
  else if 0x02000000 ≤ addr ∧ addr < 0x03000000 then .sram (addr - 0x02000000)
  else if 0x03000000 ≤ addr ∧ addr < 0x03000000 + 7 * 0x00200000 then
    match Lane.ofNum ((addr - 0x03000000) / 0x00200000 + 1) with
    | some n => .laneWindow n ((addr - 0x03000000) % 0x00200000)
    | none => .unmapped
  else .unmapped

/-- Whether link `n` is UP or DEGRADED (Table 1-6). -/
def Chip.linkUp (c : Chip) (n : Lane) : Bool :=
  !c.stopped && (c.get (F.SKEJO_LINKSTAT_STATE n) == 2 || c.get (F.SKEJO_LINKSTAT_STATE n) == 3)

/-- Whether lane `n`'s pages and window answer: the lane is fitted and its link UP or DEGRADED (R5, R30). -/
def Chip.laneReach (c : Chip) (n : Lane) : Bool := c.fitted n && c.linkUp n

/-- The doorbell registers of R40. -/
def isDoorbell (p : Page) (off : Nat) : Bool :=
  match p with
  | .mbx => 0x040 ≤ off && off ≤ 0x054
  | .qm => off == 0x048
  | _ => false

/-- Whether the part serves a region at all.  In STANDBY and COAST only the CLK page, the doorbell registers and the
MSI-X structures are (R48); in ROM recovery the BOOT page, the CLK page, the MSI-X structures and the SRAM window (R369);
in RESET, and while REFCLK is absent, nothing is (R45, R49). -/
def Chip.serves (c : Chip) (r : Region) : Bool :=
  match c.power with
  | .reset => false
  | p =>
    if c.stopped then false
    else if p != .standby && c.get F.BOOT_BSTAT_STAGE == 1 then
      match r with
      | .page p _ => p == .clk || p == .boot
      | .msixTable _ | .msixPba _ | .sram _ => true
      | _ => false
    else if p == .standby || p == .coast then
      match r with
      | .page p off => p == .clk || isDoorbell p off
      | .msixTable _ | .msixPba _ => true
      | _ => false
    else true

/-- Whether an access of initiator `i` is served: the cores of a hub that runs its image after a warm restart reach its pages, while
the host waits for the first KSBEAT (R48, R391). -/
def Chip.servesTo (c : Chip) (i : Init) (r : Region) : Bool :=
  c.serves r || (!i.isHost && c.power == .coast && !c.stopped && c.get F.BOOT_BSTAT_STAGE == 2)

/-- Whether a write by initiator `i` is reserved to another writer (ACCINFO.CAUSE 7): BOOT.CONFIRM and FUSE.BURNRB are
for device firmware, HEALTH.KSBEAT is for core 3 (R376, Table 15-9, Table 15-10); the XSPI page belongs to the ROM while
the ROM runs (R367). -/
def Chip.writerBarred (c : Chip) (i : Init) (p : Page) (off : Nat) (write : Bool) : Bool :=
  match p with
  | .boot => write && off == 0x060 && i.isHost
  | .health => write && off == 0x060 && i != .core3
  | .fuse => write && off == 0x400 && i.isHost
  | .xspi => i.isHost && c.get F.BOOT_BSTAT_STAGE == 0
  | _ => false

/-- Why an access to a register page is refused, before the register itself judges it (R406, R408).  Of several causes
the first in this order is recorded: lane, alignment, offset, writer, width, expert lock (log entry 10). -/
def Chip.pageRefusal (c : Chip) (i : Init) (p : Page) (off size : Nat) (write : Bool) : Option Nat :=
  let word := off / 4 * 4
  if (match p.lane? with
      | some n => !c.laneReach n
      | none => false) then some 6
  else if off % size ≠ 0 then some 1
  else if !isReg p word then some 5
  else if c.writerBarred i p word write then some 7
  else if size < 4 && write && !((findReg p word).any fun r => r.bw) then some 2
  else if size < 4 && !write && (findReg p word).any (fun r => r.port) then some 3
  else if write && 0x400 ≤ off && !c.unlocked p then some 4
  else none

/-- Record a refused access (R408): count it, set SYS.PFAULT.ACCESS, raise ACCESS, and capture it if ACCESS was 0. -/
def Chip.refuse (c : Chip) (i : Init) (addr cause size : Nat) (write : Bool) : Chip :=
  let first := !c.bitAt (pfault .sys) 0
  let c := (c.count F.SYS_ACCCNT_COUNT 1).pfaultSet .sys 0
  let c := c.raise .sys 0
  if first then
    ((((c.set F.SYS_ACCADDR_ADDR addr).set F.SYS_ACCINFO_CAUSE cause).set F.SYS_ACCINFO_INIT i.code).set
      F.SYS_ACCINFO_WRITE (bit write)).set F.SYS_ACCINFO_SIZE (if size = 1 then 0 else if size = 2 then 1 else 2)
  else c

/-- Key of the latch of an initiator for a page (R407). -/
def latchKey (i : Init) (p : Page) : Nat := p.base * 8 + i.code

/-- What the initiator's latch for a page holds. -/
def Chip.latch (c : Chip) (i : Init) (p : Page) : PrLatch := c.latches.getD (latchKey i p) .none

/-- Set the latch. -/
def Chip.setLatch (c : Chip) (i : Init) (p : Page) (l : PrLatch) : Chip :=
  { c with latches := if l = .none then c.latches.erase (latchKey i p) else c.latches.insert (latchKey i p) l }

/-- Any access but a low access of a pair clears the initiator's latch for the page (R407). -/
def Chip.touch (c : Chip) (i : Init) (p : Page) : Chip := c.setLatch i p .none

/-- A 32-bit write by `i` to the register at offset `off` of page `p`: unserved, refused, or taking the effect `eff`. -/
def Work.gate (w : Work) (i : Init) (p : Page) (off : Nat) (eff : Work → Work) : Work :=
  if w.chip.servesTo i (.page p off) then
    match w.chip.pageRefusal i p off 4 true with
    | some cause => w.onChip fun c => (c.touch i p).refuse i (p.base + off) cause 4 true
    | none => eff (w.onChip fun c => c.touch i p)
  else w

/-- `Work.gate` for an effect on the chip alone. -/
def Chip.gate (c : Chip) (i : Init) (p : Page) (off : Nat) (eff : Chip → Chip) : Chip :=
  if c.servesTo i (.page p off) then
    match c.pageRefusal i p off 4 true with
    | some cause => (c.touch i p).refuse i (p.base + off) cause 4 true
    | none => eff (c.touch i p)
  else c

/-- A 32-bit read by `i` of the port register at offset `off` of page `p`, with `eff` its value and side effect; an
unserved or refused read returns all ones (R48, R408). -/
def Chip.gateRead (c : Chip) (i : Init) (p : Page) (off : Nat) (eff : Chip → Nat × Chip) : Chip :=
  if c.servesTo i (.page p off) then
    match c.pageRefusal i p off 4 false with
    | some cause => ((c.touch i p).refuse i (p.base + off) cause 4 false).setRdata 0xFFFFFFFF
    | none =>
      let r := eff (c.touch i p)
      r.2.setRdata r.1
  else c.setRdata 0xFFFFFFFF

/-- A write that its register refuses in the present state (ACCINFO.CAUSE 8). -/
def Chip.refuseState (c : Chip) (i : Init) (p : Page) (off : Nat) : Chip := c.refuse i (p.base + off) 8 4 true

/-- A write that names several commands (R452, ACCINFO.CAUSE 9). -/
def Chip.refuseMulti (c : Chip) (i : Init) (p : Page) (off : Nat) : Chip := c.refuse i (p.base + off) 9 4 true

/-- Whether an encoding may be stored in a field (R15).  For a bound that another field of the register sets, that field
counts with the value it has after the same write (log entry 12). -/
def Chip.encOk (c : Chip) (f : Fld) (v : Nat) : Bool :=
  match f.enc with
  | .any => true
  | .range lo hi => decide (lo ≤ v) && decide (v ≤ hi)
  | .srange lo hi => decide (lo ≤ toSigned f.width v) && decide (toSigned f.width v ≤ hi)
  | .atLeast lo' w' hi =>
    let m := c.get { f with lo := lo', width := w', reset := if lo' = 8 then 3 else 4 }
    decide (m ≤ v) && decide (v ≤ hi)
  | .below lo' w' => decide (1 ≤ v) && decide (v < c.get { f with lo := lo', width := w', reset := 96 })
  | .maddr => decide (v ≤ if c.get { f with lo := 16, width := 1, reset := 0 } = 1 then 1187 else 47519)

/-- Store one slice of a register write by the field's type (Table 0-6): RW keeps its value on a reserved encoding,
W1C clears the bits written 1, RO ignores the write. -/
def Chip.storeSlice (c : Chip) (val : Nat) (s : Slice) : Chip :=
  let v := bitField val s.pos s.width
  match s.fld.ty with
  | .rw =>
    let old := c.get s.fld % 2 ^ s.fld.width
    let new := old % 2 ^ s.src + v * 2 ^ s.src + old / 2 ^ (s.src + s.width) * 2 ^ (s.src + s.width)
    if c.encOk s.fld new then c.set s.fld new else c
  | .w1c => c.set s.fld (clearMask (c.get s.fld) (v * 2 ^ s.src))
  | .wos => c.set s.fld v
  | .ro => c

/-- Store a 32-bit write in the fields of a register. -/
def Chip.storeReg (c : Chip) (val : Nat) (r : Reg) : Chip := r.slices.foldl (fun c s => c.storeSlice val s) c

/-- Store a 32-bit write at a page offset, by register type alone. -/
def Chip.store (c : Chip) (p : Page) (off val : Nat) : Chip :=
  match findReg p off with
  | some r => c.storeReg val r
  | none => c

/-- The stored fields of a register as a 32-bit word. -/
def Chip.storedWord (c : Chip) (r : Reg) : Nat :=
  r.slices.foldl (fun a s => a + bitField (c.get s.fld) s.src s.width * 2 ^ s.pos) 0

end Sys2Proof.Machine
end

