-- ==== Sys2Proof/Machine/TimeScale.lean ====
section
/-!
DEFINITION. The tick counter and the time scale (R322, R323): how the scale runs with the ticks, what time it shows at a
tick, and how the machine's time moves on.  Units are 1/(64 * 10^10) ns, so that one tick of 9.765625 ns at a rate
of `1 + r / 10^10` is exactly `625 * (10^10 + r)` units.
-/
namespace Sys2Proof.Machine

/-- One nanosecond in scale units. -/
def nsUnits : Nat := 64 * 10 ^ 10

/-- One second in scale units. -/
def secUnits : Nat := nsUnits * 10 ^ 9

/-- Sample ticks per second (102.4 MHz). -/
def tickHz : Nat := 102400000

/-- Sample ticks of `n` microseconds, rounded down. -/
def usTicks (n : Nat) : Nat := n * 1024 / 10

/-- Sample ticks of `n` milliseconds. -/
def msTicks (n : Nat) : Nat := n * 102400

/-- What one tick adds to the scale without a slew, given drift `d` and host term `h` in 0.1 ppb (R323). -/
def tickUnits (d h : Int) : Int := 625 * (10 ^ 10 + d + h)

/-- What a slew at `ppm` adds or removes per tick at most (R329). -/
def slewUnits (ppm : Nat) : Int := 625 * 10 ^ 4 * ppm

/-- Part of the slew done in `k` ticks (R329). -/
def slewPart (slew : Int) (ppm k : Nat) : Int := clampInt (-(slewUnits ppm * k)) (slewUnits ppm * k) slew

/-- Ticks until the scale has grown by `gap` units: the first `k` with growth of at least `gap`. -/
def ticksFor (d h slew : Int) (ppm : Nat) (gap : Int) : Nat :=
  let base := tickUnits d h
  if gap ≤ 0 then 0
  else
    let n1 := slew.natAbs / (slewUnits ppm).toNat
    let r1 := if slew ≥ 0 then base + slewUnits ppm else base - slewUnits ppm
    let k := ceilDiv gap.toNat r1.toNat
    if k ≤ n1 then k else ceilDiv (gap - slew).toNat base.toNat

/-- The drift correction in force, 0.1 ppb. -/
def Chip.drift (c : Chip) : Int := c.getInt F.TIME_DRIFT_D

/-- The highest slew rate, ppm. -/
def Chip.slewMax (c : Chip) : Nat := c.get F.TIME_LOOPCFG_SLEWMAX

/-- Time moves on by `k` sample ticks: the counter counts and the scale runs (R322, R323, R329). -/
def Chip.advance (c : Chip) (k : Nat) : Chip :=
  let s := slewPart c.time.slew c.slewMax k
  { c with
    tick := c.tick + k
    time := { c.time with
      scale := ((c.time.scale : Int) + tickUnits c.drift c.time.hostFr * k + s).toNat
      slew := c.time.slew - s } }

/-- Time moves on to tick `t`, if that is ahead (log entry 4). -/
def Chip.advanceTo (c : Chip) (t : Nat) : Chip := c.advance (t - c.tick)

/-- What an empty queue leaves to do: one sample tick passes (R322; log entry 1).  While PORST_N is low nothing
counts. -/
def Chip.idle (c : Chip) : Chip := if c.power = .reset then c else c.advance 1

/-- The scale at tick `t`, in units, reckoned with the rate now in force. -/
def Chip.scaleAt (c : Chip) (t : Int) : Int :=
  (c.time.scale : Int) + tickUnits c.drift c.time.hostFr * (t - c.tick)

/-- A scale value as seconds and nanoseconds: rounded to the nearest nanosecond, a half up, with the carry (R323). -/
def taiOf (v : Int) : Nat × Nat :=
  let ns := ((2 * v + nsUnits) / (2 * (nsUnits : Int))).toNat
  (ns / 10 ^ 9 % 2 ^ 48, ns % 10 ^ 9)

/-- The TAI time the scale shows at tick `t`. -/
def Chip.taiAt (c : Chip) (t : Int) : Nat × Nat := taiOf (c.scaleAt t)

/-- Round a quotient to the nearest integer, ties to the even one (convergent rounding, R340). -/
def roundEven (a b : Int) : Int :=
  let q := a / b
  let r := 2 * (a % b)
  if r < b then q else if b < r then q + 1 else if q % 2 = 0 then q else q + 1

/-- Round a quotient to the nearest integer, a half up. -/
def roundHalfUp (a b : Int) : Int := (2 * a + b) / (2 * b)

end Sys2Proof.Machine
end

