-- ==== Sys2Proof/Machine/FuseData.lean ====
section
/-!
DEFINITION. Latched fuses: marginal words, usable copies, the value of a fuse group and its safe default (R395, R396,
Table 15-7), and the values other chapters take from fuses.
-/
namespace Sys2Proof.Machine

/-- A word that reads the same at the three thresholds. -/
def FuseWord.zero : FuseWord := ⟨0, 0, 0⟩

/-- Whether the three reads of a word disagree (R395). -/
def FuseWord.marginal (w : FuseWord) : Bool := !(w.normal == w.low && w.normal == w.high)

/-- Key of word `w` of die `d`. -/
def fuseKey (d w : Nat) : Nat := d * 256 + w

/-- The latched reads of a word. -/
def Chip.fuseWord (c : Chip) (d w : Nat) : FuseWord := c.fuses.latched.getD (fuseKey d w) .zero

/-- One step of the CRC-8 of R396 (polynomial 0x07). -/
def crc8Bit (a : Nat) : Nat := if a.testBit 7 then (2 * a) % 256 ^^^ 0x07 else 2 * a

/-- CRC-8 over bytes, initial value 0 (R396). -/
def crc8 (bs : List Byte) : Nat :=
  bs.foldl (fun a b => (List.range 8).foldl (fun x _ => crc8Bit x) (a ^^^ b.toNat)) 0

/-- The words of a span of die `d`. -/
def Chip.fuseSpan (c : Chip) (d first len : Nat) : List FuseWord := (List.range len).map fun j => c.fuseWord d (first + j)

/-- The data words of a copy whose last word is its CRC-8, if the copy is usable (R396). -/
def copyUsable (ws : List FuseWord) : Option (List Nat) :=
  let data := (ws.take (ws.length - 1)).map FuseWord.normal
  if ws.all (fun w => !w.marginal) && (ws.getLast?.map FuseWord.normal == some (crc8 (data.flatMap (leBytes 4)))) then
    some data
  else none

/-- What a group's three copies give (R396): the value with the index of the copy it is read from, whether no two usable
copies agreed although one was usable, or nothing when no copy is usable. -/
def voteCopies (a b d : Option (List Nat)) : Option (List Nat × Nat × Bool) :=
  match a, b, d with
  | some x, some y, z => if x = y then some (x, 0, false) else
      if z = some x then some (x, 0, false) else if z = some y then some (y, 1, false) else some (x, 0, true)
  | some x, none, some z => some (x, 0, decide (x ≠ z))
  | some x, none, none => some (x, 0, true)
  | none, some y, some z => some (y, 1, decide (y ≠ z))
  | none, some y, none => some (y, 1, true)
  | none, none, some z => some (z, 2, true)
  | none, none, none => none

/-- The group of `len` words per copy (CRC included) whose copies start at `first` of die `d`. -/
def Chip.fuseGroup (c : Chip) (d first len : Nat) : Option (List Nat × Nat × Bool) :=
  voteCopies (copyUsable (c.fuseSpan d first len)) (copyUsable (c.fuseSpan d (first + len) len))
    (copyUsable (c.fuseSpan d (first + 2 * len) len))

/-- The fuse groups with a CRC of a die, as (first word, words per copy) (Table 15-7). -/
def fuseGroups (d : Nat) : List (Nat × Nat) :=
  if d = 0 then [(0, 4), (12, 9), (39, 10), (69, 2), (81, 10)]
  else [(0, 4), (12, 5), (27, 2), (33, 13), (72, 13), (111, 13), (150, 13), (189, 3)]

/-- The group and copy that hold a word: (first word of copy A, words per copy, copy). -/
def groupOfWord (d w : Nat) : Option (Nat × Nat × Nat) :=
  (fuseGroups d).findSome? fun g =>
    if g.1 ≤ w ∧ w < g.1 + 3 * g.2 then some (g.1, g.2, (w - g.1) / g.2) else none

/-- Identity word `w` of die `d`, 0 where every copy is bad (Table 15-7). -/
def Chip.identWord (c : Chip) (d w : Nat) : Nat :=
  match c.fuseGroup d 0 4 with
  | some (ws, _, _) => ws.getD w 0
  | none => 0

/-- Bits of a thermometer word that count as burned: a marginal bit does (R396). -/
def burnedBits (w : FuseWord) : Nat :=
  ((List.range 32).filter fun b =>
    w.normal.testBit b || w.low.testBit b || w.high.testBit b).length

/-- Rollback count of one copy. -/
def Chip.rollbackCopy (c : Chip) (k : Nat) : Nat :=
  burnedBits (c.fuseWord 0 (75 + 2 * k)) + burnedBits (c.fuseWord 0 (76 + 2 * k))

/-- The latched rollback counter: the largest value that two copies reach, at most 63 (R378, R396). -/
def Chip.rollbackLatched (c : Chip) : Nat :=
  let a := c.rollbackCopy 0
  let b := c.rollbackCopy 1
  let d := c.rollbackCopy 2
  min 63 (max (max (min a b) (min a d)) (min b d))

/-- The floor in force: the larger of the latched counter and what was burned since (R378). -/
def Chip.floorInForce (c : Chip) : Nat := max c.rollbackLatched c.boot.burned

/-- The fused Ferzalan key hash (R364), if any copy is usable. -/
def Chip.ferzalanHash (c : Chip) : Option (List Nat) := (c.fuseGroup 0 12 9).map fun g => g.1

/-- The OEM key hash group: the hash and whether an OEM hash is fused; `none` demands a signature that nothing matches
(Table 15-7). -/
def Chip.oemHash (c : Chip) : Option (List Nat × Bool) :=
  (c.fuseGroup 0 39 10).map fun g => (g.1.take 8, (g.1.getD 8 0).testBit 0)

/-- Whether JTAG debug access is locked: the debug lock word is not 0, or is defaulted (R426, Table 15-7). -/
def Chip.debugLocked (c : Chip) : Bool :=
  match c.fuseGroup 0 69 2 with
  | some (ws, _, _) => ws.getD 0 0 != 0
  | none => true

/-- Factory trim word of input `i` (0 to 3) of a lane, if not defaulted (R158). -/
def Chip.afeTrim (c : Chip) (n : Lane) (i : Nat) : Option Nat := (c.fuseGroup n.num 12 5).map fun g => g.1.getD i 0

/-- Whether the lane's die temperature trim is usable: some copy is not marginal (R346). -/
def Chip.tempTrim (c : Chip) (n : Lane) : Option Int :=
  (c.fuseGroup n.num 27 2).map fun g => toSigned 32 (g.1.getD 0 0)

/-- Factory coefficient `k` (0 to 11) of channel `ch` (0 to 3) of a lane; `none` when the channel is defaulted (R348). -/
def Chip.polyCoef (c : Chip) (n : Lane) (ch k : Nat) : Option Int :=
  (c.fuseGroup n.num (33 + 39 * ch) 13).map fun g => toSigned 32 (g.1.getD k 0)

/-- Whether the lane's AUX excitation trims are valid (Table 15-7). -/
def Chip.auxTrim (c : Chip) (n : Lane) : Option (List Nat) := (c.fuseGroup n.num 189 3).map fun g => g.1

/-- Fitted dies: the hub and the fitted lanes. -/
def Chip.dies (c : Chip) : List Nat := 0 :: (Lane.all.filter c.fitted).map Lane.num

/-- Whether die `d` has a marginal latched word (FSTAT.MARGDIES). -/
def Chip.dieMarginal (c : Chip) (d : Nat) : Bool := (List.range 256).any fun w => (c.fuseWord d w).marginal

/-- Whether die `d` has a defaulted group (FSTAT.DEFDIES). -/
def Chip.dieDefaults (c : Chip) (d : Nat) : Nat :=
  ((fuseGroups d).filter fun g => (c.fuseGroup d g.1 g.2).isNone).length

/-- Whether some group's usable copies disagree with no two agreeing (PFAULT.DISAGREE). -/
def Chip.fuseDisagree (c : Chip) (d : Nat) : Bool :=
  (fuseGroups d).any fun g => match c.fuseGroup d g.1 g.2 with
    | some (_, _, b) => b
    | none => false

/-- Ask for a re-verification of die `d`; a request during a run is served by that run (R397). -/
def Chip.startReverify (c : Chip) (d : Nat) : Chip :=
  match c.fuses.running with
  | some _ => c
  | none => (c.onFuses fun x => { x with running := some d }).set F.FUSE_FRES_STATUS Status.busy.code

/-- Fitted lane dies as SYS.PCAP.LANES reports them: 1, 3 or 7; with the hub identity defaulted, the number of links that
train, rounded down to 1, 3 or 7 (R4, Table 15-7). -/
def Chip.pcapLanes (c : Chip) : Nat :=
  match c.fuseGroup 0 0 4 with
  | some _ => c.part.lanes
  | none =>
    let k := (Lane.all.filter c.linkUp).length
    if 7 ≤ k then 7 else if 3 ≤ k then 3 else 1

end Sys2Proof.Machine
end

