-- ==== Sys2Proof/Machine/Lanes.lean ====
section
/-!
DEFINITION. Reading and changing the parts of the chip beyond its registers: lanes, groups of the Wheel, neighbour slots, lane
neighbour records, queues and rings, leaky buckets.
-/
namespace Sys2Proof.Machine

/-- Lane `n`. -/
def Chip.lane (c : Chip) (n : Lane) : LaneSt := c.lanes.get n

/-- Lane `n` changed by `f`. -/
def Chip.onLane (c : Chip) (n : Lane) (f : LaneSt → LaneSt) : Chip := { c with lanes := c.lanes.modify n f }

/-- The receive side of lane `n` changed by `f`. -/
def Chip.onRx (c : Chip) (n : Lane) (f : LaneRx → LaneRx) : Chip := c.onLane n fun l => { l with rx := f l.rx }

/-- The transmit side of lane `n` changed by `f`. -/
def Chip.onTx (c : Chip) (n : Lane) (f : LaneTx → LaneTx) : Chip := c.onLane n fun l => { l with tx := f l.tx }

/-- The canceller of lane `n` changed by `f`. -/
def Chip.onEcho (c : Chip) (n : Lane) (f : Echo → Echo) : Chip := c.onLane n fun l => { l with echo := f l.echo }

/-- The front end of lane `n` changed by `f`. -/
def Chip.onAfe (c : Chip) (n : Lane) (f : Afe → Afe) : Chip := c.onLane n fun l => { l with afe := f l.afe }

/-- The tone maps of lane `n` changed by `f`. -/
def Chip.onTmap (c : Chip) (n : Lane) (f : Tmap → Tmap) : Chip := c.onLane n fun l => { l with tmap := f l.tmap }

/-- The slip buffer of lane `n` changed by `f`. -/
def Chip.onSlip (c : Chip) (n : Lane) (f : Slip → Slip) : Chip := c.onRx n fun r => { r with slip := f r.slip }

/-- The decoders of lane `n` changed by `f`. -/
def Chip.onDec (c : Chip) (n : Lane) (f : Dec → Dec) : Chip := c.onRx n fun r => { r with dec := f r.dec }

/-- The gain loops of lane `n` changed by `f`. -/
def Chip.onAgc (c : Chip) (n : Lane) (f : Agc → Agc) : Chip := c.onRx n fun r => { r with agc := f r.agc }

/-- The reception in progress in lane `n` changed by `f`, if there is one. -/
def Chip.onRxn (c : Chip) (n : Lane) (f : Rx → Rx) : Chip := c.onRx n fun r => { r with rx := r.rx.map f }

/-- The facet clock of group `n`. -/
def Chip.group (c : Chip) (n : Lane) : WGroup := c.wheel.groups.getD n.num .off

/-- The facet clock of group `n` changed by `f`. -/
def Chip.onGroup (c : Chip) (n : Lane) (f : WGroup → WGroup) : Chip :=
  { c with wheel := { c.wheel with groups := c.wheel.groups.modify n.num .off f } }

/-- The Wheel changed by `f`. -/
def Chip.onWheel (c : Chip) (f : Wheel → Wheel) : Chip := { c with wheel := f c.wheel }

/-- Neighbour slot `s` (Table 9-3). -/
def Chip.nbr (c : Chip) (s : Nat) : Nbr := c.mac.nbr.getD s .free

/-- Neighbour slot `s` changed by `f`. -/
def Chip.onNbr (c : Chip) (s : Nat) (f : Nbr → Nbr) : Chip :=
  { c with mac := { c.mac with nbr := c.mac.nbr.modify s .free f } }

/-- Every listed neighbour slot changed by `f`. -/
def Chip.onNbrs (c : Chip) (f : Nat → Nbr → Nbr) : Chip :=
  { c with mac := { c.mac with nbr := c.mac.nbr.map fun e => (e.1, f e.1 e.2) } }

/-- Whether slot `s` is a peer slot that is ASSIGNED (slot 0 always is, R250). -/
def Chip.assigned (c : Chip) (s : Nat) : Bool := s == 0 || (c.nbr s).st == 1

/-- The lane of a slot's group. -/
def Chip.slotLane (c : Chip) (s : Nat) : Option Lane := Lane.ofNum (c.nbr s).group

/-- Lane neighbour record of slot `s` in lane `n` (Table 9-4). -/
def Chip.laneRec (c : Chip) (n : Lane) (s : Nat) : LaneRec := (c.lane n).rx.recs.getD s .zero

/-- The record changed by `f`. -/
def Chip.onRec (c : Chip) (n : Lane) (s : Nat) (f : LaneRec → LaneRec) : Chip :=
  c.onRx n fun r => { r with recs := r.recs.modify s .zero f }

/-- The queue manager changed by `f`. -/
def Chip.onQm (c : Chip) (f : Qm → Qm) : Chip := { c with qm := f c.qm }

/-- Transmit queue `q`. -/
def Chip.queue (c : Chip) (q : Nat) : Queue := c.qm.queues.getD q .empty

/-- Transmit queue `q` changed by `f`. -/
def Chip.onQueue (c : Chip) (q : Nat) (f : Queue → Queue) : Chip :=
  c.onQm fun m => { m with queues := m.queues.modify q .empty f }

/-- The MPDU `id` of queue `q` changed by `f`. -/
def Chip.onMpdu (c : Chip) (q id : Nat) (f : TxMpdu → TxMpdu) : Chip :=
  c.onQueue q fun x => { x with mpdus := x.mpdus.map fun m => if m.id = id then f m else m }

/-- The MPDU `id` of queue `q`. -/
def Chip.mpdu (c : Chip) (q id : Nat) : Option TxMpdu := (c.queue q).mpdus.find? fun m => m.id == id

/-- Ring `r`: 0 to 127 submission, 128 to 255 completion. -/
def Chip.ring (c : Chip) (r : Nat) : Ring := c.qm.rings.getD r .fresh

/-- Ring `r` changed by `f`. -/
def Chip.onRing (c : Chip) (r : Nat) (f : Ring → Ring) : Chip :=
  c.onQm fun m => { m with rings := m.rings.modify r .fresh f }

/-- The mailboxes changed by `f`. -/
def Chip.onMbx (c : Chip) (f : Mbx → Mbx) : Chip := { c with mbx := f c.mbx }

/-- The key store changed by `f`. -/
def Chip.onKeys (c : Chip) (f : Keys → Keys) : Chip := { c with keys := f c.keys }

/-- The MAC engine changed by `f`. -/
def Chip.onMac (c : Chip) (f : Mac → Mac) : Chip := { c with mac := f c.mac }

/-- Health state changed by `f`. -/
def Chip.onHealth (c : Chip) (f : Health → Health) : Chip := { c with health := f c.health }

/-- Key of a leaky bucket: class, die and unit (Table 15-2). -/
def bucketKey (cls die unit : Nat) : Nat := (cls * 8 + die) * 128 + unit

/-- Whether a unit has been retired. -/
def Chip.retired (c : Chip) (cls die unit : Nat) : Bool := (c.health.retired.get? (bucketKey cls die unit)).isSome

/-- The GX8's EUI-64 (R250). -/
def Chip.selfEui (c : Chip) : Nat := c.get F.NBR_SELFEUIH_EUI * 2 ^ 32 + c.get F.NBR_SELFEUIL_EUI

/-- Lanes that are fitted. -/
def Chip.fittedLanes (c : Chip) : List Lane := Lane.all.filter c.fitted

/-- Rounding toward zero of a quotient (R85, R101, R187, R192). -/
def divZero (a : Int) (b : Nat) : Int := Int.tdiv a b

end Sys2Proof.Machine
end

