-- ==== Sys2Proof/Machine/Sched.lean ====
section
/-!
DEFINITION. What the Wheel names at a time: facet starts, the entry and the role of a facet, runs, turns and their order
(R84, R88, R90 to R95, R103).
-/
namespace Sys2Proof.Machine

/-- Lock state of a group: 0 OFF, 1 ACQUIRE, 2 LOCKED, 3 HOLD, 4 FREE. -/
def Chip.lstate (c : Chip) (n : Lane) : Nat := c.get (F.WHEEL_GSTAT_LSTATE n)

/-- Whether the group's Wheel runs: LOCKED, HOLD or FREE (R105). -/
def Chip.running (c : Chip) (n : Lane) : Bool := 2 ≤ c.lstate n

/-- Whether the lane coasts (R392). -/
def Chip.coasting (c : Chip) (n : Lane) : Bool := c.get (F.LSYS_LSTAT_STATE n) == 3

/-- Turn counter of a group. -/
def Chip.turn (c : Chip) (n : Lane) : Nat := c.get (F.WHEEL_TURN_TURN n)

/-- Whether an epoch commit still waits for its switch turn in group `n`: in the part, or in this group (R254, R106, R107). -/
def Chip.switchWaits (c : Chip) (n : Lane) : Bool :=
  c.wheel.next.isSome || (c.wheel.active.isSome && c.running n && !(c.group n).switched)

/-- Tick B(f) of the present turn (R84). -/
def WGroup.b (g : WGroup) (f : Nat) : Nat := (g.ts + f * g.p / 24) / 256

/-- Tick B(f) of group `n`; B(96) is the start of the next turn, as a rephase places it (R84, R87, R89). -/
def Chip.b (c : Chip) (n : Lane) (f : Nat) : Nat :=
  let g := c.group n
  match g.rephase with
  | some (t, y) =>
    if t = c.turn n ∧ (96 ≤ f ∨ y ≤ g.ts + f * g.p / 24) then y / 256 else g.b f
  | none => if 96 ≤ f ∧ g.looped then g.nextTs / 256 else g.b f

/-- Whether turn `a` is before turn `b` (R88). -/
def turnBefore (a b : Nat) : Bool :=
  let d := (b + 2 ^ 32 - a % 2 ^ 32) % 2 ^ 32
  1 ≤ d && d < 2 ^ 31

/-- Turns from `a` to `b`, signed, modulo 2^32. -/
def turnDist (a b : Nat) : Int := toSigned 32 ((b + 2 ^ 32 - a % 2 ^ 32) % 2 ^ 32)

/-- Turn `a` plus `k`. -/
def turnAdd (a k : Nat) : Nat := (a + k) % 2 ^ 32

/-- The entry word of a pattern. -/
def Chip.entryWord (c : Chip) (pat f : Nat) : Nat := c.wheel.table.getD (96 * pat + f) 0

/-- The epoch in force in group `n`: a running group that has not yet reached the switch turn keeps the previous one
(R107). -/
def Chip.epochIn (c : Chip) (n : Lane) : EpochSet :=
  match c.wheel.prev with
  | some e => if c.wheel.active.isSome && c.running n && !(c.group n).switched then e else c.wheel.cur
  | none => c.wheel.cur

/-- The pattern in force in group `n` (R90, R107). -/
def Chip.pat (c : Chip) (n : Lane) : Nat := (c.epochIn n).pat

/-- The entry word of facet `f` in force in group `n`. -/
def Chip.entry (c : Chip) (n : Lane) (f : Nat) : Nat := c.entryWord (c.pat n) f

/-- Field ROLE of an entry word (Table 3-3). -/
def entryRole (w : Nat) : Nat := bitField w 0 4
/-- Field TXPORTS. -/
def entryPorts (w : Nat) : Nat := bitField w 4 3
/-- Whether the entry applies in group `n`. -/
def entryIn (w : Nat) (n : Lane) : Bool := w.testBit (8 + n.idx)
/-- Largest number of users, 1 to 8. -/
def entryMaxusr (w : Nat) : Nat := bitField w 16 3 + 1
/-- Field CLASS. -/
def entryClass (w : Nat) : Nat := bitField w 19 2
/-- Field GIMIN. -/
def entryGimin (w : Nat) : Nat := bitField w 21 2

/-- Whether an entry word holds a reserved encoding or a reserved bit (R92, Table 3-3). -/
def entryBad (w : Nat) : Bool :=
  9 ≤ entryRole w || w.testBit 7 || w.testBit 15 || entryClass w == 3 || w / 2 ^ 23 != 0

/-- Length of the unbroken run of BEACON entries from entry 0. -/
def beaconRun (roles : List Nat) : Nat := (roles.takeWhile (· == 1)).length

/-- First entry of a pattern that breaks R92, if any. -/
def patternBad (words : List Nat) : Option Nat :=
  let run := beaconRun (words.map entryRole)
  (words.zipIdx.find? fun e =>
    entryBad e.1 || (e.2 == 0 && entryRole e.1 != 1) || (entryRole e.1 == 1 && run ≤ e.2)).map Prod.snd

/-- The 96 words of a pattern. -/
def Chip.patternWords (c : Chip) (pat : Nat) : List Nat := (List.range 96).map (c.entryWord pat)

/-- The role the pattern gives facet `f` in group `n` (R90, R91). -/
def Chip.tableRole (c : Chip) (n : Lane) (f : Nat) : Nat :=
  let w := c.entry n f
  if entryIn w n ∧ entryRole w ≤ 8 then entryRole w else 0

/-- Whether a quiet period acts in group `n` (R103). -/
def Chip.quietIn (c : Chip) (n : Lane) : Bool := (c.group n).quiet && c.wheel.quiet.isSome

/-- The role facet `f` has in group `n`: the pattern's; an FD facet without FDOK serves as DOWNLINK (R157); in a quiet
period QUIET, but for BEACON and WAKE-LISTEN facets and the DOWNLINK and CONTEND facets while peers are served (R103). -/
def Chip.role (c : Chip) (n : Lane) (f : Nat) : Nat :=
  let r := c.tableRole n f
  let r := if r = 5 ∧ !c.mac.fdok.testBit n.num then 4 else r
  if c.quietIn n then
    if r = 1 ∨ r = 8 ∨ ((r = 4 ∨ r = 2) ∧ !c.wheel.calls.isEmpty) then r else 0
  else r

/-- Current facet of a group. -/
def Chip.facet (c : Chip) (n : Lane) : Nat := c.get (F.WHEEL_GSTAT_FACET n)

/-- The facet of the present turn in which tick `t` lies (R94): the last one that begins at or before it. -/
def Chip.facetAt (c : Chip) (n : Lane) (t : Nat) : Nat :=
  (List.range 96).foldl (fun a f => if c.b n f ≤ t then f else a) 0

/-- Whether tick `t` lies in the length that a rephase adds to facet 95 of the present turn (R87, R89). -/
def Chip.inAdded (c : Chip) (n : Lane) (t : Nat) : Bool :=
  let g := c.group n
  match g.rephase with
  | some (turn, y) => turn == c.turn n && decide (g.b 96 ≤ t) && decide (t < y / 256)
  | none => false

/-- The role at tick `t` of the present turn: that of its facet, QUIET in the length that a rephase adds (R87, R89). -/
def Chip.roleAt (c : Chip) (n : Lane) (t : Nat) : Nat := if c.inAdded n t then 0 else c.role n (c.facetAt n t)

/-- The role at a tick `t` of the present turn or just before it: that of the last facet of the turn before ahead of B(0). -/
def Chip.roleNear (c : Chip) (n : Lane) (t : Nat) : Nat :=
  let g := c.group n
  if t < c.b n 0 then (if g.ownEnd ≤ t then 0 else g.lastRole) else c.roleAt n t

/-- Whether the GX8 listens in group `n` for a sleeping peer whose wake window is open (R100). -/
def Chip.listens (c : Chip) (n : Lane) : Bool := c.wheel.windows.any fun s => (c.nbr s).group == n.num

/-- Whether the gain of group `n` stands at stored codes now: in an FD facet, but for a wake window (R100, R169). -/
def Chip.fdSpan (c : Chip) (n : Lane) : Bool := c.running n && c.roleAt n c.tick == 5 && !c.listens n

/-- First facet after the run that holds facet `f`: entries with the same word follow each other (R93). -/
def Chip.runEnd (c : Chip) (n : Lane) (f : Nat) : Nat :=
  f + (((List.range 96).drop f).takeWhile fun k => c.entry n k == c.entry n f).length

/-- First facet of the run that holds facet `f`. -/
def Chip.runStart (c : Chip) (n : Lane) (f : Nat) : Nat :=
  f - (((List.range f).reverse).takeWhile fun k => c.entry n k == c.entry n f).length

/-- The time after turn `t`, facet `f` has begun, as one number, for comparing time stamps of one era (R88). -/
def stampLe (a b : Nat × Nat) : Bool := turnBefore a.1 b.1 || (a.1 == b.1 && a.2 ≤ b.2)

/-- Whether stamp `a` is before stamp `b` (R88). -/
def stampLt (a b : Nat × Nat) : Bool := stampLe a b && a != b

/-- Facets from stamp `a` to stamp `b`. -/
def stampDist (a b : Nat × Nat) : Int := turnDist a.1 b.1 * 96 + (b.2 : Int) - a.2

/-- The latest turn of the groups that run, or TURNSET (R105). -/
def Chip.latestTurn (c : Chip) : Nat :=
  match (Lane.all.filter c.running).map c.turn with
  | [] => c.get F.WHEEL_TURNSET_TURN
  | t :: ts => ts.foldl (fun a b => if turnBefore a b then b else a) t

/-- Band profile of GLP6 facets (Table 3-4). -/
def Chip.g6bp (c : Chip) : Nat := if c.flag F.WHEEL_WCTL_G6QTR then 2 else 1

/-- Nominal cycle in ticks, times 3 (R49, R100). -/
def Chip.nomCycle3 (c : Chip) : Nat := if c.flag F.WHEEL_WCTL_NOMFREQ then 5120000 else 6144000

/-- Nominal period in 1/256 tick, rounded. -/
def Chip.nomPeriod (c : Chip) : Nat := roundDiv (c.nomCycle3 * 256) 3

/-- Enter a power state (R45), which PWRSTAT shows. -/
def Chip.setPower (c : Chip) (p : Power) : Chip := { c.set F.CLK_PWRSTAT_STATE p.code with power := p }

/-- Enter a lock state; any change raises LOCK change (R111). -/
def Chip.setLock (c : Chip) (n : Lane) (st : Nat) : Chip :=
  if c.lstate n = st then c else (c.set (F.WHEEL_GSTAT_LSTATE n) st).raise .wheel 0

/-- The group's Wheel goes to OFF. -/
def Chip.wheelOff (c : Chip) (n : Lane) : Chip := (c.onGroup n fun _ => .off).setLock n 0

end Sys2Proof.Machine
end

