-- ==== Sys2Proof/Machine/Posts.lean ====
section
/-!
DEFINITION. What other steps leave for later: results of MPDUs, MPDUs that device firmware queues, notices to the host and
trouble records (R241, R244, R257, R283, R290, R394).
-/
namespace Sys2Proof.Machine

/-- Give an MPDU its result, unless it has one; its completion is written later (R283). -/
def TxMpdu.finish (m : TxMpdu) (st : Nat) : TxMpdu := if m.status.isSome then m else { m with status := some st }

/-- The MPDUs of a slot's two queues that no committed frame carries get a result; so do those a committed frame carries
if `all` holds. -/
def Chip.finishSlot (c : Chip) (s st : Nat) (all : Bool) : Chip :=
  let go (c : Chip) (q : Nat) := c.onQueue q fun x =>
    { x with mpdus := x.mpdus.map fun m => if m.committed ∧ !all then m else m.finish st }
  go (go c (2 * s)) (2 * s + 1)

/-- An MPDU that device firmware queues for a slot, class 0 (R257).  Its LEVEL, 5 or 6, is not stated: log entry 47. -/
def Chip.firmwareSend (c : Chip) (slot mtype : Nat) (body : List Byte) : Chip :=
  let lvl := 5 + c.freeBelow 2
  let c := c.nextFree
  let m : TxMpdu :=
    { id := c.qm.nextId, ring := none, cq := 0, hLow := 0, dest := slot, cls := 0, gen := (c.nbr slot).gen, mtype,
      level := lvl, gkey := false, hops := 0, orig := 0, final := slot, silent := true, epsel := 0, target := none, cookie := [],
      payload := body, fetchTurn := c.latestTurn, mseq := none, prot := none, protOld := none, bt := 0, rate := 0, tmv := 0, blocks := [],
      lastTries := 0, sentIn := [], inFrames := 0, flushed := false, status := none }
  (c.onQm fun q => { q with nextId := q.nextId + 1 }).onQueue (2 * slot) fun x => { x with mpdus := x.mpdus ++ [m] }

/-- A TMREQ to a peer (R244): margin to add and cause. -/
def Chip.sendTmreq (c : Chip) (slot reqadd cause : Nat) : Chip :=
  c.firmwareSend slot 0x21 [0x08, BitVec.ofNat 8 reqadd, BitVec.ofNat 8 cause, 0]

/-- A TMX with TMV 0, which revokes the recipient's set (R241). -/
def Chip.sendRevoke (c : Chip) (slot : Nat) : Chip :=
  let g6 := (c.nbr slot).proto == 1
  c.firmwareSend slot 0x20 (BitVec.ofNat 8 (if g6 then 0x06 else 0x08) :: List.replicate 11 0)

/-- A notice waits for a D2H mailbox; at most 64 unsolicited ones wait, and any further one is lost (R290).  Where the
body lies is not stated: log entry 48. -/
def Chip.notice (c : Chip) (type len : Nat) (body : List Byte) : Chip :=
  if 64 ≤ (c.mbx.waiting.filter fun p => p.tag == 0xFFFF).length then c.count F.MBX_MBCNT_LOST 1
  else
    let p := c.freeBelow (2 ^ 64)
    c.nextFree.onMbx fun m => { m with waiting := m.waiting ++ [{ ptr := p, tag := 0xFFFF, type, status := 0, len, body }] }

/-- A trouble record: its STICKY bit, its number, and a TROUBLE notice (R394, Table 15-6). -/
def Chip.trouble (c : Chip) (kind die cls unit level addr : Nat) : Chip :=
  let seq := c.get F.HEALTH_TRSEQ_SEQ
  let body := leBytes 6 (packFields [(8, 1), (8, kind), (8, die), (8, cls), (8, unit), (8, level)]) ++ [0, 0]
    ++ leBytes 8 c.tick ++ leBytes 4 seq ++ leBytes 4 addr
  ((c.setBitAt F.HEALTH_STICKY_KINDS (kind - 1) true).set F.HEALTH_TRSEQ_SEQ (seq + 1)).notice 0x82 256 body

end Sys2Proof.Machine
end

