-- ==== Sys2Proof/Machine/Gain.lean ====
section
/-!
DEFINITION. PGA codes of a lane, their report and their history (R167, R194, Table 5-8, Table 6-6).
-/
namespace Sys2Proof.Machine

/-- PGA codes and the freeze, as a PGA entry of the spyhole packs them (Table 6-6). -/
def packCodes (codes : List Nat) (frozen : Bool) : Nat :=
  packFields ((List.range 4).map (fun i => (7, codes.getD i 0)) ++ [(1, bit frozen)])

/-- Note the codes as they stand from the present tick on; what is older than a facet and the spyhole's history is forgotten. -/
def Chip.noteGain (c : Chip) (n : Lane) : Chip :=
  c.onAgc n fun a =>
    let young (e : Nat × Nat) : Bool := decide (c.tick < e.1 + 131072)
    { a with trace := (c.tick, packCodes a.codes a.frozen) :: (a.trace.takeWhile young ++ (a.trace.dropWhile young).take 1) }

/-- Set the PGA codes of a lane; AFE.PGAi shows them. -/
def Chip.setCodes (c : Chip) (n : Lane) (codes : List Nat) : Chip :=
  let codes := (List.range 4).map fun i => min 96 (codes.getD i 0)
  let c := c.onAgc n fun a => { a with
    codes := codes
    atZero := (List.range 4).foldl (fun m i => if codes.getD i 0 = 0 then m else clearMask m (2 ^ i)) a.atZero }
  ([0, 1, 2, 3].foldl (fun c i => c.set (F.AFE_PGA_CODE n i) (codes.getD i 0)) c).noteGain n

end Sys2Proof.Machine
end

