-- ==== Sys2Proof/Machine/EchoState.lean ====
section
/-!
DEFINITION. The canceller's state, FDOK and requests for training passes (R149, R150, R156, Table 5-7).
-/
namespace Sys2Proof.Machine

/-- Whether the replica stage is active: in GOOD, SHORT and AGED, and in a pass in phase B alone, from the guard of a FULL one on (R151,
R156). -/
def Echo.replicaOn (e : Echo) : Bool :=
  match e.running with
  | 0 => e.before == 3 || e.before == 4 || e.before == 6
  | 1 => false
  | _ => true

/-- Whether the digital stage is active: in GOOD, SHORT and AGED, and in a TRACK pass (R151, R156). -/
def Echo.digitalOn (e : Echo) : Bool :=
  match e.running with
  | 0 => e.before == 3 || e.before == 4 || e.before == 6
  | k => k == 2

/-- Show the canceller's state in ESTAT: TRAINING while a pass runs, the active stages, and FDOK; any change of STATE or
FDOK raises STATE, and a fall of FDOK is counted (R156, R157, R162). -/
def Chip.showEcho (c : Chip) (n : Lane) : Chip :=
  let e := (c.lane n).echo
  let st := if e.running = 0 then e.before else 2
  let nr := c.flag (F.ECHO_EOVR_NOREP n)
  let nd := c.flag (F.ECHO_EOVR_NODIG n)
  let ok := (e.before == 3 && c.flag (F.ECHO_ECTL_FDEN n) && !nr && !nd)
    || (c.flag (F.ECHO_EOVR_FDFORCE n) && e.before != 0)
  let was := c.flag (F.ECHO_ESTAT_FDOK n)
  let chg := decide (c.get (F.ECHO_ESTAT_STATE n) ≠ st) || was != ok
  let c := (((c.set (F.ECHO_ESTAT_STATE n) st).setFlag (F.ECHO_ESTAT_FDOK n) ok).setFlag (F.ECHO_ESTAT_REPON n)
    (e.replicaOn && !nr)).setFlag (F.ECHO_ESTAT_DIGON n) (e.digitalOn && !nd)
  let c := c.iff (was && !ok) fun c => c.count (F.ECHO_COUNTS3_WITHDRAW n) 1
  c.iff chg fun c => c.raise (.echo n) 0

/-- Enter a canceller state: 0 OFF, 1 UNTRAINED, 3 GOOD, 4 SHORT, 5 DIVERGED, 6 AGED. -/
def Chip.setEcho (c : Chip) (n : Lane) (st : Nat) : Chip := (c.onEcho n fun e => { e with before := st }).showEcho n

/-- Ask for a FULL pass in state `st`. -/
def Chip.askFull (c : Chip) (n : Lane) (st : Nat) : Chip :=
  (c.onEcho n fun e => { e with req := 1, delay := none }).setEcho n st

/-- A change of R149, or ECMD.RETRAIN: UNTRAINED in every state but OFF, with a FULL pass requested. -/
def Chip.echoChange (c : Chip) (n : Lane) : Chip := if (c.lane n).echo.before = 0 then c else c.askFull n 1

/-- A port changes its state: a training pass in progress is void (R153). -/
def Chip.portMoved (c : Chip) (n : Lane) : Chip := c.onEcho n fun e => { e with void := e.void || e.running != 0 }

end Sys2Proof.Machine
end

