-- ==== Sys2Proof/Machine/DecPool.lean ====
section
/-!
DEFINITION. The pool of decoder engines of a lane: dispatch, activation, the reserve and retirement (R207, R209, R210).
-/
namespace Sys2Proof.Machine

/-- Whether engine `e` of lane `n` is active, the reserve, or retired. -/
def Chip.engActive (c : Chip) (n : Lane) (e : Nat) : Bool := c.bitAt (F.DEC_ENGSTAT_ACTIVE n) e
/-- Whether engine `e` is the reserve. -/
def Chip.engReserve (c : Chip) (n : Lane) (e : Nat) : Bool := c.bitAt (F.DEC_ENGSTAT_RESERVE n) e
/-- Whether engine `e` is retired. -/
def Chip.engRetired (c : Chip) (n : Lane) (e : Nat) : Bool := c.bitAt (F.DEC_ENGSTAT_RETIRED n) e

/-- Whether engine `e` decodes a block. -/
def Chip.engBusy (c : Chip) (n : Lane) (e : Nat) : Bool := ((c.lane n).rx.dec.busy.get? e).isSome

/-- The lowest-numbered idle active engine. -/
def Chip.idleEngine (c : Chip) (n : Lane) : Option Nat :=
  (List.range 7).find? fun e => c.engActive n e && !c.engBusy n e

/-- The head of the decode queue goes to the lowest-numbered idle active engine, if there are both, and no freeing of slip entries
waits for the blocks in decode to end (R207, R222). -/
def Chip.dispatchOne (c : Chip) (n : Lane) : Chip :=
  match c.idleEngine n, (c.lane n).rx.dec.queue, (c.lane n).rx.slip.waiting with
  | some e, b :: rest, [] => c.onDec n fun d => { d with
      queue := rest
      busy := d.busy.insert e { b with num := some (b.num.getD d.count) }
      count := if b.num.isSome then d.count else d.count + 1 }
  | _, _, _ => c

/-- A self-test that is due begins on the reserve, unless every active engine is busy and the queue holds a block (R209). -/
def Chip.startTest (c : Chip) (n : Lane) : Chip :=
  let d := (c.lane n).rx.dec
  if !d.due || d.testing.isSome || d.swap.isSome || (c.idleEngine n == none && !d.queue.isEmpty) then c
  else match c.flag (F.DEC_STCFG_STEN n), (List.range 7).find? (c.engReserve n) with
    | true, some r => c.onDec n fun d => { d with due := false, testing := some r }
    | _, _ => c.onDec n fun d => { d with due := false }

/-- Dispatch ready blocks while an active engine is idle; a self-test that waited goes next. -/
def Chip.dispatch (c : Chip) (n : Lane) : Chip := ((List.range 7).foldl (fun c _ => c.dispatchOne n) c).startTest n

/-- Number of active engines. -/
def Chip.activeCount (c : Chip) (n : Lane) : Nat := ((List.range 7).filter (c.engActive n)).length

/-- Active engines beyond ACTMAX become idle once they have no block, the highest-numbered first (R223; log entry 49). -/
def Chip.dropSurplus (c : Chip) (n : Lane) : Chip :=
  (List.range 7).reverse.foldl (fun c e =>
    if c.get (F.DEC_DECCTL_ACTMAX n) < c.activeCount n ∧ c.engActive n e ∧ !c.engBusy n e
    then c.setBitAt (F.DEC_ENGSTAT_ACTIVE n) e false else c) c

/-- Idle engines that are neither reserve nor retired become active up to ACTMAX, the lowest-numbered first (log
entry 49). -/
def Chip.addEngines (c : Chip) (n : Lane) : Chip :=
  (List.range 7).foldl (fun c e =>
    if c.activeCount n < c.get (F.DEC_DECCTL_ACTMAX n) ∧ !c.engActive n e ∧ !c.engReserve n e ∧ !c.engRetired n e
    then c.setBitAt (F.DEC_ENGSTAT_ACTIVE n) e true else c) c

/-- Whether any engine works. -/
def Chip.anyEngine (c : Chip) (n : Lane) : Bool := (List.range 7).any fun e => !c.engRetired n e

/-- Give a block of the reception its result. -/
def Rx.result (r : Rx) (user idx : Nat) (b : BlkRes) : Rx :=
  { r with users := r.users.modify user fun u => { u with results := u.results.insert idx b } }

/-- A failed block. -/
def BlkRes.failed : BlkRes := { pass := false, word := 0, data := [] }

/-- Every block that waits or decodes is reported as failed (R210: no working engine). -/
def Chip.failBlocks (c : Chip) (n : Lane) : Chip :=
  let d := (c.lane n).rx.dec
  let bs := d.queue ++ d.busy.map Prod.snd ++ d.ended.map Prod.fst
  let c := bs.foldl (fun c b => c.onRxn n fun r => r.result b.user b.idx .failed) c
  c.onDec n fun d => { d with queue := [], busy := [], ended := [] }

/-- The round of self-tests ends when every engine not retired has been tested (R209). -/
def Chip.roundEnd (c : Chip) (n : Lane) : Chip :=
  c.onDec n fun d => if (List.range 7).all fun e => c.engRetired n e || d.tested.testBit e then { d with tested := 0 } else d

/-- With no active engine left the lowest-numbered idle one becomes active: the lane still has a working engine (R210, log entry 179). -/
def Chip.lastEngine (c : Chip) (n : Lane) : Chip :=
  if c.activeCount n ≠ 0 then c
  else match (List.range 7).find? fun e => !c.engRetired n e && !c.engReserve n e with
    | some e => c.setBitAt (F.DEC_ENGSTAT_ACTIVE n) e true
    | none => c

/-- Engine `e` of lane `n` is retired (R210): its block goes to another engine, the reserve takes its place, and each
change raises ENGCHG. -/
def Chip.retireEngine (c : Chip) (n : Lane) (e : Nat) : Chip :=
  let d := (c.lane n).rx.dec
  let c := match d.busy.get? e with
    | some b => c.onDec n fun d => { d with queue := b :: d.queue, busy := d.busy.erase e }
    | none => c
  let wasActive := c.engActive n e
  let wasReserve := c.engReserve n e
  let c := ((c.setBitAt (F.DEC_ENGSTAT_RETIRED n) e true).setBitAt (F.DEC_ENGSTAT_ACTIVE n) e false).setBitAt
    (F.DEC_ENGSTAT_RESERVE n) e false
  let gone (d : Dec) (x : Nat) : Dec := { d with
    testing := if d.testing = some x then none else d.testing
    swap := if d.swap.any fun s => s.1 == x || s.2 == x then none else d.swap }
  let c := c.onDec n fun d => gone d e
  let c := if wasActive then
      match (List.range 7).find? (c.engReserve n) with
      | some r => (((c.setBitAt (F.DEC_ENGSTAT_ACTIVE n) r true).set (F.DEC_ENGSTAT_RESERVE n) 0).pfaultSet (.dec n) 1).onDec n
          fun d => gone d r
      | none => c
    else if wasReserve then c.pfaultSet (.dec n) 1 else c
  ((((c.roundEnd n).lastEngine n).raise (.dec n) 0).dispatch n)

end Sys2Proof.Machine
end

