-- ==== Sys2Proof/Machine/Skejo.lean ====
section
/-!
DEFINITION. The Skejo links: sending, receiving, replay, credits and retraining (R24 to R31, R44).
-/
namespace Sys2Proof.Machine

/-- Link `n` as changed by `f`. -/
def Chip.onLink (c : Chip) (n : Lane) (f : Link → Link) : Chip := { c with links := c.links.modify n f }

/-- Direction `d` of link `n`. -/
def Chip.linkDir (c : Chip) (n : Lane) (d : Dir) : SkejoDir := (c.links.get n).dir d

/-- Direction `d` of link `n` as changed by `f`. -/
def Chip.onDir (c : Chip) (n : Lane) (d : Dir) (f : SkejoDir → SkejoDir) : Chip :=
  c.onLink n fun l => l.setDir d (f (l.dir d))

/-- Enter a link state (0 DOWN, 1 TRAINING, 2 UP, 3 DEGRADED); every change fires the link's source (R44). -/
def Chip.setLinkState (c : Chip) (n : Lane) (st : Nat) : Chip :=
  if c.get (F.SKEJO_LINKSTAT_STATE n) = st then c
  else (c.set (F.SKEJO_LINKSTAT_STATE n) st).raise .skejo n.idx

/-- Credits held for a virtual channel. -/
def SkejoDir.credit (d : SkejoDir) : Nat → Nat
  | 0 => d.credit0 | 1 => d.credit1 | 2 => d.credit2 | _ => d.credit3

/-- Set the credits of a virtual channel. -/
def SkejoDir.setCredit (d : SkejoDir) (vc k : Nat) : SkejoDir :=
  match vc with
  | 0 => { d with credit0 := k }
  | 1 => { d with credit1 := k }
  | 2 => { d with credit2 := k }
  | _ => { d with credit3 := k }

/-- Receiver credits of a virtual channel (Table 1-5). -/
def vcCredits : Nat → Nat
  | 0 => 16 | 1 => 192 | 2 => 64 | _ => 128

/-- The header of a packet: channel, payload units, sequence number and type; where each stands in the 8 B is not stated
(DESIGN CHOICE, log entry 171). -/
def SkejoPkt.header (p : SkejoPkt) (seq : Nat) : List Byte :=
  leBytes 8 (packFields [(2, p.vc), (4, p.units), (10, seq), (8, p.kind)])

/-- One byte into the CRC-32C register, least significant bit first. -/
def crc32cByte (reg : Nat) (b : Byte) : Nat :=
  (List.range 8).foldl (fun r _ => if r % 2 = 1 then r / 2 ^^^ 0x82F63B78 else r / 2) (reg ^^^ b.toNat)

/-- CRC-32C, in its common form: reflected, all ones at the start, complemented (PRESUMED, log entry 171). -/
def crc32c (bs : List Byte) : Nat := bs.foldl crc32cByte 0xFFFFFFFF ^^^ 0xFFFFFFFF

/-- A packet as it goes over the link: header, payload and CRC-32C over both (R24). -/
def SkejoPkt.wire (p : SkejoPkt) (seq : Nat) : List Byte :=
  let bs := p.header seq ++ p.payload
  bs ++ leBytes 4 (crc32c bs)

/-- Bytes that arrive when the bits numbered in `flips` are changed on the way. -/
def flipBits (flips : List Nat) (bs : List Byte) : List Byte :=
  bs.zipIdx.map fun e => e.1 ^^^ BitVec.ofNat 8 (((List.range 8).filter fun b => flips.contains (8 * e.2 + b)).foldl setBit 0)

/-- Whether received bytes pass the packet check: the CRC-32C of all but the last four is what these hold (R24, R27). -/
def wireOk (bs : List Byte) : Bool :=
  let k := bs.length - 4
  leBytes 4 (crc32c (bs.take k)) == bs.drop k

/-- Bytes a packet takes: header, payload and CRC-32C (R24). -/
def SkejoPkt.bytes (p : SkejoPkt) : Nat := 8 + p.payload.length + 4

/-- Whether the sender can send `p` now: credit for its channel (R26), and room in the 8 KiB replay buffer (R27). -/
def SkejoDir.canSend (d : SkejoDir) (p : SkejoPkt) : Bool :=
  decide (p.units ≤ d.credit p.vc) &&
    decide ((d.replay.foldl (fun a e => a + e.2.bytes) 0) + p.bytes ≤ 8192)

/-- Priority order of the virtual channels: VC1, VC0, VC2, VC3 (R25). -/
def vcOrder : List Nat := [1, 0, 2, 3]

/-- The packet to send next: the oldest waiting one of the first channel, in priority order, that can send
(R25, R26). -/
def SkejoDir.pick (d : SkejoDir) : Option SkejoPkt :=
  vcOrder.findSome? fun vc =>
    match d.waiting.find? fun p => p.vc == vc with
    | some p => if d.canSend p then some p else none
    | none => none

/-- Send `p`, the oldest waiting packet of its channel: it takes a sequence number and credit and stays in the replay
buffer until acknowledged (R26, R27). -/
def SkejoDir.send (d : SkejoDir) (p : SkejoPkt) : SkejoDir :=
  let d := d.setCredit p.vc (d.credit p.vc - p.units)
  { d with waiting := d.waiting.erase p, replay := d.replay ++ [(d.nextSeq, p)], nextSeq := (d.nextSeq + 1) % 1024 }

/-- Send what can be sent, in priority order: at most `k` packets (R25, R26). -/
def SkejoDir.drain : Nat → SkejoDir → SkejoDir
  | 0, d => d
  | k + 1, d =>
    match d.pick with
    | some p => (d.send p).drain k
    | none => d

/-- Direction `d` of link `n` sends every waiting packet that it can (R25, R26). -/
def Chip.sendPackets (c : Chip) (n : Lane) (d : Dir) : Chip := c.onDir n d fun x => x.drain x.waiting.length

/-- Count a spyhole packet dropped at its source; source 119 fires when the count leaves zero (R26, R44). -/
def Chip.dropSpy (c : Chip) (n : Lane) : Chip :=
  let was := c.get (F.SKEJO_SPYDROP_COUNT n)
  let c := c.count (F.SKEJO_SPYDROP_COUNT n) 1
  if was = 0 then c.raise .skejo 7 else c

/-- The spyhole of lane `n` changed by `f`. -/
def Chip.onSpy (c : Chip) (n : Lane) (f : Spy → Spy) : Chip := c.onRx n fun r => { r with spy := f r.spy }

/-- Count a spyhole packet dropped at its source, and mark the gap in the stream. -/
def Chip.dropSpyGap (c : Chip) (n : Lane) : Chip := (c.dropSpy n).onSpy n fun x => { x with gap := true }

/-- Whether VC3 may carry `p` now: it has credit, and SPYCAP.SHARE leaves room for it.  A share is 0.5 Gb/s, which is 625/1024 B per
tick; 13 to 15 act as 12 (R26, Table 1-7).  That the share is met packet by packet is the model's choice (log entry 172). -/
def Chip.spyMayGo (c : Chip) (n : Lane) (d : Dir) (p : SkejoPkt) : Bool :=
  decide (p.units ≤ (c.linkDir n d).credit 3) && decide ((c.links.get n).spyFrom ≤ c.tick)

/-- VC3 stays silent after `p` for as long as SPYCAP.SHARE asks (log entry 172). -/
def Chip.holdSpy (c : Chip) (n : Lane) (p : SkejoPkt) : Chip :=
  let share := min 12 (c.get F.SKEJO_SPYCAP_SHARE)
  c.onLink n fun l => { l with spyFrom := c.tick + ceilDiv (p.bytes * 1024) (625 * share) }

/-- A packet is offered on a direction of a link: a VC3 packet that has no credit, or that SPYCAP leaves no room, is dropped at
the source and leaves a gap; any other waits; then the sender sends what it can, by priority (R25, R26). -/
def Chip.offerPacket (c : Chip) (n : Lane) (d : Dir) (p : SkejoPkt) : Chip :=
  if p.vc = 3 ∧ c.spyMayGo n d p = false then c.dropSpyGap n
  else
    let c := if p.vc = 3 then c.holdSpy n p else c
    let c := c.onDir n d fun x => { x with waiting := x.waiting ++ [p] }
    if c.linkUp n then c.sendPackets n d else c

/-- PACKET_SEND: a packet of channel `vc` is offered to a sender (R24 to R26). -/
def execPacketSend (n : Lane) (d : Dir) (vc kind : Nat) (payload : List Byte) (s : State) : Host.Outcome State Fault Refusal :=
  .next (s.onChip fun c =>
    if c.fitted n ∧ vc ≤ 3 ∧ kind < 256 ∧ payload.length ≤ 256 ∧ payload.length % 32 = 0 then c.offerPacket n d ⟨vc, kind, payload⟩
    else c)

/-- Count a packet that failed its CRC, at the hub or at the lane (Table 1-6). -/
def Chip.countCrc (c : Chip) (n : Lane) : Dir → Chip
  | .toHub => c.count (F.SKEJO_CRCERR_HUBRX n) 1
  | .toLane => c.count (F.SKEJO_CRCERR_LANERX n) 1

/-- SKEJO_PACKET: the packet that its sender numbered `seq` arrives with the bits of `flips` changed.  A packet that fails its CRC is
discarded, with every later one until the replay, and a NAK names the expected packet; the receiver takes the expected one (R27). -/
def execSkejoPacket (n : Lane) (d : Dir) (seq : Nat) (flips : List Nat) (s : State) : Host.Outcome State Fault Refusal :=
  .next (s.onChip fun c =>
    let x := c.linkDir n d
    match x.replay.find? fun e => e.1 == seq % 1024 with
    | none => c
    | some e =>
      if !c.laneReach n then c
      else if !wireOk (flipBits flips (e.2.wire e.1)) then
        (c.countCrc n d).onDir n d fun x => { x with discarding := true, nakSent := true }
      else if e.1 = x.expect then c.onDir n d fun x =>
        { x with discarding := false, nakSent := false, expect := (x.expect + 1) % 1024, delivered := e.2 :: x.delivered }
      else c)

/-- A link begins to retrain: traffic pauses (R27). -/
def Chip.startRetrain (c : Chip) (n : Lane) : Chip := (c.count (F.SKEJO_RETRY_RETRAINS n) 1).setLinkState n 1

/-- NAK: the NAK that the receiver sent reaches the sender, which replays from the packet expected; the same packet failing
RETLIM.LIMIT times in a row starts a retrain (R27). -/
def execNak (n : Lane) (d : Dir) (s : State) : Host.Outcome State Fault Refusal :=
  .next (s.onChip fun c =>
    let x := c.linkDir n d
    if !c.laneReach n || !x.nakSent then c
    else
      let k := if x.failSeq = x.expect then x.fails + 1 else 1
      let c := (c.count (F.SKEJO_RETRY_REPLAYS n) 1).onDir n d fun x =>
        { x with nakSent := false, failSeq := x.expect, fails := k }
      if c.get F.SKEJO_RETLIM_LIMIT ≤ k then (c.onDir n d fun x => { x with fails := 0 }).startRetrain n else c)

/-- Sequence numbers of the packets in the replay buffer that the receiver has taken: those before the one it expects. -/
def SkejoDir.taken (x : SkejoDir) : List Nat := (x.replay.map Prod.fst).takeWhile fun k => k != x.expect

/-- A cumulative acknowledgement up to `seq`, one of the packets taken: they leave the replay buffer, and the count of failures of
a packet among them is over (R27). -/
def SkejoDir.acked (x : SkejoDir) (seq : Nat) : SkejoDir :=
  match x.taken.findIdx? fun k => k == seq with
  | none => x
  | some k => { x with
      replay := x.replay.drop (k + 1)
      fails := if (x.taken.take (k + 1)).contains x.failSeq then 0 else x.fails }

/-- SKEJO_ACK: a cumulative acknowledgement up to `seq` (R27). -/
def execSkejoAck (n : Lane) (d : Dir) (seq : Nat) (s : State) : Host.Outcome State Fault Refusal :=
  .next (s.onChip fun c =>
    if !c.laneReach n then c else (c.onDir n d fun x => x.acked (seq % 1024)).sendPackets n d)

/-- CREDIT_RETURN: the receiver returns credits for a channel, and the sender sends what now fits (R26). -/
def execCreditReturn (n : Lane) (d : Dir) (vc units : Nat) (s : State) : Host.Outcome State Fault Refusal :=
  .next (s.onChip fun c =>
    if !c.laneReach n || 3 < vc then c
    else
      (c.onDir n d fun x => x.setCredit vc (min (vcCredits vc) (x.credit vc + units))).sendPackets n d)

/-- Physical lanes not retired, of the five of a direction. -/
def workingLanes (retMask : Nat) : Nat := ((List.range 5).filter fun b => !retMask.testBit b).length

/-- Set the working lanes, spare marks and state of a trained link from its retired physical lanes (R28): four or more
working lanes in both directions give UP, two or three DEGRADED, fewer DOWN.  Degraded, SPYCAP is cut to what remains
after VC1 and VC0 (log entry 45). -/
def Chip.settleLink (c : Chip) (n : Lane) : Chip :=
  let tx := workingLanes (c.get (F.SKEJO_LANEMAP_TXRET n))
  let rx := workingLanes (c.get (F.SKEJO_LANEMAP_RXRET n))
  let c := (c.set (F.SKEJO_LINKSTAT_TXLANES n) (min 4 tx)).set (F.SKEJO_LINKSTAT_RXLANES n) (min 4 rx)
  let c := (c.setFlag (F.SKEJO_LINKSTAT_TXSPARE n) (decide (tx < 5))).setFlag (F.SKEJO_LINKSTAT_RXSPARE n)
    (decide (rx < 5))
  if min tx rx < 2 then c.setLinkState n 0
  else if min tx rx < 4 then
    (c.set F.SKEJO_SPYCAP_SHARE (min (c.get F.SKEJO_SPYCAP_SHARE) (if min tx rx = 3 then 8 else 4))).setLinkState n 3
  else c.setLinkState n 2

/-- A training aligns the lane's copy of the tick counter to the hub's within one tick; by how much it stays off is not stated
(R31, log entry 173). -/
def Chip.alignCopy (c : Chip) (n : Lane) : Chip :=
  let k := c.freeBelow 3
  c.nextFree.onLink n fun l => { l with copyOff := (k : Int) - 1 }

/-- RETRAIN_COMPLETE: a training ends; the replay goes on where it stood and nothing is lost, or the link goes to DOWN
(R27, R31). -/
def execRetrainComplete (n : Lane) (ok : Bool) (s : State) : Host.Outcome State Fault Refusal :=
  .next (s.onChip fun c =>
    if c.fitted n ∧ c.get (F.SKEJO_LINKSTAT_STATE n) = 1 then
      if ok then
        let c := (c.alignCopy n).onLink n fun l =>
          { l with toLane := { l.toLane with discarding := false }, toHub := { l.toHub with discarding := false } }
        let c := c.settleLink n
        if c.linkUp n then (c.sendPackets n .toLane).sendPackets n .toHub else c
      else c.setLinkState n 0
    else c)

/-- A write of SKEJO.FORCE: each fitted link named begins to retrain (Table 1-7). -/
def Chip.forceRetrain (c : Chip) (mask : Nat) : Chip :=
  Lane.all.foldl (fun c n => if mask.testBit n.idx && c.fitted n then c.startRetrain n else c) c

/-- FORCE_RETRAIN: SKEJO.FORCE written by `i`. -/
def execForceRetrain (i : Init) (mask : Nat) (s : State) : Host.Outcome State Fault Refusal :=
  .next (s.onChip fun c => c.gate i .skejo 0x400 (·.forceRetrain mask))

end Sys2Proof.Machine
end

