-- ==== Sys2Proof/Machine/Retire.lean ====
section
/-!
DEFINITION. Leaky buckets, retirement and failed lanes (R132, R245, R28, R319, R382 to R386, R389).
-/
namespace Sys2Proof.Machine

/-- A build of a peer's uplink set begins, unless one is under way or the page is stopped (R236, R240, R447). -/
def Chip.startBuild (c : Chip) (n : Lane) (slot : Nat) (byCmd : Bool) : Chip :=
  c.onTmap n fun t =>
    if !c.flag (pctlEnable (.tmap n)) then t
    else if t.builds.any fun b => b.slot == slot then t
    else { t with builds := t.builds ++ [{ slot, tries := 0, byCmd, source := 0, chan := [], add := 0 }] }

/-- The peers of group `n`. -/
def Chip.peersOf (c : Chip) (n : Lane) : List Nat :=
  (c.mac.nbr.filter fun e => e.1 ≠ 0 && e.2.st == 1 && e.2.group == n.num).map Prod.fst

/-- A lane state; any change raises STATE (Table 15-12). -/
def Chip.setLaneState (c : Chip) (n : Lane) (st : Nat) : Chip :=
  if c.get (F.LSYS_LSTAT_STATE n) = st then c else (c.set (F.LSYS_LSTAT_STATE n) st).raise (.lsys n) 0

/-- The lane is FAILED (R389): its Wheel stops, its link stays DOWN, MPDUs to its slots complete with RETIRED, and the host
is told. -/
def Chip.failLane (c : Chip) (n : Lane) : Chip :=
  if c.bitAt F.HEALTH_HSTAT_LANEFAIL n.idx then c
  else
    let c := (c.setLaneState n 4).set (F.WARDEN_WSTAT_STATE n) 4
    let c := ((c.wheelOff n).setLinkState n 0).setBitAt F.HEALTH_HSTAT_LANEFAIL n.idx true
    let c := c.onLane n fun l => { l with ready := false }
    let c := (c.peersOf n).foldl (fun c s => c.finishSlot s Status.retired.code true) c
    (c.raise .health 4).trouble 5 n.num 0xFF 0 0 0

/-- Device firmware fails a lane none of whose ports or none of whose inputs works, or whose decoders are all retired
(R210, R386). -/
def Chip.checkLane (c : Chip) (n : Lane) : Chip :=
  let ports := Port.all.all fun p => c.retired 0 n.num p.num
  let inputs := Input.all.all fun i => c.retired 1 n.num (i.idx + 1)
  if ports || inputs || !c.anyEngine n then c.failLane n else c

/-- A port is retired: the peers coupled to it with CPL 0 move to CPL 1 and get a TMREQ; first sendings to them go at rate
1/2 until a new set is in force; a FULL echo pass is asked for (R132, R149, R245). -/
def Chip.retirePort (c : Chip) (n : Lane) (p : Nat) : Chip :=
  let c := c.pfaultSet (.txp n) 5
  let moved := (c.peersOf n).filter fun s => (c.nbr s).cpl == 0 && (c.nbr s).port == p
  let c := moved.foldl (fun c s =>
    let c := c.onNbr s fun e => { e with cpl := 1 }
    let c := c.sendTmreq s (c.get (F.TMAP_MARGIN_REQADD n)) 1
    c.onTmap n fun t => { t with halfRate := s :: t.halfRate.erase s }) c
  ((c.portMoved n).echoChange n).checkLane n

/-- Whether input `i` (1 to 4) of a lane takes part in reception: enabled, not retired, calibrated (R159, R180). -/
def Chip.inputUsed (c : Chip) (n : Lane) (i : Nat) : Bool :=
  c.bitAt (F.AFE_RXCFG_INEN n) (i - 1) && !c.retired 1 n.num i && c.bitAt (F.AFE_CALSTAT_CALOK n) (i - 1)

/-- The inputs that take part, as a mask. -/
def Chip.inputsMask (c : Chip) (n : Lane) : Nat := ([1, 2, 3, 4].filter (c.inputUsed n)).foldl (fun a i => setBit a (i - 1)) 0

/-- Note which inputs take part; one that stops raises INEXCL once (R180). -/
def Chip.settleInputs (c : Chip) (n : Lane) : Chip :=
  let now := c.inputsMask n
  let gone := clearMask (c.lane n).rx.inUse now
  let c := c.onRx n fun r => { r with inUse := now }
  if gone ≠ 0 then c.raise (.rxp n) 2 else c

/-- An input is retired: a FULL echo pass is asked for and, with AUTOUL, the uplink sets of the group's peers are rebuilt
(R149, R240). -/
def Chip.retireInput (c : Chip) (n : Lane) : Chip :=
  let c := (c.echoChange n).settleInputs n
  let c := if c.flag (F.TMAP_TMCFG_AUTOUL n) then (c.peersOf n).foldl (fun c s => c.startBuild n s false) c else c
  c.checkLane n

/-- Record a retirement: its number, RETIRE, a trouble record (R382, R394). -/
def Chip.markRetired (c : Chip) (cls die unit : Nat) : Chip :=
  let k := bucketKey cls die unit
  let lvl := c.health.buckets.getD k 0
  let c := c.onHealth fun h => { h with retired := h.retired.insert k h.retired.length }
  ((c.count F.HEALTH_RETCNT_TOTAL 1).raise .health 0).trouble 1 die cls unit lvl 0

/-- A port or input that loses its FFT engine is retired, which counts as a fault of its class at threshold (R384). -/
def Chip.retireServed (c : Chip) (n : Lane) (e : Nat) : Chip :=
  let cls := if e < 4 then 1 else 0
  let unit := if e < 4 then e + 1 else e - 3
  if c.retired cls n.num unit then c
  else
    let c := c.onHealth fun h =>
      { h with buckets := h.buckets.insert (bucketKey cls n.num unit) (c.get (F.HEALTH_THR_THR cls)) }
    let c := c.markRetired cls n.num unit
    if cls = 1 then c.retireInput n else c.retirePort n unit

/-- The FFT engine whose load the spare (engine 7) carries: the first of engines 0 to 6 that was retired before the spare
(R384). -/
def Chip.spareServes (c : Chip) (n : Lane) : Option Nat :=
  let num e := c.health.retired.get? (bucketKey 3 n.num e)
  let first := (List.range 7).foldl (fun (a : Option (Nat × Nat)) e =>
    match num e, a with
    | some k, some (k', e') => if k < k' then some (k, e) else some (k', e')
    | some k, none => some (k, e)
    | none, x => x) none
  match first, num 7 with
  | some (k, e), some k7 => if k < k7 then some e else none
  | some (_, e), none => some e
  | none, _ => none

/-- An FFT engine is retired: the spare takes over, or the input or port served is retired (R384). -/
def Chip.retireFft (c : Chip) (n : Lane) (e : Nat) : Chip :=
  if e = 7 then
    match c.spareServes n with
    | some k => c.retireServed n k
    | none => c
  else if c.spareServes n = some e then c
  else c.retireServed n e

/-- Redundant SRAM banks of a die, and the key under which those in use are counted (R385): hub 2, key SRAM 1, lane 1. -/
def sramSpares (die unit : Nat) : Nat × Nat :=
  if die = 0 then if unit < 64 then (0, 2) else (8, 1) else (die, 1)

/-- An SRAM bank is retired onto a redundant bank, or stays in service with its level held at THR (R385). -/
def Chip.retireBank (c : Chip) (die unit : Nat) : Chip :=
  let sp := sramSpares die unit
  if c.health.banksUsed.getD sp.1 0 < sp.2 then
    (c.onHealth fun h => { h with banksUsed := h.banksUsed.modify sp.1 0 (· + 1) }).markRetired 5 die unit
  else
    (c.onHealth fun h =>
      { h with buckets := h.buckets.insert (bucketKey 5 die unit) (c.get (F.HEALTH_THR_THR 5)) }).pfaultSet .health 0

/-- A physical lane of a link is retired (R28): units 0 to 4 toward the lane, 5 to 9 toward the hub.  The change of LANEMAP fires the
link's source, whether or not the link's state changes with it (R44). -/
def Chip.retireSkejo (c : Chip) (n : Lane) (u : Nat) : Chip :=
  let c := if u < 5 then c.setBitAt (F.SKEJO_LANEMAP_TXRET n) u true
    else c.setBitAt (F.SKEJO_LANEMAP_RXRET n) (u - 5) true
  let c := c.raise .skejo n.idx
  if c.linkUp n then c.settleLink n else c

/-- A saggar pair is retired (R319). -/
def Chip.retirePair (c : Chip) : Chip := (c.pfaultSet .saggar 1).raise .saggar 1

/-- Units of a class on a die (Table 15-2). -/
def unitOk (cls die unit : Nat) : Bool :=
  match cls with
  | 0 => 1 ≤ die && die ≤ 7 && 1 ≤ unit && unit ≤ 3
  | 1 => 1 ≤ die && die ≤ 7 && 1 ≤ unit && unit ≤ 4
  | 2 => 1 ≤ die && die ≤ 7 && unit ≤ 6
  | 3 => 1 ≤ die && die ≤ 7 && unit ≤ 7
  | 4 => 1 ≤ die && die ≤ 7 && unit ≤ 9
  | 5 => die ≤ 7 && (if die = 0 then unit ≤ 69 else unit ≤ 23)
  | 6 => die == 0 && unit ≤ 1
  | _ => false

/-- The action of a class at threshold (Table 15-2). -/
def Chip.retireUnit (c : Chip) (cls die unit : Nat) : Chip :=
  match cls, Lane.ofNum die with
  | 0, some n => (c.markRetired 0 die unit).retirePort n unit
  | 1, some n => (c.markRetired 1 die unit).retireInput n
  | 2, some n => ((c.markRetired 2 die unit).retireEngine n unit |> fun c =>
      if c.anyEngine n then c else (c.failBlocks n).checkLane n)
  | 3, some n => (c.markRetired 3 die unit).retireFft n unit
  | 4, some n => (c.markRetired 4 die unit).retireSkejo n unit
  | 5, _ => c.retireBank die unit
  | 6, _ => (c.markRetired 6 die unit).retirePair
  | _, _ => c

/-- Whether a die is fitted: the hub always is. -/
def Chip.dieFitted (c : Chip) (die : Nat) : Bool :=
  match Lane.ofNum die with
  | some n => c.fitted n
  | none => true

/-- A fault of `incr` is added to a unit's bucket, whose level stops at 255; BUCKETHI as the level passes half the
threshold; at the threshold a unit not yet retired is retired (R382, R383). -/
def Chip.addFault (c : Chip) (cls die unit incr : Nat) : Chip :=
  if unitOk cls die unit ∧ c.dieFitted die then
    let k := bucketKey cls die unit
    let thr := c.get (F.HEALTH_THR_THR cls)
    let old := c.health.buckets.getD k 0
    let new := min 255 (old + incr)
    let c := c.onHealth fun h => { h with buckets := h.buckets.insert k new }
    let c := if 2 * old ≤ thr ∧ thr < 2 * new then c.raise .health 6 else c
    if thr ≤ new ∧ !c.retired cls die unit then c.retireUnit cls die unit else c
  else c

/-- A fault of one unit's increment. -/
def Chip.fault1 (c : Chip) (cls die unit : Nat) : Chip := c.addFault cls die unit 1

/-- A leak period of a class ends: every bucket above 0 falls by 1 (R382). -/
def Chip.leakClass (c : Chip) (cls : Nat) : Chip :=
  c.onHealth fun h => { h with
    buckets := (h.buckets.map fun e => if e.1 / 1024 = cls then (e.1, e.2 - 1) else e).filter fun e => e.2 ≠ 0 }

end Sys2Proof.Machine
end

