-- ==== Sys2Proof/Machine/Slip.lean ====
section
/-!
DEFINITION. The slip buffer: matching, combining, storing, evicting and freeing of entries (R216 to R222, R224).
-/
namespace Sys2Proof.Machine

/-- Entries of lane `n`. -/
def Chip.slipEntries (c : Chip) (n : Lane) : List SlipEntry := (c.lane n).rx.slip.entries

/-- Lines in use (SLSTAT.LINES). -/
def Chip.slipLines (c : Chip) (n : Lane) : Nat := (c.slipEntries n).foldl (fun a e => a + e.lines) 0

/-- Whether failed blocks are stored (PSTAT.STORING): EN, the page runs (R447), no NOCOMB, and no coast, nor a reception that began
in one (R222). -/
def Chip.slipStoring (c : Chip) (n : Lane) : Bool :=
  c.flag (F.SLIP_SLCFG_EN n) && c.flag (pctlEnable (.slip n)) && !c.flag (F.SLIP_SLOVR_NOCOMB n)
    && c.get (F.LSYS_LSTAT_STATE n) != 3 && !(c.lane n).rx.rx.any (·.coasted)

/-- Free the entries that `p` picks, each counted once in `f` (R220). -/
def Chip.slipFreeWhere (c : Chip) (n : Lane) (p : SlipEntry → Bool) (f : Option Fld) : Chip :=
  let k := ((c.slipEntries n).filter p).length
  let c := c.onSlip n fun s => { s with entries := s.entries.filter fun e => !p e }
  match f with
  | some fld => c.count fld k
  | none => c

/-- A freeing of Table 7-4 that acts at once. -/
def Chip.slipFreeNow (c : Chip) (n : Lane) (x : SlipFree) : Chip :=
  let c := c.slipFreeWhere n (fun e => x.slot.isNone || x.slot == some e.slot)
    (if x.counted then some (F.SLIP_DISC1_AGED n) else none)
  if x.slcmd then c.set (F.SLIP_SLRES_STATUS n) Status.ok.code else c

/-- Such a freeing waits while a block is in decode (R222). -/
def Chip.slipFree (c : Chip) (n : Lane) (x : SlipFree) : Chip :=
  if (c.lane n).rx.dec.busy.isEmpty then c.slipFreeNow n x
  else c.onSlip n fun s => { s with waiting := s.waiting ++ [x] }

/-- The freeings that waited act once no block is in decode, before the next one starts (R222). -/
def Chip.slipWaited (c : Chip) (n : Lane) : Chip :=
  let ws := (c.lane n).rx.slip.waiting
  if !(c.lane n).rx.dec.busy.isEmpty then c
  else ws.foldl (fun c x => c.slipFreeNow n x) (c.onSlip n fun s => { s with waiting := [] })

/-- Whether a waiting freeing covers a slot. -/
def Chip.slipCovered (c : Chip) (n : Lane) (slot : Nat) : Bool :=
  (c.lane n).rx.slip.waiting.any fun x => x.slot.isNone || x.slot == some slot

/-- A slot is released or changes its generation: its entries are freed and counted in AGED (Table 7-4). -/
def Chip.slipRelease (c : Chip) (n : Lane) (slot : Nat) : Chip :=
  c.slipFree n { slot := some slot, counted := true, slcmd := false }

/-- Every entry is freed, not counted: coast, lane reload, EN written 0, stop of the block (Table 7-4, R447). -/
def Chip.slipReset (c : Chip) (n : Lane) : Chip := c.slipFree n { slot := none, counted := false, slcmd := false }

/-- Whether an entry has the slot, generation, epoch, version, rate and block type of a sender's reception (R218). -/
def SlipEntry.fits (e : SlipEntry) (u : RxUser) (epl : Nat) : Bool :=
  e.slot == u.slot && e.gen == u.gen && e.epl == epl && e.tmv == u.tmv && e.rate == u.rate && e.bt == u.bt

/-- A reception begins for a sender whose FC passed: entries that its frame makes useless are freed, and the ranks of the
matching ones are taken (R218, R220). `att0` says that it is a DATA or G6-DATA frame with ATT = 0. -/
def Chip.slipBegin (c : Chip) (n : Lane) (u : RxUser) (epl : Nat) (att0 : Bool) : Chip × RxUser :=
  let c := if att0 then c.slipFreeWhere n (fun e => e.slot == u.slot) (some (F.SLIP_DISC2_NEWFRAME n))
    else c.slipFreeWhere n (fun e => e.slot == u.slot && (e.tmv != u.tmv || e.epl != epl)) (some (F.SLIP_DISC1_MAPCHG n))
  (c, { u with ranks := ((c.slipEntries n).filter (·.fits u epl)).map (·.order), matched := [], made := [] })

/-- Positions where both metrics are strong, and those where they agree in sign (R218). -/
def agreement (minmag : Nat) (s x : List Int) : Nat × Nat :=
  (List.zip s x).foldl (fun a p =>
    if minmag ≤ p.1.natAbs ∧ minmag ≤ p.2.natAbs then (a.1 + 1, a.2 + bit (decide (0 < p.1) == decide (0 < p.2)))
    else a) (0, 0)

/-- Whether an entry matches a candidate: by sign agreement, or by rank where too few positions are strong (R218). -/
def Chip.slipMatches (c : Chip) (n : Lane) (u : RxUser) (idx : Nat) (ms : List Int) (e : SlipEntry) : Bool :=
  let pa := agreement (c.get (F.SLIP_MATCH_MINMAG n)) e.metrics ms
  if !c.flag (F.SLIP_SLOVR_POSONLY n) && decide (c.get (F.SLIP_MATCH_MINPOS n) ≤ pa.1) then
    decide (c.get (F.SLIP_MATCH_AGREE n) * pa.1 ≤ 256 * pa.2)
  else u.ranks.findIdx? (· == e.order) == some idx

/-- The first entry in ORDER that matches a candidate block; entries matched earlier in the reception are not eligible (R218; log
entry 51). -/
def Chip.slipFind (c : Chip) (n : Lane) (r : Rx) (u : RxUser) (idx : Nat) (ms : List Int) : Option SlipEntry :=
  if r.cand ∧ !c.flag (F.SLIP_SLOVR_NOCOMB n) ∧ c.get (F.LSYS_LSTAT_STATE n) ≠ 3 then
    (c.slipEntries n).find? fun e =>
      e.fits u r.epl && !u.matched.contains e.order && c.slipMatches n u idx ms e
  else none

/-- Slot and ORDER of the entries matched or made in the reception in progress, which are never evicted (R221). -/
def Chip.slipKept (c : Chip) (n : Lane) : List (Nat × Nat) :=
  match (c.lane n).rx.rx with
  | some r => r.users.flatMap fun u => (u.matched ++ u.made).map fun o => (u.slot, o)
  | none => []

/-- Which entry R221 evicts next: the sender's with the smallest ORDER if the sender is at its limit, else the one updated
longest ago, then lower slot, then smaller ORDER. -/
def Chip.slipVictim (c : Chip) (n : Lane) (slot turn : Nat) (own : Bool) : Option SlipEntry :=
  let kept := c.slipKept n
  let cand := (c.slipEntries n).filter fun e => !kept.contains (e.slot, e.order) && (!own || e.slot == slot)
  let older (a b : SlipEntry) : Bool :=
    if own then a.order < b.order
    else
      let da := (turn + 2 ^ 32 - a.uturn) % 2 ^ 32
      let db := (turn + 2 ^ 32 - b.uturn) % 2 ^ 32
      if da ≠ db then db < da else if a.slot ≠ b.slot then a.slot < b.slot else a.order < b.order
  cand.foldl (fun m e => match m with
    | none => some e
    | some x => if older e x then some e else some x) none

/-- One eviction, if room is still short (R221). -/
def Chip.slipEvict (c : Chip) (n : Lane) (slot turn need : Nat) : Chip :=
  let own := decide (c.get (F.SLIP_SLCFG_PEERMAX n) ≤ ((c.slipEntries n).filter fun e => e.slot == slot).length)
  if own || decide (24576 < c.slipLines n + need) then
    match c.slipVictim n slot turn own with
    | some v => (((c.slipFreeWhere n (fun e => e.order == v.order && e.slot == v.slot) none).count
        (F.SLIP_DISC3_EVICTED n) 1).pfaultSet (.slip n) 0).raise (.slip n) 0
    | none => c
  else c

/-- Whether an entry of `need` lines of a sender fits. -/
def Chip.slipRoom (c : Chip) (n : Lane) (slot need : Nat) : Bool :=
  decide (((c.slipEntries n).filter fun e => e.slot == slot).length < c.get (F.SLIP_SLCFG_PEERMAX n))
    && decide (c.slipLines n + need ≤ 24576)

/-- Insert an entry in ORDER. -/
def insertEntry (e : SlipEntry) : List SlipEntry → List SlipEntry
  | [] => [e]
  | x :: xs => if e.order < x.order then e :: x :: xs else x :: insertEntry e xs

/-- Make an entry from a failed block, evicting one entry after the other until it fits, or count it in NOSTORE (R216, R219, R221). -/
def Chip.slipStoreBlk (c : Chip) (n : Lane) (r : Rx) (u : RxUser) (user order : Nat) (ms : List Int) : Chip :=
  let need := if u.bt = 1 then 24 else 102
  let c := (c.slipEntries n).foldl (fun c _ => c.slipEvict n u.slot r.turn need) c
  if c.slipRoom n u.slot need then
    let e : SlipEntry :=
      { slot := u.slot, gen := u.gen, epl := r.epl, tmv := u.tmv, rate := u.rate, bt := u.bt, order, cnt := 1, miss := 0,
        uturn := r.turn, metrics := slipStore u.bt ms }
    let c := c.onSlip n fun s => { s with entries := insertEntry e s.entries }
    let c := c.onRxn n fun r => { r with users := r.users.modify user fun (u : RxUser) => { u with made := order :: u.made } }
    let c := c.count (F.SLIP_STORED_COUNT n) 1
    if c.get (F.SLIP_PEAK_LINES n) < c.slipLines n then c.set (F.SLIP_PEAK_LINES n) (c.slipLines n) else c
  else (c.count (F.SLIP_DISC3_NOSTORE n) 1).pfaultSet (.slip n) 1

/-- Handle a matched entry after its combined decode (R219, R220): freed on a pass, or when CNT reaches 7; else the sum
replaces its metrics. -/
def Chip.slipCombined (c : Chip) (n : Lane) (r : Rx) (e : SlipEntry) (ok : Bool) (sum : List Int) : Chip :=
  let c := c.count (F.SLIP_COMB_COMBINED n) 1
  let me (x : SlipEntry) : Bool := x.order == e.order && x.slot == e.slot
  if ok then (c.count (F.SLIP_COMB_RECOVERED n) 1).slipFreeWhere n me none
  else if c.slipCovered n e.slot then c
  else if 6 ≤ e.cnt then c.slipFreeWhere n me (some (F.SLIP_DISC2_MISSED n))
  else
    let put (x : SlipEntry) : SlipEntry :=
      if me x then { x with metrics := slipStore x.bt sum, cnt := x.cnt + 1, uturn := r.turn } else x
    c.onSlip n fun s => { s with entries := s.entries.map put }

/-- The end of a candidate reception for a sender: MISS counts in every entry eligible at its start that no block matched,
and an entry that reaches MAXMISS is freed (R219, R220). -/
def Chip.slipEnd (c : Chip) (n : Lane) (u : RxUser) : Chip :=
  let missed (e : SlipEntry) : Bool := e.slot == u.slot && u.ranks.contains e.order && !u.matched.contains e.order
  let bump (e : SlipEntry) : SlipEntry := if missed e then { e with miss := min 15 (e.miss + 1) } else e
  let c := c.onSlip n fun s => { s with entries := s.entries.map bump }
  c.slipFreeWhere n (fun e => missed e && decide (c.get (F.SLIP_SLCFG_MAXMISS n) ≤ e.miss)) (some (F.SLIP_DISC2_MISSED n))

/-- SLIP_AGE: at a turn start entries last updated more than AGE turns ago are freed; a reception in progress is aged
against the turn in which it began (R220, R222). -/
def execSlipAge (n : Lane) (s : State) : Host.Outcome State Fault Refusal :=
  .next (s.onChip fun c =>
    let busy : List Nat × Nat := match (c.lane n).rx.rx with
      | some r => (r.users.map fun u => u.slot, r.turn)
      | none => ([], 0)
    c.slipFreeWhere n (fun (e : SlipEntry) =>
        let t := if busy.1.contains e.slot then busy.2 else c.turn n
        decide (c.get (F.SLIP_SLCFG_AGE n) < (t + 2 ^ 32 - e.uturn) % 2 ^ 32 ∧ !turnBefore t e.uturn))
      (some (F.SLIP_DISC1_AGED n)))

/-- SLCMD.FLUSH. -/
def Chip.slipFlush (c : Chip) (n : Lane) : Chip :=
  (c.set (F.SLIP_SLRES_STATUS n) Status.busy.code).slipFree n { slot := none, counted := false, slcmd := true }

/-- SLCMD.FLUSHSLOT; FORMAT for a number that is no peer slot (Table 7-6). -/
def Chip.slipFlushSlot (c : Chip) (n : Lane) (slot : Nat) : Chip :=
  if slot = 0 ∨ 0x2000 ≤ slot then c.set (F.SLIP_SLRES_STATUS n) Status.format.code
  else (c.set (F.SLIP_SLRES_STATUS n) Status.busy.code).slipFree n { slot := some slot, counted := false, slcmd := true }

/-- A write of SLCMD (R451, R452). -/
def Chip.slcmdWrite (c : Chip) (i : Init) (n : Lane) (val : Nat) : Chip :=
  if !val.testBit 0 ∧ !val.testBit 1 then c
  else if c.get (F.SLIP_SLRES_STATUS n) = Status.busy.code then c.refuseState i (.slip n) 0x060
  else if val.testBit 0 ∧ val.testBit 1 then c.refuseMulti i (.slip n) 0x060
  else if val.testBit 0 then c.slipFlush n
  else c.slipFlushSlot n (bitField val 16 14)

/-- FLUSH: SLCMD.FLUSH written by `i`. -/
def execFlush (i : Init) (n : Lane) (s : State) : Host.Outcome State Fault Refusal :=
  .next (s.onChip fun c => c.gate i (.slip n) 0x060 (·.slcmdWrite i n 1))

/-- FLUSHSLOT: SLCMD.FLUSHSLOT written by `i`. -/
def execFlushslot (i : Init) (n : Lane) (slot : Nat) (s : State) : Host.Outcome State Fault Refusal :=
  .next (s.onChip fun c => c.gate i (.slip n) 0x060 (·.slcmdWrite i n (2 + slot % 2 ^ 14 * 2 ^ 16)))

end Sys2Proof.Machine
end

