-- ==== Sys2Proof/Machine/MapSets.lean ====
section
/-!
DEFINITION. Tone maps, the library and its references, map sets and their banks, and the TMX format (R225 to R231, R241).
-/
namespace Sys2Proof.Machine

/-- The 96 bits of a map set (Table 8-2). -/
def MapSet.num (m : MapSet) : Nat := m.w0 + 2 ^ 32 * m.w1 + 2 ^ 64 * m.w2
/-- The set of 96 bits; the reserved bit 95 is 0. -/
def MapSet.ofNum (x : Nat) : MapSet := ⟨x % 2 ^ 32, x / 2 ^ 32 % 2 ^ 32, x / 2 ^ 64 % 2 ^ 31⟩
/-- Field MAPj. -/
def MapSet.idx (m : MapSet) (j : Nat) : Nat := bitField m.num (10 * j) 10
/-- SEL of phase `ph`. -/
def MapSet.sel (m : MapSet) (ph : Nat) : Nat := bitField m.num (40 + 2 * ph) 2
/-- Field TMV. -/
def MapSet.tmv (m : MapSet) : Nat := bitField m.num 88 4
/-- Field VALID. -/
def MapSet.valid (m : MapSet) : Bool := m.num.testBit 92
/-- Field BP. -/
def MapSet.bp (m : MapSet) : Nat := bitField m.num 93 2
/-- The set with VALID 0. -/
def MapSet.invalid (m : MapSet) : MapSet := { m with w2 := clearMask m.w2 (2 ^ 28) }
/-- A valid set of library indexes, SEL values by phase, TMV and BP. -/
def MapSet.make (idx sels : List Nat) (tmv bp : Nat) : MapSet :=
  .ofNum (packFields ((List.range 4).map (fun j => (10, idx.getD j 0)) ++ (List.range 24).map (fun ph => (2, sels.getD ph 0))
    ++ [(4, tmv), (1, 1), (2, bp)]))

/-- The library entries that a bank names: those that SEL selects, each once; a bank that is not VALID names none (R230,
log entry 60). -/
def MapSet.names (m : MapSet) : List Nat :=
  if m.valid then (((List.range 24).map fun ph => m.idx (m.sel ph)).foldl (fun l x => if l.contains x then l else l ++ [x]) [])
  else []

/-- The sum of the loaded bits of a map (Table 8-1, BITS). -/
def ToneMap.bits (m : ToneMap) : Nat := m.codes.foldl (fun a e => a + loadBits e.2) 0

/-- REFS of an entry: the banks that name it and the host's hold (R227, R230). -/
def LibEntry.count (e : LibEntry) : Nat := e.refs + bit e.hold

/-- The library of lane `n`. -/
def Chip.lib (c : Chip) (n : Lane) : NatMap LibEntry := (c.lane n).tmap.lib

/-- Entries with REFS > 0. -/
def Chip.libUsed (c : Chip) (n : Lane) : Nat := ((c.lib n).filter fun e => e.2.count != 0).length

/-- Free entries of the library. -/
def Chip.libFree (c : Chip) (n : Lane) : Nat := 1024 - c.libUsed n

/-- Change the library; LIBLOW as the free entries fall below LOWTHR (R227). -/
def Chip.onLib (c : Chip) (n : Lane) (f : Tmap → Tmap) : Chip :=
  let low := c.get (F.TMAP_LIBCFG_LOWTHR n)
  let was := c.libFree n
  let c := c.onTmap n f
  if low ≤ was ∧ c.libFree n < low then c.raise (.tmap n) 0 else c

/-- Change an entry; one that becomes free is the last released (R227). -/
def Tmap.touch (t : Tmap) (i : Nat) (f : LibEntry → LibEntry) : Tmap :=
  match t.lib.get? i with
  | none => t
  | some e =>
    let e' := f e
    if e.count ≠ 0 ∧ e'.count = 0 then { t with lib := t.lib.insert i { e' with released := t.clock }, clock := t.clock + 1 }
    else { t with lib := t.lib.insert i e' }

/-- One more bank names the entries of a list. -/
def Chip.addRefs (c : Chip) (n : Lane) (is : List Nat) : Chip :=
  c.onLib n fun t => is.foldl (fun t i => t.touch i fun e => { e with refs := e.refs + 1 }) t

/-- One bank fewer names them. -/
def Chip.dropRefs (c : Chip) (n : Lane) (is : List Nat) : Chip :=
  c.onLib n fun t => is.foldl (fun t i => t.touch i fun e => { e with refs := e.refs - 1 }) t

/-- The free entry that was released longest ago. -/
def Tmap.oldestFree (t : Tmap) : Option Nat :=
  (t.lib.foldl (fun (a : Option (Nat × Nat)) e =>
    if e.2.count ≠ 0 then a
    else match a with
      | some (r, i) => if e.2.released < r then some (e.2.released, e.1) else some (r, i)
      | none => some (e.2.released, e.1)) none).map Prod.snd

/-- Install a map (R227): the entry's index and whether it was there already, or none when no entry is free.  Which of
several empty entries is used is not stated. -/
def Chip.installMap (c : Chip) (n : Lane) (m : ToneMap) : Option (Nat × Bool) × Chip :=
  let t := (c.lane n).tmap
  let put (c : Chip) (i : Nat) := c.onLib n fun t =>
    { t with lib := t.lib.insert i { map := m, refs := 0, hold := false, released := t.clock }, clock := t.clock + 1 }
  match t.lib.find? fun e => e.2.map == m with
  | some e => (some (e.1, true), c)
  | none =>
    let empty := (List.range 1024).filter fun i => (t.lib.get? i).isNone
    if empty ≠ [] then
      let i := empty.getD (c.freeBelow empty.length) 0
      (some (i, false), put c.nextFree i)
    else match t.oldestFree with
      | some i => (some (i, false), put c i)
      | none => (none, (c.count (F.TMAP_COUNTS2_LIBFULL n) 1).pfaultSet (.tmap n) 0)

/-- Install the maps of a set, each held for the set at once; none and no change to the references if one cannot be. -/
def Chip.installAll (c : Chip) (n : Lane) (place : Chip → ToneMap → Option Nat × Chip) :
    List ToneMap → List Nat → Option (List Nat) × Chip
  | [], got => (some got, c)
  | m :: ms, got =>
    match place c m with
    | (some i, c) => Chip.installAll (c.addRefs n [i]) n place ms (got ++ [i])
    | (none, c) => (none, c.dropRefs n got)

/-- Placing a map by R227 alone. -/
def Chip.placeExact (n : Lane) (c : Chip) (m : ToneMap) : Option Nat × Chip :=
  let r := c.installMap n m
  (r.1.map Prod.fst, r.2)

/-- Placing a map that the GX8 built (R228): the acceptable entry with the most bits, ties to the lower index, before
R227. -/
def Chip.placeMerged (n : Lane) (c : Chip) (m : ToneMap) : Option Nat × Chip :=
  let tol := c.get (F.TMAP_MERGE_TOL n)
  let fits (x : ToneMap) : Bool :=
    x.bp == m.bp && x.rate == m.rate && x.g6 == m.g6 && (x.codes.all fun e => decide (e.2 ≤ m.codes.getD e.1 0))
      && decide ((m.bits - x.bits) * 256 ≤ tol * m.bits)
  match (c.lib n).foldl (fun (a : Option (Nat × Nat)) e =>
      if !fits e.2.map then a
      else match a with
        | some (b, i) => if b < e.2.map.bits then some (e.2.map.bits, e.1) else some (b, i)
        | none => some (e.2.map.bits, e.1)) none with
  | some (_, i) => (some i, c)
  | none => c.placeExact n m

/-- Whether a set may be written as a valid one (R230): every map named is in the library with the set's BP, all have one
RATE, and a G6 set, that is one for a GLP-6 peer or one that names a G6 map, selects MAP0 alone, which is a G6 map. -/
def Chip.setOk (c : Chip) (n : Lane) (slot : Nat) (m : MapSet) : Bool :=
  let g6 := (c.nbr slot).proto == 1
  let es := m.names.map fun i => (c.lib n).get? i
  let isG6 (e : Option LibEntry) : Bool := match e with
    | some e => e.map.g6
    | none => false
  (es.all fun e => match e with
    | some e => e.map.bp == m.bp
    | none => false)
    && (match es with
      | some e :: _ => es.all fun x => match x with
        | some x => x.map.rate == e.map.rate
        | none => false
      | _ => true)
    && (!(es.any isG6 || g6 && !es.isEmpty) || (es.all isG6 && (List.range 24).all fun ph => m.sel ph == 0))

/-! The banks of R231. -/

/-- Uplink bank of a slot: A, or B. -/
def Chip.ulBank (c : Chip) (n : Lane) (slot : Nat) (b : Bool) : MapSet :=
  if b then (c.laneRec n slot).bankB else (c.laneRec n slot).bankA

/-- Write an uplink bank, moving the references. -/
def Chip.putUl (c : Chip) (n : Lane) (slot : Nat) (b : Bool) (m : MapSet) : Chip :=
  let old := c.ulBank n slot b
  let c := c.addRefs n m.names
  let c := c.onRec n slot fun r => if b then { r with bankB := m } else { r with bankA := m }
  c.dropRefs n old.names

/-- Downlink bank of a slot: 0 CUR, 1 NEXT, 2 EPO. -/
def Chip.dlBank (c : Chip) (slot k : Nat) : MapSet :=
  if k = 0 then (c.nbr slot).dlcur else if k = 1 then (c.nbr slot).dlnext else (c.nbr slot).dlepo

/-- Write a downlink bank, moving the references in the library of the peer's lane. -/
def Chip.putDl (c : Chip) (slot k : Nat) (m : MapSet) : Chip :=
  let old := c.dlBank slot k
  let set (e : Nbr) : Nbr :=
    if k = 0 then { e with dlcur := m } else if k = 1 then { e with dlnext := m } else { e with dlepo := m }
  match c.slotLane slot with
  | some n => ((c.addRefs n m.names).onNbr slot set).dropRefs n old.names
  | none => c.onNbr slot set

/-- The uplink bank that a frame of TMV `tmv` in profile `bp` uses (R231); TMV 0 means no set (R229). -/
def Chip.ulMatch (c : Chip) (n : Lane) (slot tmv bp : Nat) : Option MapSet :=
  [c.ulBank n slot false, c.ulBank n slot true].find? fun m => m.valid && m.tmv != 0 && m.tmv == tmv && m.bp == bp

/-- The downlink bank the MAC engine uses in profile `bp` (R246); one of TMV 0 is no set (R229). -/
def Chip.dlFor (c : Chip) (slot bp : Nat) : Option MapSet :=
  [(c.nbr slot).dlcur, (c.nbr slot).dlepo].find? fun m => m.valid && m.tmv != 0 && m.bp == bp

/-- The map of phase `f mod 24` of a set (R229). -/
def Chip.mapOf (c : Chip) (n : Lane) (m : MapSet) (f : Nat) : Option ToneMap :=
  ((c.lib n).get? (m.idx (m.sel (f % 24)))).map (·.map)

/-- A pending downlink set goes into force: NEXT becomes CUR (R243). -/
def Chip.nextToCur (c : Chip) (slot : Nat) : Chip :=
  let m := c.dlBank slot 1
  let c := (c.putDl slot 0 m).putDl slot 1 .zero
  match c.slotLane slot with
  | some n => c.onTmap n fun t => { t with pending := t.pending.erase slot, halfRate := t.halfRate.erase slot }
  | none => c

/-- A set stands in a peer's NEXT bank (R242, R273). -/
def Chip.installNext (c : Chip) (n : Lane) (slot : Nat) (m : MapSet) : Chip :=
  (((c.putDl slot 1 m).count (F.TMAP_COUNTS1_SETSIN n) 1).onTmap n fun t => { t with pending := t.pending.insert slot 0 })

/-- The banks of a slot become invalid at once, and what goes with them ends (R247). -/
def Chip.dropSets (c : Chip) (n : Lane) (slot : Nat) : Chip :=
  let c := ((c.putUl n slot false .zero).putUl n slot true .zero)
  let c := ((c.putDl slot 0 .zero).putDl slot 1 .zero).putDl slot 2 .zero
  c.onTmap n fun t => { t with
    builds := t.builds.filter (·.slot != slot), tmx := t.tmx.filter (·.slot != slot), pending := t.pending.erase slot,
    halfRate := t.halfRate.erase slot, since := t.since.erase slot, chan := t.chan.erase slot, est := t.est.erase slot,
    wturn := t.wturn.erase slot, lastTmv := t.lastTmv.erase slot,
    version := t.version.erase slot }

/-- A band profile is left behind: banks of it become invalid, and EPO becomes CUR (R246). -/
def Chip.leaveProfile (c : Chip) (n : Lane) (slot bp : Nat) : Chip :=
  let stale (m : MapSet) : Bool := m.valid && m.bp == bp
  let c := [false, true].foldl (fun c b => if stale (c.ulBank n slot b) then c.putUl n slot b (c.ulBank n slot b).invalid else c) c
  let c := [0, 1, 2].foldl (fun c k => if stale (c.dlBank slot k) then c.putDl slot k (c.dlBank slot k).invalid else c) c
  let e := c.dlBank slot 2
  if e.valid then (c.putDl slot 0 e).putDl slot 2 .zero else c

/-! Map images and TMX bodies. -/

/-- The codes other than 0 of carriers in order, from (carrier, code) pairs. -/
def codesOf (l : List (Nat × Nat)) : NatMap Nat := l.filter fun e => e.2 != 0

/-- The check of R226 on a map's content. -/
def ToneMap.ok (m : ToneMap) : Bool :=
  m.bp != 3 && decide (m.rate ≤ 4) && (m.codes.all fun e =>
      decide (e.2 ≤ if m.g6 then 7 else 8) && !isPilot e.1 && decide (40 ≤ e.1) && decide (e.1 < 40 + carriersOf m.bp))
    && (!m.g6 || (m.bp != 0 && decide (m.rate ≤ 3))) && decide (1 ≤ m.bits)

/-- The map of an image, or why it is not accepted (R225, R226). -/
def imageMap (bs : List Byte) : Except Status ToneMap :=
  let b i := (bs.getD i 0).toNat
  let m : ToneMap :=
    { bp := b 1 % 4, rate := b 1 / 4 % 8, g6 := (b 1).testBit 5,
      codes := codesOf ((List.range 3960).map fun k => (40 + k, b (64 + k / 2) / (if k % 2 = 0 then 1 else 16) % 16)) }
  if b 0 ≠ 8 then .error .version
  else if b 1 < 64 && ((bs.drop 6).take 58).all (· == 0) && ((bs.drop 2044).take 4).all (· == 0) && m.ok then .ok m
  else .error .format

/-- The codes of a map's data carriers in order. -/
def ToneMap.dataCodes (m : ToneMap) : List Nat := (List.range (dataCarriersOf m.bp)).map fun d => m.codes.getD (dataCarrier d) 0

/-- Pairs of nibbles as bytes, low nibble first. -/
def packNibbles : List Nat → List Byte
  | [] => []
  | [a] => [BitVec.ofNat 8 a]
  | a :: b :: rest => BitVec.ofNat 8 (a + 16 * b) :: packNibbles rest

/-- Runs (code, length of 1 to 4,096) of a list of codes. -/
def runsOf : List Nat → List (Nat × Nat)
  | [] => []
  | a :: rest =>
    match runsOf rest with
    | (b, k) :: rs => if a = b ∧ k < 4096 then (a, k + 1) :: rs else (a, 1) :: (b, k) :: rs
    | [] => [(a, 1)]

/-- A map record (R241): the smaller of the two forms. -/
def ToneMap.record (m : ToneMap) : List Byte :=
  let packed := packNibbles m.dataCodes
  let runs := runsOf m.dataCodes
  if 2 * runs.length < packed.length then
    leBytes 2 (1 + 2 * runs.length) ++ runs.flatMap fun r => leBytes 2 (r.1 + 16 * (r.2 - 1))
  else leBytes 2 (2 * packed.length) ++ packed

/-- A TMX body (Table 8-4) of maps, SEL values, TMV and profile. -/
def tmxBody (maps : List ToneMap) (sels : List Nat) (tmv bp : Nat) (g6 : Bool) : List Byte :=
  let rate := match maps with
    | m :: _ => m.rate
    | [] => 0
  [BitVec.ofNat 8 (if g6 then 6 else 8), BitVec.ofNat 8 (tmv + 16 * bp + 64 * (maps.length - 1)), BitVec.ofNat 8 rate, 0]
    ++ leBytes 6 (packFields ((List.range 24).map fun ph => (2, sels.getD ph 0))) ++ [0, 0] ++ maps.flatMap ToneMap.record

/-- Codes from packed nibbles. -/
def unpackNibbles (bs : List Byte) : List Nat := bs.flatMap fun b => [b.toNat % 16, b.toNat / 16]

/-- The codes of `nd` data carriers that a record spells, and the bytes after it. -/
def parseRecord (nd : Nat) (bs : List Byte) : Option (List Nat × List Byte) :=
  let h := leNat (bs.take 2)
  let k := h / 2
  let rest := bs.drop 2
  if bs.length < 2 then none
  else if h % 2 = 0 then
    if k = ceilDiv nd 2 ∧ k ≤ rest.length then
      let cs := unpackNibbles (rest.take k)
      if (cs.drop nd).all (· == 0) then some (cs.take nd, rest.drop k) else none
    else none
  else if 2 * k ≤ rest.length then
    let items := (List.range k).map fun j => leNat ((rest.drop (2 * j)).take 2)
    let cs := items.flatMap fun it => List.replicate (it / 16 + 1) (it % 16)
    if cs.length = nd then some (cs, rest.drop (2 * k)) else none
  else none

/-- `k` map records. -/
def parseRecords (bp rate : Nat) (g6 : Bool) : Nat → List Byte → Option (List ToneMap)
  | 0, bs => if bs.isEmpty then some [] else none
  | k + 1, bs =>
    match parseRecord (dataCarriersOf bp) bs with
    | none => none
    | some (cs, rest) =>
      let m : ToneMap := { bp, rate, g6, codes := codesOf (cs.zipIdx.map fun e => (dataCarrier e.2, e.1)) }
      match parseRecords bp rate g6 k rest with
      | some ms => if m.ok then some (m :: ms) else none
      | none => none

/-- A received TMX: TMV 0, or a set (R241). -/
inductive TmxIn
  | revoke
  | set (maps : List ToneMap) (sels : List Nat) (tmv bp : Nat)

/-- What a TMX body from a peer spells, or none for one that is not valid. -/
def parseTmx (g6 : Bool) (bs : List Byte) : Option TmxIn :=
  let b i := (bs.getD i 0).toNat
  let tmv := b 1 % 16
  let bp := b 1 / 16 % 4
  let nmap := b 1 / 64 + 1
  let sels := (List.range 24).map fun ph => bitField (leNat ((bs.drop 4).take 6)) (2 * ph) 2
  if bs.length < 12 ∨ b 0 ≠ (if g6 then 6 else 8) then none
  else if tmv = 0 then some .revoke
  else if bp = 3 ∨ 8 ≤ b 2 ∨ b 3 ≠ 0 ∨ b 10 ≠ 0 ∨ b 11 ≠ 0 ∨ sels.any (fun x => decide (nmap ≤ x)) ∨ (g6 ∧ nmap ≠ 1) then none
  else (parseRecords bp (b 2) g6 nmap (bs.drop 12)).map fun ms => .set ms sels tmv bp

end Sys2Proof.Machine
end

