-- ==== Sys2Proof/Machine/Tmap.lean ====
section
/-!
DEFINITION. The TMAP page's commands and the exchange of map sets with peers (R227, R230, R236, R240 to R244, R248).
-/
namespace Sys2Proof.Machine

/-- Whether a slot is an assigned peer of group `n`. -/
def Chip.peerOf (c : Chip) (n : Lane) (slot : Nat) : Bool :=
  decide (1 ≤ slot) && decide (slot ≤ 8191) && (c.nbr slot).st == 1 && (c.nbr slot).group == n.num

/-! The noise table (R233). -/

/-- Key of the mean of an input (0 to 3), a phase and a carrier. -/
def meanKey (i ph k : Nat) : Nat := (i * 24 + ph) * 4096 + k
/-- Key of the peak of an input, a phase and a sherd. -/
def peakKey (i ph sh : Nat) : Nat := (i * 24 + ph) * 128 + sh

/-- NDATA: the means of the carrier and phase of NADDR (R248). -/
def Chip.ndata (c : Chip) (n : Lane) : Nat :=
  let t := (c.lane n).tmap
  packFields ((List.range 4).map fun i =>
    (8, t.mean.getD (meanKey i (c.get (F.TMAP_NADDR_PHASE n)) (c.get (F.TMAP_NADDR_CARR n))) 0))

/-- A read of NDATA: the means; CARR increments, wrapping from 3,999 to 40. -/
def Chip.readNdata (c : Chip) (n : Lane) : Nat × Chip :=
  let k := c.get (F.TMAP_NADDR_CARR n)
  (c.ndata n, c.set (F.TMAP_NADDR_CARR n) (if 3999 ≤ k then 40 else k + 1))

/-- NDATA_READ (R248). -/
def execNdataRead (i : Init) (n : Lane) (s : State) : Host.Outcome State Fault Refusal :=
  .next (s.onChip fun c => c.gateRead i (.tmap n) 0x438 fun c => c.readNdata n)

/-! Map sets by the host. -/

/-- Bank words from MITW. -/
def Chip.mitw (c : Chip) (n : Lane) : MapSet :=
  .ofNum (c.get (F.TMAP_MITW_DATA n 0) + 2 ^ 32 * c.get (F.TMAP_MITW_DATA n 1) + 2 ^ 64 * c.get (F.TMAP_MITW_DATA n 2))

/-- MITCMD.READ: the bank into MITW; STALE for a slot that is no assigned peer of the group. -/
def Chip.mitRead (c : Chip) (n : Lane) : Chip :=
  let slot := c.get (F.TMAP_MITSEL_SLOT n)
  if c.peerOf n slot then
    let m := c.ulBank n slot (c.flag (F.TMAP_MITSEL_BANK n))
    (((c.set (F.TMAP_MITW_DATA n 0) m.w0).set (F.TMAP_MITW_DATA n 1) m.w1).set (F.TMAP_MITW_DATA n 2) m.w2).set
      (F.TMAP_MITRES_STATUS n) Status.ok.code
  else c.set (F.TMAP_MITRES_STATUS n) Status.stale.code

/-- A build of a slot is cancelled (R240).  What BRES then shows of one that BCMD ordered is not stated. -/
def Chip.cancelBuild (c : Chip) (n : Lane) (slot : Nat) : Chip :=
  let bs := (c.lane n).tmap.builds
  let c := c.onTmap n fun t => { t with builds := t.builds.filter (·.slot != slot) }
  if bs.any fun b => b.slot == slot && b.byCmd then
    (c.nextFree).set (F.TMAP_BRES_STATUS n) ([0x00, 0x01, 0x07].getD (c.freeBelow 3) 0)
  else c

/-- Send the set of an uplink bank to its peer as a TMX, and await the first frame that carries its version (R242). -/
def Chip.sendSet (c : Chip) (n : Lane) (slot : Nat) (b : Bool) (again : Nat) : Chip :=
  let m := c.ulBank n slot b
  let top := (List.range 24).foldl (fun a ph => max a (m.sel ph)) 0
  let maps := (List.range (top + 1)).filterMap fun j => ((c.lib n).get? (m.idx j)).map (·.map)
  let g6 := (c.nbr slot).proto == 1
  let body := tmxBody maps ((List.range 24).map m.sel) m.tmv m.bp g6
  (c.firmwareSend slot 0x20 body).onTmap n fun t =>
    { t with
      tmx := (t.tmx.filter (·.slot != slot)) ++ [{ slot, tmv := m.tmv, turns := 0, sent := again, bankB := b }]
      version := t.version.insert slot m.tmv }

/-- MITCMD.WRITE, with or without SEND (R230, R240, R242). -/
def Chip.mitWrite (c : Chip) (n : Lane) (send : Bool) : Chip :=
  let slot := c.get (F.TMAP_MITSEL_SLOT n)
  let b := c.flag (F.TMAP_MITSEL_BANK n)
  let m := c.mitw n
  if !c.peerOf n slot then c.set (F.TMAP_MITRES_STATUS n) Status.stale.code
  else if !c.setOk n slot m then c.set (F.TMAP_MITRES_STATUS n) Status.format.code
  else
    let c := ((c.cancelBuild n slot).putUl n slot b m).set (F.TMAP_MITRES_STATUS n) Status.ok.code
    if send && m.valid then c.sendSet n slot b 1 else c

/-- A write of MITCMD: READ or WRITE, SEND being a modifier of WRITE; both at once are several commands, and SEND without WRITE is
ignored in the same way, that is refused with cause 9 (R452, log entry 10). -/
def Chip.mitcmdWrite (c : Chip) (i : Init) (n : Lane) (val : Nat) : Chip :=
  if (val.testBit 0 && val.testBit 1) || (val.testBit 2 && !val.testBit 1) then c.refuseMulti i (.tmap n) 0x41C
  else if val.testBit 0 then c.mitRead n
  else if val.testBit 1 then c.mitWrite n (val.testBit 2)
  else c

/-- MIT_READ (R248). -/
def execMitRead (i : Init) (n : Lane) (s : State) : Host.Outcome State Fault Refusal :=
  .next (s.onChip fun c => c.gate i (.tmap n) 0x41C fun c => c.mitcmdWrite i n 1)

/-- MIT_WRITE (R230). -/
def execMitWrite (i : Init) (n : Lane) (send : Bool) (s : State) : Host.Outcome State Fault Refusal :=
  .next (s.onChip fun c => c.gate i (.tmap n) 0x41C fun c => c.mitcmdWrite i n (2 + 4 * bit send))

/-! The library by the host. -/

/-- LDCMD.LOAD: fetch the image, check it and install it with a hold (R226, R227); a status other than OK raises BUILD. -/
def Work.mapLoad (w : Work) (n : Lane) : Work :=
  let src := w.chip.get (F.TMAP_LDSRC_OFFS n) * 2048
  let bs := w.readBytes .sram src 2048
  w.onChip fun c =>
    match imageMap bs with
    | .error st => (c.set (F.TMAP_LDRES_STATUS n) st.code).raise (.tmap n) 1
    | .ok m =>
      match c.installMap n m with
      | (some (k, dup), c) =>
        let c := c.onLib n fun t => t.touch k fun e => { e with hold := true }
        ((c.set (F.TMAP_LDRES_STATUS n) Status.ok.code).set (F.TMAP_LDRES_INDEX n) k).setFlag (F.TMAP_LDRES_DUP n) dup
      | (none, c) => (c.set (F.TMAP_LDRES_STATUS n) Status.refused.code).raise (.tmap n) 1

/-- LDCMD.UNHOLD: the host's hold on an entry ends (R227).  The result for an entry without one is not stated (log entry
61). -/
def Chip.mapUnhold (c : Chip) (n : Lane) (k : Nat) : Chip :=
  match (c.lib n).get? k with
  | some e =>
    if e.hold then (c.onLib n fun t => t.touch k fun e => { e with hold := false }).set (F.TMAP_LDRES_STATUS n) Status.ok.code
    else (c.nextFree).set (F.TMAP_LDRES_STATUS n) (c.freeBelow 2)
  | none => (c.nextFree).set (F.TMAP_LDRES_STATUS n) (c.freeBelow 2)

/-- A write of LDCMD. -/
def Work.ldcmdWrite (w : Work) (i : Init) (n : Lane) (val : Nat) : Work :=
  if val.testBit 0 && val.testBit 1 then w.onChip fun c => c.refuseMulti i (.tmap n) 0x404
  else if val.testBit 0 then w.mapLoad n
  else if val.testBit 1 then w.onChip fun c => c.mapUnhold n (bitField val 16 10)
  else w

/-- LOAD (R227). -/
def execLoad (i : Init) (n : Lane) (s : State) : Host.Outcome State Fault Refusal :=
  .next (s.onWork fun w => w.gate i (.tmap n) 0x404 fun w => w.ldcmdWrite i n 1)

/-- UNHOLD (R227). -/
def execUnhold (i : Init) (n : Lane) (index : Nat) (s : State) : Host.Outcome State Fault Refusal :=
  .next (s.onWork fun w => w.gate i (.tmap n) 0x404 fun w => w.ldcmdWrite i n (2 + 2 ^ 16 * (index % 1024)))

/-! Builds and requests. -/

/-- BCMD.BUILD: a build of the peer's uplink set begins, or the one under way reports to BRES. -/
def Chip.orderBuild (c : Chip) (n : Lane) (slot : Nat) : Chip :=
  let c := (c.startBuild n slot true).set (F.TMAP_BRES_STATUS n) Status.busy.code
  c.onTmap n fun t => { t with builds := t.builds.map fun b => if b.slot = slot then { b with byCmd := true } else b }

/-- BCMD.REVOKE: both uplink banks become invalid, and a TMX with TMV 0 tells the peer (R241). -/
def Chip.revokeSets (c : Chip) (n : Lane) (slot : Nat) : Chip :=
  let c := (c.putUl n slot false (c.ulBank n slot false).invalid)
  let c := (c.putUl n slot true (c.ulBank n slot true).invalid)
  (c.onTmap n fun t => { t with tmx := t.tmx.filter (·.slot != slot) }).sendRevoke slot

/-- A write of BCMD: refused while a build that BCMD ordered runs (R451), or when it names several commands (R452); BUILD completes
with REFUSED on a stopped page (R447), and so while AUTOUL is 0, without which core 2 builds nothing (R240; log entry 207). -/
def Chip.bcmdWrite (c : Chip) (i : Init) (n : Lane) (val : Nat) : Chip :=
  let slot := bitField val 0 14
  let ops := bitField val 16 3
  if ops = 0 then c
  else if c.get (F.TMAP_BRES_STATUS n) = Status.busy.code then c.refuseState i (.tmap n) 0x054
  else if ops ≠ 1 ∧ ops ≠ 2 ∧ ops ≠ 4 then c.refuseMulti i (.tmap n) 0x054
  else
    let c := c.set (F.TMAP_BRES_SLOT n) slot
    let bad (st : Status) := (c.set (F.TMAP_BRES_STATUS n) st.code).iff (ops == 1) fun c => c.raise (.tmap n) 1
    if ops = 1 ∧ !(c.flag (pctlEnable (.tmap n)) && c.flag (F.TMAP_TMCFG_AUTOUL n)) then bad .refused
    else if slot = 0 ∨ 0x2000 ≤ slot then bad .format
    else if !c.peerOf n slot then bad .stale
    else if ops = 1 then c.orderBuild n slot
    else
      let c := c.set (F.TMAP_BRES_STATUS n) Status.ok.code
      if ops = 2 then c.sendTmreq slot (c.get (F.TMAP_MARGIN_REQADD n)) 0 else c.revokeSets n slot

/-- BUILD (R240). -/
def execBuild (i : Init) (n : Lane) (slot : Nat) (s : State) : Host.Outcome State Fault Refusal :=
  .next (s.onChip fun c => c.gate i (.tmap n) 0x054 fun c => c.bcmdWrite i n (slot % 2 ^ 14 + 2 ^ 16))

/-- REQ (R244). -/
def execReq (i : Init) (n : Lane) (slot : Nat) (s : State) : Host.Outcome State Fault Refusal :=
  .next (s.onChip fun c => c.gate i (.tmap n) 0x054 fun c => c.bcmdWrite i n (slot % 2 ^ 14 + 2 ^ 17))

/-- REVOKE (R241). -/
def execRevoke (i : Init) (n : Lane) (slot : Nat) (s : State) : Host.Outcome State Fault Refusal :=
  .next (s.onChip fun c => c.gate i (.tmap n) 0x054 fun c => c.bcmdWrite i n (slot % 2 ^ 14 + 2 ^ 18))

/-- REFRESH (R240): REFRESH turns after the last build of a peer, with AUTOUL, a new one begins. -/
def execRefresh (n : Lane) (slot : Nat) (s : State) : Host.Outcome State Fault Refusal :=
  .next (s.onChip fun c =>
    if c.flag (F.TMAP_TMCFG_AUTOUL n) ∧ c.peerOf n slot
        ∧ c.get (F.TMAP_TMCFG_REFRESH n) ≤ (c.lane n).tmap.since.getD slot 0 then c.startBuild n slot false
    else c)

/-- TMX_RETRY (R242): REFRESH turns have passed without a frame of the new version; the TMX is sent again, up to two more
times, after which the new bank becomes invalid. -/
def execTmxRetry (n : Lane) (slot : Nat) (s : State) : Host.Outcome State Fault Refusal :=
  .next (s.onChip fun c =>
    match (c.lane n).tmap.tmx.find? fun x => x.slot == slot with
    | none => c
    | some x =>
      if x.turns < c.get (F.TMAP_TMCFG_REFRESH n) then c
      else if x.sent < 3 then c.sendSet n slot x.bankB (x.sent + 1)
      else
        let c := c.putUl n slot x.bankB (c.ulBank n slot x.bankB).invalid
        (c.onTmap n fun t => { t with tmx := t.tmx.filter (·.slot != slot) }).count (F.TMAP_COUNTS2_NOREPLY n) 1)

/-- A frame or ACK from a peer carries a TMV: it is the version the peer last sent; the first one of a new version makes
the old bank invalid (R232, R242). -/
def Chip.tmvSeen (c : Chip) (n : Lane) (slot tmv : Nat) : Chip :=
  let c := c.onTmap n fun t => { t with lastTmv := t.lastTmv.insert slot tmv }
  match (c.lane n).tmap.tmx.find? fun x => x.slot == slot && x.tmv == tmv with
  | none => c
  | some x =>
    let c := c.putUl n slot (!x.bankB) (c.ulBank n slot (!x.bankB)).invalid
    (c.onTmap n fun t => { t with tmx := t.tmx.filter (·.slot != slot) })

/-- Take the first MPDU of a type that waits for device firmware. -/
def Chip.takeFw (c : Chip) (mtype : Nat) : Option (FwMpdu × Chip) :=
  (c.mac.fw.find? fun m => m.mtype == mtype).map fun m => (m, c.onMac fun x => { x with fw := x.fw.erase m })

/-- A peer's set is installed into its NEXT bank (R227, R230, R242); one that cannot be raises BUILD and leaves CUR in
force. -/
def Chip.takeTmx (c : Chip) (n : Lane) (slot : Nat) (body : List Byte) : Chip :=
  match parseTmx ((c.nbr slot).proto == 1) body with
  | none => c.raise (.tmap n) 1
  | some .revoke =>
    ((c.putDl slot 0 (c.dlBank slot 0).invalid).putDl slot 1 .zero).onTmap n fun t => { t with pending := t.pending.erase slot }
  | some (.set maps sels tmv bp) =>
    match c.installAll n (Chip.placeExact n) maps [] with
    | (none, c) => c.raise (.tmap n) 1
    | (some is, c) => (c.installNext n slot (.make is sels tmv bp)).dropRefs n is

/-- TMX (R242): device firmware handles a TMX from a peer. -/
def execTmx (s : State) : Host.Outcome State Fault Refusal :=
  .next (s.onChip fun c =>
    match c.takeFw 0x20 with
    | some (m, c) =>
      match Lane.ofNum m.lane with
      | some n => if c.peerOf n m.slot then c.takeTmx n m.slot m.body else c
      | none => c
    | none => c)

/-- TMREQ (R244): a peer asks for a new set with at least the added margin; a build of its uplink set begins. -/
def execTmreq (s : State) : Host.Outcome State Fault Refusal :=
  .next (s.onChip fun c =>
    match c.takeFw 0x21 with
    | some (m, c) =>
      match Lane.ofNum m.lane with
      | some n =>
        if c.peerOf n m.slot ∧ m.body.length = 4 ∧ m.body.getD 0 0 = 0x08 then
          (c.startBuild n m.slot false).onTmap n fun t => { t with
            builds := t.builds.map fun b => if b.slot = m.slot then { b with add := (m.body.getD 1 0).toNat } else b }
        else c
      | none => c
    | none => c)

/-- The channel that a DATA frame or an uplink of a peer gave in the last REFRESH turns (R236). -/
def Chip.recentChannel (c : Chip) (n : Lane) (slot : Nat) : Option (Nat × List (List Cx)) :=
  ((c.lane n).tmap.chan.get? slot).filter fun t =>
    decide ((c.turn n + 2 ^ 32 - t.1) % 2 ^ 32 ≤ c.get (F.TMAP_TMCFG_REFRESH n))

/-- A build ends without a set: BUILD, and BRES where BCMD ordered it. -/
def Chip.buildFails (c : Chip) (n : Lane) (slot : Nat) (st : Status) : Chip :=
  let cmd := (c.lane n).tmap.builds.any fun b => b.slot == slot && b.byCmd
  let c := c.onTmap n fun t => { t with builds := t.builds.filter (·.slot != slot), since := t.since.insert slot 0 }
  (if cmd then c.set (F.TMAP_BRES_STATUS n) st.code else c).raise (.tmap n) 1

end Sys2Proof.Machine
end

