-- ==== Sys2Proof/Machine/Nbr.lean ====
section
/-!
DEFINITION. Neighbour slots, lane neighbour records, downlink map banks and the frame-action table (R249 to R255, R269,
R272, R273).
-/
namespace Sys2Proof.Machine

/-- Peer slots ASSIGNED (NCOUNT.ASSIGNED). -/
def Chip.slotsAssigned (c : Chip) : Nat := (c.mac.nbr.filter fun e => e.1 ≠ 0 && e.2.st == 1).length

/-- Slots in QUARANTINE (NCOUNT.QUAR). -/
def Chip.slotsQuar (c : Chip) : Nat := (c.mac.nbr.filter fun e => e.1 ≠ 0 && e.2.st == 2).length

/-- The lowest FREE peer slot. -/
def Chip.lowestFree (c : Chip) : Option Nat := (((List.range 8192).drop 1).find? fun s => (c.nbr s).st == 0)

/-- Write a lane neighbour record; PFAULT.LRLOST where the lane cannot be reached (R30, R273). -/
def Chip.putRec (c : Chip) (n : Lane) (slot : Nat) (r : LaneRec) : Chip :=
  if c.laneReach n then c.onRec n slot fun _ => r else c.pfaultSet .nbr 0

/-- The result of a slot command: NRES and CMDDONE (R250, R273). -/
def Chip.nbrResult (c : Chip) (st : Status) (slot : Nat) : Chip :=
  ((((c.set F.NBR_NRES_STATUS st.code).set F.NBR_NRES_SLOT slot).set F.NBR_NRES_GEN (c.nbr slot).gen).set F.NBR_NRES_PEND 0).raise
    .nbr 0

/-- NEUIL and NEUIH. -/
def Chip.neui (c : Chip) : Nat := c.get F.NBR_NEUIL_EUI + 2 ^ 32 * c.get F.NBR_NEUIH_EUI

/-- Why ASSIGN does not take a slot, in the order FORMAT, REFUSED, BUSY (Table 9-2). -/
def Chip.assignBar (c : Chip) : Option Status :=
  let slot := c.get F.NBR_NARG_SLOT
  let eui := c.neui
  let grp := c.get F.NBR_NARG_GROUP
  let held := c.mac.nbr.any fun e => e.1 ≠ 0 && e.2.st == 1 && e.2.eui == eui
  let lane := match Lane.ofNum grp with
    | some n => c.fitted n
    | none => false
  if 8191 < slot ∨ eui = 0 ∨ eui = 2 ^ 64 - 1 ∨ grp = 0 then some .format
  else if (slot ≠ 0 ∧ (c.nbr slot).st = 1) ∨ held ∨ eui = c.selfEui ∨ !lane ∨ (slot = 0 ∧ c.slotsAssigned = 8191) then
    some .refused
  else if (slot ≠ 0 ∧ (c.nbr slot).st = 2) ∨ (slot = 0 ∧ c.lowestFree.isNone) then some .busy
  else none

/-- ASSIGN: the entry and the lane record are initialised (R254, R255). -/
def Chip.assignSlot (c : Chip) : Chip :=
  match c.assignBar with
  | some st => c.nbrResult st (c.get F.NBR_NARG_SLOT)
  | none =>
    let slot := if c.get F.NBR_NARG_SLOT = 0 then c.lowestFree.getD 0 else c.get F.NBR_NARG_SLOT
    let gen := (c.nbr slot).gen
    let proto := c.get F.NBR_NARG_PROTO
    let grp := c.get F.NBR_NARG_GROUP
    let eui := c.neui
    let waits := c.wheel.next.isSome || (Lane.ofNum grp).any c.switchWaits
    let c := (Lane.ofNum grp).elim c fun n => c.dropSets n slot
    let c := c.onNbr slot fun _ =>
      { Nbr.free with eui, st := 1, gen, proto, group := grp, epst := if waits then 0 else 2, cpl := 1 }
    let c := (Lane.ofNum grp).elim c fun n => c.putRec n slot { LaneRec.zero with gen, active := true, proto }
    let c := c.count F.NBR_NSTATS_ASSIGNS 1
    let c := if c.slotsAssigned = c.get F.NBR_NCFG_HIWAT then c.raise .nbr 2 else c
    c.nbrResult .ok slot

/-- What a release takes with it in the lane: slip entries, map banks, the weight set, the lane record (R251). -/
def Chip.releaseLane (c : Chip) (n : Lane) (slot : Nat) : Chip :=
  let c := (c.slipRelease n slot).dropSets n slot
  let c := c.onTx n fun t => { t with wowner := t.wowner.filter fun e => e.2 != slot }
  c.putRec n slot .zero

/-- RELEASE: QUARANTINE under the next generation; the slot's MPDUs get STALE (R251, R252). -/
def Chip.releaseSlot (c : Chip) (slot : Nat) : Chip :=
  let e := c.nbr slot
  let run := (c.slotLane slot).any c.running
  let t := ((c.slotLane slot).map c.turn).getD 0
  let c := c.finishSlot slot Status.stale.code true
  let c := (c.slotLane slot).elim c fun n => c.releaseLane n slot
  let c := c.onNbr slot fun x =>
    { x with st := 2, gen := (e.gen + 1) % 16, qexp := if run then turnAdd t 17 else 0, qturns := 0 }
  let c := c.onWheel fun w => { w with windows := w.windows.filter (· != slot), calls := w.calls.erase slot }
  c.count F.NBR_NSTATS_RELEASES 1

/-- SETCPL: the coupling fields, which override device firmware; weight sets follow (R129, R250). -/
def Chip.setCoupling (c : Chip) (slot v : Nat) : Chip :=
  let c := c.onNbr slot fun e =>
    { e with cpl := bitField v 0 2, port := bitField v 2 2, wset := bitField v 4 8, hostCpl := true }
  match c.slotLane slot with
  | some n => c.onTx n fun t =>
      let o := t.wowner.filter fun e => e.2 != slot
      { t with wowner := if bitField v 0 2 = 2 then NatMap.insert o (bitField v 4 8) slot else o }
  | none => c

/-- Whether NCPL holds a reserved encoding. -/
def cplBad (v : Nat) : Bool := bitField v 0 2 == 3 || (bitField v 0 2 == 0 && bitField v 2 2 == 0)

/-- A slot command OP on NARG (Table 9-2). -/
def Chip.slotCommand (c : Chip) (op : Nat) : Chip :=
  let slot := c.get F.NBR_NARG_SLOT
  if op = 0 ∨ 6 ≤ op ∨ 8191 < slot ∨ (2 ≤ op ∧ slot = 0) then c.nbrResult .format slot
  else if op = 1 then c.assignSlot
  else if op = 4 ∧ cplBad (c.get F.NBR_NCPL_CPL) then c.nbrResult .format slot
  else if (c.nbr slot).st ≠ 1 ∨ (c.nbr slot).gen ≠ c.get F.NBR_NARG_GEN then c.nbrResult .stale slot
  else
    let c :=
      if op = 2 then c.releaseSlot slot
      else if op = 3 then c.onNbr slot fun e => { e with seqvalid := false, txseq := 0 }
      else if op = 4 then c.setCoupling slot (c.get F.NBR_NCPL_CPL)
      else c.onNbr slot fun e => { e with fdel := c.flag F.NBR_NARG_FD }
    c.nbrResult .ok slot

/-- A write of NCMD. -/
def Chip.ncmdWrite (c : Chip) (val : Nat) : Chip := c.slotCommand (val % 16)

/-- ASSIGN (R250). -/
def execAssign (i : Init) (s : State) : Host.Outcome State Fault Refusal :=
  .next (s.onChip fun c => c.gate i .nbr 0x058 fun c => c.ncmdWrite 1)

/-- RELEASE (R251). -/
def execRelease (i : Init) (s : State) : Host.Outcome State Fault Refusal :=
  .next (s.onChip fun c => c.gate i .nbr 0x058 fun c => c.ncmdWrite 2)

/-- SEQRST (R250). -/
def execSeqrst (i : Init) (s : State) : Host.Outcome State Fault Refusal :=
  .next (s.onChip fun c => c.gate i .nbr 0x058 fun c => c.ncmdWrite 3)

/-- SETCPL (R250). -/
def execSetcpl (i : Init) (s : State) : Host.Outcome State Fault Refusal :=
  .next (s.onChip fun c => c.gate i .nbr 0x058 fun c => c.ncmdWrite 4)

/-- SETFD (R250). -/
def execSetfd (i : Init) (s : State) : Host.Outcome State Fault Refusal :=
  .next (s.onChip fun c => c.gate i .nbr 0x058 fun c => c.ncmdWrite 5)

/-- A slot in QUARANTINE becomes FREE; QEND (R252). -/
def Chip.freeSlot (c : Chip) (slot : Nat) : Chip := (c.onNbr slot fun e => { e with st := 0 }).raise .nbr 1

/-- A turn start of group `n` counts for its slots in QUARANTINE, and settles QEXP of one released while the group did not
run (R252, Table 9-3). -/
def Chip.quarantineTurn (c : Chip) (n : Lane) (turn : Nat) : Chip :=
  c.onNbrs fun _ e =>
    if e.st = 2 ∧ e.group = n.num then
      { e with qturns := e.qturns + 1, qexp := if e.qturns = 0 ∧ e.qexp = 0 then turnAdd turn 16 else e.qexp }
    else e

/-- QUARANTINE_END (R252): the 17th turn start of the slot's group since the release. -/
def execQuarantineEnd (slot : Nat) (s : State) : Host.Outcome State Fault Refusal :=
  .next (s.onChip fun c => if (c.nbr slot).st = 2 ∧ 17 ≤ (c.nbr slot).qturns then c.freeSlot slot else c)

/-- A write of QFORCE. -/
def Chip.qforceWrite (c : Chip) (val : Nat) : Chip :=
  let slot := val % 2 ^ 14
  if (c.nbr slot).st = 2 then c.freeSlot slot else c

/-- QFORCE (R273). -/
def execQforce (i : Init) (slot : Nat) (s : State) : Host.Outcome State Fault Refusal :=
  .next (s.onChip fun c => c.gate i .nbr 0x400 fun c => c.qforceWrite slot)

/-! Lane records (Tables 6-5 and 9-4). -/

/-- Word `w` of a lane neighbour record. -/
def LaneRec.word (r : LaneRec) (w : Nat) : Nat :=
  match w with
  | 0 => packFields [(2, r.tast), (12, ofSigned 12 r.tac), (12, ofSigned 12 r.prev), (4, r.miss)]
  | 1 => packFields [(16, ofSigned 16 r.aest), (10, r.cavg), (6, r.lcone)]
  | 2 => packFields [(16, ofSigned 16 r.fofs), (16, ofSigned 16 r.ppm)]
  | 3 => packFields [(12, ofSigned 12 r.ldelta), (2, r.lsrc), (2, 0), (16, r.tahit)]
  | 4 => r.bankA.w0
  | 5 => r.bankA.w1
  | 6 => r.bankA.w2
  | 7 => r.bankB.w0
  | 8 => r.bankB.w1
  | 9 => r.bankB.w2
  | 10 => packFields [(4, r.gen), (1, bit r.active), (1, r.proto)]
  | _ => 0

/-- A read of LRDATA: the word of the lane of the slot's group, 0 where no lane is read, or where the lane cannot be
reached, which sets LRLOST (R30, R273); WORD increments. -/
def Chip.readLrdata (c : Chip) : Nat × Chip :=
  let slot := c.get F.NBR_LRSEL_SLOT
  let w := c.get F.NBR_LRSEL_WORD
  let next (c : Chip) := c.set F.NBR_LRSEL_WORD ((w + 1) % 16)
  if slot = 0 ∨ 8191 < slot ∨ (c.nbr slot).st = 0 then (0, next c)
  else match c.slotLane slot with
    | none => (0, next c)
    | some n => if c.laneReach n then ((c.laneRec n slot).word w, next c) else (0xFFFFFFFF, next (c.pfaultSet .nbr 0))

/-- LRDATA_READ (R273). -/
def execLrdataRead (i : Init) (s : State) : Host.Outcome State Fault Refusal :=
  .next (s.onChip fun c => c.gateRead i .nbr 0x094 fun c => c.readLrdata)

/-! Downlink banks by the host. -/

/-- DMCMD.READ. -/
def Chip.dmRead (c : Chip) : Chip :=
  let slot := c.get F.NBR_DMSEL_SLOT
  if (c.nbr slot).st = 1 then
    let m := c.dlBank slot (c.get F.NBR_DMSEL_BANK)
    (((c.set (F.NBR_DMW_DATA 0) m.w0).set (F.NBR_DMW_DATA 1) m.w1).set (F.NBR_DMW_DATA 2) m.w2).set F.NBR_DMRES_STATUS
      Status.ok.code
  else c.set F.NBR_DMRES_STATUS Status.stale.code

/-- DMCMD.WRITE: checked by R230; a valid set in NEXT acts as an installed TMX. -/
def Chip.dmWrite (c : Chip) : Chip :=
  let slot := c.get F.NBR_DMSEL_SLOT
  let k := c.get F.NBR_DMSEL_BANK
  let m : MapSet := .ofNum (c.get (F.NBR_DMW_DATA 0) + 2 ^ 32 * c.get (F.NBR_DMW_DATA 1) + 2 ^ 64 * c.get (F.NBR_DMW_DATA 2))
  match (if (c.nbr slot).st = 1 then c.slotLane slot else none) with
  | none => c.set F.NBR_DMRES_STATUS Status.stale.code
  | some n =>
    if !c.setOk n slot m then c.set F.NBR_DMRES_STATUS Status.format.code
    else
      let c := if k = 1 ∧ m.valid then c.installNext n slot m else c.putDl slot k m
      c.set F.NBR_DMRES_STATUS Status.ok.code

/-- A write of DMCMD. -/
def Chip.dmcmdWrite (c : Chip) (i : Init) (val : Nat) : Chip :=
  if val % 4 = 3 then c.refuseMulti i .nbr 0x080
  else if val.testBit 0 then c.dmRead
  else if val.testBit 1 then c.dmWrite
  else c

/-- DM_READ (R273). -/
def execDmRead (i : Init) (s : State) : Host.Outcome State Fault Refusal :=
  .next (s.onChip fun c => c.gate i .nbr 0x080 fun c => c.dmcmdWrite i 1)

/-- DM_WRITE (R273). -/
def execDmWrite (i : Init) (s : State) : Host.Outcome State Fault Refusal :=
  .next (s.onChip fun c => c.gate i .nbr 0x080 fun c => c.dmcmdWrite i 2)

/-! The frame-action table (R269). -/

/-- Reset contents of an entry (Tables 9-6 and 9-10). -/
def faReset (i : Nat) : Nat :=
  if i < 64 then
    let dt := i / 4
    if dt = 1 ∨ dt = 9 then (if i % 4 = 0 then 1 + 8 + 16 else 4)
    else if dt = 2 ∨ dt = 5 ∨ dt = 6 ∨ dt = 10 then (if i % 4 = 0 then 1 else 4)
    else 0
  else
    let mt := i - 64
    if mt = 0 ∨ 0x80 ≤ mt then 1 + 32
    else if mt = 0x10 then 2
    else if mt = 0x01 ∨ mt = 0x12 ∨ mt = 0x13 ∨ mt = 0x20 ∨ mt = 0x21 ∨ (0x40 ≤ mt ∧ mt ≤ 0x7F) then 2 + 32
    else 0

/-- Entry `i`. -/
def Chip.fa (c : Chip) (i : Nat) : Nat := c.mac.fa.getD i (faReset i)

/-- FAADDR.INDEX after an access of FADATA. -/
def Chip.faNext (c : Chip) : Chip :=
  let i := c.get F.MAC_FAADDR_INDEX
  c.set F.MAC_FAADDR_INDEX (if 319 ≤ i then 0 else i + 1)

/-- A read of FADATA. -/
def Chip.readFadata (c : Chip) : Nat × Chip := (c.fa (c.get F.MAC_FAADDR_INDEX), c.faNext)

/-- A write of FADATA; the reserved bits 7 and 15 stay 0. -/
def Chip.writeFadata (c : Chip) (val : Nat) : Chip :=
  let i := c.get F.MAC_FAADDR_INDEX
  let v := val &&& 0x7F7F
  (c.onMac fun m => { m with fa := if v = faReset i then m.fa.erase i else m.fa.insert i v }).faNext

/-- FADATA_READ (R272). -/
def execFadataRead (i : Init) (s : State) : Host.Outcome State Fault Refusal :=
  .next (s.onChip fun c => c.gateRead i .mac 0x404 fun c => c.readFadata)

/-- FADATA_WRITE (R272). -/
def execFadataWrite (i : Init) (val : Nat) (s : State) : Host.Outcome State Fault Refusal :=
  .next (s.onChip fun c => c.gate i .mac 0x404 fun c => c.writeFadata val)

/-- A write of FARST. -/
def Chip.farstWrite (c : Chip) (val : Nat) : Chip := if val.testBit 0 then c.onMac fun m => { m with fa := [] } else c

/-- FARST (R269). -/
def execFarst (i : Init) (s : State) : Host.Outcome State Fault Refusal :=
  .next (s.onChip fun c => c.gate i .mac 0x408 fun c => c.farstWrite 1)

end Sys2Proof.Machine
end

