-- ==== Sys2Proof/Machine/Meas.lean ====
section
/-!
DEFINITION. The measurement front end of a lane: output samples, the DC blocker, zero crossings, die temperature,
linearisation, rms, blanking and re-priming (R337 to R359, R444).
-/
namespace Sys2Proof.Machine

/-- The measurement chain of lane `n` as changed by `f`. -/
def Chip.onMeas (c : Chip) (n : Lane) (f : Meas → Meas) : Chip := { c with meas := c.meas.modify n f }

/-- Whether the lane's sequencers run (LSTAT RUN or COAST): only then the chain produces samples (R357). -/
def Chip.laneRuns (c : Chip) (n : Lane) : Bool :=
  c.fitted n && (c.get (F.LSYS_LSTAT_STATE n) == 2 || c.get (F.LSYS_LSTAT_STATE n) == 3)

/-- Glost sample period in ticks for GSTAGE 2 to 5 (R340). -/
def glostPeriod (g : Nat) : Nat := 1000 * 2 ^ g

/-- Group delay of the glost output in 1/16 tick (Table 13-2). -/
def glostDelay16 : Nat → Nat
  | 2 => 327625
  | 3 => 1031625
  | 4 => 2951625
  | _ => 8839625

/-- Span of an output in ticks (Table 13-2): bisque, or glost at a stage. -/
def spanTicks (bisque : Bool) (g : Nat) : Nat :=
  if bisque then 3000 else match g with
    | 2 => 41000
    | 3 => 129000
    | 4 => 369000
    | _ => 1105000

/-- Shift k of the DC blocker: the nearest integer for which the corner of DCCORN holds at the glost rate (R342, log
entry 44); `none` when the blocker is off. -/
def dcShift (corn g : Nat) : Option Nat :=
  match corn with
  | 0 => none
  | 1 => some (17 - g)
  | 2 => some (15 - g)
  | _ => some (13 - g)

/-- Corner frequency of DCCORN in tenths of a hertz. -/
def dcCorner : Nat → Nat
  | 0 => 0
  | 1 => 1
  | 2 => 5
  | _ => 20

/-- Set or clear the PRIME marks of the glost path of every channel. -/
def Chip.setGlostPrime (c : Chip) (n : Lane) (b : Bool) : Chip :=
  let c := (List.range 6).foldl (fun c k => c.setFlag (F.MEAS_GLOST_PRIME n k) b) c
  c.set (F.LINEAR_LSTAT_PRIME n) (if b then 63 else 0)

/-- Set or clear the PRIME marks of the bisque path of every channel. -/
def Chip.setBisquePrime (c : Chip) (n : Lane) (b : Bool) : Chip :=
  (List.range 6).foldl (fun c k => c.setFlag (F.MEAS_BISQUE_PRIME n k) b) c

/-- The rms cycle in progress is not to be used (R353, R357). -/
def Meas.spoil (m : Meas) : Meas := m.onChans fun k => { k with clean := false }

/-- The glost path of every channel restarts from zero state at the present tick, and its outputs carry PRIME (R356). -/
def Chip.restartGlost (c : Chip) (n : Lane) : Chip :=
  (c.onMeas n fun m => { m.onChans fun k => { k with outs := 0, stages := List.replicate 5 [] } with glostFrom := c.tick }).setGlostPrime n
    true

/-- The sinc filters restart too, and with them the bisque path (R356). -/
def Chip.restartBisque (c : Chip) (n : Lane) : Chip :=
  (c.onMeas n fun m => { m.onChans fun k => { k with mods := [] } with bisqueFrom := c.tick }).setBisquePrime n true

/-- Whether a cause of blanking holds: the pin at the level that BLKPOL calls active, or a transmission (R354). -/
def Chip.blankCause (c : Chip) (n : Lane) : Bool :=
  let m := c.meas.get n
  ((m.blankPin != c.flag (F.MEAS_MCFG_BLKPOL n)) && c.flag (F.MEAS_MCFG_PINBLANK n)) || (m.transmitting && c.flag (F.MEAS_MCFG_TXBLANK n))

/-- Begin a blank if a cause holds and none is in force; BLANK is raised (R354, R355). -/
def Chip.updateBlank (c : Chip) (n : Lane) : Chip :=
  if c.blankCause n && !(c.meas.get n).blanked then
    (c.onMeas n fun m => { m.spoil with blanked := true }).raise (.meas n) 0
  else c

/-- BLANK_PIN: Gn_BLANK changes level; a lane that runs looks whether it must blank (R354). -/
def execBlankPin (n : Lane) (high : Bool) (s : State) : Host.Outcome State Fault Refusal :=
  .next (s.onChip fun c =>
    let d := c.onMeas n fun m => { m with blankPin := high, pinAt := c.tick }
    if c.laneRuns n then d.updateBlank n else d)

/-- BLANK_END: BLEXT * 10 us after both causes have ended, the blank ends and the chain restarts from zero state (R354 to R356).  The
transmit span ends of itself; while the pin is active nothing ends. -/
def execBlankEnd (n : Lane) (s : State) : Host.Outcome State Fault Refusal :=
  .next (s.onChip fun c =>
    let m := c.meas.get n
    let quiet := c.onMeas n fun m => { m with transmitting := false }
    if m.blanked && !quiet.blankCause n then
      let c := quiet.advanceTo (max m.pinAt m.txUntil + c.get (F.MEAS_BLEXT_EXT n) * 1024)
      let c := (c.onMeas n fun m => { m with blanked := false }).raise (.meas n) 0
      (c.restartGlost n).restartBisque n
    else c)

/-- PRIME_END: the first sample produced one span after the restart; the path's output is valid (R356, Table 13-2). -/
def execPrimeEnd (n : Lane) (bisque : Bool) (s : State) : Host.Outcome State Fault Refusal :=
  .next (s.onChip fun c =>
    let m := c.meas.get n
    if m.blanked || !c.laneRuns n then c
    else
      let c := c.advanceTo ((if bisque then m.bisqueFrom else m.glostFrom) + spanTicks bisque (c.get (F.MEAS_MCFG_GSTAGE n)))
      if bisque then c.setBisquePrime n false else c.setGlostPrime n false)

/-- A write of MCFG: stored; a GSTAGE write re-primes the glost path of every channel (R341, R356, R357). -/
def Chip.mcfgWrite (c : Chip) (n : Lane) (val : Nat) : Chip := (c.store (.meas n) 0x040 val).restartGlost n

/-- GSTAGE_WRITE: MCFG written by `i`. -/
def execGstageWrite (i : Init) (n : Lane) (val : Nat) (s : State) : Host.Outcome State Fault Refusal :=
  .next (s.onChip fun c => c.gate i (.meas n) 0x040 (·.mcfgWrite n val))

/-- The die temperature that corrections use, 0.01 °C: the last sample, or 25 °C where the trim is defaulted (R346). -/
def Chip.corrTemp (c : Chip) (n : Lane) : Int :=
  if c.flag (F.MEAS_DIETEMP_VALID n) then c.getInt (F.MEAS_DIETEMP_TEMP n) else 2500

/-- The polynomial of R347 for channel `ch` with glost value `g`, clamped; the factory default has c_10 = 1 alone
(R348). -/
def Chip.polyValue (c : Chip) (n : Lane) (ch : Nat) (g : Int) : Int :=
  let t := c.corrTemp n - 2500
  let coef := fun (i j : Nat) => match c.polyCoef n ch (3 * i + j) with
    | some v => v
    | none => if i = 1 ∧ j = 0 then (2 : Int) ^ 28 else 0
  let term := fun (i j : Nat) => coef i j * g ^ i * (2 : Int) ^ (23 * (3 - i)) * t ^ j * (10000 : Int) ^ (2 - j)
  let sum := ((List.range 4).map fun i => ((List.range 3).map fun j => term i j).foldl (· + ·) 0).foldl (· + ·) 0
  clampInt (-(2 ^ 23 - 1)) (2 ^ 23 - 1) (roundEven sum ((2 : Int) ^ 28 * 2 ^ 46 * 10000 ^ 2))

/-- Result range of a curve in 0.001 °C (Table 13-3). -/
def curveRange : Nat → Int × Int
  | 1 => (-200000, 850000)
  | 2 => (-200000, 850000)
  | 3 => (-40000, 125000)
  | 4 => (-200000, 1372000)
  | _ => (-210000, 1200000)

/-- Curve of AUX channel `ch` (4 or 5). -/
def Chip.auxCurve (c : Chip) (n : Lane) (ch : Nat) : Nat :=
  if ch = 4 then c.get (F.LINEAR_AUXCFG_CURVE1 n) else c.get (F.LINEAR_AUXCFG_CURVE2 n)

/-- The excitation current of an AUX channel in amperes: as trimmed at the factory, or nominal where the trim is defaulted (R350,
Table 13-3). -/
def Chip.auxCurrent (c : Chip) (n : Lane) (ch cv : Nat) : Rat :=
  match c.auxTrim n with
  | some ws => Config.auxCurrent cv (ws.getD (ch - 4) 0)
  | none => match cv with
    | 1 => mkRat 1 1000
    | 2 => mkRat 1 10000
    | _ => mkRat 2 1000000

/-- The temperature of an NTC of resistance `r`: 1/T = 1/298.15 K + ln(R / 10 kohm) / 3,435 K (Table 13-3). -/
def ntcCurve (r : Rat) : CurveOut :=
  if r ≤ 0 then .above
  else
    let inv : Rat := mkRat 100 29815 + Config.ln (r / 10000) / 3435
    if inv ≤ 0 then .above
    else
      let t : Rat := (1 / inv - mkRat 27315 100) * 1000
      .temp (roundHalfUp t.num t.den)

/-- What the sensor of curve `cv` says for the glost value `g`, of which full scale is 1.0 V (R350, R351, Table 13-3). -/
def Chip.curveOut (c : Chip) (n : Lane) (ch cv : Nat) (g : Int) : CurveOut :=
  let v : Rat := mkRat g (2 ^ 23)
  let r : Rat := v / c.auxCurrent n ch cv
  match cv with
  | 1 => Config.platinum (r / 100)
  | 2 => Config.platinum (r / 1000)
  | 3 => ntcCurve r
  | _ => Config.thermocouple cv (v + Config.thermoEmf cv (c.corrTemp n + c.getInt (F.LINEAR_CJOFS_OFS n)))

/-- Intermediate value of an AUX channel and whether it is out of range: curve 0 gives the glost value; a result outside the range of
its curve, or that the function cannot solve, is clamped to the limit on its side (R350 to R352). -/
def Chip.auxValue (c : Chip) (n : Lane) (ch : Nat) (g : Int) : Int × Bool :=
  let cv := c.auxCurve n ch
  if cv = 0 ∨ 6 ≤ cv then (g, false)
  else
    let r := curveRange cv
    match c.curveOut n ch cv g with
    | .temp t => (clampInt r.1 r.2 t, decide (t < r.1) || decide (r.2 < t))
    | .below => (r.1, true)
    | .above => (r.2, true)

/-- Engineering value (R349). -/
def Chip.engValue (c : Chip) (n : Lane) (ch : Nat) (v : Int) : Int :=
  clampInt (-(2 ^ 31)) (2 ^ 31 - 1)
    (roundEven (v * c.getInt (F.LINEAR_UGAIN_GAIN n ch)) (2 ^ 24) + c.getInt (F.LINEAR_UOFS_OFS n ch))

/-- The range condition of channel `ch`: LSTAT.RANGE follows it; entering it raises RANGE and sets PFAULT.RANGE
(R352). -/
def Chip.setRange (c : Chip) (n : Lane) (ch : Nat) (out : Bool) : Chip :=
  let was := c.bitAt (F.LINEAR_LSTAT_RANGE n) ch
  let c := c.setBitAt (F.LINEAR_LSTAT_RANGE n) ch out
  if out && !was then (c.raise (.linear n) 0).pfaultSet (.linear n) 0 else c

/-- A value clamped to 24 bits. -/
def clamp24 (x : Int) : Int := clampInt (-(2 ^ 23)) (2 ^ 23 - 1) x

/-- Whether a modulator sample, in 2^-31 V, is over range: beyond 1.05 V (R338). -/
def overRange (v : Int) : Bool := decide (21 * 2 ^ 31 < 20 * (v.natAbs : Int))

/-- What the modulator gives for an input: beyond 1.05 V it saturates (R338). -/
def modulated (v : Int) : Int := clampInt (-(21 * 2 ^ 31 / 20)) (21 * 2 ^ 31 / 20) v

/-- Weight of the sample `k` before the newest in the third-order sinc filter over 64 samples (R339). -/
def sincWeight (k : Nat) : Int :=
  let tri (i : Nat) : Int := (i + 1) * (i + 2) / 2
  tri k - (if 64 ≤ k then 3 * tri (k - 64) else 0) + (if 128 ≤ k then 3 * tri (k - 128) else 0)

/-- The 24-bit output of the sinc filter, and whether its span holds an over-range sample (R338, R339). -/
def sincOut (mods : List Int) : Int × Bool :=
  let w := mods.take 190
  let sum := w.zipIdx.foldl (fun a e => a + sincWeight e.2 * modulated e.1) 0
  (clamp24 (roundEven sum (64 ^ 3 * 256)), w.any overRange)

/-- Taps of half-band stage `k` (R340). -/
def measTaps : Nat → Nat
  | 1 => 11
  | 2 => 15
  | 3 => 23
  | 4 => 31
  | _ => 47

/-- The output of half-band stage `k` for its inputs, newest first: rounded to 24 bits, over range where an input is (R338, R340). -/
def measStage (k : Nat) (h : List (Int × Bool)) : Int × Bool :=
  let sum : Rat := h.zipIdx.foldl (fun a e => a + Config.measTap k e.2 * (e.1.1 : Rat)) 0
  (clamp24 (roundEven sum.num sum.den), h.any Prod.snd)

/-- Sinc output `x`, the `m`-th since the restart, runs through the half-band stages from stage `k` on, each of which gives every second
time an output, up to stage `g`: the stages' inputs after it, and the glost value where stage `g` gives one (R340). -/
def runStages (g m : Nat) : Nat → Int × Bool → List (List (Int × Bool)) → List (List (Int × Bool)) × Option (Int × Bool)
  | _, _, [] => ([], none)
  | k, x, h :: hs =>
    let h' := (x :: h).take (measTaps k)
    if m % 2 ^ k ≠ 0 then (h' :: hs, none)
    else
      let y := measStage k h'
      if g ≤ k then (h' :: hs, some y)
      else
        let r := runStages g m (k + 1) y hs
        (h' :: r.1, r.2)

/-- Which phase a voltage channel measures. -/
def phaseOfChan : Nat → Option Port
  | 0 => some .p1 | 1 => some .p2 | 2 => some .p3 | _ => none

/-- The voltage channels' glost samples look for crossings (R343): an armed phase is disarmed by the first pair of samples from below 0 to
0 or more, which is kept for ZERO_CROSSING; it is armed by a value below the hysteresis, from HOLDOFF after the crossing on.  `marked`
says that the sample carries BLK, PRIME or OVR. -/
def Chip.crossingSample (c : Chip) (n : Lane) (ch : Nat) (y : Int) (marked : Bool) : Chip :=
  match phaseOfChan ch with
  | none => c
  | some p => c.onMeas n fun m =>
    let ph := m.phase p
    let now : Option (Nat × Int × Int × Bool) := match ph.prev with
      | some (t0, x0, bad) => if ph.armed ∧ x0 < 0 ∧ 0 ≤ y then some (t0, x0, y, bad || marked) else none
      | none => none
    let ph := { ph with prev := some (c.tick, y, marked) }
    m.setPhase p (match now with
      | some (t0, x0, x1, bad) =>
        let raw := (t0 : Int) + (-x0) * glostPeriod (c.get (F.MEAS_MCFG_GSTAGE n)) / (x1 - x0)
        { ph with armed := false, found := some (t0, x0, x1, bad), holdUntil := raw.toNat + msTicks (c.get (F.MEAS_ZCCFG_HOLDOFF n)) }
      | none =>
        if !marked ∧ y * 1024 < -((c.get (F.MEAS_ZCCFG_HYST n) : Int) * 2 ^ 23) ∧ ph.holdUntil ≤ c.tick then { ph with armed := true }
        else ph)

/-- An output sample of channel `ch` while the chain is blanked: every value is held and marked BLK (R355). -/
def Chip.blankedSample (c : Chip) (n : Lane) (ch : Nat) : Chip :=
  let c := (c.setFlag (F.MEAS_BISQUE_BLK n ch) true).setFlag (F.MEAS_GLOST_BLK n ch) true
  ((c.setBitAt (F.LINEAR_LSTAT_BLK n) ch true).onMeas n Meas.spoil).crossingSample n ch (c.getInt (F.MEAS_GLOST_VALUE n ch)) true

/-- The bisque value of a sample: the 24-bit sinc output rounded to 16 bits, or full scale where it is over range (R338, R339). -/
def Chip.bisqueSample (c : Chip) (n : Lane) (ch : Nat) (x : Int) (ovr : Bool) : Chip :=
  let c := (c.setFlag (F.MEAS_BISQUE_BLK n ch) false).setFlag (F.MEAS_BISQUE_OVR n ch) ovr
  if c.flag (F.MEAS_BISQUE_PRIME n ch) then c
  else c.setInt (F.MEAS_BISQUE_VALUE n ch)
    (if ovr then (if x < 0 then -(2 ^ 15) else 2 ^ 15 - 1) else clampInt (-(2 ^ 15)) (2 ^ 15 - 1) (roundEven x 256))

/-- The glost value after the DC blocker, and the blocker's next estimate (R342). -/
def Chip.dcBlock (c : Chip) (n : Lane) (ch : Nat) (x : Int) : Int × Int :=
  let m := ((c.meas.get n).chan ch).dc
  match dcShift (c.get (F.MEAS_MCFG_DCCORN n)) (c.get (F.MEAS_MCFG_GSTAGE n)) with
  | none => (x, m)
  | some k =>
    let y := x - roundEven m (2 ^ 32)
    (y, if c.flag (F.MEAS_MCFG_DCFREEZE n) then m else m + (x * 2 ^ 32 - m) / 2 ^ k)

/-- Linearise and scale the sample `y` of channel `ch`, and add it to the rms of the cycle (R347 to R353). -/
def Chip.linearSample (c : Chip) (n : Lane) (ch : Nat) (y : Int) (ovr : Bool) : Chip :=
  let v : Int × Bool :=
    if ch < 4 then
      (if c.bitAt (F.LINEAR_LINOVR_RAW n) ch then y else c.polyValue n ch y, false)
    else c.auxValue n ch y
  let e := c.engValue n ch v.1
  let c := (c.set (F.LINEAR_ENG_E n ch) (ofSigned 32 e)).setRange n ch v.2
  c.onMeas n fun m =>
    let k := m.chan ch
    m.setChan ch { k with sumSq := k.sumSq + (e * e).toNat, count := k.count + 1, clean := k.clean && !ovr }

/-- An output sample that is over range is counted (R338).  DESIGN CHOICE (log entry 211): a bisque sample and a glost sample count
each. -/
def Chip.countOver (c : Chip) (n : Lane) (ovr : Bool) : Chip :=
  if ovr then (c.count (F.MEAS_OVRCNT_COUNT n) 1).pfaultSet (.meas n) 0 else c

/-- A glost sample of channel `ch`, as the last stage gives it: clamped where it is over range, blocked, linearised (R338, R342, R347 to
R353); while the path primes the value is held (R356). -/
def Chip.glostSample (c : Chip) (n : Lane) (ch : Nat) (x : Int) (ovr : Bool) : Chip :=
  let c := ((c.countOver n ovr).setFlag (F.MEAS_GLOST_BLK n ch) false).setFlag (F.MEAS_GLOST_OVR n ch) ovr
  let c := c.setBitAt (F.LINEAR_LSTAT_BLK n) ch false
  if c.flag (F.MEAS_GLOST_PRIME n ch) then
    (c.onMeas n Meas.spoil).crossingSample n ch (c.getInt (F.MEAS_GLOST_VALUE n ch)) true
  else
    let yd := c.dcBlock n ch (if ovr then (if x < 0 then -(2 ^ 23) else 2 ^ 23 - 1) else x)
    let y := clamp24 yd.1
    let c := c.onMeas n fun m => m.setChan ch { m.chan ch with dc := yd.2 }
    ((c.set (F.MEAS_GLOST_VALUE n ch) (ofSigned 24 y)).crossingSample n ch y ovr).linearSample n ch y ovr

/-- GLOST_SAMPLE: channel `ch` produces an output sample from the 64 modulator samples `mods`, oldest first, in 2^-31 V: always a bisque
sample, and a glost sample where the stage that GSTAGE names gives one (R338 to R356).  Settings written before it apply to it
(R357). -/
def execGlostSample (n : Lane) (ch : Nat) (mods : List Int) (s : State) : Host.Outcome State Fault Refusal :=
  .next (s.onChip fun c =>
    if !c.laneRuns n || 6 ≤ ch then c
    else
      let c := c.updateBlank n
      if (c.meas.get n).blanked then c.blankedSample n ch
      else
        let k := (c.meas.get n).chan ch
        let ms := (mods.reverse ++ k.mods).take 190
        let b := sincOut ms
        let r := runStages (c.get (F.MEAS_MCFG_GSTAGE n)) (k.outs + 1) 1 b k.stages
        let c := c.onMeas n fun m => m.setChan ch { k with mods := ms, outs := k.outs + 1, stages := r.1 }
        let c := (c.countOver n b.2).bisqueSample n ch b.1 b.2
        match r.2 with
        | some g => c.glostSample n ch g.1 g.2
        | none => c)

/-- atan(x / 2^64) in 1/2^64, for 0 ≤ x ≤ 2^64, by Euler's series (64 terms, each at most half the one before). -/
def atanSmall (x : Nat) : Nat :=
  let one := 2 ^ 64
  let d := one + x * x / one
  let y := x * x / d
  let step := fun (a : Nat × Nat) (k : Nat) => (a.1 + a.2, a.2 * y / one * (2 * (k + 1)) / (2 * k + 3))
  ((List.range 64).foldl step (0, x * one / d)).1

/-- pi in 1/2^64. -/
def pi64 : Nat := 57952155664616982739

/-- atan(x / 2^64) in 1/2^64. -/
def atan64 (x : Nat) : Nat := if x ≤ 2 ^ 64 then atanSmall x else pi64 / 2 - atanSmall (2 ^ 128 / x)

/-- Lead L of the DC blocker in 1/2^64 tick, for an interval of `p` ticks (R344). -/
def Chip.dcLead (c : Chip) (n : Lane) (p : Nat) : Nat :=
  if c.flag (F.MEAS_MCFG_DCFREEZE n) then 0
  else
    let fc := dcCorner (c.get (F.MEAS_MCFG_DCCORN n))
    if fc = 0 then 0 else atan64 (fc * p * 2 ^ 64 / (10 * tickHz)) * p * 2 ^ 63 / pi64

/-- Nominal period of a mains cycle in ticks (WHEEL.WCTL.NOMFREQ). -/
def Chip.nominalCycle (c : Chip) : Nat := if c.flag F.WHEEL_WCTL_NOMFREQ then tickHz / 60 else tickHz / 50

/-- The reported tick of a crossing between samples `x0 < 0 ≤ x1`, the first at tick `t0` (R343, R344). -/
def Chip.crossingTick (c : Chip) (n : Lane) (p : Port) (x0 x1 t0 : Int) : Int :=
  let g := c.get (F.MEAS_MCFG_GSTAGE n)
  let per := match ((c.meas.get n).phase p).last with
    | some _ => if c.get (F.MEAS_ZCPER_PER n p.idx) = 0 then c.nominalCycle else c.get (F.MEAS_ZCPER_PER n p.idx)
    | none => c.nominalCycle
  let frac : Int := (-x0) * glostPeriod g * 2 ^ 64 / (x1 - x0)
  let raw : Int := t0 * 2 ^ 64 + frac
  roundHalfUp (raw - (glostDelay16 g : Int) * 2 ^ 60 + (c.dcLead n per : Int)
    - c.getInt (F.MEAS_ZCOFS_OFS n) * 2 ^ 64) (2 ^ 64)

/-- Integer square root, by bisection on 40 bits. -/
def isqrt (x : Nat) : Nat :=
  (List.range 40).foldl (fun r k => let t := r + 2 ^ (39 - k); if t * t ≤ x then t else r) 0

/-- The end of a reference cycle: write the rms of channels 0 to 3 whose cycle was clean, and start the next (R353).
The root is rounded to nearest (log entry 44). -/
def Chip.closeCycle (c : Chip) (n : Lane) : Chip :=
  let c := (List.range 4).foldl (fun c ch =>
    let k := (c.meas.get n).chan ch
    let c := if k.clean && 0 < k.count then
        (c.set (F.LINEAR_RMS_RMS n ch) ((isqrt (4 * (k.sumSq / k.count)) + 1) / 2)).setBitAt
          (F.LINEAR_RMSSTAT_VALID n) ch true
      else c.setBitAt (F.LINEAR_RMSSTAT_VALID n) ch false
    c.onMeas n (·.setChan ch { k with sumSq := 0, count := 0, clean := true })) c
  c.set (F.LINEAR_RMSSTAT_CYCLE n) (c.get (F.LINEAR_RMSSTAT_CYCLE n) + 1)

/-- The reference phase of group `n` (WHEEL.GCTLn.REFPH). -/
def Chip.refPhase (c : Chip) (n : Lane) : Port :=
  match c.get (F.WHEEL_GCTL_REFPH n) with
  | 2 => .p2
  | 3 => .p3
  | _ => .p1

/-- ZERO_CROSSING: the crossing found on the glost path of phase `p` is reported, or discarded where either of its samples carries BLK,
PRIME or OVR (R343, R344, R353).  A crossing of the reference phase goes to the Wheel, at its compensated tick (R83). -/
def execZeroCrossing (n : Lane) (p : Port) (s : State) : Host.Outcome State Fault Refusal :=
  .next (s.onChip fun c =>
    match c.laneRuns n, ((c.meas.get n).phase p).found with
    | true, some (t0, x0, x1, marked) =>
      let ph := { (c.meas.get n).phase p with found := none }
      if marked then (c.onMeas n (·.setPhase p ph)).count (F.MEAS_ZCCNT_DISC n) 1
      else
        let t := (c.crossingTick n p x0 x1 t0).toNat
        let c := (c.set (F.MEAS_ZCTICK_TICK n p.idx) t).count (F.MEAS_ZCCNT_CROSS n) 1
        let c := match ph.last with
          | some u => c.set (F.MEAS_ZCPER_PER n p.idx) (t - u)
          | none => c
        let c := c.onMeas n (·.setPhase p { ph with last := some t })
        if p = c.refPhase n then (c.onMeas n fun m => { m with zcHeard := m.zcHeard ++ [t] }).closeCycle n else c
    | _, _ => c)

/-- ZCLOSS: the reference phase has had no accepted crossing for 100 ms (R345). -/
def execZcloss (n : Lane) (s : State) : Host.Outcome State Fault Refusal :=
  .next (s.onChip fun c =>
    if c.laneRuns n then
      let c := match ((c.meas.get n).phase (c.refPhase n)).last with
        | some t => c.advanceTo (t + msTicks 100)
        | none => c
      (c.raise (.meas n) 1).pfaultSet (.meas n) 2
    else c)

/-- The 20 °C band of a die temperature in 0.01 °C. -/
def tempBand (t : Int) : Int := t / 2000

/-- Whether the temperature has left its band by more than 2 °C (R397). -/
def leftBand (b t : Int) : Bool := decide (t < b * 2000 - 200) || decide ((b + 1) * 2000 + 200 < t)

/-- DIETEMP_SAMPLE: the die sensor reads `temp` (0.01 °C before the fused trim): DIETEMP is updated, the lane shuts down
above +125 °C and resumes below +115 °C, and a crossed multiple of 20 °C starts a fuse re-verification
(R346, R397, R444). -/
def execDietempSample (n : Lane) (temp : Int) (s : State) : Host.Outcome State Fault Refusal :=
  .next (s.onChip fun c =>
    if !c.laneRuns n then c
    else
      let t := temp + (c.tempTrim n).getD 0
      let c := c.set (F.MEAS_DIETEMP_TEMP n) (ofSigned 16 t)
      let c := match c.tempTrim n with
        | some _ => c.setFlag (F.MEAS_DIETEMP_VALID n) true
        | none => (c.setFlag (F.MEAS_DIETEMP_VALID n) false).pfaultSet (.meas n) 1
      let m := c.meas.get n
      let hot := if 12500 < t then true else if t < 11500 then false else m.hot
      match m.band with
      | none => c.onMeas n fun m => { m with hot := hot, band := some (tempBand t) }
      | some b =>
        if leftBand b t then
          (c.onMeas n fun m => { m with hot := hot, band := some (tempBand t) }).startReverify n.num
        else c.onMeas n fun m => { m with hot := hot })

/-- A write of a LINEAR register: stored; a change of UGAIN, UOFS or AUXCFG invalidates the rms cycle in progress
(R357). -/
def Chip.linearWrite (c : Chip) (n : Lane) (off val : Nat) : Chip :=
  let d := c.store (.linear n) off val
  if off ≤ 0x070 ∧ d.regs ≠ c.regs then d.onMeas n Meas.spoil else d

/-- A read of CDATA: the factory coefficient that CSEL names; COEF increments, wrapping from 11 to 0 (R359). -/
def Chip.readCdata (c : Chip) (n : Lane) : Nat × Chip :=
  let k := c.get (F.LINEAR_CSEL_COEF n)
  let v := match c.polyCoef n (c.get (F.LINEAR_CSEL_CHAN n)) k with
    | some z => ofSigned 32 z
    | none => if k = 3 then 2 ^ 28 else 0
  (v, c.set (F.LINEAR_CSEL_COEF n) (if 11 ≤ k then 0 else k + 1))

/-- CDATA_READ: CDATA read by `i`. -/
def execCdataRead (i : Init) (n : Lane) (s : State) : Host.Outcome State Fault Refusal :=
  .next (s.onChip fun c => c.gateRead i (.linear n) 0x404 (·.readCdata n))

end Sys2Proof.Machine
end

