-- ==== Sys2Proof/Machine/Txp.lean ====
section
/-!
DEFINITION. Glaze tables, weight sets, gains and the port settings of a lane's transmit path (R113 to R132, R137).
-/
namespace Sys2Proof.Machine

/-! Glaze tables (R119 to R123). -/

/-- Notched carriers of default table `t` (Table 4-3). -/
def notches (t : Nat) : List (Nat × Nat) :=
  [(140, 164), (276, [324, 308, 324, 316].getD t 324), (424, 434), (556, [588, 580, 588, 580].getD t 588), (804, 816),
   (1116, 1152), (1441, 1458), (1676, 1720), (1987, 2004), (2236, 2380), (3996, 3999)]

/-- Attenuation of a carrier in table `t` at lane load (R121). -/
def defaultAtten (t k : Nat) : Nat := if t ≤ 3 ∧ (notches t).any (fun r => r.1 ≤ k && k ≤ r.2) then 63 else 0

/-- Word `w` of table `t` at lane load, VALID apart (Table 4-2, R121). -/
def glazeDefault (t w : Nat) : Nat :=
  if 3 < t ∨ w = 0 then 0
  else if w ≤ 792 then packFields ((List.range 5).map fun j => (6, defaultAtten t (40 + 5 * (w - 1) + j)))
  else if w = 793 then 32767 else 0

/-- Whether table `t` is VALID. -/
def Chip.glazeValid (c : Chip) (n : Lane) (t : Nat) : Bool := c.bitAt (F.TXP_GLZVALID_VALID n) t

/-- Word `w` of table `t`, VALID apart. -/
def Chip.glazeRaw (c : Chip) (n : Lane) (t w : Nat) : Nat := (c.lane n).tx.glaze.getD (1024 * t + w) (glazeDefault t w)

/-- Word `w` of table `t` as GLZDATA reads it. -/
def Chip.glazeWord (c : Chip) (n : Lane) (t w : Nat) : Nat :=
  if w = 0 then c.glazeRaw n t 0 + 2 ^ 31 * bit (c.glazeValid n t) else c.glazeRaw n t w

/-- Store word `w` of table `t`; the VALID bit written is ignored. -/
def Chip.putGlaze (c : Chip) (n : Lane) (t w v : Nat) : Chip :=
  let v := if w = 0 then v % 2 ^ 31 else v % 2 ^ 32
  c.onTx n fun x => { x with
    glaze := if v = glazeDefault t w then x.glaze.erase (1024 * t + w) else x.glaze.insert (1024 * t + w) v }

/-- Attenuation entry of carrier `k` in words of a table. -/
def attenIn (word : Nat → Nat) (k : Nat) : Nat := bitField (word (1 + (k - 40) / 5)) (6 * ((k - 40) % 5)) 6

/-- Attenuation a(k) of table `t`: 0 to 62 dB, 63 off (R113). -/
def Chip.atten (c : Chip) (n : Lane) (t k : Nat) : Nat := attenIn (c.glazeRaw n t) k

/-- Table that port `p` (1 to 3) uses for glaze number `g` (R122). -/
def Chip.gxlat (c : Chip) (n : Lane) (p g : Nat) : Nat :=
  if g < 8 then bitField (c.get (F.TXP_GXLATL_G0 n (p - 1))) (4 * g) 4
  else bitField (c.get (F.TXP_GXLATH_G8 n (p - 1))) (4 * (g - 8)) 4

/-- Glaze numbers of the current epoch, of a committed next one, and of the previous one in a straggle window. -/
def Chip.glazeNumbers (c : Chip) : List Nat :=
  [c.wheel.cur.glz] ++ (c.wheel.next.toList.map fun x => x.dest.glz) ++ (c.wheel.active.toList.map fun x => x.dest.glz)
    ++ c.wheel.prev.toList.map fun e => e.glz

/-- Whether a table is in use (R123). -/
def Chip.glazeInUse (c : Chip) (n : Lane) (t : Nat) : Bool :=
  c.glazeNumbers.any fun g => [1, 2, 3].any fun p => c.gxlat n p g == t

/-- Whether a carrier is off on every port under a glaze number. -/
def Chip.carrierOff (c : Chip) (n : Lane) (g k : Nat) : Bool := [1, 2, 3].all fun p => c.atten n (c.gxlat n p g) k == 63

/-- GLZADDR.WORD after an access of GLZDATA. -/
def Chip.glazeNext (c : Chip) (n : Lane) : Chip :=
  let w := c.get (F.TXP_GLZADDR_WORD n)
  c.set (F.TXP_GLZADDR_WORD n) (if 824 ≤ w then 0 else w + 1)

/-- A read of GLZDATA. -/
def Chip.readGlz (c : Chip) (n : Lane) : Nat × Chip :=
  (c.glazeWord n (c.get (F.TXP_GLZADDR_TABLE n)) (c.get (F.TXP_GLZADDR_WORD n)), c.glazeNext n)

/-- A write of GLZDATA: refused for table 0 and tables in use; it clears VALID (R120, R123). -/
def Chip.writeGlz (c : Chip) (i : Init) (n : Lane) (val : Nat) : Chip :=
  let t := c.get (F.TXP_GLZADDR_TABLE n)
  if t = 0 ∨ c.glazeInUse n t then c.refuseState i (.txp n) 0x404
  else ((c.putGlaze n t (c.get (F.TXP_GLZADDR_WORD n)) val).setBitAt (F.TXP_GLZVALID_VALID n) t false).glazeNext n

/-- GLZDATA_READ (R119). -/
def execGlzdataRead (i : Init) (n : Lane) (s : State) : Host.Outcome State Fault Refusal :=
  .next (s.onChip fun c => c.gateRead i (.txp n) 0x404 fun c => c.readGlz n)

/-- GLZDATA_WRITE (R123). -/
def execGlzdataWrite (i : Init) (n : Lane) (val : Nat) (s : State) : Host.Outcome State Fault Refusal :=
  .next (s.onChip fun c => c.gate i (.txp n) 0x404 fun c => c.writeGlz i n val)

/-- The checks of a seal: reserved bits 0, and the sum of the magnitudes of the taps at most 2.0 (R120). -/
def Chip.glazeSealOk (c : Chip) (n : Lane) (t : Nat) : Bool :=
  let word := c.glazeRaw n t
  let taps := ((List.range 32).map fun m =>
    (toSigned 16 (word (793 + m))).natAbs + (toSigned 16 (word (793 + m) / 2 ^ 16)).natAbs).foldl (· + ·) 0
  word 0 < 2 ^ 16 && ((List.range 792).all fun i => word (1 + i) < 2 ^ 30) && taps ≤ 65536

/-- A write of GLZCMD (R120, R123, R452). -/
def Chip.glzcmdWrite (c : Chip) (i : Init) (n : Lane) (val : Nat) : Chip :=
  let t := val % 16
  if val.testBit 4 && val.testBit 5 then c.refuseMulti i (.txp n) 0x408
  else if !val.testBit 4 && !val.testBit 5 then c
  else
    let c := c.set (F.TXP_GLZRES_TABLE n) t
    let done (c : Chip) (st : Status) := c.set (F.TXP_GLZRES_STATUS n) st.code
    if t = 0 ∨ c.glazeInUse n t then done c .refused
    else if val.testBit 4 then
      let ok := c.glazeSealOk n t
      done (c.setBitAt (F.TXP_GLZVALID_VALID n) t ok) (if ok then .ok else .format)
    else
      let c := (List.range 825).foldl (fun c w => c.putGlaze n t w 0) c
      done (c.setBitAt (F.TXP_GLZVALID_VALID n) t false) .ok

/-- SEAL (R120). -/
def execSeal (i : Init) (n : Lane) (table : Nat) (s : State) : Host.Outcome State Fault Refusal :=
  .next (s.onChip fun c => c.gate i (.txp n) 0x408 fun c => c.glzcmdWrite i n (table % 16 + 16))

/-- GLAZE_CLEAR (R120). -/
def execGlazeClear (i : Init) (n : Lane) (table : Nat) (s : State) : Host.Outcome State Fault Refusal :=
  .next (s.onChip fun c => c.gate i (.txp n) 0x408 fun c => c.glzcmdWrite i n (table % 16 + 32))

/-! Weight sets (R127 to R129). -/

/-- WSADDR.WORD after an access of WSDATA. -/
def Chip.wsNext (c : Chip) (n : Lane) : Chip :=
  let w := c.get (F.TXP_WSADDR_WORD n)
  c.set (F.TXP_WSADDR_WORD n) (if 297 ≤ w then 0 else w + 1)

/-- A word of a bank, or its removal where it is 0. -/
def putWord (m : NatMap Nat) (k v : Nat) : NatMap Nat := if v = 0 then m.erase k else m.insert k v

/-- A read of WSDATA. -/
def Chip.readWs (c : Chip) (n : Lane) : Nat × Chip :=
  ((c.lane n).tx.wshadow.getD (512 * c.get (F.TXP_WSADDR_SET n) + c.get (F.TXP_WSADDR_WORD n)) 0, c.wsNext n)

/-- A write of WSDATA; of word 0 the reserved bits 31:14 ignore it (R14, Table 4-7). -/
def Chip.writeWs (c : Chip) (n : Lane) (val : Nat) : Chip :=
  let k := 512 * c.get (F.TXP_WSADDR_SET n) + c.get (F.TXP_WSADDR_WORD n)
  (c.onTx n fun x => { x with wshadow := putWord x.wshadow k (val % (if c.get (F.TXP_WSADDR_WORD n) = 0 then 2 ^ 14 else 2 ^ 32)) }).wsNext n

/-- WSDATA_READ (R128). -/
def execWsdataRead (i : Init) (n : Lane) (s : State) : Host.Outcome State Fault Refusal :=
  .next (s.onChip fun c => c.gateRead i (.txp n) 0x414 fun c => c.readWs n)

/-- WSDATA_WRITE (R128). -/
def execWsdataWrite (i : Init) (n : Lane) (val : Nat) (s : State) : Host.Outcome State Fault Refusal :=
  .next (s.onChip fun c => c.gate i (.txp n) 0x414 fun c => c.writeWs n val)

/-- Exchange the banks of a weight set and mark it valid (R128). -/
def LaneTx.flipSet (x : LaneTx) (set : Nat) : LaneTx :=
  let mine (k : Nat) : Bool := k / 512 == set
  let live := x.wlive.keep fun k _ => mine k
  let shadow := x.wshadow.keep fun k _ => mine k
  let put (m add : NatMap Nat) : NatMap Nat := add.foldl (fun m e => m.insert e.1 e.2) (m.keep fun k _ => !mine k)
  { x with wlive := put x.wlive shadow, wshadow := put x.wshadow live, wvalid := x.wvalid.insert set 1 }

/-- Zero both banks of a weight set and mark it invalid. -/
def LaneTx.clearSet (x : LaneTx) (set : Nat) : LaneTx :=
  { x with
    wlive := x.wlive.keep fun k _ => k / 512 != set
    wshadow := x.wshadow.keep fun k _ => k / 512 != set
    wvalid := x.wvalid.erase set }

/-- A write of WSCMD (R128, R452). -/
def Chip.wscmdWrite (c : Chip) (i : Init) (n : Lane) (val : Nat) : Chip :=
  if val.testBit 8 && val.testBit 9 then c.refuseMulti i (.txp n) 0x418
  else if val.testBit 8 then (c.onTx n fun x => x.flipSet (val % 256)).set (F.TXP_WSRES_STATUS n) Status.ok.code
  else if val.testBit 9 then (c.onTx n fun x => x.clearSet (val % 256)).set (F.TXP_WSRES_STATUS n) Status.ok.code
  else c

/-- FLIP (R128). -/
def execFlip (i : Init) (n : Lane) (set : Nat) (s : State) : Host.Outcome State Fault Refusal :=
  .next (s.onChip fun c => c.gate i (.txp n) 0x418 fun c => c.wscmdWrite i n (set % 256 + 256))

/-- WS_CLEAR (R128). -/
def execWsClear (i : Init) (n : Lane) (set : Nat) (s : State) : Host.Outcome State Fault Refusal :=
  .next (s.onChip fun c => c.gate i (.txp n) 0x418 fun c => c.wscmdWrite i n (set % 256 + 512))

/-- 16,384 times the quotient of `x` by the root of `m2`, as an integer next to it: which of the two, where it is none itself,
is `up`'s choice (log entry 64). -/
def weightPart (x m2 : Rat) (up : Bool) : Int :=
  if m2 = 0 then 0
  else
    let v := 16384 * 16384 * x * x / m2
    let q := isqrt v.floor.toNat
    let q := if (q * q : Nat) ≠ v ∧ up then q + 1 else q
    if x < 0 then -(q : Int) else q

/-- The words of a weight set for the channels `chan` of inputs 1 to 3, by carrier from 40 up: at each sherd's pilot carrier the conjugate
of the port's channel over the largest magnitude of the three (R129).  `up` picks between neighbouring integers, by word and part. -/
def weightWords (chan : List (List Cx)) (up : Nat → Bool) : List (Nat × Nat) :=
  (List.range 99).flatMap fun s =>
    let hs := [0, 1, 2].map fun p => (chan.getD p []).getD (40 * s) ⟨0, 0⟩
    let m2 := (hs.map Cx.power).foldl max 0
    hs.zipIdx.map fun e =>
      let k := 3 * s + e.2
      (1 + k, ofSigned 16 (weightPart e.1.re m2 (up (2 * k))) + 2 ^ 16 * ofSigned 16 (weightPart (-e.1.im) m2 (up (2 * k + 1))))

/-- Device firmware assigns a peer a set: a three-phase peer whose coupling the host has not set moves to CPL 2 with the lowest-numbered
set that no peer holds.  When firmware does so is not stated (log entry 205). -/
def Chip.assignSet (c : Chip) (n : Lane) (slot : Nat) : Chip :=
  let e := c.nbr slot
  if e.cpl ≠ 1 ∨ e.hostCpl ∨ e.proto ≠ 0 then c
  else match (List.range 256).find? fun k => !((c.lane n).tx.wowner.get? k).isSome with
    | some k => (c.onNbr slot fun e => { e with cpl := 2, wset := k }).onTx n fun x => { x with wowner := x.wowner.insert k slot }
    | none => c

/-- WEIGHT_UPDATE (R129): device firmware recomputes the weight set of a peer, at most once per turn, from the channels that its most
recent frame showed on inputs 1 to 3, writes the shadow bank and flips. -/
def execWeightUpdate (n : Lane) (slot : Nat) (s : State) : Host.Outcome State Fault Refusal :=
  .next (s.onChip fun c =>
    match (c.lane n).tmap.est.get? slot with
    | none => c
    | some chan =>
      if !c.peerOf n slot ∨ (c.lane n).tmap.wturn.get? slot = some (c.turn n) then c
      else
        let c := c.assignSet n slot
        if (c.nbr slot).cpl ≠ 2 then c
        else
          let set := (c.nbr slot).wset
          let words := weightWords chan fun k => Config.free (c.free + k) % 2 == 1
          let c := { c with free := c.free + 594 }
          let c := c.onTmap n fun t => { t with wturn := t.wturn.insert slot (c.turn n) }
          c.onTx n fun x =>
            let sh := words.foldl (fun m e => putWord m (512 * set + e.1) e.2) (x.wshadow.keep fun k _ => k / 512 != set)
            ({ x with wshadow := putWord sh (512 * set) slot, wowner := x.wowner.insert set slot }).flipSet set)

/-! Gains and ports (R115, R116, R132). -/

/-- The largest EFF that CEIL allows port `p` (0 to 2), in 0.25 dB units (R116). -/
def Chip.effLimit (c : Chip) (n : Lane) (p : Nat) : Int :=
  (1560 - 10 * (c.get (F.TXP_CEIL_PSD n) : Int) - 2 * c.getInt (F.TXP_PGAIN_DRVGAIN n p)) / 5

/-- Whether port `p` (0 to 2) is held off because CEIL requires EFF below -24 dB. -/
def Chip.ceilOff (c : Chip) (n : Lane) (p : Nat) : Bool := decide (c.effLimit n p < -96)

/-- Whether the gain of port `p` (0 to 2) is clamped. -/
def Chip.clamped (c : Chip) (n : Lane) (p : Nat) : Bool :=
  decide (c.getInt (F.TXP_PGAIN_EFF n p) < c.getInt (F.TXP_PGAIN_GAIN n p))

/-- Recompute EFF of the ports; PFAULT.CEIL as a clamp begins, `was` telling which ports were clamped before (R116). -/
def Chip.recomputeEff (c : Chip) (n : Lane) (was : List Bool) : Chip :=
  [0, 1, 2].foldl (fun c p =>
    let lim := c.effLimit n p
    let eff := if lim < -96 then max lim (-128) else min (c.getInt (F.TXP_PGAIN_GAIN n p)) lim
    let eff := min eff (c.getInt (F.TXP_PGAIN_GAIN n p))
    let c := c.setInt (F.TXP_PGAIN_EFF n p) eff
    if c.clamped n p && !was.getD p false then c.pfaultSet (.txp n) 2 else c) c

/-- A write of PGAINp (port index 0 to 2) or of CEIL (none).  A change of DRVGAIN asks for a FULL echo pass (R149, log
entry 62). -/
def Chip.gainWrite (c : Chip) (n : Lane) (p : Option Nat) (val : Nat) : Chip :=
  let was := [0, 1, 2].map (c.clamped n)
  let off := [0, 1, 2].map (c.ceilOff n)
  let moved (c : Chip) : Chip := c.iff ([0, 1, 2].map (c.ceilOff n) != off) (·.portMoved n)
  match p with
  | none => moved ((c.store (.txp n) 0x044 val).recomputeEff n was)
  | some p =>
    let old := c.get (F.TXP_PGAIN_DRVGAIN n p)
    let c := moved ((c.store (.txp n) (0x050 + 4 * p) val).recomputeEff n was)
    if c.get (F.TXP_PGAIN_DRVGAIN n p) ≠ old then c.echoChange n else c

/-- GAIN_WRITE (R116). -/
def execGainWrite (i : Init) (n : Lane) (p : Option Port) (val : Nat) (s : State) : Host.Outcome State Fault Refusal :=
  .next (s.onChip fun c =>
    c.gate i (.txp n) (match p with
      | some p => 0x050 + 4 * p.idx
      | none => 0x044) fun c => c.gainWrite n (p.map Port.idx) val)

/-- A write of TXCTL: a hold after a driver fault then ends without setting the PORTEN bits written, and a training pass in
progress is void if a port changes (R132, R144, R153). -/
def Chip.txctlWrite (c : Chip) (n : Lane) (val : Nat) : Chip :=
  let old := c.get (F.TXP_TXCTL_PORTEN n)
  let c := c.store (.txp n) 0x040 val
  let held := c.get (F.AFE_DRVSTAT_HELD n)
  let c := c.onAfe n fun a => { a with written := a.written ||| held }
  if c.get (F.TXP_TXCTL_PORTEN n) ≠ old then (c.portMoved n).onEcho n fun e => { e with portenNew := none } else c

/-- PORTEN_WRITE (R132). -/
def execPortenWrite (i : Init) (n : Lane) (val : Nat) (s : State) : Host.Outcome State Fault Refusal :=
  .next (s.onChip fun c => c.gate i (.txp n) 0x040 fun c => c.txctlWrite n val)

/-- A turn start of the group: a change of PORTEN that has persisted for a whole turn asks for a FULL pass (R149). -/
def Chip.portenTurn (c : Chip) (n : Lane) : Chip :=
  let e := (c.lane n).echo
  let now := c.get (F.TXP_TXCTL_PORTEN n)
  if now = e.porten then c.onEcho n fun e => { e with portenNew := none }
  else if e.portenNew = some now then
    (c.onEcho n fun e => { e with porten := now, portenNew := none }).echoChange n
  else c.onEcho n fun e => { e with portenNew := some now }

/-- A write of TXDLY, which asks for a FULL echo pass (R149). -/
def Chip.txdlyWrite (c : Chip) (n : Lane) (val : Nat) : Chip := (c.store (.txp n) 0x04C val).echoChange n

/-- TXDLY_WRITE (R149). -/
def execTxdlyWrite (i : Init) (n : Lane) (val : Nat) (s : State) : Host.Outcome State Fault Refusal :=
  .next (s.onChip fun c => c.gate i (.txp n) 0x04C fun c => c.txdlyWrite n val)

/-- Why port `p` (1 to 3) does not work (R132): 4 PORTRET, 3 CEILOFF, 5 DISABLED, in that order; 0 for a working port.  A
stopped page, and a die that is too hot, count as not enabled (R444, R447). -/
def Chip.portCause (c : Chip) (n : Lane) (p : Nat) : Nat :=
  if c.retired 0 n.num p then 4
  else if c.ceilOff n (p - 1) then 3
  else if !c.bitAt (F.TXP_TXCTL_PORTEN n) (p - 1) ∨ !c.flag (pctlEnable (.txp n)) ∨ (c.meas.get n).hot then 5
  else 0

/-- TXDLY of port `p` (1 to 3). -/
def Chip.txdly (c : Chip) (n : Lane) (p : Nat) : Nat :=
  if p = 1 then c.get (F.TXP_TXDLY_PORT1 n) else if p = 2 then c.get (F.TXP_TXDLY_PORT2 n) else c.get (F.TXP_TXDLY_PORT3 n)

end Sys2Proof.Machine
end

