-- ==== Sys2Proof/Machine/Crypto.lean ====
section
/-!
DEFINITION. The algorithms of the saggar: AES-128 and AES-256 (FIPS 197), CCM (SP 800-38C), GCM (SP 800-38D), SHA-256
(FIPS 180-4) and ECDSA P-256 verification (FIPS 186), which R297, R301 and R313 to R315 name.
-/
namespace Sys2Proof.Machine

/-! AES. -/

/-- Doubling in GF(2^8). -/
def gfDouble (a : Nat) : Nat := if a.testBit 7 then (2 * a) % 256 ^^^ 0x1B else 2 * a

/-- Product in GF(2^8). -/
def gfMul (a b : Nat) : Nat :=
  ((List.range 8).foldl (fun (r, x) i => (if b.testBit i then r ^^^ x else r, gfDouble x)) (0, a)).1

/-- The multiplicative inverse in GF(2^8), 0 for 0: the 254th power. -/
def gfInv (a : Nat) : Nat := (List.range 253).foldl (fun r _ => gfMul r a) a

/-- Rotation of a byte to the left. -/
def rotl8 (a k : Nat) : Nat := (a * 2 ^ k) % 256 + a / 2 ^ (8 - k)

/-- The AES S-box. -/
def sbox (a : Nat) : Nat :=
  let b := gfInv a
  b ^^^ rotl8 b 1 ^^^ rotl8 b 2 ^^^ rotl8 b 3 ^^^ rotl8 b 4 ^^^ 0x63

/-- Bytewise exclusive or. -/
def xorBytes (a b : List Nat) : List Nat := List.zipWith (· ^^^ ·) a b

/-- Round constants. -/
def rcon (i : Nat) : Nat := (List.range (i - 1)).foldl (fun r _ => gfDouble r) 1

/-- Words of the key schedule, newest first, extended by `n` words for a key of `nk` words. -/
def expandKey (nk : Nat) : Nat → List (List Nat) → List (List Nat)
  | 0, ws => ws
  | n + 1, ws =>
    let i := ws.length
    let t := ws.headD []
    let u :=
      if i % nk = 0 then xorBytes ((t.drop 1 ++ t.take 1).map sbox) [rcon (i / nk), 0, 0, 0]
      else if 6 < nk ∧ i % nk = 4 then t.map sbox
      else t
    expandKey nk n (xorBytes (ws.getD (nk - 1) []) u :: ws)

/-- Groups of `k` elements. -/
def chunks {α : Type} (k : Nat) : Nat → List α → List (List α)
  | 0, _ => []
  | n + 1, xs => xs.take k :: chunks k n (xs.drop k)

/-- Round keys of 16 bytes. -/
def roundKeys (key : List Nat) : List (List Nat) :=
  let nk := key.length / 4
  let ws := (expandKey nk (4 * (nk + 7) - nk) ((chunks 4 nk key).reverse)).reverse
  (chunks 4 (nk + 7) ws).map List.flatten

/-- ShiftRows on the 16 state bytes, column by column. -/
def shiftRows (s : List Nat) : List Nat := (List.range 16).map fun i => s.getD ((i + 4 * (i % 4)) % 16) 0

/-- MixColumns of one column. -/
def mixColumn (c : List Nat) : List Nat :=
  (List.range 4).map fun i =>
    gfMul 2 (c.getD i 0) ^^^ gfMul 3 (c.getD ((i + 1) % 4) 0) ^^^ c.getD ((i + 2) % 4) 0 ^^^ c.getD ((i + 3) % 4) 0

/-- AES encryption of one block of 16 bytes under a key of 16 or 32 bytes. -/
def aesBlock (rks : List (List Nat)) (blk : List Nat) : List Nat :=
  match rks with
  | [] => blk
  | k0 :: rest =>
    let s := rest.dropLast.foldl (fun s k =>
      xorBytes (((chunks 4 4 (shiftRows (s.map sbox))).map mixColumn).flatten) k) (xorBytes blk k0)
    xorBytes (shiftRows (s.map sbox)) (rest.getLastD [])

/-! CCM with a 13 B nonce and a 2 B length field (R297, R301, R313). -/

/-- Bytes padded with zeros to a multiple of 16. -/
def pad16 (bs : List Nat) : List Nat := bs ++ List.replicate ((16 - bs.length % 16) % 16) 0

/-- CBC-MAC over whole blocks. -/
def cbcMac (rks : List (List Nat)) (bs : List Nat) : List Nat :=
  (chunks 16 (bs.length / 16) bs).foldl (fun x b => aesBlock rks (xorBytes x b)) (List.replicate 16 0)

/-- The two length bytes, most significant first. -/
def len2 (n : Nat) : List Nat := [n / 256 % 256, n % 256]

/-- The CCM tag of a payload and associated data (before truncation to `tagLen` it is 16 bytes). -/
def ccmMac (rks : List (List Nat)) (tagLen : Nat) (nonce aad payload : List Nat) : List Nat :=
  let flags := (if aad.isEmpty then 0 else 64) + 8 * ((tagLen - 2) / 2) + 1
  let b0 := flags :: nonce ++ len2 payload.length
  let a := if aad.isEmpty then [] else pad16 (len2 aad.length ++ aad)
  cbcMac rks (b0 ++ a ++ pad16 payload)

/-- Key stream block `i` of CCM. -/
def ccmCtr (rks : List (List Nat)) (nonce : List Nat) (i : Nat) : List Nat := aesBlock rks (1 :: nonce ++ len2 i)

/-- A message under the CCM key stream, from block 1 on. -/
def ccmCrypt (rks : List (List Nat)) (nonce msg : List Nat) : List Nat :=
  ((chunks 16 (ceilDiv msg.length 16) msg).zipIdx.map fun e => xorBytes e.1 (ccmCtr rks nonce (e.2 + 1))).flatten

/-- AES-CCM encryption: ciphertext and tag of `tagLen` bytes. -/
def ccmSeal (key : List Byte) (tagLen : Nat) (nonce aad payload : List Byte) : List Byte × List Byte :=
  let rks := roundKeys (key.map BitVec.toNat)
  let n := nonce.map BitVec.toNat
  let p := payload.map BitVec.toNat
  let t := xorBytes (ccmMac rks tagLen n (aad.map BitVec.toNat) p) (ccmCtr rks n 0)
  ((ccmCrypt rks n p).map (BitVec.ofNat 8), (t.take tagLen).map (BitVec.ofNat 8))

/-- AES-CCM decryption: the plaintext if the tag matches. -/
def ccmOpen (key : List Byte) (nonce aad cipher tag : List Byte) : Option (List Byte) :=
  let rks := roundKeys (key.map BitVec.toNat)
  let n := nonce.map BitVec.toNat
  let p := (ccmCrypt rks n (cipher.map BitVec.toNat)).map (BitVec.ofNat 8)
  if (ccmSeal key tag.length nonce aad p).2 = tag then some p else none

/-! GCM with a 12 B IV (R313). -/

/-- A block as a number, first byte most significant. -/
def blockNat (bs : List Nat) : Nat := bs.foldl (fun a b => a * 256 + b) 0

/-- A number as 16 bytes, most significant first. -/
def natBlock (x : Nat) : List Nat := (List.range 16).map fun i => x / 256 ^ (15 - i) % 256

/-- Product in the field of GHASH; bit 127 of the number is the first bit of the block. -/
def ghashMul (x y : Nat) : Nat :=
  ((List.range 128).foldl (fun (z, v) i =>
    (if x.testBit (127 - i) then z ^^^ v else z,
     if v.testBit 0 then v / 2 ^^^ (0xE1 * 2 ^ 120) else v / 2)) (0, y)).1

/-- GHASH over whole blocks. -/
def ghash (h : Nat) (bs : List Nat) : Nat :=
  (chunks 16 (bs.length / 16) bs).foldl (fun y b => ghashMul (y ^^^ blockNat b) h) 0

/-- A message under the GCM key stream, from counter 2 on. -/
def gcmCrypt (rks : List (List Nat)) (iv msg : List Nat) : List Nat :=
  ((chunks 16 (ceilDiv msg.length 16) msg).zipIdx.map fun e =>
    xorBytes e.1 (aesBlock rks (iv ++ (natBlock (e.2 + 2)).drop 12))).flatten

/-- The GCM tag of a ciphertext. -/
def gcmTag (rks : List (List Nat)) (iv aad cipher : List Nat) : List Nat :=
  let h := blockNat (aesBlock rks (List.replicate 16 0))
  let lens := natBlock (aad.length * 8 * 2 ^ 64 + cipher.length * 8)
  xorBytes (natBlock (ghash h (pad16 aad ++ pad16 cipher ++ lens))) (aesBlock rks (iv ++ [0, 0, 0, 1]))

/-- AES-GCM encryption. -/
def gcmSeal (key : List Byte) (tagLen : Nat) (iv aad payload : List Byte) : List Byte × List Byte :=
  let rks := roundKeys (key.map BitVec.toNat)
  let c := gcmCrypt rks (iv.map BitVec.toNat) (payload.map BitVec.toNat)
  (c.map (BitVec.ofNat 8), ((gcmTag rks (iv.map BitVec.toNat) (aad.map BitVec.toNat) c).take tagLen).map (BitVec.ofNat 8))

/-- AES-GCM decryption: the plaintext if the tag matches. -/
def gcmOpen (key : List Byte) (iv aad cipher tag : List Byte) : Option (List Byte) :=
  let rks := roundKeys (key.map BitVec.toNat)
  let t := (gcmTag rks (iv.map BitVec.toNat) (aad.map BitVec.toNat) (cipher.map BitVec.toNat)).take tag.length
  if t.map (BitVec.ofNat 8) = tag then
    some ((gcmCrypt rks (iv.map BitVec.toNat) (cipher.map BitVec.toNat)).map (BitVec.ofNat 8))
  else none

/-! SHA-256. -/

/-- The largest `r` below `2 ^ bits` with `f r` at most `x`, for a rising `f`. -/
def rootBelow (f : Nat → Nat) (x : Nat) : Nat → Nat
  | 0 => 0
  | b + 1 =>
    (List.range (b + 1)).foldl (fun r i => if f (r + 2 ^ (b - i)) ≤ x then r + 2 ^ (b - i) else r) 0

/-- The first 64 primes. -/
def primes64 : List Nat :=
  [2, 3, 5, 7, 11, 13, 17, 19, 23, 29, 31, 37, 41, 43, 47, 53] ++
  [59, 61, 67, 71, 73, 79, 83, 89, 97, 101, 103, 107, 109, 113, 127, 131] ++
  [137, 139, 149, 151, 157, 163, 167, 173, 179, 181, 191, 193, 197, 199, 211, 223] ++
  [227, 229, 233, 239, 241, 251, 257, 263, 269, 271, 277, 281, 283, 293, 307, 311]

/-- Round constants: the first 32 fractional bits of the cube roots of the primes. -/
def shaK : List Nat := primes64.map fun p => rootBelow (fun r => r * r * r) (p * 2 ^ 96) 36 % 2 ^ 32

/-- Initial hash: the first 32 fractional bits of the square roots of the first eight primes. -/
def shaH : List Nat := (primes64.take 8).map fun p => rootBelow (fun r => r * r) (p * 2 ^ 64) 36 % 2 ^ 32

/-- Rotation of a 32-bit word to the right. -/
def rotr32 (x k : Nat) : Nat := x / 2 ^ k + x % 2 ^ k * 2 ^ (32 - k)

/-- Schedule words, newest first, extended by `n`. -/
def shaSchedule : Nat → List Nat → List Nat
  | 0, ws => ws
  | n + 1, ws =>
    let a := ws.getD 14 0
    let b := ws.getD 1 0
    let s0 := rotr32 a 7 ^^^ rotr32 a 18 ^^^ (a / 8)
    let s1 := rotr32 b 17 ^^^ rotr32 b 19 ^^^ (b / 1024)
    shaSchedule n ((ws.getD 15 0 + s0 + ws.getD 6 0 + s1) % 2 ^ 32 :: ws)

/-- One round on (a … h) with key plus word. -/
def shaRound (v : List Nat) (kw : Nat) : List Nat :=
  match v with
  | [a, b, c, d, e, f, g, h] =>
    let s1 := rotr32 e 6 ^^^ rotr32 e 11 ^^^ rotr32 e 25
    let ch := (e &&& f) ^^^ ((2 ^ 32 - 1 - e) &&& g)
    let t1 := h + s1 + ch + kw
    let s0 := rotr32 a 2 ^^^ rotr32 a 13 ^^^ rotr32 a 22
    let maj := (a &&& b) ^^^ (a &&& c) ^^^ (b &&& c)
    [(t1 + s0 + maj) % 2 ^ 32, a, b, c, (d + t1) % 2 ^ 32, e, f, g]
  | _ => v

/-- One block of 64 bytes. -/
def shaBlock (h : List Nat) (blk : List Nat) : List Nat :=
  let ws := (shaSchedule 48 ((chunks 4 16 blk).map blockNat).reverse).reverse
  let v := (List.zipWith (· + ·) shaK ws).foldl shaRound h
  List.zipWith (fun a b => (a + b) % 2 ^ 32) h v

/-- The SHA-256 digest, 32 bytes. -/
def sha256 (msg : List Byte) : List Byte :=
  let m := msg.map BitVec.toNat
  let padded := m ++ 0x80 :: List.replicate ((119 - m.length % 64) % 64) 0 ++ (natBlock (8 * m.length)).drop 8
  let h := (chunks 64 (padded.length / 64) padded).foldl shaBlock shaH
  h.flatMap fun w => beBytes 4 w

/-! ECDSA on P-256. -/

/-- The field prime. -/
def p256P : Nat := 2 ^ 256 - 2 ^ 224 + 2 ^ 192 + 2 ^ 96 - 1
/-- The order of the base point. -/
def p256N : Nat := 0xFFFFFFFF00000000FFFFFFFFFFFFFFFFBCE6FAADA7179E84F3B9CAC2FC632551
/-- The coefficient b. -/
def p256B : Nat := 0x5AC635D8AA3A93E7B3EBBD55769886BC651D06B0CC53B0F63BCE3C3E27D2604B
/-- The base point. -/
def p256G : Nat × Nat :=
  (0x6B17D1F2E12C4247F8BCE6E563A440F277037D812DEB33A0F4A13945D898C296,
   0x4FE342E2FE1A7F9B8EE7EB4A7C0F9E162BCE33576B315ECECBB6406837BF51F5)

/-- A power modulo `m`, exponent below 2^256. -/
def powMod (m a e : Nat) : Nat :=
  (List.range 256).foldl (fun r i => let r2 := r * r % m; if e.testBit (255 - i) then r2 * a % m else r2) 1

/-- The inverse modulo a prime. -/
def invMod (m a : Nat) : Nat := powMod m a (m - 2)

/-- Sum of two points of the curve; `none` is the point at infinity. -/
def ecAdd (p q : Option (Nat × Nat)) : Option (Nat × Nat) :=
  match p, q with
  | none, q => q
  | p, none => p
  | some (x1, y1), some (x2, y2) =>
    let m := p256P
    if x1 = x2 ∧ (y1 + y2) % m = 0 then none
    else
      let l := if x1 = x2 then (3 * x1 * x1 + m - 3) % m * invMod m (2 * y1 % m) % m
        else (y2 + m - y1) % m * invMod m ((x2 + m - x1) % m) % m
      let x3 := (l * l + 2 * m - x1 - x2) % m
      some (x3, (l * ((x1 + m - x3) % m) + m - y1) % m)

/-- A multiple of a point, factor below 2^256. -/
def ecMul (k : Nat) (p : Option (Nat × Nat)) : Option (Nat × Nat) :=
  (List.range 256).foldl (fun r i => let d := ecAdd r r; if k.testBit (255 - i) then ecAdd d p else d) none

/-- Whether coordinates name a point of the curve. -/
def onCurve (x y : Nat) : Bool :=
  decide (x < p256P) && decide (y < p256P) &&
    decide (y * y % p256P = (x * x * x + (p256P - 3) * x + p256B) % p256P)

/-- Whether (r, s) is a signature of digest `z` under the point Q; r and s lie in 1 to n - 1. -/
def ecdsaVerify (z r s qx qy : Nat) : Bool :=
  let w := invMod p256N s
  match ecAdd (ecMul (z * w % p256N) (some p256G)) (ecMul (r * w % p256N) (some (qx, qy))) with
  | none => false
  | some (x, _) => decide (x % p256N = r)

end Sys2Proof.Machine
end

