-- ==== Sys2Proof/Machine/KeyStore.lean ====
section
/-!
DEFINITION. The key store: slots, banks, counters, the key operations and the epoch side of the group banks (R299, R304 to
R310).
-/
namespace Sys2Proof.Machine

/-- The slots of a class: 0 neighbour, 1 group, 2 device. -/
def Keys.slots (k : Keys) : Nat → NatMap KeySlot
  | 0 => k.nbr | 1 => k.grp | _ => k.dev

/-- Slot `idx` of a class. -/
def Keys.slot (k : Keys) (cls idx : Nat) : KeySlot := (k.slots cls).getD idx .blank

/-- Store a slot. -/
def Keys.putSlot (k : Keys) (cls idx : Nat) (s : KeySlot) : Keys :=
  match cls with
  | 0 => { k with nbr := k.nbr.insert idx s }
  | 1 => { k with grp := k.grp.insert idx s }
  | _ => { k with dev := k.dev.insert idx s }

/-- Whether an index lies in its class (Table 11-3). -/
def keyIndexOk (cls idx : Nat) : Bool :=
  match cls with
  | 0 => 1 ≤ idx && idx ≤ 8191
  | 1 => idx ≤ 63
  | 2 => idx ≤ 15
  | _ => false

/-- Free entries of the second-bank pool: 1,024 less the neighbour slots whose second bank holds a key (R305, R306). -/
def Keys.poolFree (k : Keys) : Nat := 1024 - (k.nbr.filter fun e => e.2.sec.holds).length

/-- Whether WHEEL.WCTL.RUN is 1. -/
def Chip.wheelRun (c : Chip) : Bool := c.flag F.WHEEL_WCTL_RUN

/-- Whether a group slot has a bank bound to an epoch (R308). -/
def KeySlot.epochBound (s : KeySlot) : Bool :=
  s.cur.st == .committed || s.sec.st == .committed || s.cur.bound || s.sec.bound

/-- Whether a group slot is in force (R308, R309). -/
def Chip.keyInForce (c : Chip) (idx : Nat) : Bool := c.wheelRun && c.keys.inForce == idx

/-- Why a key command is refused, 0 for none; the first reason in the order of R308: 1 LOCKED, 3 RANGE, 4 EPOCH, 6 INUSE,
5 POOL, 2 EMPTY. -/
def Chip.keyReason (c : Chip) (k : KeyCmd) : Nat :=
  let s := c.keys.slot k.cls k.idx
  let grp := k.cls == 1
  if keyIndexOk k.cls k.idx && s.locked && 1 ≤ k.op && k.op ≤ 4 then 1
  else if k.op = 0 ∨ 6 ≤ k.op ∨ !keyIndexOk k.cls k.idx ∨ (k.op = 1 ∧ k.cls = 0 ∧ k.size = 1) then 3
  else if grp ∧ ((k.op = 1 ∧ s.epochBound) ∨ (k.op = 2 ∧ c.wheelRun) ∨ (k.op = 3 ∧ s.epochBound)
      ∨ (k.op = 4 ∧ (c.keyInForce k.idx ∨ s.epochBound))) then 4
  else if k.op = 1 ∧ s.sec.st = .previous then 6
  else if k.op = 1 ∧ k.cls = 0 ∧ !s.sec.holds ∧ c.keys.poolFree = 0 then 5
  else if k.op = 2 ∧ s.sec.st ≠ .next then 2
  else if k.op = 3 ∧ !s.sec.holds then 2
  else 0

/-- A slot after an accepted operation (Tables 11-4 and 11-5); `load` is the number of a LOAD. -/
def KeySlot.operate (s : KeySlot) (k : KeyCmd) (load : Nat) : KeySlot :=
  match k.op with
  | 1 => { s with sec := { st := .next, size := k.size, key := k.data.take (if k.size = 1 then 32 else 16),
                           ctr := if k.cls = 1 then 1 else 0, bound := false, fresh := false, load } }
  | 2 =>
    { s with
      cur := { s.sec with st := .current, ctr := if k.cls = 0 then 1 else s.sec.ctr, fresh := k.cls == 0 }
      sec := if s.cur.holds then { s.cur with st := .previous, bound := false, fresh := false } else .none }
  | 3 => { s with sec := .none }
  | 4 => { s with cur := .none, sec := .none }
  | _ => { s with locked := true }

/-- An accepted operation; the group slot rolled last while RUN is 0 is the one in force once RUN is 1 (R309). -/
def Chip.keyOperate (c : Chip) (k : KeyCmd) : Chip :=
  c.onKeys fun ks =>
    let ks := ks.putSlot k.cls k.idx ((ks.slot k.cls k.idx).operate k ks.nextLoad)
    let ks := if k.op = 1 then { ks with nextLoad := ks.nextLoad + 1 } else ks
    if k.cls = 1 ∧ k.op = 2 then { ks with inForce := k.idx } else ks

/-- A bank by place. -/
def Keys.bank (k : Keys) : BankRef → Bank
  | .nbr s second => if second then (k.slot 0 s).sec else (k.slot 0 s).cur
  | .grp s second => if second then (k.slot 1 s).sec else (k.slot 1 s).cur

/-- Replace a bank. -/
def Keys.putBank (k : Keys) (r : BankRef) (b : Bank) : Keys :=
  match r with
  | .nbr s second =>
    k.putSlot 0 s (if second then { k.slot 0 s with sec := b } else { k.slot 0 s with cur := b })
  | .grp s second =>
    k.putSlot 1 s (if second then { k.slot 1 s with sec := b } else { k.slot 1 s with cur := b })

/-- The group bank of an epoch: the current one, the committed next one, or the previous one in a straggle window (R309).
`which` is 0 current, 1 next, 2 previous. -/
def Chip.groupBank (c : Chip) (which : Nat) : Option BankRef :=
  match which with
  | 0 => if c.wheelRun then some (.grp c.keys.inForce false) else none
  | 1 => c.keys.next.map fun s => .grp s true
  | _ => c.keys.prev

/-- Take the next counter value of a bank (R299): none if the bank is empty or its counter exhausted; a counter that
passes 0xF000_0000 raises CTRHI. -/
def Chip.takeCounter (c : Chip) (r : BankRef) : Option (Nat × Bank) × Chip :=
  let b := c.keys.bank r
  if !b.holds ∨ b.ctr = 0 ∨ 0xFFFFFFFF ≤ b.ctr then (none, c)
  else
    let c' := c.onKeys fun k => k.putBank r { b with ctr := b.ctr + 1 }
    (some (b.ctr, b), if b.ctr = 0xF0000000 then c'.raise .keys 1 else c')

/-- The CCM nonce (R298, Table 11-1). -/
def nonceOf (eui fcnt sec : Nat) : List Byte := beBytes 8 eui ++ beBytes 4 fcnt ++ [BitVec.ofNat 8 sec]

/-- Whether a saggar pair works (R319). -/
def Chip.pairWorks (c : Chip) (p : Nat) : Bool := !c.retired 6 0 p

/-- Whether any saggar pair works. -/
def Chip.saggarWorks (c : Chip) : Bool := c.pairWorks 0 || c.pairWorks 1

/-- An epoch commit binds the next key bank (R105, Table 11-5): the bank of `slot` becomes COMMITTED; none if it holds no
NEXT key. -/
def Keys.commitGroup (k : Keys) (slot : Nat) : Option Keys :=
  let s := k.slot 1 slot
  if s.sec.st = .next then
    some { k.putSlot 1 slot { s with sec := { s.sec with st := .committed } } with next := some slot }
  else none

/-- A cancelled commit: COMMITTED returns to NEXT (R109). -/
def Keys.cancelGroup (k : Keys) : Keys :=
  match k.next with
  | some slot =>
    let s := k.slot 1 slot
    { k.putSlot 1 slot { s with sec := if s.sec.st = .committed then { s.sec with st := .next } else s.sec } with
      next := none }
  | none => k

/-- The epoch switch (R107, Table 11-5): the committed bank becomes CURRENT; the bank of the former epoch becomes PREVIOUS,
in the second place of the same slot, or in its own place in another slot. -/
def Keys.switchGroup (k : Keys) : Keys :=
  match k.next with
  | none => k
  | some slot =>
    let s := k.slot 1 slot
    let oldPrev : Bank := if s.cur.holds then { s.cur with st := .previous, bound := true } else .none
    let k1 := k.putSlot 1 slot { s with cur := if s.sec.holds then { s.sec with st := .current } else .none, sec := oldPrev }
    if slot = k.inForce then
      { k1 with next := none, prev := if s.cur.holds then some (.grp slot true) else none }
    else
      let o := k1.slot 1 k.inForce
      let k2 := if o.cur.holds then
          k1.putSlot 1 k.inForce { o with cur := { o.cur with st := .previous, bound := true } }
        else k1
      { k2 with inForce := slot, next := none, prev := if o.cur.holds then some (.grp k.inForce false) else none }

/-- The end of the straggle window: PREVIOUS banks that a switch made are emptied (R107, Table 11-5). -/
def Keys.releasePrevious (k : Keys) : Keys :=
  { k with
    prev := none
    grp := k.grp.mapVals fun s =>
      { s with cur := if s.cur.bound then .none else s.cur, sec := if s.sec.bound then .none else s.sec } }

/-- An uncorrectable error in a key bank empties it (Table 11-5). -/
def Keys.clearBank (k : Keys) (cls idx : Nat) (second : Bool) : Keys :=
  let s := k.slot cls idx
  k.putSlot cls idx (if second then { s with sec := .none } else { s with cur := .none })

end Sys2Proof.Machine
end

