-- ==== Sys2Proof/Machine/Beacon.lean ====
section
/-!
DEFINITION. Beacons: their frame control and body, the tags, and each lane's beacon store (R96 to R99, R301, R334).
-/
namespace Sys2Proof.Machine

/-- The part's network identifier, as an FC carries it (log entry 66). -/
def ownSnid : Nat := Config.snid % 256

/-- Start and period of the turn after the present one, in 1/256 tick, as far as they are known: as the loop or a rephase
set them, else predicted at the present period (R85, R87). -/
def Chip.nextStart (c : Chip) (n : Lane) : Nat × Nat :=
  let g := c.group n
  match g.rephase with
  | some (t, y) =>
    if t = c.turn n then (y, g.found.getD g.p) else if g.looped then (g.nextTs, g.nextP) else (g.ts + 4 * g.p, g.p)
  | none => if g.looped then (g.nextTs, g.nextP) else (g.ts + 4 * g.p, g.p)

/-- Start and period of the turn `d` turns after the present one (R99). -/
def Chip.startOf (c : Chip) (n : Lane) (d : Nat) : Nat × Nat :=
  let g := c.group n
  if d = 0 then (g.ts, g.p)
  else
    let x := c.nextStart n
    (x.1 + (d - 1) * (4 * x.2), x.2)

/-- The group bank that `groupBank` means: 0 current, 1 next, 2 previous; with the epoch, and whether the beacon is the
previous-epoch copy.  One entry for each beacon of a turn (R97, R107). -/
def Chip.beaconEpochs (c : Chip) (turn : Nat) : List (EpochSet × Nat × Bool) :=
  match c.wheel.next, c.wheel.active, c.wheel.prev with
  | some ch, _, _ =>
    if turnBefore turn ch.s then [(c.wheel.cur, 0, false)]
    else (ch.dest, 1, false) :: (if turnBefore turn (turnAdd ch.s ch.w) then [(c.wheel.cur, 0, true)] else [])
  | none, some ch, some pv =>
    if turnBefore turn ch.s then [(pv, 2, false)]
    else (c.wheel.cur, 0, false) :: (if turnBefore turn (turnAdd ch.s ch.w) then [(pv, 2, true)] else [])
  | _, _, _ => [(c.wheel.cur, 0, false)]

/-- Whether the beacon of a turn carries the quiet period: from its announcement until it ends (R102). -/
def Chip.quietIn? (c : Chip) (turn : Nat) : Option Quiet :=
  match c.wheel.quiet with
  | some q => if turnBefore turn (turnAdd q.t q.k) then some q else none
  | none => none

/-- Whether the beacon of a turn announces the service pause: the two before PTURN (R110). -/
def Chip.pauseIn (c : Chip) (turn : Nat) : Bool :=
  let pt := c.get F.WHEEL_PTURN_TURN
  c.flag F.WHEEL_WSTAT_PPEND && (turnAdd turn 1 == pt || turnAdd turn 2 == pt)

/-- FLAGS of a beacon (Table 3-6). -/
def Chip.beaconFlags (c : Chip) (n : Lane) (turn : Nat) (coast old : Bool) : Nat :=
  let st := c.lstate n
  let epann := match c.wheel.next with
    | some ch => turnBefore turn ch.s
    | none => false
  bit (st == 2) + 2 * bit (st == 3 || coast) + 4 * bit (st == 4) + 8 * bit (c.quietIn? turn).isSome + 16 * bit epann
    + 32 * bit (c.pauseIn turn) + 64 * bit ((c.group n).amend == some turn) + 128 * bit old

/-- Bytes 0 to 19 of the body (Table 3-6), which a G6-BEACON carries too (R98). -/
def Chip.beaconHead (c : Chip) (n : Lane) (flags ts p : Nat) : List Byte :=
  let tai := c.taiAt ((ts / 256 : Nat) : Int)
  [0x08, BitVec.ofNat 8 flags, BitVec.ofNat 8 n.num, BitVec.ofNat 8 (c.get F.TIME_TSTAT_STATE % 4)] ++ leBytes 4 p
    ++ leBytes 6 tai.1 ++ leBytes 4 tai.2 ++ leBytes 2 (c.get F.TIME_UTCOFS_OFS)

/-- Bytes 20 to 115 of the body (Table 3-6); fields whose flag is 0 are 0. -/
def Chip.beaconTail (c : Chip) (turn : Nat) (ep : EpochSet) : List Byte :=
  let nx := match c.wheel.next with
    | some ch =>
      if turnBefore turn ch.s then
        [BitVec.ofNat 8 ch.dest.num, BitVec.ofNat 8 (ch.dest.bp + 16 * ch.dest.pat), BitVec.ofNat 8 ch.dest.glz,
         BitVec.ofNat 8 ch.dest.gkey] ++ leBytes 4 ch.s ++ [BitVec.ofNat 8 ch.w]
      else List.replicate 9 0
    | none => List.replicate 9 0
  let q := match c.quietIn? turn with
    | some q => leBytes 4 q.t ++ leBytes 2 q.k
    | none => List.replicate 6 0
  let p := if c.pauseIn turn then leBytes 4 (c.get F.WHEEL_PTURN_TURN) ++ [BitVec.ofNat 8 (c.get F.WHEEL_PLEN_LEN)]
    else List.replicate 5 0
  let gkey := if ep = c.wheel.cur then c.keys.inForce else ep.gkey
  nx ++ [BitVec.ofNat 8 ep.glz, BitVec.ofNat 8 gkey, 0] ++ q ++ p ++ List.replicate 73 0

/-- Mode of beacons: 1 REP4, 2 REP6 (R96). -/
def Chip.beaconMode (c : Chip) : Nat := if c.flag F.WHEEL_BCNCFG_REP6 then 2 else 1

/-- Payload symbols of a one-block robust frame of a profile (R71, Table 3-7). -/
def robustSymbols (bp mode : Nat) : Nat := ceilDiv (lcOf 1 0) (max 1 (repNcb (dataCarriersOf bp) mode))

/-- The FC of a beacon (R96, R98).  `pat` is the pattern in force in its turn.  GI 0 is reserved in GLP-6 frames: with BCNCFG.GI = 0
a G6-BEACON goes at GI code 1 (R81, log entry 180). -/
def Chip.beaconFc (c : Chip) (g6 : Bool) (turn pat : Nat) (ep : EpochSet) : Fc :=
  let bp := if g6 then c.g6bp else ep.bp
  let mode := c.beaconMode
  { g6, snid := ownSnid, bp, epl := ep.num % 4, stid := 0, dtid := 0x3FFF,
    body := .beacon (if g6 then max 1 (c.get F.WHEEL_BCNCFG_GI) else c.get F.WHEEL_BCNCFG_GI) mode (robustSymbols bp mode) 1 1 turn pat ep.num }

/-- A beacon of the turn `d` turns after the present one, its counter and tag still 0. -/
def Chip.beaconDraft (c : Chip) (n : Lane) (d pat : Nat) (ep : EpochSet) (coast old : Bool) : Beacon :=
  let turn := turnAdd (c.turn n) d
  let st := c.startOf n d
  { turn, coast, old, g6 := false, period := st.2, fc := (c.beaconFc false turn pat ep).word
    body := c.beaconHead n (c.beaconFlags n turn coast old) st.1 st.2 ++ c.beaconTail turn ep ++ List.replicate 12 0 }

/-- The beacons of a turn before their tags, each with the bank that is to tag it: the normal and the coast copy of each
epoch (R99). -/
def Chip.beaconDrafts (c : Chip) (n : Lane) (d : Nat) : List (Beacon × Nat) :=
  let eps := c.beaconEpochs (turnAdd (c.turn n) d)
  let pat := match eps with
    | e :: _ => e.1.pat
    | [] => 0
  eps.flatMap fun e =>
    [(c.beaconDraft n d pat e.1 false e.2.2, e.2.1), (c.beaconDraft n d pat e.1 true e.2.2, e.2.1)]

/-- A beacon without counter and tag. -/
def Beacon.bare (b : Beacon) : Beacon := { b with body := b.body.take 116 ++ List.replicate 12 0 }

/-- A beacon with its counter and tag, counted in PROT (R301, R320); one that no bank can tag is not prepared and counts in
BCNSKIP. -/
def Chip.sealBeacon (c : Chip) (b : Beacon) (which : Nat) : Option Beacon × Chip :=
  let taken := match (if c.saggarWorks then c.groupBank which else none) with
    | some r => c.takeCounter r
    | none => (none, c)
  match taken with
  | (some (fcnt, k), c) =>
    let body := b.body.take 116 ++ leBytes 4 fcnt
    let sealed := ccmSeal k.key 8 (nonceOf c.selfEui fcnt 0x0D) (leBytes 16 b.fc ++ body) []
    (some { b with body := body ++ sealed.2 }, c.count F.SAGGAR_PROT_COUNT 1)
  | (none, c) => (none, c.count F.SAGGAR_SKIPS_BCNSKIP 1)

/-- The stored beacons of a lane. -/
def Chip.storedBeacons (c : Chip) (n : Lane) : List Beacon := c.wheel.store.getD n.num []

/-- Replace the stored beacons of a lane. -/
def Chip.setStored (c : Chip) (n : Lane) (bs : List Beacon) : Chip :=
  c.onWheel fun w => { w with store := w.store.insert n.num bs }

/-- Prepare the beacons of the turn `d` turns ahead, in place of those stored for it. -/
def Chip.prepareTurn (c : Chip) (n : Lane) (d : Nat) : Chip :=
  let turn := turnAdd (c.turn n) d
  let c := c.setStored n ((c.storedBeacons n).filter fun b => b.turn != turn)
  (c.beaconDrafts n d).foldl (fun c e =>
    match c.sealBeacon e.1 e.2 with
    | (some b, c) => c.setStored n (c.storedBeacons n ++ [b])
    | (none, c) => c) c

/-- Prepare the next turn's beacons again if any field differs from the stored ones (R99). -/
def Chip.correctNext (c : Chip) (n : Lane) : Chip :=
  let turn := turnAdd (c.turn n) 1
  if ((c.storedBeacons n).filter fun b => b.turn == turn).map Beacon.bare = (c.beaconDrafts n 1).map Prod.fst then c
  else c.prepareTurn n 1

/-- The update of facet 95 (R99): beacons of past turns go, that of turn N + 1 is corrected, that of turn N + 8 prepared. -/
def Chip.updateStore (c : Chip) (n : Lane) : Chip :=
  let c := c.setStored n ((c.storedBeacons n).filter fun b => turnBefore (c.turn n) b.turn)
  (c.correctNext n).prepareTurn n 8

/-- The store when a group's first turn begins: the next eight turns (R99). -/
def Chip.fillStore (c : Chip) (n : Lane) : Chip :=
  [1, 2, 3, 4, 5, 6, 7, 8].foldl (fun c d => c.prepareTurn n d) (c.setStored n [])

/-- Whether the next turn's beacon can still be committed: at least 60 µs before its preamble (R22, R109). -/
def Chip.beaconOpen (c : Chip) (n : Lane) : Bool := c.tick + 6144 ≤ (c.nextStart n).1 / 256

/-- What the beacons carry has changed: once facet 95 has corrected the next turn's beacon, it is corrected again while it
is not yet committed. -/
def Chip.touchBeacons (c : Chip) : Chip :=
  Lane.all.foldl (fun c n =>
    if c.running n && ((c.group n).looped || (c.group n).rephase.isSome) && c.beaconOpen n then c.correctNext n else c) c

/-- Every stored beacon not yet committed is prepared again (R334). -/
def Chip.refreshBeacons (c : Chip) : Chip :=
  Lane.all.foldl (fun c n =>
    if c.running n then
      [1, 2, 3, 4, 5, 6, 7, 8].foldl (fun c d =>
        if ((c.storedBeacons n).any fun b => b.turn == turnAdd (c.turn n) d) && (d != 1 || c.beaconOpen n) then c.prepareTurn n d
        else c) c
    else c) c

end Sys2Proof.Machine
end

