-- ==== Sys2Proof/Machine/Wheel.lean ====
section
/-!
DEFINITION. The Wheel's commands: run and stop, the pattern table, epochs, quiet periods and the service pause
(R86, R90, R92, R102 to R110).
-/
namespace Sys2Proof.Machine

/-- Bring WSTAT up to date (Table 3-9). -/
def Chip.syncWheel (c : Chip) : Chip :=
  let act := Lane.all.any fun n => (c.group n).quiet
  let c := (c.set F.WHEEL_WSTAT_PAT c.wheel.cur.pat).set F.WHEEL_WSTAT_EPOCH c.wheel.cur.num
  let c := (c.setFlag F.WHEEL_WSTAT_EPPEND c.wheel.next.isSome).setFlag F.WHEEL_WSTAT_STRAG c.wheel.active.isSome
  (c.setFlag F.WHEEL_WSTAT_QPEND (c.wheel.quiet.isSome && !act)).setFlag F.WHEEL_WSTAT_QACT act

/-- The constants of LOOP in 1/256 tick (Table 3-11): 1 µs is 26,214.4 of them. -/
def Chip.loopCfg (c : Chip) : LoopCfg :=
  { kp := c.get F.WHEEL_LOOP_KP, ki := c.get F.WHEEL_LOOP_KI, acc := c.get F.WHEEL_LOOP_ACCWIN * 262144,
    ph := c.get F.WHEEL_LOOP_PHCLAMP * 262144 / 10, pr := c.get F.WHEEL_LOOP_PRCLAMP * 262144 / 10 }

/-! Epochs. -/

/-- Whether the straggle window is over: every group that still runs has switched and reached turn S + W (R107). -/
def Chip.straggleDone (c : Chip) : Bool :=
  match c.wheel.active with
  | some ch => Lane.all.all fun n =>
      !c.running n || ((c.group n).switched && !turnBefore (c.turn n) (turnAdd ch.s ch.w))
  | none => false

/-- The straggle window ends: OLD peers become STALE and their queued frames complete with STALE, the previous key bank is
released, banks of a profile left behind become invalid, STRAGGLE (R107, R246). -/
def Chip.endStraggle (c : Chip) : Chip :=
  let old := (c.mac.nbr.filter fun e => e.1 ≠ 0 && e.2.st == 1 && e.2.epst == 0).map Prod.fst
  let c := old.foldl (fun c s => (c.onNbr s fun e => { e with epst := 3 }).finishSlot s Status.stale.code true) c
  let c := c.onKeys Keys.releasePrevious
  let c := match c.wheel.prev with
    | some pv =>
      if pv.bp = c.wheel.cur.bp then c
      else c.fittedLanes.foldl (fun c n => (c.peersOf n).foldl (fun c s => c.leaveProfile n s pv.bp) c) c
    | none => c
  ((c.onWheel fun w => { w with active := none, prev := none }).raise .wheel 5).syncWheel

/-- End the straggle window if it is over. -/
def Chip.settleStraggle (c : Chip) : Chip := if c.straggleDone then c.endStraggle else c

/-- EPCMD.COMMIT (R105): the checks in their order, then the commitment.  The epoch is the current one plus 1, every peer
that is not STALE becomes OLD (R106), the key bank becomes COMMITTED. -/
def Chip.epochCommit (c : Chip) : Chip :=
  let done (c : Chip) (st : Status) := (c.set F.WHEEL_EPRES_STATUS st.code).setFlag F.WHEEL_EPRES_PEND false
  let s := c.get F.WHEEL_EPSW_TURN
  let cur := c.latestTurn
  let gkey := c.get F.WHEEL_EPNX_GKEY
  let pat := c.get F.WHEEL_EPNX_PAT
  if turnBefore s (turnAdd cur (c.get F.WHEEL_EPCFG_EPLEAD)) ∨ 2 ^ 30 < (s + 2 ^ 32 - cur) % 2 ^ 32 then done c .refused
  else if c.wheel.next.isSome ∨ c.wheel.active.isSome then done c .busy
  else
    match c.keys.commitGroup gkey with
    | none => done c .refused
    | some ks =>
      if (patternBad (c.patternWords pat)).isSome then done c .format
      else
        let dest : EpochSet := { num := (c.wheel.cur.num + 1) % 256, bp := c.get F.WHEEL_EPNX_BP, pat,
                                 glz := c.get F.WHEEL_EPNX_GLZ, gkey }
        let c := (c.onKeys fun _ => ks).onWheel fun w =>
          { w with next := some { dest, s, w := c.get F.WHEEL_EPCFG_STRAG } }
        let c := c.onNbrs fun slot e => if slot ≠ 0 ∧ e.st = 1 ∧ e.epst ≠ 3 then { e with epst := 0 } else e
        (done c .ok).syncWheel.touchBeacons

/-- Whether the beacon of turn `t` has been committed in some group that runs (R109). -/
def Chip.beaconCommitted (c : Chip) (t : Nat) : Bool :=
  Lane.all.any fun n => c.running n &&
    (!turnBefore (c.turn n) t || (turnAdd (c.turn n) 1 == t % 2 ^ 32 && !c.beaconOpen n))

/-- EPCMD.CANCEL (R109): READY peers return to OLD and the key bank to NEXT. -/
def Chip.epochCancel (c : Chip) : Chip :=
  let done (c : Chip) (st : Status) := (c.set F.WHEEL_EPRES_STATUS st.code).setFlag F.WHEEL_EPRES_PEND false
  match c.wheel.next with
  | none => done c .refused
  | some ch =>
    if c.beaconCommitted ch.s then done c .refused
    else
      let c := (c.onKeys Keys.cancelGroup).onWheel fun w => { w with next := none }
      let c := c.onNbrs fun slot e => if slot ≠ 0 ∧ e.st = 1 ∧ e.epst = 1 then { e with epst := 0 } else e
      (done c .ok).syncWheel.touchBeacons

/-- A write of EPCMD (R105, R109, R452). -/
def Chip.epcmdWrite (c : Chip) (i : Init) (val : Nat) : Chip :=
  match val.testBit 0, val.testBit 1 with
  | true, true => c.refuseMulti i .wheel 0x06C
  | true, false => c.epochCommit
  | false, true => c.epochCancel
  | false, false => c

/-- COMMIT (R105). -/
def execCommit (i : Init) (s : State) : Host.Outcome State Fault Refusal :=
  .next (s.onChip fun c => c.gate i .wheel 0x06C fun c => c.epcmdWrite i 1)

/-- CANCEL (R109). -/
def execCancel (i : Init) (s : State) : Host.Outcome State Fault Refusal :=
  .next (s.onChip fun c => c.gate i .wheel 0x06C fun c => c.epcmdWrite i 2)

/-- EPOCH_SWITCH (R107) in group `n`, whose turn has reached S: with the first group the epoch, profile, glaze number, key
bank and pattern of the part switch; each group takes them at its own B(0). -/
def execEpochSwitch (n : Lane) (s : State) : Host.Outcome State Fault Refusal :=
  .next (s.onChip fun c =>
    if !c.running n then c
    else
      match c.wheel.next, c.wheel.active with
      | some ch, _ =>
        if turnBefore (c.turn n) ch.s then c
        else
          let old : EpochSet := { c.wheel.cur with gkey := c.keys.inForce }
          let c := c.onKeys Keys.switchGroup
          let c := c.onWheel fun w =>
            { w with
              prev := some old
              cur := ch.dest
              next := none
              active := some ch
              groups := w.groups.mapVals fun g => { g with switched := false } }
          ((c.onGroup n fun g => { g with switched := true }).raise .wheel 4).syncWheel
      | none, some ch =>
        if turnBefore (c.turn n) ch.s ∨ (c.group n).switched then c
        else (c.onGroup n fun g => { g with switched := true }).raise .wheel 4
      | none, none => c)

/-- STRAGGLE_END (R107): at B(0) of turn S + W of the last group that runs. -/
def execStraggleEnd (s : State) : Host.Outcome State Fault Refusal := .next (s.onChip Chip.settleStraggle)

/-! Run, stop and hold (Table 3-1). -/

/-- A ready lane's group starts collecting crossings: OFF to ACQUIRE.  The first Wheel start ends BOOT (Table 1-15). -/
def Chip.wheelStart (c : Chip) (n : Lane) : Chip :=
  if c.wheelRun ∧ c.lstate n = 0 ∧ c.fitted n ∧ (c.lane n).ready then
    let c := (c.onGroup n fun _ => { WGroup.off with since := c.tick, loop := c.loopCfg }).setLock n 1
    if c.power = .boot then c.setPower .active else c
  else c

/-- A group's Wheel stops: OFF, line activity ends with the current facet; a straggle window no longer waits for it. -/
def Chip.wheelHalt (c : Chip) (n : Lane) : Chip :=
  if c.lstate n = 0 then c
  else
    let was := c.running n
    (((c.onGroup n fun g => if was then { g with stopping := true } else .off).setLock n 0).setStored n []).settleStraggle

/-- A write of WCTL: RUN going to 1 starts every ready group, RUN going to 0 stops every group. -/
def Chip.wctlWrite (c : Chip) (val : Nat) : Chip :=
  let was := c.wheelRun
  let c := c.store .wheel 0x040 val
  if c.wheelRun then (if was then c else Lane.all.foldl Chip.wheelStart c)
  else if was then Lane.all.foldl Chip.wheelHalt c
  else c

/-- WHEEL_RUN (R86): WCTL written with RUN = 1; `val` gives its other bits. -/
def execWheelRun (i : Init) (val : Nat) (s : State) : Host.Outcome State Fault Refusal :=
  .next (s.onChip fun c => c.gate i .wheel 0x040 fun c => c.wctlWrite (setBit val 0))

/-- WHEEL_STOP (R86): WCTL written with RUN = 0. -/
def execWheelStop (i : Init) (val : Nat) (s : State) : Host.Outcome State Fault Refusal :=
  .next (s.onChip fun c => c.gate i .wheel 0x040 fun c => c.wctlWrite (clearMask val 1))

/-- LOCKED to HOLD: the group keeps running at its last P (Table 3-1). -/
def Chip.toHold (c : Chip) (n : Lane) : Chip :=
  if c.lstate n = 2 then
    ((c.onGroup n fun g => { g with offs := [], consec := 0, rephase := none, found := none }).setLock n 3).touchBeacons
  else c

/-- A write of FORCE: the named LOCKED groups go to HOLD. -/
def Chip.forceWrite (c : Chip) (val : Nat) : Chip :=
  Lane.all.foldl (fun c n => if val.testBit n.idx then c.toHold n else c) c

/-- FORCE_HOLD (R86). -/
def execForceHold (i : Init) (groups : Nat) (s : State) : Host.Outcome State Fault Refusal :=
  .next (s.onChip fun c => c.gate i .wheel 0x418 fun c => c.forceWrite groups)

/-! The pattern table (R90, R92). -/

/-- ENTRY after an access of TBLDATA. -/
def Chip.tblNext (c : Chip) : Chip :=
  let e := c.get F.WHEEL_TBLADDR_ENTRY
  c.set F.WHEEL_TBLADDR_ENTRY (if 95 ≤ e then 0 else e + 1)

/-- A read of TBLDATA. -/
def Chip.readTbl (c : Chip) : Nat × Chip :=
  (c.entryWord (c.get F.WHEEL_TBLADDR_PAT) (c.get F.WHEEL_TBLADDR_ENTRY), c.tblNext)

/-- Whether a pattern is in force in some group or belongs to a committed next epoch (R92). -/
def Chip.patternHeld (c : Chip) (pat : Nat) : Bool :=
  c.wheel.cur.pat == pat || (match c.wheel.next with
    | some ch => ch.dest.pat == pat
    | none => false) || Lane.all.any fun n => c.running n && c.pat n == pat

/-- An entry word without its reserved bits, a 1 written to which is ignored (R14; log entry 67). -/
def entryStored (w : Nat) : Nat := clearMask (w % 2 ^ 23) 0x8080

/-- A write of TBLDATA. -/
def Chip.writeTbl (c : Chip) (i : Init) (val : Nat) : Chip :=
  let pat := c.get F.WHEEL_TBLADDR_PAT
  if c.patternHeld pat then c.refuseState i .wheel 0x404
  else
    let k := 96 * pat + c.get F.WHEEL_TBLADDR_ENTRY
    (c.onWheel fun w =>
      { w with table := if entryStored val = 0 then w.table.erase k else w.table.insert k (entryStored val) }).tblNext

/-- TBLDATA_READ (R90). -/
def execTbldataRead (i : Init) (s : State) : Host.Outcome State Fault Refusal :=
  .next (s.onChip fun c => c.gateRead i .wheel 0x404 Chip.readTbl)

/-- TBLDATA_WRITE (R92). -/
def execTbldataWrite (i : Init) (val : Nat) (s : State) : Host.Outcome State Fault Refusal :=
  .next (s.onChip fun c => c.gate i .wheel 0x404 fun c => c.writeTbl i val)

/-- A write of TBLCHK: OK, or FORMAT with the first bad entry. -/
def Chip.tblchkWrite (c : Chip) (val : Nat) : Chip :=
  match patternBad (c.patternWords (val % 16)) with
  | none => (c.set F.WHEEL_TBLRES_STATUS Status.ok.code).set F.WHEEL_TBLRES_ENTRY 0
  | some e => (c.set F.WHEEL_TBLRES_STATUS Status.format.code).set F.WHEEL_TBLRES_ENTRY e

/-- TBLCHK (R92). -/
def execTblchk (i : Init) (pat : Nat) (s : State) : Host.Outcome State Fault Refusal :=
  .next (s.onChip fun c => c.gate i .wheel 0x408 fun c => c.tblchkWrite pat)

/-! Quiet periods (R102 to R104). -/

/-- QCMD.ANNOUNCE (R102), with QLEAD = 2. -/
def Chip.quietAnnounce (c : Chip) : Chip :=
  let done (c : Chip) (st : Status) := (c.set F.WHEEL_QRES_STATUS st.code).setFlag F.WHEEL_QRES_PEND false
  let t := c.get F.WHEEL_QTURN_TURN
  let k := c.get F.WHEEL_QCTL_QLEN
  let cur := c.latestTurn
  if turnBefore t (turnAdd cur 3) ∨ 2 ^ 30 < (t + 2 ^ 32 - cur) % 2 ^ 32 then done c .refused
  else if c.wheel.quiet.isSome then done c .busy
  else if k = 0 then done c .format
  else
    let c := c.onWheel fun w =>
      { w with quiet := some ⟨t, k⟩, groups := w.groups.mapVals fun g => { g with quiet := false, amend := none } }
    (done c .ok).syncWheel.touchBeacons

/-- The quiet period is cancelled in every group by a request at tick `t`: the first beacon whose commitment falls at least
200 µs after it carries AMEND (R104). -/
def Chip.quietCancel (c : Chip) (t : Nat) : Chip :=
  let c := (c.onWheel fun w => { w with quiet := none, calls := [] }).count F.WHEEL_QCNT_QCANCEL 1
  let c := Lane.all.foldl (fun c n =>
    if c.running n then
      let soon := t + 20480 + 6144 ≤ (c.nextStart n).1 / 256
      let c := c.onGroup n fun g => { g with quiet := false, amend := some (turnAdd (c.turn n) (if soon then 1 else 2)) }
      if soon ∧ (c.group n).looped then c.correctNext n else c
    else c.onGroup n fun g => { g with quiet := false }) c
  (c.raise .wheel 3).syncWheel

/-- QCMD.WITHDRAW (R104): REFUSED without a quiet period and once the beacon of turn T + 1 has been committed; before Tc it
cancels the quiet period.  Between, the period stands and the status is not stated (log entry 68). -/
def Chip.quietWithdraw (c : Chip) : Chip :=
  let done (c : Chip) (st : Status) := (c.set F.WHEEL_QRES_STATUS st.code).setFlag F.WHEEL_QRES_PEND false
  match c.wheel.quiet with
  | none => done c .refused
  | some q =>
    if c.beaconCommitted (turnAdd q.t 1) then done c .refused
    else if Lane.all.any fun n => c.running n && !turnBefore (c.turn n) q.t then
      done c.nextFree (if c.freeBelow 2 = 0 then .ok else .refused)
    else done (c.quietCancel c.tick) .ok

/-- A write of QCMD (R102, R104, R452). -/
def Chip.qcmdQuiet (c : Chip) (i : Init) (val : Nat) : Chip :=
  match val.testBit 0, val.testBit 1 with
  | true, true => c.refuseMulti i .wheel 0x058
  | true, false => c.quietAnnounce
  | false, true => c.quietWithdraw
  | false, false => c

/-- ANNOUNCE (R102). -/
def execAnnounce (i : Init) (s : State) : Host.Outcome State Fault Refusal :=
  .next (s.onChip fun c => c.gate i .wheel 0x058 fun c => c.qcmdQuiet i 1)

/-- WITHDRAW (R104). -/
def execWithdraw (i : Init) (s : State) : Host.Outcome State Fault Refusal :=
  .next (s.onChip fun c => c.gate i .wheel 0x058 fun c => c.qcmdQuiet i 2)

/-- QUIET_COMMIT (R103) in group `n`: its turn is T or later, within the period. -/
def execQuietCommit (n : Lane) (s : State) : Host.Outcome State Fault Refusal :=
  .next (s.onChip fun c =>
    match c.wheel.quiet with
    | some q =>
      if c.running n ∧ !(c.group n).quiet ∧ !turnBefore (c.turn n) q.t ∧ turnBefore (c.turn n) (turnAdd q.t q.k) then
        ((c.onGroup n fun g => { g with quiet := true }).raise .wheel 3).syncWheel
      else c
    | none => c)

/-- QUIET_END (R103) in group `n`: its turn is T + K or later.  Once no group is within the period it is over, also where no
group that runs now had taken it up. -/
def execQuietEnd (n : Lane) (s : State) : Host.Outcome State Fault Refusal :=
  .next (s.onChip fun c =>
    match c.wheel.quiet with
    | some q =>
      let past (c : Chip) (m : Lane) : Bool := !turnBefore (c.turn m) (turnAdd q.t q.k)
      let ovr := Lane.all.all fun m => !c.running m || past c m
      if c.running n ∧ ((c.group n).quiet ∨ ovr) ∧ past c n then
        let c := (c.onGroup n fun g => { g with quiet := false }).raise .wheel 3
        (if ovr then c.onWheel fun w => { w with quiet := none, calls := [] } else c).syncWheel
      else c
    | none => c)

/-! The service pause (R110). -/

/-- Announce a service pause: PTURN is the first turn that two beacons not yet committed precede, PLEN is 300 ms in turns,
rounded up.  With no group running there is nothing to announce. -/
def Chip.announcePause (c : Chip) : Chip :=
  match Lane.all.filter c.running with
  | [] => c
  | n :: rest =>
    let first (m : Lane) : Nat := turnAdd (c.turn m) (if c.beaconOpen m then 3 else 4)
    let pt := rest.foldl (fun a m => if turnBefore a (first m) then first m else a) (first n)
    let c := (c.set F.WHEEL_PTURN_TURN pt).set F.WHEEL_PLEN_LEN (ceilDiv (30720000 * 256) (4 * max 1 (c.group n).p))
    ((c.setFlag F.WHEEL_WSTAT_PPEND true).onWheel fun w => { w with activated := false }).touchBeacons

/-- PAUSE_START (R110) in group `n`: at B(0) of PTURN it stops sending and keeps counting turns in HOLD. -/
def execPauseStart (n : Lane) (s : State) : Host.Outcome State Fault Refusal :=
  .next (s.onChip fun c =>
    if c.flag F.WHEEL_WSTAT_PPEND ∧ c.running n ∧ !(c.group n).paused
        ∧ !turnBefore (c.turn n) (c.get F.WHEEL_PTURN_TURN) then
      ((c.onGroup n fun g => { g with paused := true, offs := [], consec := 0 }).setLock n 3).raise .wheel 7
    else c)

end Sys2Proof.Machine
end

