-- ==== Sys2Proof/Machine/MacCore.lean ====
section
/-!
DEFINITION. What becomes of the MPDUs of a frame once it is sent, dropped, acknowledged or left unanswered (R107, R135, R213 to
R215, R283).
-/
namespace Sys2Proof.Machine

/-- End of a frame's last payload symbol, ticks. -/
def TxFrame.tend (f : TxFrame) : Nat := f.t0 + f.fc.body.ticks

/-- Ports a frame is coupled to (R124, R125). -/
def TxFrame.coupled (f : TxFrame) : List Nat :=
  match f.coupling with
  | .single p => [p]
  | _ => [1, 2, 3]

/-- Queue number of a block that stands in no queue: that of a beacon. -/
def noQueue : Nat := 16384

/-- The blocks of a frame that an MPDU of a queue owns. -/
def TxFrame.owned (f : TxFrame) : List FrameBlk := f.blocks.filter fun b => b.queue != noQueue

/-- The MPDUs a frame carries: queue and serial number, each once. -/
def TxFrame.mpdus (f : TxFrame) : List (Nat × Nat) := (f.owned.map fun b => (b.queue, b.id)).eraseDups

/-- Whether every block of an MPDU has been acknowledged. -/
def TxMpdu.allAcked (m : TxMpdu) : Bool := m.blocks.all (·.acked)

/-- A committed frame no longer carries an MPDU.  One whose queue was flushed meanwhile completes with the last such frame: DESIGN
CHOICE (log entry 209): with OK where every block was acknowledged, else with REFUSED (R276). -/
def TxMpdu.leaves (m : TxMpdu) : TxMpdu :=
  let m := { m with inFrames := m.inFrames - 1 }
  if m.flushed ∧ !m.committed then m.finish (if m.allAcked ∧ m.blocks ≠ [] then Status.ok else Status.refused).code else m

/-- A frame no longer carries its MPDUs. -/
def Chip.unframe (c : Chip) (f : TxFrame) : Chip := f.mpdus.foldl (fun c m => c.onMpdu m.1 m.2 TxMpdu.leaves) c

/-- The epochs in which a broadcast must be sent in a group now: in its straggle window the previous one too (R107). -/
def Chip.epochsIn (c : Chip) (n : Lane) : List EpochSet :=
  match c.wheel.active, c.wheel.prev with
  | some ch, some pv =>
    if (c.group n).switched ∧ turnBefore (c.turn n) (turnAdd ch.s ch.w) then [c.wheel.cur, pv] else [c.epochIn n]
  | _, _ => [c.epochIn n]

/-- Whether the epoch that EPSEL names admits sending in epoch `e`: a later one is waited for (log entry 69). -/
def epochFits (target : Option Nat) (e : Nat) : Bool :=
  match target with
  | some t => t == e
  | none => true

/-- Whether the named epoch has passed when epoch `e` is in force. -/
def epochPassed (target : Option Nat) (e : Nat) : Bool :=
  match target with
  | some t => decide (1 ≤ (e + 256 - t) % 256 ∧ (e + 256 - t) % 256 < 128)
  | none => false

/-- Whether a broadcast has been sent in every group that runs, in every epoch it requires there (R107, R283). -/
def Chip.broadcastDone (c : Chip) (m : TxMpdu) : Bool :=
  !m.sentIn.isEmpty && Lane.all.all fun n => !c.running n || (c.epochsIn n).all fun e =>
    !epochFits m.target e.num || m.sentIn.contains (256 * n.num + e.num)

/-- The frame has left its ports: its blocks count as sent; a broadcast is noted for its group and epoch, and completes once
it has been sent wherever it must be (R215, R283). -/
def Chip.blocksSent (c : Chip) (n : Lane) (f : TxFrame) : Chip :=
  let c := f.owned.foldl (fun c b => c.onMpdu b.queue b.id fun m =>
    let tries := (m.blocks.getD b.bidx ⟨0, false⟩).tries + 1
    { m with blocks := m.blocks.set b.bidx { tries, acked := (m.blocks.getD b.bidx ⟨0, false⟩).acked }, lastTries := tries }) c
  if f.slot ≠ 0 then c
  else f.mpdus.foldl (fun c p =>
    let c := c.onMpdu p.1 p.2 fun m => { m with sentIn := (256 * n.num + f.epoch.num) :: m.sentIn }
    let c := match c.mpdu p.1 p.2 with
      | some m => if c.broadcastDone m then c.onMpdu p.1 p.2 fun m => m.finish Status.ok.code else c
      | none => c
    c.onMpdu p.1 p.2 TxMpdu.leaves) c

/-- Count an abandoned MPDU (R214, R215). -/
def Chip.countAbandon (c : Chip) (slot : Nat) : Chip :=
  ((c.count F.MAC_LOSSES_ABANDON 1).raise .mac 1).onNbr slot fun e => { e with abandon := satAdd 16 e.abandon 1 }

/-- The exchange of a unicast frame has ended with the bitmap `bmap` (all 0 without an acknowledgement): acknowledged blocks
are done, an MPDU with none left completes with OK, one with a block sent MAXATT times in vain is abandoned with TIMEOUT,
the others are re-sent (R213 to R215). -/
def Chip.settleExchange (c : Chip) (f : TxFrame) (bmap : Nat) : Chip :=
  let c := f.blocks.zipIdx.foldl (fun c b =>
    if bmap.testBit b.2 then c.onMpdu b.1.queue b.1.id fun m =>
      { m with blocks := m.blocks.set b.1.bidx { m.blocks.getD b.1.bidx ⟨0, false⟩ with acked := true } }
    else c) c
  let c := c.unframe f
  let maxatt := c.get F.MAC_RSCFG_MAXATT
  f.mpdus.foldl (fun c p =>
    match c.mpdu p.1 p.2 with
    | none => c
    | some m =>
      if m.status.isSome then c
      else if m.allAcked then c.onMpdu p.1 p.2 fun m => m.finish Status.ok.code
      else if m.blocks.any fun b => !b.acked && decide (maxatt ≤ b.tries) then
        (c.onMpdu p.1 p.2 fun m => m.finish Status.timeout.code).countAbandon f.slot
      else c) c

/-- Whether a frame expects an answer: an acknowledgement, or the reply to a SOUND. -/
def TxFrame.expects (f : TxFrame) : Bool :=
  match f.fc.body with
  | .data _ _ _ _ _ _ _ _ _ _ ackreq _ => ackreq
  | .sound _ _ _ _ rsp => rsp
  | _ => false

/-- GI code of a frame's payload; frames without one are given 0. -/
def Fc.gi (f : Fc) : Nat :=
  match f.body with
  | .data gi .. => gi
  | .beacon gi .. => gi
  | .grant gi .. => gi
  | .sound gi .. => gi
  | _ => 0

end Sys2Proof.Machine
end

