-- ==== Sys2Proof/Machine/Chain.lean ====
section
/-!
DEFINITION. What a port sends (R53, R55, R57, R58, R65, R70 to R76, R79, R112 to R119, R125 to R127, R130, R132, R136, R146): the
stages of Table 4-1 from coded bits to the samples of the DAC, as a function of a frame and the settings fixed for it.
-/
namespace Sys2Proof.Machine

/-- A value (i + jq) / √norm. -/
structure Pt where
  i : Int
  q : Int
  norm : Nat
deriving DecidableEq, Repr

/-- A real value. -/
def Pt.real (x : Int) : Pt := ⟨x, 0, 1⟩

/-- What a port sends on a carrier: `pt` with its phase turned by `turn` turns, attenuated by `atten` dB, times `weight` / 655,360,
which is first scaled to magnitude 1.0 where it exceeds that (R113, R126, R127). -/
structure Tone where
  pt : Pt
  turn : Rat
  atten : Nat
  weight : Int × Int
deriving DecidableEq, Repr

/-- A symbol of a frame: a short symbol S1 to S12, an FC symbol (0 or 1), a symbol of an extension pair, a payload symbol, a
sounding symbol (R56). -/
inductive TxSym
  | short (s : Nat)
  | fc (j : Nat)
  | ext (k j : Nat)
  | payload (i : Nat)
  | sound (i : Nat)
deriving DecidableEq, Repr

/-! Payload (R70, R71, R73 to R75). -/

/-- GI, MODE, RATE and BT of a frame's payload (Table 2-7); beacons are at rate 1/2. -/
def FcBody.payload : FcBody → Nat × Nat × Nat × Nat
  | .data gi mode rate _ _ _ bt _ _ _ _ _ => (gi, mode, rate, bt)
  | .beacon gi mode _ _ bt _ _ _ => (gi, mode, 0, bt)
  | .sound gi _ _ _ _ => (gi, 0, 0, 0)
  | _ => (0, 0, 0, 0)

/-- The coded bits of a frame's blocks, in block order (R70, R71). -/
def TxFrame.coded (f : TxFrame) : List Bool :=
  let p := f.fc.body.payload
  f.blocks.flatMap fun b => codeBlock p.2.2.2 p.2.2.1 (blockBits p.2.2.2 (BlkHdr.ofWord b.word) b.data)

/-- Coded bits cut into symbols of capacity `cap i`, completed with p0, p1 … (R71).  DESIGN CHOICE (log entry 187): where the fixed
length of a full-duplex frame leaves several symbols unused (R267), the sequence starts again at p0 in each of them. -/
def cutSymbols (cap : Nat → Nat) : Nat → Nat → List Bool → List (List Bool)
  | 0, _, _ => []
  | k + 1, i, bs =>
    let part := bs.take (cap i)
    (part ++ refBits (cap i - part.length)) :: cutSymbols cap k (i + 1) (bs.drop (cap i))

/-- Points of the data carriers of a tone-mapped symbol, loaded in increasing frequency by their codes (R72, R73). -/
def loadCarriers : List Nat → List Bool → List Pt
  | [], _ => []
  | k :: ks, bs =>
    let m := loadBits k
    let x := constPoint k (bs.take m)
    ⟨x.1, x.2, loadNorm k⟩ :: loadCarriers ks (bs.drop m)

/-- Number of a data carrier (R51). -/
def dataIndex (k : Nat) : Nat := 39 * ((k - 40) / 40) + (k - 40) % 40 - 1

/-- The value of carrier `k` of a payload symbol with coded bits `bs`: pilots and fill carriers carry v(k) (R53, R71, R75). -/
def payloadPt (bp mode : Nat) (codes : List Nat) (bs : List Bool) (k : Nat) : Pt :=
  if isPilot k then .real (refValue k)
  else if mode = 0 then (loadCarriers codes (wedge bs 0)).getD (dataIndex k) (.real 0)
  else match (repPlace (dataCarriersOf bp) mode bs).get? (dataIndex k) with
    | some z => .real z
    | none => .real (refValue k)

/-- Whether carrier `k` lies in a profile's band. -/
def inBand (bp k : Nat) : Bool := 40 ≤ k && k < 40 + carriersOf bp

/-- The value of carrier `k` of a symbol before glaze and coupling, and its phase in turns (stages 1 to 5 of Table 4-1); none for
a carrier that carries no energy.  `codes i` are the loading codes of payload symbol `i`, in order of the data carriers. -/
def TxFrame.value (f : TxFrame) (codes : Nat → List Nat) (sym : TxSym) (k : Nat) : Option (Pt × Rat) :=
  let bp := f.fc.bp
  let p := f.fc.body.payload
  match sym with
  | .short s => (preamblePhase bp k).map fun a => (⟨8 * shortSign s, 0, 8⟩, (a : Rat) / 1000)
  | .fc j => if inBand 2 k then (fcSymbol f.fc.word j)[k - 40]?.map fun z => (.real z, 0) else none
  | .ext e j => if inBand 2 k then (fcSymbol (pairWord f.recs e) j)[k - 40]?.map fun z => (.real z, 0) else none
  | .sound _ => if inBand bp k then some (.real (refValue k), 0) else none
  | .payload i =>
    if !inBand bp k then none
    else
      let cap (i : Nat) : Nat := symbolCap p.2.1 (dataCarriersOf bp) (codes i)
      let x := payloadPt bp p.2.1 (codes i) ((cutSymbols cap (i + 1) 0 f.coded).getD i []) k
      if x.i = 0 ∧ x.q = 0 then none else some (x, 0)

/-! Coupling (R79, R125 to R127, R130, R132). -/

/-- The weight of port `p` on carrier `k`, times 40, from the words of a set (R127). -/
def weightAt (w : NatMap Nat) (sherds p k : Nat) : Int × Int :=
  let s := (k - 40) / 40
  let word (s : Nat) : Nat := w.getD (1 + 3 * s + (p - 1)) 0
  let part (s : Nat) : Int × Int := (toSigned 16 (word s), toSigned 16 (word s / 2 ^ 16))
  if s + 1 < sherds then
    let a := part s
    let b := part (s + 1)
    let d : Int := ((k - 40) % 40 : Nat)
    (a.1 * 40 + (b.1 - a.1) * d, a.2 * 40 + (b.2 - a.2) * d)
  else ((part s).1 * 40, (part s).2 * 40)

/-- The first working port from `p` on, in the order 1, 2, 3, 1 (R132). -/
def nextPort (working p : Nat) : Nat :=
  ([0, 1, 2].map fun d => (p - 1 + d) % 3 + 1).find? (fun q => working.testBit (q - 1)) |>.getD p

/-- The port that sends carrier `k` of a REP6 frame with three-phase coupling: that of its copy, or of the nearest data carrier above
it (R130).  DESIGN CHOICE (log entry 183): a preamble, FC or extension carrier that is itself a data carrier position goes by its
own. -/
def rep6Carrier (bp working k : Nat) : Nat :=
  let nd := dataCarriersOf bp
  let d := if isPilot k then dataIndex (k + 1) else dataIndex k
  nextPort working (rep6Port (min (min d (nd - 1) / (nd / 6)) 5))

/-- How port `p` takes part in carrier `k` of a symbol: the turn of its phase and its weight times 655,360, or none where it sends
zero there. -/
def TxFrame.coupling? (f : TxFrame) (x : TxSet) (sym : TxSym) (p k : Nat) : Option (Rat × (Int × Int)) :=
  let one : Int × Int := (655360, 0)
  let rot : Rat := -(((k * (p - 1) * x.cdd % 8192 : Nat) : Rat) / 8192)
  if !x.working.testBit (p - 1) || !f.coupled.contains p || !f.txports.testBit (p - 1) then none
  else match sym, f.fc.body, f.coupling with
    | .sound i, .sound _ _ 1 phase _, _ => if soundPort 1 phase i = p then some (0, one) else none
    | _, _, .single _ => some (0, one)
    | _, _, .same => some (0, one)
    | _, _, cp =>
      if f.fc.body.payload.2.1 = 2 then (if rep6Carrier f.fc.bp x.working k = p then some (0, one) else none)
      else match cp, x.weights with
        | .weights _, some w => some (0, weightAt w (sherdsOf f.fc.bp) p k)
        | _, _ => some (rot, one)

/-- What port `p` sends on carrier `k` of a symbol, before the IFFT (stages 1 to 7 of Table 4-1); none for zero: an off carrier is
zero in every symbol (R113). -/
def TxFrame.tone (f : TxFrame) (x : TxSet) (codes : Nat → List Nat) (sym : TxSym) (p k : Nat) : Option Tone :=
  let t := x.tables.getD (p - 1) 0
  let a := attenIn (fun w => (x.glaze.getD (p - 1) []).getD w (glazeDefault t w)) k
  match f.value codes sym k, f.coupling? x sym p k with
  | some v, some u => if a = 63 then none else some { pt := v.1, turn := v.2 + u.1, atten := a, weight := u.2 }
  | _, _ => none

/-! Values and samples (R55, R57, R112 to R119, R136, R146). -/

/-- A weight in units of 1 / 655,360, scaled to magnitude 1.0 where it exceeds that (R127). -/
def clampWeight (w : Int × Int) : Cx :=
  let x : Cx := ⟨(w.1 : Rat) / 655360, (w.2 : Rat) / 655360⟩
  if 655360 * 655360 < w.1 * w.1 + w.2 * w.2 then Cx.scale (1 / Config.root x.power) x else x

/-- The value of a tone, in carrier units (R113, R126, R127, R146). -/
def Tone.value (x : Tone) : Cx :=
  let pt : Cx := Cx.scale (1 / Config.root x.pt.norm) ⟨x.pt.i, x.pt.q⟩
  Cx.scale (gainOf (-(x.atten : Rat))) (((pt.mul (Cx.turn x.turn))).mul (clampWeight x.weight))

/-- What port `p` sends on carrier `k` after stages 6 and 7, 0 where it sends nothing (R136, R146). -/
def TxFrame.sent (f : TxFrame) (x : TxSet) (codes : Nat → List Nat) (sym : TxSym) (p k : Nat) : Cx :=
  ((f.tone x codes sym p k).map Tone.value).getD ⟨0, 0⟩

/-- Taps of the FIR of port `p`'s glaze table, 0 to 63 (Table 4-2). -/
def TxSet.taps (x : TxSet) (p : Nat) : List Rat :=
  let t := x.tables.getD (p - 1) 0
  let word (w : Nat) : Nat := (x.glaze.getD (p - 1) []).getD w (glazeDefault t w)
  (List.range 32).flatMap fun m =>
    [(toSigned 16 (word (793 + m)) : Rat) / 32768, (toSigned 16 (word (793 + m) / 2 ^ 16) : Rat) / 32768]

/-- The gain of stage 13, 10^(EFF/20), EFF being in 0.25 dB (R115). -/
def TxSet.gain (x : TxSet) (p : Nat) : Rat := gainOf ((x.eff.getD (p - 1) 0 : Rat) / 4)

/-- F(k): the response of port `p`'s FIR at carrier `k`, at 204.8 MS/s (R119, R146). -/
def TxSet.response (x : TxSet) (p k : Nat) : Cx :=
  Cx.sum ((x.taps p).zipIdx.map fun e => Cx.scale e.1 (Cx.turn (-((k * e.2 : Nat) : Rat) / 16384)))

/-- X'(k): the transmitted value of port `p` on carrier `k` (R146). -/
def TxFrame.transmitted (f : TxFrame) (x : TxSet) (codes : Nat → List Nat) (sym : TxSym) (p k : Nat) : Cx :=
  Cx.scale (x.gain p) ((f.sent x codes sym p k).mul (x.response p k))

/-! Times (R56, R133). -/

/-- Ticks from a frame's start to that of one of its symbols, for the GI code of its payload (R56, R57, R58, R65). -/
def TxSym.offset (gi : Nat) : TxSym → Nat
  | .short s => 1024 * (s - 1)
  | .fc j => preambleTicks + 12288 * j
  | .ext k j => headTicks + 24576 * k + 12288 * j
  | .payload i => headTicks + i * tsTicks gi
  | .sound i => headTicks + i * tsTicks gi

/-- GI code of a symbol: FC and extension symbols use code 3 (R58, R65). -/
def TxSym.giCode (gi : Nat) : TxSym → Nat
  | .payload _ => gi
  | .sound _ => gi
  | _ => 3

/-- Guard interval of a symbol in ticks; short symbols have none (R57). -/
def TxSym.guard (gi : Nat) : TxSym → Nat
  | .short _ => 0
  | s => giTicks (s.giCode gi)

/-- Length of a symbol in ticks, without its postfix. -/
def TxSym.length (gi : Nat) : TxSym → Nat
  | .short _ => 1024
  | s => 8192 + s.guard gi

/-- Tick at the coupler at which a symbol of a frame starts (R133). -/
def TxFrame.symStart (f : TxFrame) (sym : TxSym) : Nat := f.t0 + sym.offset f.fc.body.payload.1

/-- Guard interval of a symbol of a frame. -/
def TxFrame.symGuard (f : TxFrame) (sym : TxSym) : Nat := sym.guard f.fc.body.payload.1

/-- Length of a symbol of a frame. -/
def TxFrame.symLength (f : TxFrame) (sym : TxSym) : Nat := sym.length f.fc.body.payload.1

/-- The payload or sounding symbols of a frame's body (Table 2-3). -/
def FcBody.payloadSyms (b : FcBody) : List TxSym :=
  match b with
  | .data _ _ _ _ nsym .. => (List.range nsym).map .payload
  | .beacon _ _ nsym .. => (List.range nsym).map .payload
  | .sound _ nsnd .. => (List.range nsnd).map .sound
  | _ => []

/-- The symbols of a frame in order (Table 2-3). -/
def TxFrame.symbols (f : TxFrame) : List TxSym :=
  let pairs : Nat := match f.fc.body with
    | .grant _ _ nusr _ _ _ => npair nusr
    | .groupAck nusr _ _ => npair nusr
    | _ => 0
  (List.range 12).map (fun s => .short (s + 1)) ++ [.fc 0, .fc 1]
    ++ ((List.range pairs).flatMap fun e => [.ext e 0, .ext e 1]) ++ f.fc.body.payloadSyms

/-- The carriers of a symbol by their number, with values that `v` gives. -/
def TxFrame.carriers (f : TxFrame) (v : Nat → Cx) : List (Nat × Cx) :=
  (List.range (carriersOf f.fc.bp)).map fun j => (40 + j, v (40 + j))

/-- A frame in time, `m` ticks after its start: IFFT, cyclic prefix and postfix, and raised-cosine window of its symbols, where the
postfix of each overlaps the prefix of the next (R55, R57; stages 8 and 9).  `v` gives the values of a symbol's carriers. -/
def TxFrame.inTime (f : TxFrame) (v : TxSym → Nat → Cx) (m : Rat) : Rat :=
  ratSum (f.symbols.map fun sym =>
    let at' : Rat := m - ((f.symStart sym - f.t0 : Nat) : Rat)
    let w := match sym with
      | .short s => shortWindow s at'
      | _ => symWindow (f.symLength sym) at'
    if w = 0 then 0 else w * unitVolt * carriersAt (f.carriers (v sym)) (at' - f.symGuard sym))

/-- The same at 204.8 MS/s, `h` half ticks after the start: the samples at the profile's rate, interpolated (R118; stages 10 and 11). -/
def TxFrame.interpolated (f : TxFrame) (v : TxSym → Nat → Cx) (h : Int) : Rat :=
  let l : Int := 2 * rateStep f.fc.bp
  let taps := Config.interpolator f.fc.bp
  ratSum (taps.zipIdx.map fun e =>
    let u : Int := h + (taps.length / 2 : Nat) - e.2
    if u % l = 0 then e.1 * f.inTime v ((u : Rat) / 2) else 0)

/-- Volts of port `p` at the input of the DAC, `h` half ticks after the frame's start: FIR and port gain (R115, R119; stages 12 and 13). -/
def TxFrame.volts (f : TxFrame) (x : TxSet) (codes : Nat → List Nat) (p : Nat) (h : Int) : Rat :=
  x.gain p * ratSum ((x.taps p).zipIdx.map fun e => e.1 * f.interpolated (fun sym k => f.sent x codes sym p k) (h - e.2))

/-- What the 14-bit DAC of port `p` puts out: clipped to full scale (R117; stage 14). -/
def TxFrame.output (f : TxFrame) (x : TxSet) (codes : Nat → List Nat) (p : Nat) (h : Int) : Rat :=
  dacOut 14 txFullScale (f.volts x codes p h)

/-- Symbols of a frame with a clipped sample on port `p` (R117). -/
def TxFrame.clipSymbols (f : TxFrame) (x : TxSet) (codes : Nat → List Nat) (p : Nat) : Nat :=
  (f.symbols.filter fun sym => (List.range (2 * f.symLength sym)).any fun j =>
    beyond txFullScale (f.volts x codes p (2 * (f.symStart sym - f.t0) + j : Nat))).length

/-- Loading codes of the payload symbols of a frame, by the map of the facet in which each starts (R94, R114). -/
def Chip.txCodes (c : Chip) (n : Lane) (f : TxFrame) (x : TxSet) (i : Nat) : List Nat :=
  match x.maps.bind fun m => c.mapOf n m (c.facetAt n (f.symStart (.payload i))) with
  | some t => t.dataCodes
  | none => []

/-- PSD of carrier `k` at the coupler in units of 0.05 dBm/Hz: -78 dBm/Hz + DRVGAIN + EFF - a(k) (R115). -/
def psdAt (drvgain eff : Int) (a : Nat) : Int := -1560 + 2 * drvgain + 5 * eff - 20 * a

/-- Tick at which a symbol leaves the pins of port `p` (R133). -/
def TxFrame.pinStart (f : TxFrame) (x : TxSet) (p : Nat) (sym : TxSym) : Int := (f.symStart sym : Int) - x.txdly.getD (p - 1) 0

end Sys2Proof.Machine
end

