-- ==== Sys2Proof/Machine/EchoMath.lean ====
section
/-!
DEFINITION. The canceller's arithmetic (R146 to R148, R151, R162): coefficients and their words, the replica in time, and the GX8's own
symbol that the digital stage takes away.
-/
namespace Sys2Proof.Machine

/-! Coefficients (R147, R162). -/

/-- The value (Re + jIm) × 2^(−e−8) of a coefficient word (R162). -/
def coefOf (w : Nat) : Cx :=
  Cx.scale (1 / (2 ^ (bitField w 28 4 + 8) : Nat)) ⟨toSigned 14 (bitField w 0 14), toSigned 14 (bitField w 14 14)⟩

/-- The mantissas of a value at exponent `e`, each to the nearest. -/
def mantissas (x : Cx) (e : Nat) : Int × Int :=
  let m (a : Rat) : Int := (a * (2 ^ (e + 8) : Nat) + 1 / 2).floor
  (m x.re, m x.im)

/-- The word of a coefficient (R162).  DESIGN CHOICE (log entry 192): the largest exponent at which both mantissas fit, each mantissa
to the nearest, and word 0 for the value 0. -/
def coefWord (x : Cx) : Nat :=
  let fits (e : Nat) : Bool :=
    let m := mantissas x e
    decide (-8192 ≤ m.1 ∧ m.1 ≤ 8191 ∧ -8192 ≤ m.2 ∧ m.2 ≤ 8191)
  let e := ((List.range 16).reverse.find? fits).getD 0
  let m := mantissas x e
  if m = (0, 0) then 0
  else packFields [(14, ofSigned 14 (clampInt (-8192) 8191 m.1)), (14, ofSigned 14 (clampInt (-8192) 8191 m.2)), (4, e)]

/-- Word of the digital matrix for carrier `k`, input `i` (0 to 3) and port `p` (1 to 3) (R162). -/
def digWord (k i p : Nat) : Nat := (k - 40) * 12 + 3 * i + (p - 1)

/-- Word of the replica matrix for sherd `s`. -/
def repWord (s i p : Nat) : Nat := 12 * s + 3 * i + (p - 1)

/-- Â: the replica coefficient of carrier `k`, between those of its sherd and the next, constant in the last sherd of the profile (R127,
R147). -/
def repCoef (m : NatMap Nat) (bp k i p : Nat) : Cx :=
  let s := (k - 40) / 40
  let a := coefOf (m.getD (repWord s i p) 0)
  if s + 1 < sherdsOf bp then a.between (coefOf (m.getD (repWord (s + 1) i p) 0)) ((k - 40) % 40) else a

/-! The GX8's own signal (R136, R146). -/

/-- The ports of a frame on the air that send its symbol: a port that has gone idle sends no symbol that starts later (R144). -/
def AirFrame.sending (a : AirFrame) (sym : TxSym) : List Nat :=
  a.ports.filter fun p => (a.cuts.get? p).all fun t => decide (a.frame.symStart sym < t)

/-- X'(k) of port `p` in a symbol of a frame on the air (R146). -/
def Chip.ownValue (c : Chip) (n : Lane) (a : AirFrame) (sym : TxSym) (p k : Nat) : Cx :=
  match a.frame.set with
  | some x => if (a.sending sym).contains p then a.frame.transmitted x (c.txCodes n a.frame x) sym p k else ⟨0, 0⟩
  | none => ⟨0, 0⟩

/-! The replica (R147). -/

/-- Words of the replica matrix that a frame runs on: a training frame's phase B takes the shadow bank, any other symbol the bank the
frame keeps (R149, R151). -/
def Chip.repBank (c : Chip) (n : Lane) (a : AirFrame) (phaseB : Bool) : NatMap Nat :=
  if phaseB then (c.lane n).echo.repShadow else ((a.frame.set).map (·.rep)).getD []

/-- Sounding symbol from which phase B of a pass runs (R151): after phase A and the guard in a FULL pass, at once in a TRACK pass. -/
def Chip.phaseBFrom (c : Chip) (n : Lane) (kind : Nat) : Nat := if kind = 1 then 3 * c.get (F.ECHO_ECFG_TREP n) + 3 else 0

/-- Whether the replica runs in a symbol of a frame: as ESTAT shows it, and in a training frame in phase B alone of a FULL pass (R147,
R151, R156). -/
def Chip.replicaRuns (c : Chip) (n : Lane) (a : AirFrame) (sym : TxSym) : Bool :=
  !c.flag (F.ECHO_EOVR_NOREP n) && match a.frame.training, sym with
    | 0, _ => c.flag (F.ECHO_ESTAT_REPON n)
    | kind, .sound j => decide (c.phaseBFrom n kind ≤ j)
    | kind, _ => kind == 2

/-- Volts of the replica of input `i` at tick `t` before its DAC: the sum of Â X' over the ports, as a signal in time, RDLY ticks after
the coupler's (R147; log entry 193 on where the delay counts from). -/
def Chip.replicaVolts (c : Chip) (n : Lane) (i : Nat) (a : AirFrame) (t : Int) : Rat :=
  let f := a.frame
  let m : Int := t - c.get (F.ECHO_RDLY_D n i) - f.t0
  f.inTime (fun sym k =>
    if c.replicaRuns n a sym then
      let phaseB := f.training == 1
      Cx.sum ([1, 2, 3].map fun p => (repCoef (c.repBank n a phaseB) f.fc.bp k i p).mul (c.ownValue n a sym p k))
    else ⟨0, 0⟩) m

/-- What the replica DAC of input `i` puts out at tick `t`: 12 bits, clipped to full scale, and 0 while nothing of the group's own is
sent (R147, Table 5-1). -/
def Chip.replicaOut (c : Chip) (n : Lane) (i : Nat) (t : Int) : Rat :=
  dacOut 12 rxFullScale (ratSum ((c.lane n).tx.air.map fun a => c.replicaVolts n i a t))

/-- Whether a replica sample of a frame on the air lies beyond full scale on an input that takes part (R147). -/
def Chip.replicaBeyond (c : Chip) (n : Lane) (a : AirFrame) : Bool :=
  let runs := a.frame.symbols.any (c.replicaRuns n a)
  runs && ([0, 1, 2, 3].filter fun i => c.inputUsed n (i + 1)).any fun i =>
    (List.range (a.frame.fc.body.ticks + rampTicks)).any fun m =>
      beyond rxFullScale (c.replicaVolts n i a ((a.frame.t0 + m + c.get (F.ECHO_RDLY_D n i) : Nat) : Int))

/-! The digital stage (R148). -/

/-- Ticks that a span of `len` ticks from `w` shares with one of `len'` from `s`. -/
def sharedTicks (w : Int) (len : Nat) (s : Int) (len' : Nat) : Int := max 0 (min (w + len) (s + len') - max w s)

/-- The GX8's own symbol that covers the larger part of an FFT window at the pins, and whether the window lies in its useful part
(R148).  `d` is the delay from the coupler to the pins. -/
def ownSymbol (air : List AirFrame) (d : Nat) (w : Int) (len : Nat) : Option (AirFrame × TxSym × Bool) :=
  let cand := air.flatMap fun a => a.frame.symbols.map fun sym =>
    let s : Int := a.frame.symStart sym + d
    (a, sym, sharedTicks w len s (a.frame.symLength sym), decide (s ≤ w ∧ w + len ≤ s + a.frame.symLength sym))
  (cand.foldl (fun (b : Option (AirFrame × TxSym × Int × Bool)) e =>
    if e.2.2.1 ≤ 0 then b
    else match b with
      | some x => if x.2.2.1 < e.2.2.1 then some e else some x
      | none => some e) none).map fun e => (e.1, e.2.1, e.2.2.2)

/-- What the digital stage takes from carrier `k` of input `i` in a window at `w` whose phases count from `origin` (R148): the sum of
D X' of the own symbol that covers it. -/
def Chip.digitalEcho (c : Chip) (n : Lane) (i : Nat) (w : Int) (len : Nat) (origin : Int) (k : Nat) : Cx :=
  match ownSymbol (c.lane n).tx.air (c.get (F.RXP_RXDLY_DELAY n)) w len with
  | none => ⟨0, 0⟩
  | some (a, sym, _) =>
    let bank : NatMap Nat := (a.frame.set.map (·.dig)).getD []
    let g0 : Int := a.frame.symStart sym + a.frame.symGuard sym
    (Cx.sum ([1, 2, 3].map fun p => (coefOf (bank.getD (digWord k i p) 0)).mul (c.ownValue n a sym p k))).mul
      (Cx.turn ((k : Rat) * (origin - g0) / 8192))

/-- Whether the digital stage runs for a window: as ESTAT shows it, and in a training frame only in a TRACK pass (R151, R156). -/
def Chip.digitalRuns (c : Chip) (n : Lane) (w : Int) (len : Nat) : Bool :=
  !c.flag (F.ECHO_EOVR_NODIG n) && match ownSymbol (c.lane n).tx.air (c.get (F.RXP_RXDLY_DELAY n)) w len with
    | none => false
    | some (a, _, _) => if a.frame.training = 0 then c.flag (F.ECHO_ESTAT_DIGON n) else a.frame.training == 2

end Sys2Proof.Machine
end

