-- ==== Sys2Proof/Machine/RxChain.lean ====
section
/-!
DEFINITION. What a lane makes of the samples of its inputs (R138, R140, R146, R165 to R167, R171 to R173, R175 to R181, R194, R206,
R234): pin-referred samples, carriers, the preamble's estimate, combining, the FC, levels and the detection metric.
-/
namespace Sys2Proof.Machine

/-! Samples (R138). -/

/-- The code of input `i` (0 to 3) at a tick, where it was told. -/
def Capture.code? (x : Capture) (i : Nat) (t : Int) : Option Int :=
  if t < x.start then none else (x.inputs.getD i [])[(t - x.start).toNat]?

/-- Ticks of a capture. -/
def Capture.span (x : Capture) : Nat := (x.inputs.map List.length).foldl max 0

/-- Samples that follow those kept; ticks that neither tells read as no sample's code 0. -/
def Capture.join (old : Option Capture) (x : Capture) : Capture :=
  match old with
  | none => x
  | some o =>
    let start := min o.start x.start
    let stop := max (o.start + o.span) (x.start + x.span)
    { start, inputs := (List.range 4).map fun i => (List.range (stop - start)).map fun m =>
        let t : Int := (start + m : Nat)
        ((x.code? i t).orElse fun _ => o.code? i t).getD 0 }

/-- The samples of a reception kept, with those told now (R165). -/
def Rx.keep (r : Rx) (x : Option Capture) : Rx :=
  { r with kept := match x with
    | some x => some (Capture.join r.kept x)
    | none => r.kept }

/-- The last `k` ticks of a capture. -/
def Capture.last (x : Capture) (k : Nat) : Capture :=
  let cut := x.span - k
  { start := x.start + cut, inputs := x.inputs.map (·.drop cut) }

/-- PGA codes and the freeze as they stood at tick `t`. -/
def Chip.codesAt (c : Chip) (n : Lane) (t : Int) : Nat :=
  let a := (c.lane n).rx.agc
  ((a.trace.find? fun e => decide ((e.1 : Int) ≤ t)).map (·.2)).getD (packCodes a.codes a.frozen)

/-- The code of one input of a packed entry. -/
def codeOf (w i : Nat) : Nat := bitField w (7 * i) 7

/-- The code of input `i` (0 to 3) after factory correction: without the factory offset and with the factory gain correction (R138 stages
6 and 7, R158; log entry 197 on what the fused gain corrects). -/
def Chip.corrected (c : Chip) (n : Lane) (x : Capture) (i : Nat) (t : Int) : Option Rat :=
  (x.code? i t).map fun a =>
    let w := (c.afeTrim n i).getD 0
    ((a - toSigned 12 (bitField w 16 12) : Int) : Rat) * gainOf ((toSigned 12 (bitField w 0 12) : Rat) / 100)

/-- Volts at the pins of input `i`: the corrected code less the PGA's gain (R138 stages 3 and 5). -/
def Chip.pinVolts (c : Chip) (n : Lane) (code : Int → Nat) (x : Capture) (i : Nat) (t : Int) : Rat :=
  match c.corrected n x i t with
  | none => 0
  | some a => a / 8192 * rxFullScale * gainOf (6 - (code t : Rat) / 2)

/-- The user gain of input `i` as a factor (R160). -/
def Chip.userGain (c : Chip) (n : Lane) (i : Nat) : Rat := gainOf ((c.getInt (F.AFE_UGAIN_GAIN n i) : Rat) / 100)

/-- Whether a code is at either end of the ADC's range (R140). -/
def fullScaleCode (a : Int) : Bool := a == 8191 || a == -8192

/-- Samples of input `i` at full scale from tick `a` up to tick `b`. -/
def Capture.clipped (x : Capture) (i : Nat) (a b : Int) : Nat :=
  ((List.range (b - a).toNat).filter fun m => (x.code? i (a + (m : Nat))).any fullScaleCode).length

/-- The rms level of input `i` over ticks `a` up to `b`, in 0.5 dB above full scale (R167, R171). -/
def Capture.level (x : Capture) (i : Nat) (a b : Int) : Int :=
  halfDecibels (ratMean ((List.range (b - a).toNat).map fun m =>
    let v : Rat := ((x.code? i (a + (m : Nat))).getD 0 : Int) / (8192 : Rat)
    v * v))

/-- Inputs that take part, from 0. -/
def Chip.inputs (c : Chip) (n : Lane) : List Nat := [0, 1, 2, 3].filter fun i => c.inputUsed n (i + 1)

/-! Carriers (R138, R148, R160, R175, R176). -/

/-- A window of `len` ticks of samples of the inputs at tick `w` of the pins: the band profile it is transformed in, and the tick from
which its phases count. -/
structure Win where
  w : Int
  len : Nat
  bp : Nat
  origin : Int

/-- Carrier `k` of input `i` in a window, before and after the digital echo stage (R146, R148, R165). -/
def Chip.pinCarrier (c : Chip) (n : Lane) (code : Int → Nat) (x : Capture) (v : Win) (i k : Nat) : Cx :=
  carrierIn (decimated v.bp (c.pinVolts n code x i)) v.w v.origin (v.len / rateStep v.bp) (rateStep v.bp) k

/-- The same after the digital stage, where it runs. -/
def Chip.cleanCarrier (c : Chip) (n : Lane) (code : Int → Nat) (x : Capture) (v : Win) (i k : Nat) : Cx :=
  let y := c.pinCarrier n code x v i k
  if c.digitalRuns n v.w v.len then y.sub (c.digitalEcho n i v.w v.len v.origin k) else y

/-- What a lane hears a frame by: its samples and the PGA codes they were taken at, the inputs that take part, the tick at the pins at
which it starts, band profile, GI code and window position, the facet whose noise counts, whether it is received in an FD exchange,
its first short symbol that counts, the transforms that failed their check (R384), and the offset of its clock as far as the preamble
shows it. -/
structure Hearing where
  x : Capture
  codes : List Nat
  used : List Nat
  base : Int
  bp : Nat
  gi : Nat
  su : Nat
  facet : Nat
  fd : Bool
  first : Nat
  bad : List (Nat × Nat)
  eps : Rat

/-- The window of a symbol (R175, R176): SU eighths of the guard interval into it, moved by whole ticks as the clock offset adds up. -/
def Hearing.win (h : Hearing) (sym : TxSym) : Win :=
  let t : Int := h.base + (sym.offset h.gi : Nat)
  let bp := match sym with
    | .fc _ => 2
    | .ext _ _ => 2
    | .short _ => 0
    | _ => h.bp
  let g := sym.guard h.gi
  { w := t + (windowStart g h.su : Nat) + windowShift (-(h.eps * (sym.offset h.gi : Nat))),
    len := match sym with
      | .short _ => 1024
      | _ => 8192
    bp, origin := t + (g : Nat) }

/-- The phase in turns that a clock offset has turned carrier `k` by in the middle of a window (R175). -/
def Hearing.drift (h : Hearing) (v : Win) (k : Nat) : Rat :=
  (k : Rat) * h.eps * ((v.w + (v.len / 2 : Nat) - h.base : Int) : Rat) / 8192

/-- The value of carrier `k` of input `i` in a symbol: transformed, less the echo, scaled by the user gain and turned back (R138, R160,
R173, R175). -/
def Chip.heard (c : Chip) (n : Lane) (h : Hearing) (sym : TxSym) (i k : Nat) : Cx :=
  let v := h.win sym
  let y := c.cleanCarrier n (fun _ => h.codes.getD i 0) h.x v i k
  (Cx.scale (c.userGain n i) y).mul (Cx.turn (-(h.drift v k)))

/-! The preamble (R57, R175, R177). -/

/-- Carriers of the preamble in a profile. -/
def preambleCarriers (bp : Nat) : List Nat := (List.range (carriersOf bp / 8)).map fun j => 40 + 8 * j

/-- The value of the preamble on one of its carriers in S1 to S10. -/
def preambleValue (k : Nat) : Cx := Cx.scale (Config.root 8) (Cx.turn (((k / 8) ^ 2 % 1000 : Nat) / 1000))

/-- Short symbols by which a frame's channel is estimated: those whole after the freeze, S7 to S10 in an FD exchange (R172, R173,
R177). -/
def Hearing.shorts (h : Hearing) : List Nat :=
  let a := if h.fd then 7 else h.first
  (List.range (11 - a)).map fun j => a + j

/-- The coarse offset of a frame's clock, from the phase of the numerator of M over S7 to S10 (R175).  DESIGN CHOICE (log entry 194):
over the carriers of those symbols, at their mean carrier by power. -/
def Chip.coarseOffset (c : Chip) (n : Lane) (h : Hearing) : Rat :=
  let ks := preambleCarriers 2
  let terms := h.used.flatMap fun i => [8, 9, 10].flatMap fun s => ks.map fun k =>
    (k, (c.heard n h (.short s) i k).mul (c.heard n h (.short (s - 1)) i k).conj, (c.heard n h (.short s) i k).power)
  let mid := ratSum (terms.map fun e => (e.1 : Rat) * e.2.2) / ratSum (terms.map fun e => e.2.2)
  8 * (Cx.sum (terms.map fun e => e.2.1)).angle / mid

/-- The same hearing once its clock offset is known. -/
def Chip.withOffset (c : Chip) (n : Lane) (h : Hearing) : Hearing := { h with eps := c.coarseOffset n h }

/-- Estimates of input `i` at the preamble's carriers, those of missing carriers left out (R177). -/
def Chip.measured (c : Chip) (n : Lane) (h : Hearing) (i : Nat) : List (Nat × Cx) :=
  let all := (preambleCarriers h.bp).map fun k =>
    (k, preambleEstimate (h.shorts.map fun s => c.heard n h (.short s) i k) (preambleValue k))
  all.filter fun e =>
    let sherd := (all.filter fun o => (o.1 - 40) / 40 == (e.1 - 40) / 40).map fun o => o.2.power
    !carrierMissing (ratMedian sherd) e.2.power

/-- The preamble's estimate of input `i` at carrier `k` (R177). -/
def Chip.preambleAt (c : Chip) (n : Lane) (h : Hearing) (i k : Nat) : Cx := estimateAt (c.measured n h i) k

/-! Combining (R179, R180). -/

/-- Power of a carrier at the value 1 for noise of byte `v`: −170 + 0.5 v dBm/Hz against −78 dBm/Hz (R146, R233). -/
def noisePower (v : Nat) : Rat := Config.ofDecibels ((v : Rat) / 2 - 92)

/-- The byte of a noise power in carrier units (R233). -/
def noiseByte (p : Rat) : Nat := (clampInt 1 255 (halfDecibels p + 184)).toNat

/-- Noise of the inputs `used` on carrier `k` (R179): the mean of the facet's phase, raised in an FD exchange by the residual of the last
pass; where one input has no measurement, the same for all. -/
def Chip.noiseAt (c : Chip) (n : Lane) (facet : Nat) (fd : Bool) (used : List Nat) (k : Nat) : List Rat :=
  let v (i : Nat) : Nat := (c.lane n).tmap.mean.getD (meanKey i (facet % 24) k) 0
  if used.any fun i => v i == 0 then used.map fun _ => Config.equalNoise
  else used.map fun i =>
    let g := c.userGain n i
    let res : Rat := if fd then g * g * Config.ofDecibels (((c.lane n).echo.resid.getD i 0 : Int) / (2 : Rat)) else 0
    noisePower (v i) + res

/-- Samples that clip on each input that takes part within a symbol (R140, R180). -/
def Hearing.clips (h : Hearing) (sym : TxSym) : List Nat :=
  let t : Int := h.base + (sym.offset h.gi : Nat)
  h.used.map fun i => h.x.clipped i t (t + (sym.length h.gi : Nat))

/-- Whether the transform of input `i` in a symbol failed its energy check, which gives it weight 0 there (R384). -/
def Hearing.failed (h : Hearing) (sym : TxSym) (i : Nat) : Bool :=
  let t : Int := h.base + (sym.offset h.gi : Nat)
  h.bad.any fun b => b.1 == i && decide (t ≤ b.2) && decide ((b.2 : Int) < t + (sym.length h.gi : Nat))

/-- The equalised value and SNR of carrier `k` of a symbol for the estimates `est` of the inputs; none where every input is excluded
(R179, R180, R384). -/
def Chip.equalised (c : Chip) (n : Lane) (h : Hearing) (est : Nat → Nat → Cx) (sym : TxSym) (k : Nat) : Option (Cx × Rat) :=
  let xs := ((h.used.zip (h.clips sym)).zip (c.noiseAt n h.facet h.fd h.used k)).map fun e =>
    let i := e.1.1
    (i, e.1.2, ({ h := est i k, r := c.heard n h sym i k, noise := e.2 } : InCarrier))
  let xs := xs.filter fun e => !h.failed sym e.1
  equalise (c.get (F.RXP_RXCTL_COMB n)) (c.get (F.RXP_RXCTL_FIXIN n)) (c.get (F.AFE_OVLCFG_CLIPS n)) xs

/-! The FC (R58, R177, R206). -/

/-- LLR scale of the FC decoder: that of the mode with as many copies (log entry 195). -/
def Chip.fcScale (c : Chip) (n : Lane) : Nat := c.get (F.DEC_LLRCFG_SCALE6 n)

/-- What is heard of a reception from samples `x` of it. -/
def Chip.hearing (c : Chip) (n : Lane) (r : Rx) (x : Capture) (bp gi : Nat) : Hearing :=
  c.withOffset n
    { x := Capture.join r.kept x, codes := r.codes, used := c.inputs n, base := (r.tp + c.get (F.RXP_RXDLY_DELAY n) : Nat), bp, gi,
      su := c.get (F.RXP_WINPOS_SU n), facet := r.facet, fd := r.fd, first := r.first, bad := r.bad,
      eps := 0 }

/-- What a lane decodes of the FC of a reception, with the level of each input over its preamble and FC (R58, R171, R206). -/
def Chip.hearFc (c : Chip) (n : Lane) (r : Rx) (h : Heard FcGot) : FcGot :=
  match h with
  | .made g => g
  | .adc x =>
    let e := c.hearing n r x 2 3
    let glz := (c.epochIn n).glz
    let y (j k : Nat) : Int :=
      if c.carrierOff n glz k then 0 else bpskMetric (c.fcScale n) (c.equalised n e (c.preambleAt n e) (.fc j) k)
    let d := decodePair (pairCoded y)
    { w := d.1, crc := d.2, rms := [0, 1, 2, 3].map fun i => e.x.level i e.base (e.base + (headTicks : Nat)) }

/-! Levels and detection (R167, R170 to R172). -/

/-- The level of each input over the samples told. -/
def hearSpan (h : Heard (List Int)) : List Int :=
  match h with
  | .made l => l
  | .adc x => [0, 1, 2, 3].map fun i => x.level i x.start (x.start + x.span : Nat)

/-- The QUARTER-rate sum of the inputs that take part, at a tick (R172). -/
def Chip.detectSum (c : Chip) (n : Lane) (x : Capture) (t : Int) : Rat :=
  ratSum ((c.inputs n).map fun i => decimated 2 (c.pinVolts n (fun u => codeOf (c.codesAt n u) i) x i) t)

/-- Whether the metric of the window of 2,048 ticks that ends at tick `t` is at or above THR (R172). -/
def Chip.metricAt (c : Chip) (n : Lane) (x : Capture) (t : Int) : Bool :=
  metricHolds (c.get (F.RXP_DETCFG_THR n)) ((List.range 512).map fun j =>
    let u : Int := t - (4 * j : Nat)
    (Cx.real (c.detectSum n x u), Cx.real (c.detectSum n x (u - 1024))))

/-- Correlation of the sum of the inputs with the known short symbol at tick `t` (R172). -/
def Chip.shortMatch (c : Chip) (n : Lane) (x : Capture) (t : Int) : Rat :=
  let ks := (preambleCarriers 2).map fun k => (k, preambleValue k)
  ratSum ((List.range 256).map fun j => c.detectSum n x (t + (4 * j : Nat)) * carriersAt ks ((4 * j : Nat) : Rat))

/-- The start of S11 at the pins: where the sign of the short symbols inverts most clearly, at or after tick `t`, within the ten symbols
before it; the first of equals (R57, R172; log entry 194). -/
def Chip.findS11 (c : Chip) (n : Lane) (x : Capture) (t : Nat) : Nat :=
  let score (s : Nat) : Rat :=
    c.shortMatch n x ((s : Int) - 2048) + c.shortMatch n x ((s : Int) - 1024) - c.shortMatch n x s - c.shortMatch n x ((s : Int) + 1024)
  ((List.range 10241).foldl (fun (b : Nat × Rat) j => if b.2 < score (t + j) then (t + j, score (t + j)) else b) (t, score t)).1

/-- A detection at tick `t`: the metric has held for 1,024 ticks; the answer is the start of S11 at the pins (R172). -/
def Chip.hearDetection (c : Chip) (n : Lane) (t : Nat) (h : Heard Nat) : Option Nat :=
  match h with
  | .made s11 => some s11
  | .adc x => if (List.range 256).all fun j => c.metricAt n x ((t : Int) - (4 * j : Nat)) then some (c.findS11 n x t) else none

/-- What a window of the gain loops shows at tick `t` (R167, R170). -/
def Chip.hearWindow (c : Chip) (n : Lane) (t : Nat) (h : Heard AgcLook) : AgcLook :=
  match h with
  | .made a => a
  | .adc x =>
    { levels := [0, 1, 2, 3].map fun i => x.level i ((t : Int) - (2 ^ c.get (F.AGC_LOOPK_WIN n) : Nat)) t, cand := c.metricAt n x t }

/-- Full-scale samples of an input within the 64 ticks before tick `t` (R167). -/
def hearAttack (t i : Nat) (h : Heard Nat) : Nat :=
  match h with
  | .made k => k
  | .adc x => x.clipped i ((t : Int) - 64) t

end Sys2Proof.Machine
end

