-- ==== Sys2Proof/Machine/EchoHear.lean ====
section
/-!
DEFINITION. What the canceller measures (R151, R152, R154): the residual of a frame that is monitored, the echo of phase A of a training
pass, and its residual in phase B.
-/
namespace Sys2Proof.Machine

/-- Carriers of a frame's band that port `p`'s table does not switch off (R113, R152). -/
def AirFrame.carriersOn (a : AirFrame) (p : Nat) : List Nat :=
  match a.frame.set with
  | some x =>
    let t := x.tables.getD (p - 1) 0
    ((List.range (carriersOf a.frame.fc.bp)).map (40 + ·)).filter fun k =>
      attenIn (fun w => (x.glaze.getD (p - 1) []).getD w (glazeDefault t w)) k != 63
  | none => []

/-- The window in which a lane hears a symbol of its own at the pins; phases count from its useful part at the coupler (R146, log entry
193). -/
def Chip.ownWin (c : Chip) (n : Lane) (a : AirFrame) (sym : TxSym) : Win :=
  let t := a.frame.symStart sym
  { w := (t + c.get (F.RXP_RXDLY_DELAY n) + c.get (F.RXP_WINPOS_SU n) * a.frame.symGuard sym / 8 : Nat), len := 8192,
    bp := a.frame.fc.bp, origin := (t + a.frame.symGuard sym : Nat) }

/-- The PGA code of an input as it stood at a tick. -/
def Chip.codeAt (c : Chip) (n : Lane) (i : Nat) (t : Int) : Nat := codeOf (c.codesAt n t) i

/-! The monitor (R154). -/

/-- Residual of input `i` in a symbol of a frame after the replica and the digital stage: mean power over the carriers that some port
sends. -/
def Chip.residualIn (c : Chip) (n : Lane) (a : AirFrame) (x : Capture) (i : Nat) (sym : TxSym) : Rat :=
  let v := c.ownWin n a sym
  let ks := (a.ports.flatMap a.carriersOn).eraseDups
  ratMean (ks.map fun k => (c.cleanCarrier n (c.codeAt n i) x v i k).power)

/-- The median residual of each input over the first MONSYM payload symbols of a frame, in 0.5 dB (R154). -/
def Chip.hearResid (c : Chip) (n : Lane) (a : AirFrame) (h : Heard (List Int)) : List Int :=
  match h with
  | .made r => r
  | .adc x => [0, 1, 2, 3].map fun i =>
    halfDecibels (ratMedian ((a.frame.fc.body.payloadSyms.take (c.get (F.ECHO_MON_MONSYM n))).map (c.residualIn n a x i)))

/-! Training (R151, R152). -/

/-- What input `i` hears of sounding symbol `j` on carrier `k`, against what its port sends: echo over X' (R146). -/
def Chip.echoRatio (c : Chip) (n : Lane) (a : AirFrame) (x : Capture) (i k j : Nat) : Cx :=
  (c.pinCarrier n (c.codeAt n i) x (c.ownWin n a (.sound j)) i k).div (c.ownValue n a (.sound j) (j % 3 + 1) k)

/-- Sounding symbols `from`, `from` + 3, … that port `p` sends among `reps` repetitions. -/
def soundsOf (start reps p : Nat) : List Nat := (List.range reps).map fun r => start + 3 * r + (p - 1)

/-- H of a port and input at carrier `k`: the mean over the port's symbols of phase A (R151). -/
def Chip.pathAt (c : Chip) (n : Lane) (a : AirFrame) (x : Capture) (i p k : Nat) : Cx :=
  Cx.mean ((soundsOf 0 (c.get (F.ECHO_ECFG_TREP n)) p).map (c.echoRatio n a x i k))

/-- H by carrier, for those that the port sends. -/
def Chip.pathOf (c : Chip) (n : Lane) (a : AirFrame) (x : Capture) (i p : Nat) : List (Nat × Cx) :=
  (a.carriersOn p).map fun k => (k, c.pathAt n a x i p k)

/-- Ticks, 0 to 255, by which the strongest path of input `i` is late: where the channels of the ports, taken in time, have most power;
the first of equals (R151). -/
def Chip.strongestDelay (c : Chip) (n : Lane) (a : AirFrame) (x : Capture) (i : Nat) : Nat :=
  let power (d : Nat) : Rat := ratSum (a.ports.map fun p =>
    (Cx.sum ((c.pathOf n a x i p).map fun e => e.2.mul (Cx.turn ((e.1 * d : Nat) / 8192)))).power)
  ((List.range 256).foldl (fun (b : Nat × Rat) d => if b.2 < power d then (d, power d) else b) (0, power 0)).1

/-- What phase A of a FULL pass yields: A = H at each sherd's pilot, counted from the strongest path, and the delays of the strongest
paths (R151, log entry 193). -/
def Chip.hearGuard (c : Chip) (n : Lane) (a : AirFrame) (h : Heard GuardLook) : GuardLook :=
  match h with
  | .made g => g
  | .adc x =>
    let delays := [0, 1, 2, 3].map (c.strongestDelay n a x)
    { delays
      words := (c.inputs n).flatMap fun i => a.ports.flatMap fun p => (List.range (sherdsOf a.frame.fc.bp)).map fun s =>
        let k := 40 + 40 * s
        (repWord s i p, coefWord ((estimateAt (c.pathOf n a x i p) k).mul (Cx.turn ((k * delays.getD i 0 : Nat) / 8192)))) }

/-- D of a port and input at carrier `k` from the symbols of phase B that `js` names (R151). -/
def Chip.digAt (c : Chip) (n : Lane) (a : AirFrame) (x : Capture) (i k : Nat) (js : List Nat) : Cx :=
  Cx.mean (js.map (c.echoRatio n a x i k))

/-- The mean noise power of input `i` over carriers, from the phase of the QUIET facet measured last; none where one is not measured (R152).
-/
def Chip.quietNoise (c : Chip) (n : Lane) (i : Nat) (ks : List Nat) : Option Rat :=
  (c.lane n).tmap.quietPh.bind fun ph =>
    let vs := ks.map fun k => (c.lane n).tmap.mean.getD (meanKey i ph k) 0
    if vs.isEmpty || vs.contains 0 then none else some (ratMean (vs.map noisePower) / (c.userGain n i * c.userGain n i))

/-- The measures of input `i` in a pass of kind 1 or 2: `kept` are the samples of phase A, `x` those of phase B (R152). -/
def Chip.passInput (c : Chip) (n : Lane) (a : AirFrame) (kind : Nat) (kept x : Capture) (i : Nat) : PassInput :=
  let reps := c.get (F.ECHO_ECFG_TREP n)
  let js (p r : Nat) : List Nat := ((soundsOf (c.phaseBFrom n kind) reps p).zipIdx.filter fun e => e.2 % 2 == r).map Prod.fst
  let pk := a.ports.flatMap fun p => (a.carriersOn p).map fun k => (p, k)
  let path := pk.map fun e => ((c.pathAt n a kept i e.1 e.2).power, e.1)
  let pre (r : Nat) : Rat := ratMean (pk.flatMap fun e => (js e.1 r).map fun j => (c.echoRatio n a x i e.2 j).power)
  let post (unit : Bool) : Rat := ratMean (pk.flatMap fun e =>
    let d := c.digAt n a x i e.2 (js e.1 0)
    (js e.1 1).map fun j =>
      let z := (c.echoRatio n a x i e.2 j).sub d
      (if unit then z else z.mul (c.ownValue n a (.sound j) e.1 e.2)).power)
  { hyb := (-(halfDecibels (ratMean (path.map fun e => e.1 / Config.ofDecibels ((c.getInt (F.TXP_PGAIN_DRVGAIN n (e.2 - 1)) : Rat) / 10))))).toNat
    rep := (halfDecibels (ratMean (path.map Prod.fst) / ((pre 0 + pre 1) / 2))).toNat
    dig := (halfDecibels (pre 1 / post true)).toNat
    resn := (c.quietNoise n i (pk.map Prod.snd).eraseDups).map fun q => halfDecibels (post false / q)
    resid := halfDecibels (post false) }

/-- What a training pass yields: the measures of the inputs, the words of the new digital matrix, over the band of its frame, and
whether an ADC clipped in phase A (R151 to R153). -/
def Chip.hearPass (c : Chip) (n : Lane) (a : AirFrame) (kind : Nat) (kept : Option Capture) (h : Heard PassLook) : PassLook :=
  match h with
  | .made l => l
  | .adc x =>
    let kept := kept.getD x
    let reps := c.get (F.ECHO_ECFG_TREP n)
    let live : NatMap Nat := (a.frame.set.map (·.dig)).getD []
    { ins := [0, 1, 2, 3].map (c.passInput n a kind kept x)
      dig := (c.inputs n).flatMap fun i => a.ports.flatMap fun p =>
        let got := (a.carriersOn p).map fun k => (k, c.digAt n a x i k (soundsOf (c.phaseBFrom n kind) reps p))
        (List.range (carriersOf a.frame.fc.bp)).map fun j =>
          let k := 40 + j
          let d := estimateAt got k
          (digWord k i p, coefWord (if kind = 2 then Cx.scale (1 / 2) (d.add (coefOf (live.getD (digWord k i p) 0))) else d))
      clip :=
        let t0 : Int := (a.frame.symStart (.sound 0) + c.get (F.RXP_RXDLY_DELAY n) : Nat)
        let t1 : Int := (a.frame.symStart (.sound (3 * reps)) + c.get (F.RXP_RXDLY_DELAY n) : Nat)
        (c.inputs n).any fun i => kept.clipped i t0 t1 != 0 }

/-- Ports that a training frame has sounded: those that sent each of their symbols (R150, R152). -/
def AirFrame.sounded (a : AirFrame) : Nat :=
  (a.ports.filter fun p => (a.frame.fc.body.payloadSyms.zipIdx.filter fun e => e.2 % 3 + 1 == p).all fun e =>
    (a.sending e.1).contains p).foldl (fun m p => setBit m (p - 1)) 0

end Sys2Proof.Machine
end

