-- ==== Sys2Proof/Machine/Echo.lean ====
section
/-!
DEFINITION. The canceller's banks, training passes and divergence (R147 to R157, R162).
-/
namespace Sys2Proof.Machine

/-- Words of the digital matrix, or of the replica matrix (R162). -/
def matrixWords (replica : Bool) : Nat := if replica then 1188 else 47520

/-- A bank of a matrix. -/
def Echo.bank (e : Echo) (replica shadow : Bool) : NatMap Nat :=
  if replica then (if shadow then e.repShadow else e.repLive) else if shadow then e.digShadow else e.digLive

/-- MADDR.WORD after an access of MDATA. -/
def Chip.maddrNext (c : Chip) (n : Lane) : Chip :=
  let w := c.get (F.ECHO_MADDR_WORD n)
  c.set (F.ECHO_MADDR_WORD n) (if matrixWords (c.flag (F.ECHO_MADDR_MAT n)) ≤ w + 1 then 0 else w + 1)

/-- A read of MDATA. -/
def Chip.readMdata (c : Chip) (n : Lane) : Nat × Chip :=
  (((c.lane n).echo.bank (c.flag (F.ECHO_MADDR_MAT n)) (c.flag (F.ECHO_MADDR_BANK n))).getD (c.get (F.ECHO_MADDR_WORD n)) 0,
    c.maddrNext n)

/-- A write of MDATA: refused unless HOLD = 1 and BANK = 1 (R162). -/
def Chip.writeMdata (c : Chip) (i : Init) (n : Lane) (val : Nat) : Chip :=
  if !c.flag (F.ECHO_EOVR_HOLD n) || !c.flag (F.ECHO_MADDR_BANK n) then c.refuseState i (.echo n) 0x414
  else
    let w := c.get (F.ECHO_MADDR_WORD n)
    let v := val % 2 ^ 32
    (if c.flag (F.ECHO_MADDR_MAT n) then c.onEcho n fun e => { e with repShadow := putWord e.repShadow w v }
      else c.onEcho n fun e => { e with digShadow := putWord e.digShadow w v }).maddrNext n

/-- MDATA_READ (R162). -/
def execMdataRead (i : Init) (n : Lane) (s : State) : Host.Outcome State Fault Refusal :=
  .next (s.onChip fun c => c.gateRead i (.echo n) 0x414 fun c => c.readMdata n)

/-- MDATA_WRITE (R162). -/
def execMdataWrite (i : Init) (n : Lane) (val : Nat) (s : State) : Host.Outcome State Fault Refusal :=
  .next (s.onChip fun c => c.gate i (.echo n) 0x414 fun c => c.writeMdata i n val)

/-- MCMD.FLIP: both matrices flip at the next commitment, the state becomes SHORT and a TRACK pass is requested; a canceller
that is OFF stays OFF (Table 5-7, Table 5-11, log entry 63). -/
def Chip.mcmdWrite (c : Chip) (n : Lane) (val : Nat) : Chip :=
  if !val.testBit 0 then c
  else
    let c := c.onEcho n fun e => { e with flip := 3 }
    if (c.lane n).echo.before = 0 then c
    else (c.onEcho n fun e => { e with req := 2, delay := none }).setEcho n 4

/-- MCMD_FLIP (R162). -/
def execMcmdFlip (i : Init) (n : Lane) (s : State) : Host.Outcome State Fault Refusal :=
  .next (s.onChip fun c => c.gate i (.echo n) 0x418 fun c => c.mcmdWrite n 1)

/-- The banks that are due flip, at a commitment (R149). -/
def Echo.flipBanks (e : Echo) : Echo :=
  let e' := if e.flip.testBit 0 then { e with digLive := e.digShadow, digShadow := e.digLive } else e
  let e'' := if e.flip.testBit 1 then { e' with repLive := e.repShadow, repShadow := e.repLive } else e'
  { e'' with flip := 0 }

/-- Whether the canceller may run: ECTL.EN, and the page is not stopped (Table 5-7, R447). -/
def Chip.echoOn (c : Chip) (n : Lane) : Bool := c.flag (F.ECHO_ECTL_EN n) && c.flag (pctlEnable (.echo n))

/-- A write of ECMD: RETRAIN, or CLEAR, which zeroes all banks; a canceller that ECTL.EN or a stop keeps OFF stays OFF
(R156, R447, log entry 177). -/
def Chip.ecmdWrite (c : Chip) (i : Init) (n : Lane) (val : Nat) : Chip :=
  if val.testBit 0 && val.testBit 1 then c.refuseMulti i (.echo n) 0x04C
  else if val.testBit 0 then c.echoChange n
  else if val.testBit 1 then
    let c := c.onEcho n fun e => { e with repLive := [], repShadow := [], digLive := [], digShadow := [], flip := 0 }
    if c.echoOn n then c.askFull n 1 else c
  else c

/-- RETRAIN (R156). -/
def execRetrain (i : Init) (n : Lane) (s : State) : Host.Outcome State Fault Refusal :=
  .next (s.onChip fun c => c.gate i (.echo n) 0x04C fun c => c.ecmdWrite i n 1)

/-- ECHO_CLEAR (R156): all banks zero, a FULL pass requested. -/
def execEchoClear (i : Init) (n : Lane) (s : State) : Host.Outcome State Fault Refusal :=
  .next (s.onChip fun c => c.gate i (.echo n) 0x04C fun c => c.ecmdWrite i n 2)

/-- The canceller follows ECTL.EN and the page's ENABLE: off, or from OFF a FULL pass requested; FDEN bears on FDOK (R156, R447). -/
def Chip.ectlSettle (c : Chip) (n : Lane) : Chip :=
  let off := (c.lane n).echo.before == 0
  if !c.echoOn n then
    (c.onEcho n fun e => { e with req := 0, delay := none, running := 0, before := 0 }).showEcho n
  else if off then c.askFull n 1
  else c.showEcho n

/-- A write of ECTL (R156). -/
def Chip.ectlWrite (c : Chip) (n : Lane) (val : Nat) : Chip := (c.store (.echo n) 0x040 val).ectlSettle n

/-- ECTL_EN_WRITE (R156). -/
def execEctlEnWrite (i : Init) (n : Lane) (val : Nat) (s : State) : Host.Outcome State Fault Refusal :=
  .next (s.onChip fun c => c.gate i (.echo n) 0x040 fun c => c.ectlWrite n val)

/-- A write of EOVR: the stages and FDOK follow (R156). -/
def Chip.eovrWrite (c : Chip) (n : Lane) (val : Nat) : Chip := (c.store (.echo n) 0x40C val).showEcho n

/-- A write of TGAIN: the effective code follows CODE, and the back-off after clips stays until the next lane load (R153, Table
5-11; log entry 170). -/
def Chip.tgainWrite (c : Chip) (n : Lane) (val : Nat) : Chip :=
  let off := c.get (F.ECHO_TGAIN_CODE n) - c.get (F.ECHO_TGAIN_TGEFF n)
  let c := c.store (.echo n) 0x404 val
  c.set (F.ECHO_TGAIN_TGEFF n) (c.get (F.ECHO_TGAIN_CODE n) - off)

/-- FDOK_CHANGE (R157): the MAC engine learns FDOK. -/
def execFdokChange (n : Lane) (s : State) : Host.Outcome State Fault Refusal :=
  .next (s.onChip fun c => c.onMac fun m => { m with
    fdok := if c.flag (F.ECHO_ESTAT_FDOK n) then setBit m.fdok n.num else clearMask m.fdok (2 ^ n.num) })

/-- TRACK_REQUEST (R150): TRAINIV turns in GOOD since the last completed pass. -/
def execTrackRequest (n : Lane) (s : State) : Host.Outcome State Fault Refusal :=
  .next (s.onChip fun c =>
    let e := (c.lane n).echo
    if e.before = 3 ∧ e.running = 0 ∧ e.req = 0 ∧ c.get (F.ECHO_ECFG_TRAINIV n) ≤ e.since then
      c.onEcho n fun e => { e with req := 2 }
    else c)

/-- AGED (R156): AGEMAX turns since the last successful pass, in GOOD. -/
def execAged (n : Lane) (s : State) : Host.Outcome State Fault Refusal :=
  .next (s.onChip fun c =>
    let e := (c.lane n).echo
    if e.before = 3 ∧ e.running = 0 ∧ c.get (F.ECHO_ECFG_AGEMAX n) ≤ c.get (F.ECHO_ESTAT_AGE n) then c.askFull n 6 else c)

/-- A turn start for the canceller: ages count, and a FULL request that waited TRAINIV turns comes due (R150, R156). -/
def Chip.echoTurn (c : Chip) (n : Lane) : Chip :=
  let c := c.count (F.ECHO_ESTAT_AGE n) 1
  c.onEcho n fun e =>
    let e := { e with since := e.since + 1 }
    match e.delay with
    | some k => if k ≤ 1 then { e with delay := none, req := 1 } else { e with delay := some (k - 1) }
    | none => e

/-- A training frame has started: the pass runs, a FULL one with every PGA at the training gain until phase A ends, where the loops are
on (R151, R153). -/
def Chip.startPass (c : Chip) (n : Lane) (kind : Nat) : Chip :=
  let c := (c.onEcho n fun e => { e with running := kind, req := 0, void := false, kept := none }).showEcho n
  let g := c.get (F.ECHO_TGAIN_TGEFF n)
  c.iff (kind == 1 && c.flag (F.AGC_AGCCFG_LOOPEN n)) fun c => c.setCodes n [g, g, g, g]

/-- The training pass is void: the request stands again (R153). -/
def Chip.voidPass (c : Chip) (n : Lane) (kind : Nat) (clipped : Bool) : Chip :=
  let c := c.onEcho n fun e => { e with
    running := 0
    kept := none
    req := if e.req = 0 then kind else e.req
    void := false
    digShadow := e.digLive
    repShadow := e.repLive
    flip := 0 }
  let c := c.count (F.ECHO_COUNTS_TRNFAIL n) 1
  let c := c.pfaultSet (.echo n) 2
  (if clipped then c.set (F.ECHO_TGAIN_TGEFF n) (c.get (F.ECHO_TGAIN_TGEFF n) - 12) else c).showEcho n

/-- The training frame of the pass that runs. -/
def Chip.trainingFrame (c : Chip) (n : Lane) : Option AirFrame := (c.lane n).tx.air.reverse.find? fun a => a.frame.training != 0

/-- The words of a measured matrix, below `size`. -/
def bankOf (size : Nat) (words : List (Nat × Nat)) : NatMap Nat :=
  words.foldl (fun m w => if w.1 < size then putWord m w.1 (w.2 % 2 ^ 32) else m) []

/-- GUARD_WRITE (R151): after phase A of a FULL pass the lane writes the shadow replica matrix, as its measurement gives it,
with the replica delays of the inputs; the replica goes on for phase B. -/
def execGuardWrite (n : Lane) (h : Heard GuardLook) (s : State) : Host.Outcome State Fault Refusal :=
  .next (s.onChip fun c =>
    match (c.lane n).echo.running, c.trainingFrame n with
    | 1, some a =>
      let g := c.hearGuard n a h
      let c := [0, 1, 2, 3].foldl (fun c i => c.set (F.ECHO_RDLY_D n i) (g.delays.getD i 0)) c
      let hold := c.flag (F.ECHO_EOVR_HOLD n)
      (c.onEcho n fun e => { e with
        running := 3
        kept := h.samples
        repShadow := if hold then e.repShadow else bankOf 1188 g.words }).showEcho n
    | _, _ => c)

/-- ERLi of an input after a pass: a TRACK pass keeps HYB and REP. -/
def Chip.setErl (c : Chip) (n : Lane) (full : Bool) (i : Nat) (m : PassInput) : Chip :=
  let c := if full then (c.set (F.ECHO_ERL_HYB n i) (min 255 m.hyb)).set (F.ECHO_ERL_REP n i) (min 255 m.rep) else c
  (c.set (F.ECHO_ERL_DIG n i) (min 255 m.dig)).setInt (F.ECHO_ERL_RESN n i)
    (match m.resn with
    | some r => clampInt (-127) 127 r
    | none => -128)

/-- Whether an input passes: enough rejection in total, or a residual at the noise floor (R152). -/
def Chip.inputPasses (c : Chip) (n : Lane) (i : Nat) : Bool :=
  let resn := c.getInt (F.ECHO_ERL_RESN n i)
  decide (2 * c.get (F.ECHO_ECFG_FDMIN n)
      ≤ c.get (F.ECHO_ERL_HYB n i) + c.get (F.ECHO_ERL_REP n i) + c.get (F.ECHO_ERL_DIG n i))
    || (resn != -128 && decide (resn ≤ c.get (F.ECHO_MON_RESNMAX n)))

/-- The state and requests after a completed pass (Table 5-7).  A change or a request during the pass keeps its own. -/
def Chip.passOutcome (c : Chip) (n : Lane) (kind : Nat) (ok : Bool) : Chip :=
  let e := (c.lane n).echo
  let later := some (c.get (F.ECHO_ECFG_TRAINIV n))
  if e.req ≠ 0 ∨ e.before = 0 then c.showEcho n
  else if ok then c.setEcho n 3
  else if kind = 2 ∧ e.before = 3 then c.askFull n 4
  else (c.onEcho n fun e => { e with delay := later }).setEcho n 4

/-- PASS_COMPLETE (R152, R153): an echo training pass ends with the measurements of the inputs and the new digital matrix; an ADC that
clipped in phase A makes a FULL pass void, as a change of a port does. -/
def execPassComplete (n : Lane) (h : Heard PassLook) (s : State) : Host.Outcome State Fault Refusal :=
  .next (s.onChip fun c =>
    let e := (c.lane n).echo
    let kind := e.kind
    match kind, c.trainingFrame n with
    | 0, _ => c
    | _, none => c
    | _, some a =>
    let l := c.hearPass n a kind e.kept h
    let ins := l.ins
    let dig := l.dig
    let clip := l.clip && kind == 1
    if e.void || clip then c.voidPass n kind clip
    else
      let used := [1, 2, 3, 4].filter (c.inputUsed n)
      let c := used.foldl (fun c i => c.setErl n (kind == 1) (i - 1) (ins.getD (i - 1) ⟨0, 0, 0, none, 0⟩)) c
      let pass := used.filter fun i => c.inputPasses n (i - 1)
      let inok := pass.foldl (fun a i => setBit a (i - 1)) 0
      let ports := [1, 2, 3].all fun p => c.portCause n p != 0 || a.sounded.testBit (p - 1)
      let ok := pass.length == used.length && ports
      let c := ((c.set (F.ECHO_ESTAT_PASS n) kind).set (F.ECHO_ESTAT_INOK n) inok).count (F.ECHO_COUNTS_PASSES n) 1
      let c := if c.flag (F.ECHO_EOVR_HOLD n) then c
        else c.onEcho n fun e => { e with
          digShadow := bankOf 47520 dig
          flip := if kind = 1 then 3 else 1 }
      let c := c.onEcho n fun e => { e with running := 0, kept := none, since := 0 }
      let c := if ok then
          (c.set (F.ECHO_ESTAT_AGE n) 0).onEcho n fun e => { e with
            divRun := 0
            resid := (List.range 4).map fun i => (ins.getD i ⟨0, 0, 0, none, 0⟩).resid }
        else c
      c.passOutcome n kind ok)

/-- A divergence (R154, R155): the stages go off and a FULL pass is asked for.  DESIGN CHOICE (log entry 198): a clipped replica does
the same in SHORT, in AGED and during a pass, for which Table 5-7 has no row; a canceller that is OFF has none. -/
def Chip.diverge (c : Chip) (n : Lane) : Chip :=
  if (c.lane n).echo.before = 0 then c
  else
    ((((c.onEcho n fun e => { e with divRun := 0 }).askFull n 5).count (F.ECHO_COUNTS2_DIVERGE n) 1).pfaultSet (.echo n) 1).raise
      (.echo n) 1

/-- A monitored frame is sent: the median residual of each input over its first payload symbols in 0.5 dB units (R154). -/
def Chip.monitorFrame (c : Chip) (n : Lane) (a : AirFrame) (h : Heard (List Int)) : Chip :=
  let e := (c.lane n).echo
  if e.before = 3 ∧ e.running = 0 ∧ c.flag (F.ECHO_ECTL_MONEN n) then
    let resid := c.hearResid n a h
    let bad := [1, 2, 3, 4].any fun i => c.inputUsed n i
      && decide (e.resid.getD (i - 1) 0 + (c.get (F.ECHO_MON_DIVTHR n) : Int) < resid.getD (i - 1) 0)
    if !bad then c.onEcho n fun e => { e with divRun := 0 }
    else
      let c := c.onEcho n fun e => { e with divRun := e.divRun + 1 }
      if c.get (F.ECHO_MON_DIVCNT n) ≤ e.divRun + 1 then c.diverge n else c
  else c

/-- A frame's replica: a sample beyond full scale is a divergence at once (R147, R155). -/
def Chip.replicaCheck (c : Chip) (n : Lane) (a : AirFrame) : Chip :=
  if c.replicaBeyond n a then (c.pfaultSet (.echo n) 0).diverge n else c

end Sys2Proof.Machine
end

