-- ==== Sys2Proof/Machine/Line.lean ====
section
/-!
DEFINITION. A lane's side of transmission: the settings fixed at a frame's commitment, sending, and dropping (R22, R113,
R122, R127, R131 to R135, R182).
-/
namespace Sys2Proof.Machine

/-- Why each port does not work, 0 for one that works (R132). -/
def Chip.portCauses (c : Chip) (n : Lane) : List Nat := [1, 2, 3].map (c.portCause n)

/-- The mask of the ports whose cause is 0. -/
def workingMask (causes : List Nat) : Nat := bit (causes.getD 0 5 == 0) + 2 * bit (causes.getD 1 5 == 0) + 4 * bit (causes.getD 2 5 == 0)

/-- Words of table `t` that differ from those at lane load, by word. -/
def Chip.tableWords (c : Chip) (n : Lane) (t : Nat) : NatMap Nat :=
  ((c.lane n).tx.glaze.filter fun e => e.1 / 1024 == t).map fun e => (e.1 % 1024, e.2)

/-- The set by which a frame's payload is loaded: the addressee's downlink set of the version and profile that its FC names (R114, R231,
R246). -/
def Chip.payloadSet (c : Chip) (f : TxFrame) : Option MapSet :=
  match f.fc.body with
  | .data _ 0 _ tmv .. => ([0, 1, 2].map (c.dlBank f.slot)).find? fun m => m.valid && m.tmv == tmv && m.bp == f.fc.bp
  | _ => none

/-- Fix a frame's TXP settings as they stand (R131): working ports, the tables of the frame's ports with the fall-back to table 0 (R122),
the weight set with the fall-back to rotation (R128), gains and delays; the banks of the canceller that are live from now on stay
the frame's (R149). -/
def Chip.fixSettings (c : Chip) (n : Lane) (f : TxFrame) : TxFrame × Chip :=
  let c := c.onEcho n Echo.flipBanks
  let causes := c.portCauses n
  let named := [1, 2, 3].map fun p => c.gxlat n p f.epoch.glz
  let bad := f.coupled.any fun p =>
    causes.getD (p - 1) 5 == 0 && f.txports.testBit (p - 1) && !c.glazeValid n (named.getD (p - 1) 0)
  let tables := named.map fun t => if c.glazeValid n t then t else 0
  let c := if bad then (c.raise (.txp n) 1).pfaultSet (.txp n) 3 else c
  let tx := (c.lane n).tx
  let wset := match f.coupling with
    | .weights s => some s
    | _ => none
  let okSet := wset.all fun s => (tx.wvalid.get? s).isSome
  let c := if okSet then c else c.pfaultSet (.txp n) 4
  let weights := if okSet then wset.map fun s => (tx.wlive.filter fun e => e.1 / 512 == s).map fun e => (e.1 % 512, e.2) else none
  let set : TxSet :=
    { working := workingMask causes
      causes
      maps := c.payloadSet f
      rep := (c.lane n).echo.repLive
      dig := (c.lane n).echo.digLive
      tables
      glaze := tables.map (c.tableWords n)
      cdd := c.get (F.TXP_CDD_DELAY n)
      txdly := [1, 2, 3].map (c.txdly n)
      eff := [0, 1, 2].map fun p => c.getInt (F.TXP_PGAIN_EFF n p)
      weights }
  ({ f with set := some set, coupling := if okSet then f.coupling else .rotation }, c)

/-- Users of a GRANT whose sherds overlap those of a user with a lower index (R182). -/
def overlapUsers (us : List GrantRec) : List Nat :=
  (us.zipIdx.filter fun e => (us.take e.2).any fun o =>
    decide (o.sherd < e.1.sherd + e.1.scnt ∧ e.1.sherd < o.sherd + o.scnt)).map Prod.snd

/-- Whether tick `t` lies within a running restart of the lane's sequencers (R387). -/
def Chip.seqDown (c : Chip) (n : Lane) (t : Nat) : Bool := (c.health.seqUntil.get? n.num).any (t ≤ ·)

/-- COMMITMENT_RECEIPT (R131, R182, R387): the oldest commitment on its way to lane `n` arrives at tick `arrival`. -/
def execCommitmentReceipt (n : Lane) (arrival : Nat) (s : State) : Host.Outcome State Fault Refusal :=
  .next (s.onChip fun c =>
    match (c.lane n).tx.onWay with
    | [] => c
    | f :: rest =>
      let c := c.advanceTo arrival
      let c := c.onTx n fun t => { t with onWay := rest }
      let r := c.fixSettings n { f with late := decide (f.t0 < arrival + 5888) || c.seqDown n f.t0 }
      let f := r.1
      let ovr := match f.grant with
        | some g => overlapUsers g.users
        | none => []
      let c := if ovr.isEmpty then r.2 else r.2.pfaultSet (.rxp n) 1
      let f := { f with grant := f.grant.map fun g => { g with ovl := ovr } }
      c.onTx n fun t => { t with ready := t.ready ++ [f] })

/-! Dropping (R132, R135). -/

/-- A frame is not sent: DROP, the counters and LASTDROP of the ports concerned; its MPDUs are sent later, without an
attempt being counted; a training pass whose frame it was is void (R153, R215). -/
def Chip.dropFrame (c : Chip) (n : Lane) (f : TxFrame) (causes : List (Nat × Nat)) : Chip :=
  let c := c.raise (.txp n) 0
  let c := causes.foldl (fun c e =>
    (c.count (F.TXP_DROPCNT_DROPS n (e.1 - 1)) 1).set (F.TXP_LASTDROP_CAUSE n (e.1 - 1)) e.2) c
  let c := c.unframe f
  if f.training ≠ 0 then c.voidPass n f.training false else c

/-- The coupled ports of a frame that worked at its commitment and have not been retired since. -/
def Chip.workingPorts (c : Chip) (n : Lane) (f : TxFrame) (x : TxSet) : List Nat :=
  f.coupled.filter fun p => x.working.testBit (p - 1) && !c.retired 0 n.num p

/-- The ports of a frame: its coupled ports that work and that TXPORTS of its facet enables (R132). -/
def Chip.framePorts (c : Chip) (n : Lane) (f : TxFrame) (x : TxSet) : List Nat :=
  (c.workingPorts n f x).filter fun p => f.txports.testBit (p - 1)

/-- Whether a frame starts before the postfix of an earlier one has ended on a port of both (R135). -/
def Chip.overlaps (c : Chip) (n : Lane) (f : TxFrame) (x : TxSet) : Bool :=
  (c.framePorts n f x).any fun p => decide (f.t0 < (c.lane n).tx.busy.getD p 0)

/-- Why a frame cannot leave its ports (R132, R135), with the cause each port concerned records; none if it can.  Only ports that do not
work count against it, not those that TXPORTS shuts out (log entry 70).  DESIGN CHOICE (log entry 182): a GLP-6 broadcast that every
working port sends alike needs one of them. -/
def Chip.dropCauses (c : Chip) (n : Lane) (f : TxFrame) (x : TxSet) : List (Nat × Nat) :=
  let up := c.workingPorts n f x
  let ports := c.framePorts n f x
  let cause (p : Nat) : Nat := if c.retired 0 n.num p then 4 else x.causes.getD (p - 1) 5
  let need := match f.coupling with
    | .single _ => 1
    | .same => 1
    | _ => 2
  if up.length < need then
    let first := cause ((f.coupled.filter fun p => !up.contains p).headD 1)
    f.coupled.map fun p => (p, if up.contains p then first else cause p)
  else if f.late then ports.map fun p => (p, 1)
  else if c.overlaps n f x then ports.map fun p => (p, 2)
  else []

/-! Sending. -/

/-- Weights of a frame scaled to magnitude 1.0.  DESIGN CHOICE (log entry 184): WCLAMP counts each carrier of each port once a frame. -/
def clampedWeights (w : NatMap Nat) (bp : Nat) (ports : List Nat) : Nat :=
  ports.foldl (fun a p => a + ((List.range (carriersOf bp)).filter fun j =>
    let v := weightAt w (sherdsOf bp) p (40 + j)
    decide ((655360 : Int) * 655360 < v.1 * v.1 + v.2 * v.2)).length) 0

/-- Whether a facet's role is FD or SOUND, in which frames are not monitored (R154). -/
def Chip.unmonitored (c : Chip) (n : Lane) (f : Nat) : Bool := c.role n f == 5 || c.role n f == 6

/-- The oldest tick at which samples may still be asked for: the earlier of tick `t` and the start of the reception in progress. -/
def Chip.oldest (c : Chip) (n : Lane) (t : Nat) : Nat :=
  match (c.lane n).rx.rx with
  | some r => min t r.tp
  | none => t

/-- The frame stands on the air; of the earlier ones those stay that a window still to come can meet. -/
def Chip.onAir (c : Chip) (n : Lane) (a : AirFrame) : Chip :=
  let from' := c.oldest n a.frame.t0
  c.onTx n fun t => { t with air := (t.air.filter fun o => decide (from' ≤ o.frame.tend + headTicks)) ++ [a] }

/-- Weights that a frame uses: none in REP6, where no weight applies (R127, R130). -/
def TxFrame.usedWeights (f : TxFrame) : Option (NatMap Nat) :=
  if f.fc.body.payload.2.1 = 2 then none else f.set.bind (·.weights)

/-- A frame leaves the ports `ports` with its settings `x` (R133): counters, the symbols of each port with a clipped sample (R117), the
end of its postfix, the output, the blank of TXBLANK, the replica (R147) and the monitor of R154, which hears `h`. -/
def Chip.sendFrame (c : Chip) (n : Lane) (f : TxFrame) (x : TxSet) (ports : List Nat) (h : Heard (List Int)) : Chip :=
  let codes := c.txCodes n f x
  let c := ports.foldl (fun c p =>
    (c.count (F.TXP_FRAMES_COUNT n (p - 1)) 1).count (F.TXP_DROPCNT_CLIPSYM n (p - 1)) (f.clipSymbols x codes p)) c
  let c := c.onTx n fun t => { t with busy := ports.foldl (fun m p => m.insert p (f.tend + rampTicks)) t.busy }
  let c := match f.usedWeights with
    | some w => c.count (F.TXP_WCLAMP_COUNT n) (clampedWeights w f.fc.bp ports)
    | none => c
  let held := c.get (F.AFE_DRVSTAT_HELD n)
  let out := ports.filter fun p => !held.testBit (p - 1)
  let a : AirFrame := { frame := f, ports := out, cuts := [] }
  let c := (c.onAir n a).emit (.frame n.num f (out.foldl (fun a p => setBit a (p - 1)) 0))
  let off := ports.foldl (fun a p => max a (f.tend + rampTicks - c.txdly n p)) 0 + c.get (F.AFE_DRVTIM_LAG n) * 1024 / 100
  let c := (c.onMeas n fun m => { m with transmitting := true, txUntil := off }).updateBlank n
  let monitored := match f.fc.body with
    | .beacon .. => !f.fc.g6
    | .data .. => true
    | _ => false
  let c := if monitored && !c.unmonitored n f.facet then c.monitorFrame n a h else c
  c.replicaCheck n a

/-- Take a frame off the ready list and try to send it; `after` is what follows if it is sent. -/
def Chip.transmit (c : Chip) (n : Lane) (f : TxFrame) (h : Heard (List Int)) (after : Chip → Chip) : Chip :=
  match f.set with
  | none => c
  | some x =>
    match c.dropCauses n f x with
    | [] => after (c.sendFrame n f x (c.framePorts n f x) h)
    | causes => ((c.iff f.late (·.pfaultSet (.txp n) 0)).iff (c.overlaps n f x) (·.pfaultSet (.txp n) 1)).dropFrame n f causes

/-- A frame that its lane may not send: it is dropped, with the causes of its ports, or with DISABLED where none of Table 4-6 applies (log
entry 199). -/
def Chip.barFrame (c : Chip) (n : Lane) (f : TxFrame) : Chip :=
  let causes : List (Nat × Nat) := match f.set with
    | some x => c.dropCauses n f x
    | none => []
  (c.iff f.late (·.pfaultSet (.txp n) 0)).dropFrame n f (if causes.isEmpty then f.coupled.map fun p => (p, 5) else causes)

/-- A beacon that ends after the BEACON run: the first opportunity opens 40 µs after it; one overrun counts for the beacons
of a turn (R97). -/
def Chip.beaconOverrun (c : Chip) (n : Lane) (f : TxFrame) : Chip :=
  let g := c.group n
  let run := beaconRun ((c.patternWords (c.pat n)).map entryRole)
  if f.tend ≤ c.b n run then c
  else
    let c := if g.ts / 256 < g.openFrom then c else ((c.count F.WHEEL_COUNTS_BCNOVR 1).pfaultSet .wheel 0).raise .wheel 2
    c.onGroup n fun g => { g with openFrom := f.tend + 4096 }

/-- What the MAC engine and the lane do once a committed frame has been sent: blocks count as sent, an answer is awaited, a
grant stands, a training pass runs. -/
def Chip.afterSent (c : Chip) (n : Lane) (f : TxFrame) : Chip :=
  let c := match f.fc.body with
    | .beacon .. => if f.fc.g6 then c else c.beaconOverrun n f
    | _ => c.blocksSent n f
  let c := if f.expects then c.onTx n fun t => { t with await := t.await ++ [f] } else c
  let c := match f.grant with
    | some g => c.onTx n fun t => { t with grants := t.grants ++ [g] }
    | none => c
  if f.training ≠ 0 then c.startPass n f.training else c

/-- The ready frame with the earliest t0. -/
def nextReady (fs : List TxFrame) : Option TxFrame :=
  fs.foldl (fun (m : Option TxFrame) f => match m with
    | some x => if f.t0 < x.t0 then some f else m
    | none => some f) none

/-- Whether a frame is a stored beacon (R99). -/
def TxFrame.isBeacon (f : TxFrame) : Bool :=
  match f.fc.body with
  | .beacon .. => !f.fc.g6
  | _ => false

/-- Whether a lane may send a frame now: it is loaded, its group is neither in a service pause nor stopped beyond the present
facet, and a coasting lane sends nothing but stored beacons (R46, R86, R110, R392). -/
def Chip.maySend (c : Chip) (n : Lane) (f : TxFrame) : Bool :=
  let g := c.group n
  (c.lane n).ready && !g.paused && (!c.coasting n || f.isBeacon)
    && (c.running n || (g.stopping && decide (f.t0 < g.b (c.facet n + 1))))

/-- An encoder fault counts against the lane's transmit path: one fault in the bucket of each working port (R202; log entry 200). -/
def Chip.encoderFault (c : Chip) (n : Lane) : Chip :=
  (([1, 2, 3].filter fun p => c.portCause n p == 0).foldl (fun c p => c.fault1 0 n.num p) c)

/-- FRAME_TRANSMIT (R133, R135, R154, R202): the ready frame with the earliest t0 is due at the coupler; the monitor hears `h` of it, and
its coding may have met a fault of the encoder. -/
def execFrameTransmit (n : Lane) (encFault : Bool) (h : Heard (List Int)) (s : State) : Host.Outcome State Fault Refusal :=
  .next (s.onChip fun c =>
    match nextReady (c.lane n).tx.ready with
    | none => c
    | some f =>
      let c := (c.onTx n fun t => { t with ready := t.ready.filter fun g => g.serial != f.serial }).iff encFault (·.encoderFault n)
      if c.maySend n f then (c.advanceTo f.t0).transmit n f h fun c => c.afterSent n f
      else c.barFrame n f)

end Sys2Proof.Machine
end

