-- ==== Sys2Proof/Machine/Afe.lean ====
section
/-!
DEFINITION. The line front end: driver pins, inputs, overloads and calibration (R138 to R144, R158 to R161).
-/
namespace Sys2Proof.Machine

/-- Whether the fault input of port `b + 1` is active: high with FLTPOL 1, low with FLTPOL 0 (R144). -/
def Chip.fltActive (c : Chip) (n : Lane) (b : Nat) : Bool := (c.lane n).afe.fltPins.testBit b == c.flag (F.AFE_DRVCFG_FLTPOL n)

/-- Port `p` goes idle at the present tick: what it was sending ends (R144). -/
def Chip.cutPort (c : Chip) (n : Lane) (p : Nat) : Chip :=
  let onAir (a : AirFrame) : Bool := a.ports.contains p && (a.cuts.get? p).isNone && decide (c.tick < a.frame.tend + rampTicks)
  let cut := (c.lane n).tx.air.any onAir
  let c := c.onTx n fun t => { t with
    busy := t.busy.erase p
    air := t.air.map fun a => if onAir a then { a with cuts := a.cuts.insert p (c.tick + c.txdly n p) } else a }
  c.iff cut (·.emit (.cut n.num p c.tick))

/-- DRVFLT (R144): at tick `t` the fault input of port `p` has been active for 200 ns, and the fault inputs have the levels `levels`.
A row whose levels show the input inactive tells of no fault. -/
def execDrvflt (n : Lane) (p : Port) (t levels : Nat) (s : State) : Host.Outcome State Fault Refusal :=
  .next (s.onChip fun c =>
    let b := p.idx
    let c := (c.advanceTo t).onAfe n fun a => { a with fltPins := levels % 8 }
    if !c.fltActive n b then c
    else
      let on := c.bitAt (F.TXP_TXCTL_PORTEN n) b
      let held := c.bitAt (F.AFE_DRVSTAT_HELD n) b
      let c := c.onAfe n fun a => { a with
        written := if on then clearMask a.written (2 ^ b) else if held then a.written else setBit a.written b }
      let c := (c.cutPort n p.num).setBitAt (F.AFE_DRVSTAT_HELD n) b true
      let c := (c.setBitAt (F.TXP_TXCTL_PORTEN n) b false).portMoved n
      let c := c.onEcho n fun e => { e with portenNew := none }
      let c := c.count (F.AFE_FLTCNT_PORT n b) 1
      ((c.fault1 0 n.num p.num).pfaultSet (.afe n) 0).raise (.afe n) 0)

/-- FLTHOLD_EXPIRY (R144): the fault input of port `p` has been inactive for FLTHOLD ms, and the fault inputs have the levels
`levels`. -/
def execFltholdExpiry (n : Lane) (p : Port) (levels : Nat) (s : State) : Host.Outcome State Fault Refusal :=
  .next (s.onChip fun c =>
    let b := p.idx
    let c := c.onAfe n fun a => { a with fltPins := levels % 8 }
    if !c.bitAt (F.AFE_DRVSTAT_HELD n) b ∨ c.fltActive n b then c
    else
      let c := c.setBitAt (F.AFE_DRVSTAT_HELD n) b false
      if c.retired 0 n.num p.num ∨ (c.lane n).afe.written.testBit b then c
      else ((c.setBitAt (F.TXP_TXCTL_PORTEN n) b true).portMoved n).onEcho n fun e => { e with portenNew := none })

/-- A write of DRVCFG: a change of a mode asks for a FULL echo pass (R143, R149). -/
def Chip.drvcfgWrite (c : Chip) (n : Lane) (val : Nat) : Chip :=
  let modes (c : Chip) := [0, 1, 2].map fun k => c.get (F.AFE_DRVCFG_MODE n k)
  let old := modes c
  let c := c.store (.afe n) 0x040 val
  if modes c ≠ old then c.echoChange n else c

/-- DRVCFG_WRITE (R143). -/
def execDrvcfgWrite (i : Init) (n : Lane) (val : Nat) (s : State) : Host.Outcome State Fault Refusal :=
  .next (s.onChip fun c => c.gate i (.afe n) 0x040 fun c => c.drvcfgWrite n val)

/-- A write of RXCFG, which asks for a FULL echo pass (R149). -/
def Chip.rxcfgWrite (c : Chip) (n : Lane) (val : Nat) : Chip := ((c.store (.afe n) 0x04C val).echoChange n).settleInputs n

/-- RXCFG_WRITE (R149). -/
def execRxcfgWrite (i : Init) (n : Lane) (val : Nat) (s : State) : Host.Outcome State Fault Refusal :=
  .next (s.onChip fun c => c.gate i (.afe n) 0x04C fun c => c.rxcfgWrite n val)

/-- Symbols of a list in which an input clips more than CLIPS samples; `clips` holds for each symbol the clipped samples of each
input (R140). -/
def Chip.overloads (c : Chip) (n : Lane) (clips : List (List Nat)) (i : Nat) : Nat :=
  (clips.filter fun s => decide (c.get (F.AFE_OVLCFG_CLIPS n) < s.getD i 0)).length

/-- Samples at full scale and overloaded symbols of the inputs, by symbol period and input (R140). -/
def Chip.clipCounts (c : Chip) (n : Lane) (clips : List (List Nat)) : Chip :=
  [0, 1, 2, 3].foldl (fun c i =>
    let c := c.count (F.AFE_CLIPSAMP_COUNT n i) ((clips.map fun s => s.getD i 0).foldl (· + ·) 0)
    let k := c.overloads n clips i
    if k = 0 then c
    else
      let c := ((c.count (F.AFE_OVLSTK_OVLCNT n i) k).pfaultSet (.afe n) 1).raise (.afe n) 1
      c.onAgc n fun a => { a with ovl := setBit a.ovl i }) c

/-- Symbols in which an input that takes part is excluded (R180).  DESIGN CHOICE (log entry 201): a symbol counts once in OVLEXCL, however
many of its inputs are excluded. -/
def Chip.excludedSymbols (c : Chip) (n : Lane) (clips : List (List Nat)) : Nat :=
  (clips.filter fun s => (c.inputs n).any fun i => decide (c.get (F.AFE_OVLCFG_CLIPS n) < s.getD i 0)).length

/-- STUCK (R140): input `i` has shown almost no spread for STUCKMS ms at PGA code 96. -/
def execStuck (n : Lane) (i : Input) (s : State) : Host.Outcome State Fault Refusal :=
  .next (s.onChip fun c =>
    if (c.lane n).rx.agc.codes.getD i.idx 0 = 96 then
      ((c.count (F.AFE_OVLSTK_STUCK n i.idx) 1).pfaultSet (.afe n) 2).fault1 1 n.num (i.idx + 1)
    else c)

/-- A write of CALCMD: refused while a calibration runs (R451); REFUSED unless the Wheel is OFF (R159). -/
def Chip.calcmdWrite (c : Chip) (i : Init) (n : Lane) (val : Nat) : Chip :=
  if c.get (F.AFE_CALRES_STATUS n) = Status.busy.code then c.refuseState i (.afe n) 0x400
  else if c.lstate n ≠ 0 then c.set (F.AFE_CALRES_STATUS n) Status.refused.code
  else (c.set (F.AFE_CALRES_STATUS n) Status.busy.code).onAfe n fun a => { a with cal := some (val % 16) }

/-- CALCMD (R159). -/
def execCalcmd (i : Init) (n : Lane) (inputs : Nat) (s : State) : Host.Outcome State Fault Refusal :=
  .next (s.onChip fun c => c.gate i (.afe n) 0x400 fun c => c.calcmdWrite i n inputs)

/-- Results of a calibration of the inputs of a mask: those in `pass` take part, the others are excluded, each with a fault
(R159). -/
def Chip.calibrated (c : Chip) (n : Lane) (mask pass : Nat) : Chip :=
  Chip.settleInputs (n := n) <| [0, 1, 2, 3].foldl (fun c i =>
    if !mask.testBit i then c
    else if pass.testBit i then c.setBitAt (F.AFE_CALSTAT_CALOK n) i true
    else ((c.setBitAt (F.AFE_CALSTAT_CALOK n) i false).pfaultSet (.afe n) 3).fault1 1 n.num (i + 1)) c

/-- CALIBRATION_DONE (R159): a PGA calibration ends; `pass` are the inputs that passed. -/
def execCalibrationDone (n : Lane) (pass : Nat) (s : State) : Host.Outcome State Fault Refusal :=
  .next (s.onChip fun c =>
    match (c.lane n).afe.cal with
    | none => c
    | some mask =>
      let c := (c.onAfe n fun a => { a with cal := none }).calibrated n mask pass
      if c.get (F.AFE_CALRES_STATUS n) = Status.busy.code then c.set (F.AFE_CALRES_STATUS n) Status.ok.code else c)

end Sys2Proof.Machine
end

