-- ==== Sys2Proof/Machine/Cells.lean ====
section
/-!
DEFINITION. The packet buffer's cells, MPDU headers, rings and completion entries (R256, R274 to R285).
-/
namespace Sys2Proof.Machine

/-- Whether the hub runs its device firmware: queues are fetched and delivered only then (R292). -/
def Chip.hubRuns (c : Chip) : Bool :=
  (c.power == .boot || c.power == .active) && !c.stopped && c.get F.BOOT_BSTAT_STAGE == 2

/-- Tag bytes of a security level (R256). -/
def tagBytes (level : Nat) : Nat := if level = 5 then 8 else if level = 6 then 16 else 0

/-- Length of an MPDU on the line (R256). -/
def TxMpdu.length (m : TxMpdu) : Nat := 16 + m.payload.length + tagBytes m.level

/-- Cells an MPDU occupies (R275); one refused at its fetch never had a payload. -/
def TxMpdu.cells (m : TxMpdu) : Nat := if m.status.isSome && m.mseq.isNone && m.payload.isEmpty then 0 else ceilDiv m.length 256

/-- The MPDU header (Table 9-5). -/
def TxMpdu.header (m : TxMpdu) (fcnt : Nat) : List Byte :=
  leBytes 16 (packFields [(8, m.mtype), (3, m.level), (1, bit m.gkey), (4, 0), (16, m.payload.length), (32, fcnt),
    (16, m.orig), (16, m.final), (12, m.mseq.getD 0), (1, m.cls), (3, 0), (8, m.hops), (8, 0)])

/-- Cells a queue holds. -/
def Queue.cells (q : Queue) : Nat := q.mpdus.foldl (fun a m => a + m.cells) 0

/-- Cells of an incomplete received MPDU. -/
def Reasm.cells (r : Reasm) : Nat := ceilDiv (r.parts.foldl (fun a p => a + p.2.length) 0) 256

/-- Cells that the passed blocks of a sender's reception in progress occupy. -/
def RxUser.cells (u : RxUser) : Nat :=
  u.results.foldl (fun a e =>
    let h := BlkHdr.ofWord e.2.word
    if e.2.pass && !h.fill then a + ceilDiv h.vlen 256 else a) 0

/-- Cells in use (R275). -/
def Chip.cellsUsed (c : Chip) : Nat :=
  Lane.all.foldl (fun a n => match (c.lane n).rx.rx with
    | some r => if c.coasting n then a else r.users.foldl (fun a u => a + u.cells) a
    | none => a) 0 +
  c.qm.queues.foldl (fun a q => a + q.2.cells) 0 + c.qm.reasm.foldl (fun a r => a + r.cells) 0
    + c.qm.whole.foldl (fun a w => a + ceilDiv w.bytes.length 256) 0
    + c.qm.deliver.foldl (fun a w => a + ceilDiv w.bytes.length 256) 0

/-- The receive reserve in cells. -/
def Chip.rxReserve (c : Chip) : Nat := 64 * c.get F.QM_QCFG_RXRES

/-- The GX8 takes cells of the packet buffer, if `b` holds: which is not stated, so that bytes written through the window before may be
among them (log entry 88). -/
def Chip.takeCells (c : Chip) (b : Bool) : Chip :=
  { c with qm := { c.qm with hostWrote := if b then [] else c.qm.hostWrote } }

/-- Bring CELLSTAT up to date; CELLLOW as FREE falls to the receive reserve (R275, R293). -/
def Chip.recount (c : Chip) : Chip :=
  let was := c.get F.QM_CELLSTAT_FREE
  let now := 32768 - c.cellsUsed
  let c := (c.set F.QM_CELLSTAT_FREE now).set F.QM_CELLSTAT_LOW (min now (c.get F.QM_CELLSTAT_LOW))
  let c := c.takeCells (decide (now < was))
  if now ≤ c.rxReserve ∧ c.rxReserve < was then c.raise .qm 4 else c

/-- Entries of a ring. -/
def Ring.slots (r : Ring) : Nat := 2 ^ r.size
/-- Entries between head and tail. -/
def Ring.count (r : Ring) : Nat := (r.t + 2 * r.slots - r.h) % (2 * r.slots)
/-- Whether the ring is full (R277). -/
def Ring.full (r : Ring) : Bool := r.count == r.slots
/-- Address of the entry of counter `p` (R277). -/
def Ring.entry (r : Ring) (p : Nat) : Nat := r.base + 32 * (p % r.slots)
/-- The memory the ring lies in. -/
def Ring.space (r : Ring) : Space := if r.loc then .sram else .host
/-- The counter after `p`. -/
def Ring.succ (r : Ring) (p : Nat) : Nat := (p + 1) % (2 * r.slots)

/-- A ring goes to ERROR with a cause. -/
def Chip.ringError (c : Chip) (r cause : Nat) : Chip := c.onRing r fun x => { x with st := 2, err := cause }

/-- A ring whose counter was misplaced: cause 1, RINGPTR, RINGERR (R279). -/
def Chip.ringPtrError (c : Chip) (r : Nat) : Chip := ((c.ringError r 1).pfaultSet .qm 0).raise .qm 0

/-- Send a completion ring's interrupt for its pending entries (R284). -/
def Chip.signalRing (c : Chip) (r : Nat) : Chip :=
  (c.signalVec (c.ring r).vec).onRing r fun x => { x with unsignalled := 0 }

/-- An entry has been written: interrupts count it (R284). -/
def Chip.entryWritten (c : Chip) (r : Nat) : Chip :=
  if (c.ring r).irqen then
    let c := c.onRing r fun x => { x with unsignalled := x.unsignalled + 1 }
    if (c.ring r).modCount ≤ (c.ring r).unsignalled then c.signalRing r else c
  else c

/-- The bytes of an entry with its PH bit: 1 while the counter is below S (R278). -/
def withPh (r : Ring) (bs : List Byte) : List Byte :=
  bs.take 31 ++ [(bs.getD 31 0) ||| BitVec.ofNat 8 (if r.t < r.slots then 128 else 0)]

/-- Write the oldest held entry of completion ring `r`, if the ring runs and has room. -/
def Work.cqOne (w : Work) (r : Nat) : Work :=
  let x := w.chip.ring r
  match x.held with
  | [] => w
  | e :: rest =>
    if x.st = 1 ∧ !x.full ∧ w.chip.hubRuns then
      (w.write x.space (x.entry x.t) (withPh x e)).onChip fun c =>
        (c.onRing r fun x => { x with held := rest, t := x.succ x.t }).entryWritten r
    else w

/-- Write held entries of completion ring `r` while there is room. -/
def Work.cqDrain (w : Work) (r : Nat) : Work :=
  (List.range (w.chip.ring r).held.length).foldl (fun w _ => w.cqOne r) w

/-- A completion entry for completion ring `cq`: written, or held while the ring is full, in ERROR or OFF (R280, R281, R285);
CQFULL when the ring is full (log entry 54). -/
def Work.cqPush (w : Work) (cq : Nat) (bs : List Byte) : Work :=
  let r := 128 + cq
  let full := (w.chip.ring r).st == 1 && (w.chip.ring r).full
  let w := w.onChip fun c => c.onRing r fun x => { x with held := x.held ++ [bs] }
  let w := if full then w.onChip fun c => c.raise .qm 2 else w
  w.cqDrain r

/-- The completion entry of an MPDU (Table 10-3). -/
def TxMpdu.entry (m : TxMpdu) (ring : Nat) : List Byte :=
  let nonce := match m.prot with
    | some p => p.nonce
    | none => List.replicate 13 0
  m.cookie ++ nonce ++ [BitVec.ofNat 8 (m.status.getD 0)] ++ leBytes 2 (m.mseq.getD 0)
    ++ leBytes 2 (m.dest + 2 ^ 14 * m.cls) ++ [BitVec.ofNat 8 (m.gen + 16 * min 7 m.lastTries), 0]
    ++ leBytes 2 m.hLow ++ [BitVec.ofNat 8 ring, 0]

/-- Whether a MPDU's result counts as the slot's: completed OK. -/
def Chip.countTxOk (c : Chip) (m : TxMpdu) : Chip :=
  if m.status = some 0 then
    let c := c.count F.MAC_TXMPDU_COUNT 1
    if 1 ≤ m.dest ∧ m.dest < 8192 then c.onNbr m.dest fun e => { e with txmpdu := satAdd 32 e.txmpdu 1 } else c
  else c

/-- The oldest MPDU of queue `q` leaves, if it is done; its completion is written unless it is SILENT and OK, or came from
device firmware (R283). -/
def Work.completeHead (w : Work) (q : Nat) : Work :=
  match (w.chip.queue q).mpdus with
  | [] => w
  | m :: rest =>
    if m.status.isNone ∨ m.committed then w
    else
      let w := w.onChip fun c => ((c.onQueue q fun x => { x with mpdus := rest }).countTxOk m).recount
      match m.ring with
      | some r => if m.silent && m.status == some 0 then w else w.cqPush m.cq (m.entry r)
      | none => w

end Sys2Proof.Machine
end

