-- ==== Sys2Proof/Machine/Saggar.lean ====
section
/-!
DEFINITION. The saggar: key commands, host jobs, hashing and signatures, check pipelines and the random source (R308 to R320).
-/
namespace Sys2Proof.Machine

/-! Check pipelines. -/

/-- One check mismatch of pair `p` (R318). -/
def Chip.checkMismatch (c : Chip) (p : Nat) : Chip :=
  (((c.count F.SAGGAR_FAILS_CHKMIS 1).pfaultSet .saggar 0).raise .saggar 0).fault1 6 0 p

/-- `k` mismatches of pair `p`. -/
def Chip.mismatches (c : Chip) (p k : Nat) : Chip := (List.range k).foldl (fun c _ => c.checkMismatch p) c

/-- A job runs on its pair, or on the other one where that pair is retired or disagrees three times (R318, R319).
`mis` says how many of the runs on the first and on the other pair disagree with their check pipelines.  The answer says
whether the job succeeds. -/
def Chip.runPair (c : Chip) (pref : Nat) (mis : Nat × Nat) : Bool × Chip :=
  let other := 1 - pref
  let go (c : Chip) (p k : Nat) : Bool × Chip := (decide (k < 3), c.mismatches p (min 3 k))
  if c.pairWorks pref then
    let r := go c pref mis.1
    if r.1 then r
    else if r.2.pairWorks other then go r.2 other mis.2
    else (false, r.2)
  else if c.pairWorks other then go c other mis.2
  else (false, c)

/-! Key commands (R307 to R312). -/

/-- The eight KEYDATA words as key bytes (R307). -/
def Chip.keyData (c : Chip) : List Byte := (List.range 8).flatMap fun i => leBytes 4 (c.get (F.KEYS_KEYDATA_DATA i))

/-- A KEYCMD is written: captured, or discarded with KOVER while one is under way (R311, R312). -/
def Chip.keycmd (c : Chip) (op cls size idx : Nat) : Chip :=
  if c.flag F.KEYS_KRES_BUSY then c.pfaultSet .keys 0
  else (c.onKeys fun k => { k with cmd := some { op, cls, size, idx, data := c.keyData } }).setFlag F.KEYS_KRES_BUSY true

/-- A write of KEYCMD (Table 11-9). -/
def Chip.keycmdWrite (c : Chip) (val : Nat) : Chip :=
  c.keycmd (bitField val 0 4) (bitField val 4 2) (bitField val 6 1) (bitField val 16 13)

/-- KEY_LOAD: KEYCMD with OP 1 written by `i` (R308). -/
def execKeyLoad (i : Init) (cls size idx : Nat) (s : State) : Host.Outcome State Fault Refusal :=
  .next (s.onChip fun c => c.gate i .keys 0x060 (·.keycmd 1 (cls % 4) (size % 2) (idx % 2 ^ 13)))

/-- ROLL: KEYCMD with OP 2 written by `i`. -/
def execRoll (i : Init) (cls idx : Nat) (s : State) : Host.Outcome State Fault Refusal :=
  .next (s.onChip fun c => c.gate i .keys 0x060 (·.keycmd 2 (cls % 4) 0 (idx % 2 ^ 13)))

/-- KEY_DROP: KEYCMD with OP 3 written by `i`. -/
def execKeyDrop (i : Init) (cls idx : Nat) (s : State) : Host.Outcome State Fault Refusal :=
  .next (s.onChip fun c => c.gate i .keys 0x060 (·.keycmd 3 (cls % 4) 0 (idx % 2 ^ 13)))

/-- ERASE: KEYCMD with OP 4 written by `i`. -/
def execErase (i : Init) (cls idx : Nat) (s : State) : Host.Outcome State Fault Refusal :=
  .next (s.onChip fun c => c.gate i .keys 0x060 (·.keycmd 4 (cls % 4) 0 (idx % 2 ^ 13)))

/-- LOCK: KEYCMD with OP 5 written by `i`. -/
def execLock (i : Init) (cls idx : Nat) (s : State) : Host.Outcome State Fault Refusal :=
  .next (s.onChip fun c => c.gate i .keys 0x060 (·.keycmd 5 (cls % 4) 0 (idx % 2 ^ 13)))

/-- Every KEYDATA word is zeroed. -/
def Chip.zeroKeydata (c : Chip) : Chip := (List.range 8).foldl (fun c i => c.set (F.KEYS_KEYDATA_DATA i) 0) c

/-- KEYCMD_COMPLETE: 96 saggar cycles after a KEYCMD the checks are made and an accepted operation is performed in one step;
KRES, KDETAIL and KCNT are written, KEYDATA is zeroed, KDONE is raised (Table 11-6). -/
def execKeycmdComplete (s : State) : Host.Outcome State Fault Refusal :=
  .next (s.onChip fun c =>
    match c.keys.cmd with
    | none => c
    | some k =>
      let reason := c.keyReason k
      let c := if reason = 0 then (c.keyOperate k).count F.KEYS_KCNT_ACCEPTS 1 else c.count F.KEYS_KCNT_REFUSALS 1
      let c := c.set F.KEYS_KRES_STATUS (if reason = 0 then Status.ok.code else Status.refused.code)
      let c := ((c.set F.KEYS_KDETAIL_REASON reason).set F.KEYS_KDETAIL_OP k.op).setFlag F.KEYS_KRES_BUSY false
      ((c.onKeys fun ks => { ks with cmd := none }).zeroKeydata).raise .keys 0)

/-! Host jobs (R313). -/

/-- Start of the staging region (Table 11-7). -/
def stagingBase : Nat := 0x00EC0000
/-- One past the end of the staging region, the end of the SRAM window. -/
def stagingTop : Nat := 0x01000000

/-- Whether `len` bytes from `off` lie wholly within the staging region. -/
def inStaging (off len : Nat) : Bool := decide (stagingBase ≤ off) && decide (off + len ≤ stagingTop)

/-- Bytes of the words of an array of register fields. -/
def Chip.fieldBytes (c : Chip) (f : Nat → Fld) (n : Nat) : List Byte := (List.range n).flatMap fun i => leBytes 4 (c.get (f i))

/-- Store bytes in the words of an array of register fields. -/
def Chip.putFieldBytes (c : Chip) (f : Nat → Fld) (bs : List Byte) : Chip :=
  (List.range (bs.length / 4)).foldl (fun c i => c.set (f i) (leNat ((bs.drop (4 * i)).take 4))) c

/-- JOBCMD.START: the job is captured; while one runs the command is discarded with JOBOVR. -/
def Chip.startJob (c : Chip) : Chip :=
  if c.keys.job.isSome then c.pfaultSet .saggar 4
  else
    let mode := c.get F.SAGGAR_JOBCFG_MODE
    let tag16 := c.flag F.SAGGAR_JOBCFG_TAG16
    let dkey := c.get F.SAGGAR_JOBCFG_DKEY
    let b := (c.keys.slot 2 dkey).cur
    let job : HostJob :=
      { mode, tag16, dkey, aadlen := c.get F.SAGGAR_JOBCFG_AADLEN, src := c.get F.SAGGAR_JOBSRC_OFFS * 16,
        dst := c.get F.SAGGAR_JOBDST_OFFS * 16, len := c.get F.SAGGAR_JOBLEN_LEN,
        iv := (c.fieldBytes F.SAGGAR_JOBIV_IV 4).take (if mode < 2 then 12 else 13),
        tag := (c.fieldBytes F.SAGGAR_JOBTAG_TAG 4).take (if tag16 then 16 else 8),
        key := if b.holds then some b.key else none }
    (c.onKeys fun k => { k with job := some job }).set F.SAGGAR_JOBRES_STATUS Status.busy.code

/-- START: JOBCMD.START written by `i`. -/
def execStart (i : Init) (s : State) : Host.Outcome State Fault Refusal :=
  .next (s.onChip fun c => c.gate i .saggar 0x080 Chip.startJob)

/-- Whether the areas of a job overlap other than in place. -/
def HostJob.overlaps (j : HostJob) : Bool :=
  j.dst != j.src + j.aadlen && decide (0 < j.len) && decide (j.dst < j.src + j.aadlen + j.len) && decide (j.src < j.dst + j.len)

/-- The first condition of Table 11-7 that turns a job away before it runs, if any. -/
def HostJob.refusal (j : HostJob) : Option Status :=
  if !inStaging j.src (j.aadlen + j.len) || !inStaging j.dst j.len || j.overlaps then some .format
  else if 4064 < j.len ∨ 32 < j.aadlen then some .length
  else if j.key.isNone then some .refused
  else none

/-- Run a job that succeeds on its pair: the result and tag, or a tag mismatch. -/
def Work.runJob (w : Work) (j : HostJob) (key : List Byte) : Work × Status :=
  let aad := w.readBytes .sram j.src j.aadlen
  let body := w.readBytes .sram (j.src + j.aadlen) j.len
  if j.mode % 2 = 0 then
    let r := if j.mode = 0 then gcmSeal key j.tag.length j.iv aad body else ccmSeal key j.tag.length j.iv aad body
    ((w.write .sram j.dst r.1).onChip fun c => c.putFieldBytes F.SAGGAR_JOBTAG_TAG r.2, .ok)
  else
    match (if j.mode = 1 then gcmOpen key j.iv aad body j.tag else ccmOpen key j.iv aad body j.tag) with
    | some p => (w.write .sram j.dst p, .ok)
    | none => (w.write .sram j.dst (List.replicate j.len 0), .authFail)

/-- JOBDONE: the job in progress ends with the first applicable code of Table 11-7; `mis` as in `Chip.runPair`.  A job whose
runs all disagree ends with RETIRED (log entry 52). -/
def execJobdone (mis : Nat × Nat) (s : State) : Host.Outcome State Fault Refusal :=
  .next (s.onWork fun w =>
    match w.chip.keys.job with
    | none => w
    | some j =>
      let w := w.onChip fun c => c.onKeys fun k => { k with job := none }
      let (w, st) : Work × Status :=
        match j.refusal with
        | some st => (w, st)
        | none =>
          let r := w.chip.runPair (j.mode % 2) mis
          let w := w.onChip fun _ => r.2
          if r.1 then w.runJob j (j.key.getD []) else (w, .retired)
      w.onChip fun c => (c.set F.SAGGAR_JOBRES_STATUS st.code).raise .saggar 2)

/-! Hashing and signatures (R314, R315). -/

/-- HCMD.HASH and HCMD.VERIFY: the command is captured; HRES reads BUSY until it ends. -/
def Chip.startHash (c : Chip) (j : HashJob) : Chip :=
  (c.onKeys fun k => { k with hash := some j }).set F.SAGGAR_HRES_STATUS Status.busy.code

/-- A write of HCMD (R451, R452). -/
def Chip.hcmdWrite (c : Chip) (i : Init) (val : Nat) : Chip :=
  if !val.testBit 0 ∧ !val.testBit 1 then c
  else if c.keys.hash.isSome then c.refuseState i .saggar 0x098
  else if val.testBit 0 ∧ val.testBit 1 then c.refuseMulti i .saggar 0x098
  else if val.testBit 0 then c.startHash (.hash (c.get F.SAGGAR_HSRC_OFFS) (c.get F.SAGGAR_HLEN_LEN))
  else c.startHash (.verify (c.get F.SAGGAR_HSRC_OFFS))

/-- HASH: HCMD.HASH written by `i`. -/
def execHash (i : Init) (s : State) : Host.Outcome State Fault Refusal :=
  .next (s.onChip fun c => c.gate i .saggar 0x098 (·.hcmdWrite i 1))

/-- VERIFY_SIGNATURE: HCMD.VERIFY written by `i`. -/
def execVerifySignature (i : Init) (s : State) : Host.Outcome State Fault Refusal :=
  .next (s.onChip fun c => c.gate i .saggar 0x098 (·.hcmdWrite i 2))

/-- Whether a digest equals eight fuse words, byte 4n in bits 7:0 of word n (log entry 53). -/
def digestIs (d : List Byte) (ws : List Nat) : Bool := d == (ws.take 8).flatMap (leBytes 4)

/-- The result of a signature check on a 128 B block (R315). -/
def verifyBlock (digest block : List Byte) (placed : Bool) : Status :=
  let r := beNat (block.take 32)
  let s := beNat ((block.drop 32).take 32)
  let x := beNat ((block.drop 64).take 32)
  let y := beNat ((block.drop 96).take 32)
  if !placed || !onCurve x y || r = 0 || p256N ≤ r || s = 0 || p256N ≤ s then .format
  else if ecdsaVerify (beNat digest) r s x y then .ok else .authFail

/-- HASHDONE: the hash or signature command ends (R314, R315). -/
def execHashdone (s : State) : Host.Outcome State Fault Refusal :=
  .next (s.onWork fun w =>
    match w.chip.keys.hash with
    | none => w
    | some j =>
      let w := w.onChip fun c => c.onKeys fun k => { k with hash := none }
      let fin (w : Work) (st : Status) : Work := w.onChip fun c => (c.set F.SAGGAR_HRES_STATUS st.code).raise .saggar 3
      match j with
      | .hash src len =>
        if 0x01000000 < src + len then fin w .format
        else fin (w.onChip fun c => c.putFieldBytes F.SAGGAR_HDIG_DIGEST (sha256 (w.readBytes .sram src len))) .ok
      | .verify src =>
        let block := w.readBytes .sram src 128
        let kh := sha256 (block.drop 64)
        let st := verifyBlock (w.chip.fieldBytes F.SAGGAR_HDIG_DIGEST 8) block (inStaging src 128)
        let fz := match w.chip.ferzalanHash with
          | some ws => digestIs kh ws
          | none => false
        let oem := match w.chip.oemHash with
          | some (ws, present) => present && digestIs kh ws
          | none => false
        fin (w.onChip fun c => (c.setFlag F.SAGGAR_HRES_FZMATCH fz).setFlag F.SAGGAR_HRES_OEMMATCH oem) st)

/-! The random source and injected faults. -/

/-- RNGFAIL: the random source fails its health test (R317). -/
def execRngfail (s : State) : Host.Outcome State Fault Refusal :=
  .next (s.onChip fun c => ((c.onKeys fun k => { k with rngOk := false }).pfaultSet .saggar 2).raise .saggar 4)

/-- RNGOK: the random source passes again (R317). -/
def execRngok (s : State) : Host.Outcome State Fault Refusal :=
  .next (s.onChip fun c => c.onKeys fun k => { k with rngOk := true })

/-- A write of PIPEOVR: one fault for each pair named (R320). -/
def Chip.pipeovrWrite (c : Chip) (mask : Nat) : Chip := (bitsOf 2 mask).foldl (fun c p => c.fault1 6 0 p) c

/-- PIPEOVR: SAGGAR.PIPEOVR written by `i`. -/
def execPipeovr (i : Init) (mask : Nat) (s : State) : Host.Outcome State Fault Refusal :=
  .next (s.onChip fun c => c.gate i .saggar 0x404 (·.pipeovrWrite mask))

end Sys2Proof.Machine
end

