-- ==== Sys2Proof/Machine/Queues.lean ====
section
/-!
DEFINITION. Transmit queues and rings: fetching, flushing, ring commands, delivery, completions and DMA errors (R274 to R286).
-/
namespace Sys2Proof.Machine

/-! Fetching. -/

/-- Little-endian number at bytes `a` to `a + n - 1` of a descriptor. -/
def leAt (bs : List Byte) (a n : Nat) : Nat := leNat ((bs.drop a).take n)

/-- A TX descriptor as an MPDU that has no result yet (Table 10-1). -/
def txOfDescriptor (id ring cq hLow turn : Nat) (bs : List Byte) : TxMpdu :=
  let d := leAt bs 10 2
  { id, ring := some ring, cq, hLow, dest := d % 2 ^ 14, cls := bitField d 14 1, gen := leAt bs 12 1 % 16,
    mtype := leAt bs 13 1, level := leAt bs 14 1 % 8, gkey := (leAt bs 14 1).testBit 3, hops := leAt bs 15 1,
    orig := leAt bs 16 2 % 2 ^ 14, final := leAt bs 18 2 % 2 ^ 14, silent := (leAt bs 20 1).testBit 0,
    epsel := bitField (leAt bs 20 1) 1 2, target := none, cookie := (bs.drop 24).take 8, payload := [], fetchTurn := turn, mseq := none,
    prot := none, protOld := none, bt := 0, rate := 0, tmv := 0, blocks := [], lastTries := 0, sentIn := [],
    inFrames := 0, flushed := false, status := none }

/-- Whether a short ID is broadcast or a group. -/
def isGroupDest (d : Nat) : Bool := d == 0x3FFF || (0x2000 ≤ d && d ≤ 0x203F)

/-- The slot whose queues an MPDU uses: the peer's, or slot 0 (R274). -/
def queueSlot (dest : Nat) : Nat := if 1 ≤ dest ∧ dest < 8192 then dest else 0

/-- Whether a TX descriptor asks for what FORMAT refuses (Table 10-5). -/
def descriptorBad (m : TxMpdu) (bs : List Byte) : Bool :=
  let grp := isGroupDest m.dest
  leAt bs 8 2 / 2 ^ 13 != 0 || (leAt bs 10 2).testBit 15 || leAt bs 12 1 / 32 != 0 || leAt bs 14 1 / 16 != 0
    || leAt bs 16 2 / 2 ^ 14 != 0 || leAt bs 18 2 / 2 ^ 14 != 0 || leAt bs 20 1 / 8 != 0 || leAt bs 21 3 != 0
    || m.epsel == 3 || !(m.level == 0 || m.level == 5 || m.level == 6)
    || !(grp || (1 ≤ m.dest && m.dest < 8192)) || (1 ≤ m.mtype && m.mtype ≤ 0x7F)
    || (m.level != 0 && m.gkey != grp)
    || ((leAt bs 12 1).testBit 4 && !inStaging (leAt bs 0 8) (leAt bs 8 2 % 2 ^ 13))

/-- Whether no key serves the addressee: the slot's current bank, or the group bank in force (Table 10-5). -/
def Chip.noKey (c : Chip) (m : TxMpdu) : Bool :=
  if m.level = 0 then false
  else if isGroupDest m.dest then
    match c.groupBank 0 with
    | some r => !(c.keys.bank r).holds
    | none => true
  else !(c.keys.slot 0 m.dest).cur.holds

/-- Whether the lane of a peer's group has failed or has no port that can work (Table 10-5). -/
def Chip.destRetired (c : Chip) (m : TxMpdu) : Bool :=
  match c.slotLane m.dest with
  | some n => c.bitAt F.HEALTH_HSTAT_LANEFAIL n.idx || Port.all.all fun p => c.retired 0 n.num p.num
  | none => false

/-- Whether a queue has reached its limit (R275). -/
def Chip.queueFull (c : Chip) (q : Nat) : Bool := decide (c.get F.QM_QLIM_CELLS ≤ (c.queue q).cells)

/-- The code with which a descriptor completes at its fetch, if any: the earliest row of Table 10-5 (R286). -/
def Chip.fetchCode (c : Chip) (m : TxMpdu) (bs : List Byte) (q : Nat) : Option Status :=
  let peer := !isGroupDest m.dest
  if descriptorBad m bs then some .format
  else if 4064 < leAt bs 8 2 % 2 ^ 13 then some .length
  else if (peer ∧ (!c.assigned m.dest ∨ (c.nbr m.dest).gen ≠ m.gen ∨ (c.nbr m.dest).epst = 3)) ∨ (!peer ∧ m.gen ≠ 0)
    then some .stale
  else if c.noKey m then some .refused
  else if c.queueFull q then some .busy
  else if c.destRetired m then some .retired
  else none

/-- Whether TX ring `r` has a descriptor that may be fetched now (R275, R281). -/
def Work.fetchable (w : Work) (r : Nat) : Bool :=
  let c := w.chip
  let x := c.ring r
  let cq := c.ring (128 + x.pair)
  if x.st = 1 ∧ !x.rxbuf ∧ x.h ≠ x.t ∧ !cq.full ∧ cq.held.isEmpty ∧ c.rxReserve < c.get F.QM_CELLSTAT_FREE then
    let d := leAt (w.readBytes x.space (x.entry x.h) 32) 10 2
    x.fullpol || !c.queueFull (2 * queueSlot (d % 2 ^ 14) + bitField d 14 1)
  else false

/-- The TX ring whose turn it is (R281): the present one while its weight lasts, else the next that has work. -/
def Work.pickRing (w : Work) : Option (Nat × Nat) :=
  let q := w.chip.qm
  if 0 < q.rrLeft ∧ w.fetchable q.rrRing then some (q.rrRing, q.rrLeft - 1)
  else
    (((List.range 128).map fun k => (q.rrRing + 1 + k) % 128).find? w.fetchable).map fun r =>
      (r, (w.chip.ring r).weight - 1)

/-- The turn an MPDU for a slot is reckoned in. -/
def Chip.slotTurn (c : Chip) (slot : Nat) : Nat :=
  match c.slotLane slot with
  | some n => c.turn n
  | none => c.latestTurn

/-- The epoch that EPSEL names: any, the one current at the fetch, or the one after it (Table 10-1; log entry 69). -/
def Chip.epochNamed (c : Chip) (epsel : Nat) : Option Nat :=
  if epsel = 1 then some c.wheel.cur.num else if epsel = 2 then some ((c.wheel.cur.num + 1) % 256) else none

/-- Fetch the next descriptor of TX ring `r` (R281, R286). -/
def Work.fetchTx (w : Work) (r left : Nat) : Work :=
  let x := w.chip.ring r
  let bs := w.readBytes x.space (x.entry x.h) 32
  let h := x.succ x.h
  let dest := leAt bs 10 2 % 2 ^ 14
  let slot := queueSlot dest
  let m := txOfDescriptor w.chip.qm.nextId r x.pair (h % 2 ^ 16) (w.chip.slotTurn slot) bs
  let m := { m with target := w.chip.epochNamed m.epsel }
  let q := 2 * slot + m.cls
  let m := match w.chip.fetchCode m bs q with
    | some st => { m with status := some st.code }
    | none =>
      { m with payload :=
          w.readBytes (if (leAt bs 12 1).testBit 4 then .sram else .host) (leAt bs 0 8) (leAt bs 8 2 % 2 ^ 13) }
  w.onChip fun c =>
    let c := (c.onRing r fun x => { x with h := h }).count F.QM_TXFETCH_COUNT 1
    let c := c.onQm fun k => { k with nextId := k.nextId + 1, rrRing := r, rrLeft := left }
    (c.onQueue q fun x => { x with mpdus := x.mpdus ++ [m] }).recount

/-- Whether an RXBUF descriptor holds a reserved encoding (Table 10-2, R282). -/
def rxbufBad (bs : List Byte) : Bool :=
  let size := leAt bs 8 2
  size < 256 || 32768 < size || size % 64 != 0 || leAt bs 10 2 != 0 || (leAt bs 12 1 &&& 0xEF) != 0 || leAt bs 13 11 != 0

/-- Fetch the next descriptor of RXBUF ring `r`: a buffer, or, for a reserved encoding, a skip and ERROR with cause 3
(R282). -/
def Work.fetchRx (w : Work) (r : Nat) : Work :=
  let x := w.chip.ring r
  if x.st = 1 ∧ x.rxbuf ∧ x.h ≠ x.t then
    let bs := w.readBytes x.space (x.entry x.h) 32
    let w := w.onChip fun c => c.onRing r fun x => { x with h := x.succ x.h }
    if rxbufBad bs then w.onChip fun c => c.ringError r 3
    else w.onChip fun c => c.onRing r fun x => { x with
      bufs := x.bufs ++ [{ addr := leAt bs 0 8, size := leAt bs 8 2, loc := (leAt bs 12 1).testBit 4,
                           cookie := (bs.drop 24).take 8 }] }
  else w

/-- DESCRIPTOR_FETCH: the next TX descriptor by weighted round robin, or the next descriptor of an RXBUF ring
(R281, R282). -/
def execDescriptorFetch (rxbuf : Option Nat) (s : State) : Host.Outcome State Fault Refusal :=
  .next (s.onWork fun w =>
    if !w.chip.hubRuns then w
    else match rxbuf with
      | some r => if r < 128 then w.fetchRx r else w
      | none =>
        match w.pickRing with
        | some (r, left) => w.fetchTx r left
        | none => w)

/-! Queue commands (R276). -/

/-- QCMD.FLUSH: every MPDU of the queue that no committed frame carries completes with REFUSED; one that a committed frame carries
completes when that frame's exchange ends (`TxMpdu.leaves`). -/
def Chip.queueFlush (c : Chip) (q : Nat) : Chip :=
  (c.onQueue q fun x => { x with mpdus := x.mpdus.map fun m =>
    if m.committed then { m with flushed := true } else m.finish Status.refused.code }).set F.QM_QRES_STATUS Status.ok.code

/-- QCMD.HOLD and RELEASE. -/
def Chip.queueHold (c : Chip) (q : Nat) (b : Bool) : Chip :=
  (c.onQueue q fun x => { x with held := b }).set F.QM_QRES_STATUS Status.ok.code

/-- A write of QCMD (R276, R452). -/
def Chip.qcmdWrite (c : Chip) (i : Init) (val : Nat) : Chip :=
  let q := c.get F.QM_QSEL_QUEUE
  match val.testBit 0, val.testBit 1, val.testBit 2 with
  | true, false, false => c.queueFlush q
  | false, true, false => c.queueHold q true
  | false, false, true => c.queueHold q false
  | false, false, false => c
  | _, _, _ => c.refuseMulti i .qm 0x088

/-- QUEUE_FLUSH: QCMD.FLUSH written by `i`. -/
def execQueueFlush (i : Init) (s : State) : Host.Outcome State Fault Refusal :=
  .next (s.onChip fun c => c.gate i .qm 0x088 (·.qcmdWrite i 1))

/-- HOLD: QCMD.HOLD written by `i`. -/
def execHold (i : Init) (s : State) : Host.Outcome State Fault Refusal :=
  .next (s.onChip fun c => c.gate i .qm 0x088 (·.qcmdWrite i 2))

/-- QUEUE_RELEASE: QCMD.RELEASE written by `i`. -/
def execQueueRelease (i : Init) (s : State) : Host.Outcome State Fault Refusal :=
  .next (s.onChip fun c => c.gate i .qm 0x088 (·.qcmdWrite i 4))

/-- Whether no block of an MPDU has been sent. -/
def TxMpdu.unsent (m : TxMpdu) : Bool := !m.committed && m.blocks.all fun b => b.tries == 0

/-- LIFE_EXPIRY: the MPDUs of queue `q` that have waited LIFE turns for their first sending complete with TIMEOUT
(R276). -/
def execLifeExpiry (q : Nat) (s : State) : Host.Outcome State Fault Refusal :=
  .next (s.onChip fun c =>
    let life := c.get F.QM_QCFG_LIFE
    let now := c.slotTurn (q / 2)
    if life = 0 then c
    else c.onQueue q fun x => { x with mpdus := x.mpdus.map fun m =>
      if m.unsent ∧ (life : Int) ≤ turnDist m.fetchTurn now then m.finish Status.timeout.code else m })

/-! Rings. -/

/-- Judge and apply a RINGDB write (R279). -/
def Work.ringdb (w : Work) (r p : Nat) : Work :=
  let x := w.chip.ring r
  let m := 2 * x.slots
  if x.st = 2 then w
  else if r < 128 then
    if p < m ∧ (p + m - x.h) % m ≤ x.slots then w.onChip fun c => c.onRing r fun x => { x with t := p }
    else w.onChip fun c => c.ringPtrError r
  else
    if p < m ∧ (x.t + m - p) % m ≤ x.count then (w.onChip fun c => c.onRing r fun x => { x with h := p }).cqDrain r
    else w.onChip fun c => c.ringPtrError r

/-- A write of RINGDB: in STANDBY and COAST it is latched, and wakes the hub from STANDBY while RINGWAKE is 1 (R279). -/
def Work.ringdbWrite (w : Work) (val : Nat) : Work :=
  let r := bitField val 24 8
  let p := bitField val 0 17
  if w.chip.hubRuns then w.ringdb r p
  else w.onChip fun c =>
    let c := c.onQm fun q => { q with latched := q.latched ++ [(r, p)] }
    if c.power = .standby ∧ c.flag F.QM_QCFG_RINGWAKE then
      c.onPins fun p => { p with wake := some (p.wake.getD 1) }
    else c

/-- The latched RINGDB writes are applied in order of arrival, and held entries are written, once the hub runs (R279,
R292). -/
def Work.ringsResume (w : Work) : Work :=
  let l := w.chip.qm.latched
  let w := w.onChip fun c => c.onQm fun q => { q with latched := [] }
  let w := l.foldl (fun w e => w.ringdb e.1 e.2) w
  (w.chip.qm.rings.map Prod.fst).foldl (fun w r => w.cqDrain r) w

/-- RINGDB: QM.RINGDB written by `i`. -/
def execRingdb (i : Init) (ring ptr : Nat) (s : State) : Host.Outcome State Fault Refusal :=
  .next (s.onWork fun w => w.gate i .qm 0x048 (·.ringdbWrite (ring % 256 * 2 ^ 24 + ptr % 2 ^ 17)))

/-- A write of RSEL loads RBASE and RCFG with the stored values of the ring (R280). -/
def Chip.rselWrite (c : Chip) (val : Nat) : Chip :=
  let c := c.store .qm 0x04C val
  let x := c.ring (val % 256)
  let c := (c.set F.QM_RBASE_BASE x.base).set F.QM_RCFG_SIZE x.size
  let c := (c.setFlag F.QM_RCFG_LOC x.loc).setFlag F.QM_RCFG_KIND x.rxbuf
  let c := (c.set F.QM_RCFG_PAIR x.pair).set F.QM_RCFG_VEC x.vec
  ((c.setFlag F.QM_RCFG_IRQEN x.irqen).set F.QM_RCFG_WEIGHT x.weight).setFlag F.QM_RCFG_FULLPOL x.fullpol

/-- RSEL_WRITE: QM.RSEL written by `i`. -/
def execRselWrite (i : Init) (val : Nat) (s : State) : Host.Outcome State Fault Refusal :=
  .next (s.onChip fun c => c.gate i .qm 0x04C (·.rselWrite val))

/-- The code of an ENABLE (R280). -/
def Chip.enableCode (c : Chip) (r : Nat) : Status :=
  let size := c.get F.QM_RCFG_SIZE
  let base := c.get F.QM_RBASE_BASE
  let rx := r < 128 && c.flag F.QM_RCFG_KIND
  let second := c.qm.rings.any fun e =>
    e.1 < 128 && e.1 != r && e.2.st != 0 && e.2.rxbuf && e.2.pair == c.get F.QM_RCFG_PAIR
  if size < 4 ∨ 16 < size ∨ base % 64 ≠ 0 ∨ (c.flag F.QM_RCFG_LOC ∧ !inStaging base (32 * 2 ^ size))
      ∨ (r < 128 ∧ !rx ∧ c.get F.QM_RCFG_WEIGHT = 0) then .format
  else if (c.ring r).st ≠ 0 ∨ (rx ∧ second) then .refused
  else .ok

/-- RCMD.ENABLE (R280). -/
def Work.ringEnable (w : Work) : Work :=
  let r := w.chip.get F.QM_RSEL_RING
  let st := w.chip.enableCode r
  let w := w.onChip fun c => c.set F.QM_RRES_STATUS st.code
  if st = .ok then
    (w.onChip fun c => c.onRing r fun x =>
      { x with base := c.get F.QM_RBASE_BASE, size := c.get F.QM_RCFG_SIZE, loc := c.flag F.QM_RCFG_LOC,
               rxbuf := r < 128 && c.flag F.QM_RCFG_KIND, pair := c.get F.QM_RCFG_PAIR, vec := c.get F.QM_RCFG_VEC,
               irqen := c.flag F.QM_RCFG_IRQEN, weight := c.get F.QM_RCFG_WEIGHT, fullpol := c.flag F.QM_RCFG_FULLPOL,
               modCount := c.get F.QM_MOD_COUNT, modTime := c.get F.QM_MOD_TIME, st := 1, err := 0 }).cqDrain r
  else w

/-- A ring goes to OFF, keeping its counters and clearing ERR (R280). -/
def Chip.ringOff (c : Chip) (r : Nat) : Chip := c.onRing r fun x => { x with st := 0, err := 0 }

/-- RCMD.DISABLE (R280). -/
def Chip.ringDisable (c : Chip) : Chip := (c.ringOff (c.get F.QM_RSEL_RING)).set F.QM_RRES_STATUS Status.ok.code

/-- RCMD.RESET: refused unless the ring is OFF (R280). -/
def Chip.ringReset (c : Chip) : Chip :=
  let r := c.get F.QM_RSEL_RING
  if (c.ring r).st = 0 then
    (c.onRing r fun x => { x with h := 0, t := 0 }).set F.QM_RRES_STATUS Status.ok.code
  else c.set F.QM_RRES_STATUS Status.refused.code

/-- A write of RCMD (R280, R452). -/
def Work.rcmdWrite (w : Work) (i : Init) (val : Nat) : Work :=
  match val.testBit 0, val.testBit 1, val.testBit 2 with
  | true, false, false => w.ringEnable
  | false, true, false => w.onChip Chip.ringDisable
  | false, false, true => w.onChip Chip.ringReset
  | false, false, false => w
  | _, _, _ => w.onChip fun c => c.refuseMulti i .qm 0x060

/-- ENABLE: RCMD.ENABLE written by `i`. -/
def execEnable (i : Init) (s : State) : Host.Outcome State Fault Refusal :=
  .next (s.onWork fun w => w.gate i .qm 0x060 (·.rcmdWrite i 1))

/-- DISABLE: RCMD.DISABLE written by `i`. -/
def execDisable (i : Init) (s : State) : Host.Outcome State Fault Refusal :=
  .next (s.onWork fun w => w.gate i .qm 0x060 (·.rcmdWrite i 2))

/-- RESET: RCMD.RESET written by `i`. -/
def execReset (i : Init) (s : State) : Host.Outcome State Fault Refusal :=
  .next (s.onWork fun w => w.gate i .qm 0x060 (·.rcmdWrite i 4))

/-- MODERATION_TIMER: MOD.TIME has passed since the first entry of a completion ring not yet signalled (R284). -/
def execModerationTimer (cq : Nat) (s : State) : Host.Outcome State Fault Refusal :=
  .next (s.onChip fun c =>
    let x := c.ring (128 + cq)
    if cq < 128 ∧ x.irqen ∧ 0 < x.unsignalled ∧ x.modTime ≠ 0 then c.signalRing (128 + cq) else c)

/-- DMA_ERROR (R285): a failed payload fetch completes its descriptor with FORMAT; any other failed transfer puts its ring or
the D2H mailbox path into ERROR. -/
def execDmaError (what : DmaTarget) (s : State) : Host.Outcome State Fault Refusal :=
  .next (s.onChip fun c =>
    let qm (c : Chip) : Chip := ((c.pfaultSet .qm 1).raise .qm 1).count F.QM_DROPS2_DMAERRS 1
    match what with
    | .payload q id => (qm c).onMpdu q id fun m => { m.finish Status.format.code with payload := [] }
    | .ring r => (qm c).ringError (r % 256) 2
    | .mailbox => ((qm (c.onMbx fun m => { m with err := true })).pfaultSet .mbx 0).raise .mbx 3)

/-! Completions and delivery. -/

/-- TX_COMPLETION: the oldest MPDU of queue `q` is done and its completion is written (R283). -/
def execTxCompletion (q : Nat) (s : State) : Host.Outcome State Fault Refusal :=
  .next (s.onWork fun w => if w.chip.hubRuns then w.completeHead q else w)

/-- The RXBUF ring that feeds a completion ring, if one runs or is in ERROR (R282). -/
def Chip.rxbufRing (c : Chip) (cq : Nat) : Option Nat :=
  (c.qm.rings.find? fun e => e.1 < 128 && e.2.st != 0 && e.2.rxbuf && e.2.pair == cq).map Prod.fst

/-- How many of the first buffers hold `len` bytes: at most 16, since NBUF has 4 bits (Table 10-3). -/
def bufsNeeded : List RxBuf → Nat → Nat → Option Nat
  | _, 0, k => some k
  | [], _, _ => none
  | b :: bs, len, k => if k < 16 then bufsNeeded bs (len - b.size) (k + 1) else none

/-- Fill buffers in order with bytes. -/
def Work.fillBufs (w : Work) : List RxBuf → List Byte → Work
  | [], _ => w
  | b :: bs, data => (w.write (if b.loc then .sram else .host) b.addr (data.take b.size)).fillBufs bs (data.drop b.size)

/-- The receive entry of an MPDU (Table 10-3). -/
def RxMpdu.entry (m : RxMpdu) (cookie : List Byte) (nbuf hLow ring : Nat) : List Byte :=
  cookie ++ leBytes 8 m.eui ++ leBytes 4 m.turn ++ [0, 0] ++ leBytes 2 m.bytes.length
    ++ leBytes 2 (m.slot + 2 ^ 14 * m.cls + 2 ^ 15 * bit m.group)
    ++ [BitVec.ofNat 8 (m.gen + 16 * (nbuf - 1)), BitVec.ofNat 8 m.cone] ++ leBytes 2 hLow
    ++ [BitVec.ofNat 8 ring, 1]

/-- Deliver an MPDU through RXBUF ring `r` (R282): fetch buffers as needed, write the data, then the entry. -/
def Work.deliver (w : Work) (m : RxMpdu) (r : Nat) : Work :=
  let w := (List.range 16).foldl (fun w _ =>
    if (bufsNeeded (w.chip.ring r).bufs m.bytes.length 0).isSome then w else w.fetchRx r) w
  match bufsNeeded (w.chip.ring r).bufs m.bytes.length 0 with
  | none => w
  | some k =>
    let bufs := (w.chip.ring r).bufs.take k
    let w := w.fillBufs bufs m.bytes
    let w := w.onChip fun c => c.onRing r fun x => { x with bufs := x.bufs.drop k }
    let cookie := match bufs with
      | b :: _ => b.cookie
      | [] => List.replicate 8 0
    let w := w.cqPush m.ring (m.entry cookie k ((w.chip.ring r).h % 2 ^ 16) r)
    w.onChip fun c =>
      let c := c.onQm fun q => { q with deliver := q.deliver.erase m }
      let c := (c.count F.QM_RXDELIV_COUNT 1).count F.MAC_RXMPDU_COUNT 1
      (if m.slot < 8192 then c.onNbr m.slot fun e => { e with rxmpdu := satAdd 32 e.rxmpdu 1 } else c).recount

/-- A received MPDU is dropped: RXDROP (R282). -/
def Chip.rxDrop (c : Chip) (m : RxMpdu) : Chip :=
  (((c.onQm fun q => { q with deliver := q.deliver.erase m }).count F.QM_DROPS2_RXDROP 1).raise .qm 5).recount

/-- Whether an MPDU accepted before `m` for the same ring is still to come from a reception that is not yet over (R282). -/
def Chip.deliveryWaits (c : Chip) (m : RxMpdu) : Bool :=
  Lane.all.any fun n => (c.lane n).rx.rx.any fun r => r.accepted.any fun x => x.ring == m.ring && decide (x.ord < m.ord)

/-- MPDU_DELIVERY: the first accepted of the MPDUs for completion ring `cq` is delivered, or dropped where the ring is OFF or no
RXBUF ring feeds it; it waits where buffers are short (R282). -/
def execMpduDelivery (cq : Nat) (s : State) : Host.Outcome State Fault Refusal :=
  .next (s.onWork fun w =>
    match w.chip.qm.deliver.find? fun m => m.ring == cq with
    | none => w
    | some m =>
      if !w.chip.hubRuns ∨ w.chip.deliveryWaits m then w
      else if (w.chip.ring (128 + cq)).st = 0 then w.onChip (·.rxDrop m)
      else match w.chip.rxbufRing cq with
        | none => w.onChip (·.rxDrop m)
        | some r => w.deliver m r)

/-- NOBUF: the MPDUs that have waited RXHOLD turns for buffers of completion ring `cq` are dropped (R282). -/
def execNobuf (cq : Nat) (s : State) : Host.Outcome State Fault Refusal :=
  .next (s.onChip fun c =>
    let old := c.qm.deliver.filter fun m => m.ring == cq && (match Lane.ofNum m.lane with
      | some n => decide ((c.get F.QM_QCFG_RXHOLD : Int) ≤ turnDist m.since (c.turn n))
      | none => false)
    old.foldl (fun c m =>
      (((c.onQm fun q => { q with deliver := q.deliver.erase m }).count F.QM_DROPS_NOBUF 1).raise .qm 3).recount) c)

end Sys2Proof.Machine
end

