-- ==== Sys2Proof/Machine/Sleep.lean ====
section
/-!
DEFINITION. Sleeping peers: the wake interval, the expected arrival and its window, and missed wakes (R100, R101).
-/
namespace Sys2Proof.Machine

/-- Wake interval I of a peer in ticks (R100): N nominal turns. -/
def Chip.wakeInterval (c : Chip) (e : Nbr) : Nat :=
  if c.flag F.WHEEL_WCTL_NOMFREQ then roundDiv (e.n * 20480000) 3 else e.n * 8192000

/-- Expected arrival t_exp (R100). -/
def Chip.wakeExpected (c : Chip) (e : Nbr) : Int :=
  let i := c.wakeInterval e
  (e.tref : Int) + i + divZero (e.drift * i) (10 ^ 8)

/-- Guard G in ticks: WAKEG in µs and the uncertainty (R100). -/
def Chip.wakeGuard (c : Chip) (e : Nbr) : Nat :=
  c.get F.WHEEL_WAKECFG_WAKEG * 1024 / 10 + e.unc * c.wakeInterval e / 10 ^ 8

/-- First and last tick of the wake window (R100). -/
def Chip.wakeWindow (c : Chip) (e : Nbr) : Int × Int :=
  (c.wakeExpected e - c.wakeGuard e, c.wakeExpected e + c.wakeGuard e)

/-- Whether a span of ticks overlaps the wake window of a sleeping peer of group `n` (R100). -/
def Chip.wakeClash (c : Chip) (n : Lane) (a b : Nat) : Bool :=
  c.mac.nbr.any fun e => e.1 ≠ 0 && e.2.st == 1 && e.2.sleep && e.2.group == n.num &&
    decide ((c.wakeWindow e.2).1 ≤ b ∧ (a : Int) ≤ (c.wakeWindow e.2).2)

/-- WAKE_WINDOW_OPEN (R100): at t_exp - G the GX8 starts to listen for the peer. -/
def execWakeWindowOpen (slot : Nat) (s : State) : Host.Outcome State Fault Refusal :=
  .next (s.onChip fun c =>
    let e := c.nbr slot
    if slot ≠ 0 ∧ e.st = 1 ∧ e.sleep then
      (c.advanceTo (c.wakeWindow e).1.toNat).onWheel fun w =>
        { w with windows := if w.windows.contains slot then w.windows else w.windows ++ [slot] }
    else c)

/-- The Wheel's record of a missed wake: TREF' = t_exp, UNC doubled, the miss counted; WAKE alarm after WMISS in a row
(R101). -/
def Chip.missWake (c : Chip) (slot : Nat) : Chip :=
  let e := c.nbr slot
  let c' := c.onNbr slot fun x =>
    { x with tref := (c.wakeExpected e).toNat % 2 ^ 64, unc := min (2 * e.unc) 65535, wmiss := e.wmiss + 1 }
  let c' := (c'.count F.WHEEL_COUNTS_WAKEMISS 1).onWheel fun w => { w with windows := w.windows.filter (· != slot) }
  if c.get F.WHEEL_WAKECFG_WMISS ≤ e.wmiss + 1 then c'.raise .wheel 6 else c'

/-- WAKEMISS (R101): the window ends with no request, or with one that fell under a beacon. -/
def execWakemiss (slot : Nat) (s : State) : Host.Outcome State Fault Refusal :=
  .next (s.onChip fun c =>
    let e := c.nbr slot
    if slot ≠ 0 ∧ e.st = 1 ∧ e.sleep then (c.advanceTo ((c.wakeWindow e).2 + 1).toNat).missWake slot else c)

end Sys2Proof.Machine
end

