-- ==== Sys2Proof/Machine/Agc.lean ====
section
/-!
DEFINITION. The gain loops, stored codes and their learning (R167 to R171, R197).
-/
namespace Sys2Proof.Machine

/-- A stored entry at lane load: codes 12, LOCK 0, VALID 0 (R171). -/
def storedReset : Nat := packFields [(7, 12), (7, 12), (7, 12), (7, 12)]

/-- Stored entry of facet `f`, as STDATA shows it. -/
def Chip.stored (c : Chip) (n : Lane) (f : Nat) : Nat := (c.lane n).rx.agc.stored.getD f storedReset

/-- The four codes of a stored entry. -/
def storedCodes (w : Nat) : List Nat := (List.range 4).map fun i => bitField w (7 * i) 7

/-- Store an entry. -/
def Chip.putStored (c : Chip) (n : Lane) (f w : Nat) : Chip :=
  c.onAgc n fun a => { a with stored := if w = storedReset then a.stored.erase f else a.stored.insert f w }

/-- A write of AGCCFG or AGCFIX takes effect: with LOOPEN 0 every PGA holds AGCFIX.CODE (Table 6-8). -/
def Chip.agcConfig (c : Chip) (n : Lane) : Chip :=
  if c.flag (F.AGC_AGCCFG_LOOPEN n) then
    if (c.lane n).rx.agc.mode = 2 then c.onAgc n fun a => { a with mode := 0 } else c
  else
    let k := c.get (F.AGC_AGCFIX_CODE n)
    (c.setCodes n [k, k, k, k]).onAgc n fun a => { a with mode := 2 }

/-- The loops freeze (R168, R169). -/
def Chip.freeze (c : Chip) (n : Lane) : Chip :=
  if (c.lane n).rx.agc.frozen then c
  else ((c.onAgc n fun a => { a with frozen := true, holdTo := none, learn := none }).noteGain n).count (F.AGC_COUNTS_FREEZES n) 1

/-- The frozen gain is released 2.5 µs after tick `t` (R168, R169). -/
def Chip.holdGain (c : Chip) (n : Lane) (t : Nat) : Chip := c.onAgc n fun a => { a with holdTo := some (t + 256) }

/-- The gain is released: the loops run again, or stay off in an FD facet; the code stands (R168, R169). -/
def Chip.unfreeze (c : Chip) (n : Lane) : Chip :=
  (c.onAgc n fun a => { a with frozen := false, holdTo := none, mode := if a.mode = 2 then 2 else bit (c.fdSpan n) }).noteGain n

/-- The gain as it stands at the present tick: the settling of an uplink ends MUSET after B(GFAC), and the loops freeze until
2.5 µs after its end; else a gain that is neither frozen nor waiting for a candidate follows the present facet (R100, R169, R170). -/
def Chip.settled (c : Chip) (n : Lane) : Chip :=
  let a := (c.lane n).rx.agc
  if a.mode = 3 ∧ !a.frozen ∧ 10 * a.settle + 1024 * c.get (F.AGC_LOOPK_MUSET n) ≤ 10 * c.tick then
    match (c.lane n).rx.rx with
    | some r => ((c.freeze n).holdGain n r.tend).onRxn n fun r => { r with codes := a.codes }
    | none => c.freeze n
  else if a.mode ≤ 1 ∧ !a.frozen ∧ a.deferred.isNone then c.onAgc n fun a => { a with mode := bit (c.fdSpan n) }
  else c

/-- Whether the loops run: loop mode, or settling; not while phase A of a FULL training pass holds the training gain (R151). -/
def Chip.loopsRun (c : Chip) (n : Lane) : Bool :=
  let a := (c.lane n).rx.agc
  !a.frozen && (a.mode == 0 || a.mode == 3) && c.flag (F.AGC_AGCCFG_LOOPEN n) && (c.lane n).echo.running != 1

/-- What is known of a detection candidate at the present tick: it is pending from the first tick on at which the metric reaches THR;
while a reception or a frozen gain occupies the path there is none (R163, R170). -/
def Chip.noteCandidate (c : Chip) (n : Lane) (cand : Bool) : Chip :=
  c.iff (cand && (c.lane n).rx.rx.isNone && !(c.lane n).rx.agc.frozen) fun c => c.onAgc n fun a =>
    { a with cand := true, since := if a.cand then a.since else c.tick }

/-- A candidate is no longer pending; the ticks for which it was spoil the noise windows (R170, R234). -/
def Chip.endCandidate (c : Chip) (n : Lane) : Chip :=
  let a := (c.lane n).rx.agc
  let c := c.iff a.cand fun c => c.onRx n fun r => { r with spans := (a.since, c.tick + 1) :: r.spans }
  c.onAgc n fun a => { a with cand := false, deferred := none }

/-- One loop's move at the end of a window, for an rms level in 0.5 dB above full scale: down by at most ATTACK, up by at
most DECAY times the window (R167, log entry 65). -/
def agcMove (code frac : Nat) (level : Int) (target attack decay win : Nat) (downOnly : Bool) : Nat × Nat :=
  let d : Int := -(target : Int) - level
  if d < 0 then (code - min d.natAbs (2 * attack), 0)
  else if downOnly ∨ d = 0 then (code, frac)
  else
    let up := frac + min (512 * d.natAbs) (decay * 2 ^ win)
    let k := min 96 (code + up / 512)
    (k, if k = 96 then 0 else up % 512)

/-- AGC_WINDOW (R167, R170): an rms window of 2^WIN ticks ends at tick `t`, and the loops move by the level of each input. -/
def execAgcWindow (n : Lane) (t : Nat) (h : Heard AgcLook) (s : State) : Host.Outcome State Fault Refusal :=
  .next (s.onChip fun c =>
    let c := (c.advanceTo t).settled n
    let look := c.hearWindow n t h
    let levels := look.levels
    let c := c.noteCandidate n look.cand
    if !c.loopsRun n then c
    else
      let a := (c.lane n).rx.agc
      let mv := (List.range 4).map fun i =>
        agcMove (a.codes.getD i 0) (a.frac.getD i 0) (levels.getD i 0) (c.get (F.AGC_AGCCFG_TARGET n))
          (c.get (F.AGC_LOOPK_ATTACK n)) (c.get (F.AGC_LOOPK_DECAY n)) (c.get (F.AGC_LOOPK_WIN n)) (a.mode == 3)
      (c.setCodes n (mv.map Prod.fst)).onAgc n fun a => { a with frac := mv.map Prod.snd })

/-- AGC_ATTACK (R167): the 64 ticks before tick `t` hold full-scale samples of input `i`; four of them or more lower its code at
once. -/
def execAgcAttack (n : Lane) (t : Nat) (i : Input) (h : Heard Nat) (s : State) : Host.Outcome State Fault Refusal :=
  .next (s.onChip fun c =>
    let c := (c.advanceTo t).settled n
    if !c.loopsRun n ∨ hearAttack t i.idx h < 4 then c
    else
      let a := (c.lane n).rx.agc
      (c.setCodes n (a.codes.set i.idx (a.codes.getD i.idx 0 - 2 * c.get (F.AGC_LOOPK_ATTACK n)))).onAgc n fun a =>
        { a with frac := a.frac.set i.idx 0 })

/-- Load the stored codes of facet `f`; the loops stay off (R169). -/
def Chip.loadStored (c : Chip) (n : Lane) (f mode : Nat) : Chip :=
  if !c.flag (F.AGC_AGCCFG_LOOPEN n) then c
  else (c.setCodes n (storedCodes (c.stored n f))).onAgc n fun a =>
    { a with mode := mode, settle := c.tick, frac := [0, 0, 0, 0], deferred := none }

/-- The gain at the start of facet `f`: the stored codes in an FD facet, or loop mode; a frozen gain stays, and a pending
candidate defers the load (R169, R170). -/
def Chip.agcFacet (c : Chip) (n : Lane) (f : Nat) (stored : Bool) (mode : Nat) (cand : Bool) : Chip :=
  let c := (c.settled n).noteCandidate n cand
  let cand := (c.lane n).rx.agc.cand
  if (c.lane n).rx.agc.frozen then c
  else if stored then
    if cand then (c.onAgc n fun a => { a with deferred := some f }).count (F.AGC_COUNTS_DEFER n) 1 else c.loadStored n f mode
  else if (c.lane n).rx.agc.mode = 2 then c
  else c.onAgc n fun a => { a with mode := 0, deferred := none }

/-- A facet ends: an input whose code stood at 0 throughout it with an overload is at the rail (R167). -/
def Chip.railCheck (c : Chip) (n : Lane) : Chip :=
  let a := (c.lane n).rx.agc
  let c := if a.atZero &&& a.ovl ≠ 0 then
      ((c.count (F.AGC_RAILCNT_RAIL n) 1).pfaultSet (.agc n) 0).raise (.agc n) 0
    else c
  c.onAgc n fun a => { a with
    ovl := 0
    atZero := (List.range 4).foldl (fun m i => if a.codes.getD i 0 = 0 then setBit m i else m) 0 }

/-- CANDIDATE_FALLBACK (R170): the candidate falls back below THR; a stored code that waited is loaded, and
an uplink under way settles from then on (R169). -/
def execCandidateFallback (n : Lane) (s : State) : Host.Outcome State Fault Refusal :=
  .next (s.onChip fun c =>
    let d := (c.lane n).rx.agc.deferred
    let c := c.endCandidate n
    match d with
    | some f => c.loadStored n f (if (c.lane n).rx.rx.any fun r => r.kind == .uplink then 3 else 1)
    | none => c)

/-- Learning of the stored entry of facet `f` after a reception at the codes `used`, with the rms of each input in 0.5 dB above full
scale (R171). -/
def Chip.agcLearn (c : Chip) (n : Lane) (f : Nat) (used : List Nat) (rms : List Int) : Chip :=
  let w := c.stored n f
  if c.flag (F.AGC_AGCCFG_LEARN n) ∧ !w.testBit 28 then
    let codes := (List.range 4).map fun i =>
      let e : Int := bitField w (7 * i) 7
      let g : Int := used.getD i 0
      let want := g - (rms.getD i 0 + c.get (F.AGC_AGCCFG_TARGET n))
      (clampInt 0 96 (e + clampInt (-2) 2 (want - e))).toNat
    c.putStored n f (packFields (codes.map (fun k => (7, k)) ++ [(1, 0), (1, 1)]))
  else c

/-- AGC_RELEASE (R168, R169, R171): 2.5 us after the end of the reception.  A frame that the MAC engine refused then teaches the gain
by the rms of each input over it. -/
def execAgcRelease (n : Lane) (t : Nat) (h : Heard (List Int)) (s : State) : Host.Outcome State Fault Refusal :=
  .next (s.onChip fun c =>
    let c := (c.advanceTo t).settled n
    let a := (c.lane n).rx.agc
    if a.frozen ∧ a.holdTo.any fun k => decide (k ≤ c.tick) then
      let c := match a.learn with
        | some (f, used) => c.agcLearn n f used (hearSpan h)
        | none => c
      (c.onAgc n fun a => { a with learn := none }).unfreeze n
    else c)

/-- STADDR.FACET after an access of STDATA. -/
def Chip.stNext (c : Chip) (n : Lane) : Chip :=
  let f := c.get (F.AGC_STADDR_FACET n)
  c.set (F.AGC_STADDR_FACET n) (if 95 ≤ f then 0 else f + 1)

/-- A read of STDATA. -/
def Chip.readStdata (c : Chip) (n : Lane) : Nat × Chip := (c.stored n (c.get (F.AGC_STADDR_FACET n)), c.stNext n)

/-- A write of STDATA: it sets VALID; a reserved code leaves the stored one (R15, R197). -/
def Chip.writeStdata (c : Chip) (n : Lane) (val : Nat) : Chip :=
  let f := c.get (F.AGC_STADDR_FACET n)
  let old := c.stored n f
  let codes := (List.range 4).map fun i =>
    let k := bitField val (7 * i) 7
    (7, if k ≤ 96 then k else bitField old (7 * i) 7)
  (c.putStored n f (packFields (codes ++ [(1, bitField val 28 1), (1, 1)]))).stNext n

/-- STDATA_READ (R197). -/
def execStdataRead (i : Init) (n : Lane) (s : State) : Host.Outcome State Fault Refusal :=
  .next (s.onChip fun c => c.gateRead i (.agc n) 0x408 fun c => c.readStdata n)

/-- STDATA_WRITE (R197). -/
def execStdataWrite (i : Init) (n : Lane) (val : Nat) (s : State) : Host.Outcome State Fault Refusal :=
  .next (s.onChip fun c => c.gate i (.agc n) 0x408 fun c => c.writeStdata n val)

end Sys2Proof.Machine
end

