-- ==== Sys2Proof/Machine/RxOpen.lean ====
section
/-!
DEFINITION. How a reception opens: the senders of a frame or a granted uplink and what the lane knows of them (R77, R78,
R163, R164, R169, R218, R231, R232).
-/
namespace Sys2Proof.Machine

/-- Whether the receive path of lane `n` works at all (R164, R447). -/
def Chip.rxOn (c : Chip) (n : Lane) : Bool := c.flag (F.RXP_RXCTL_EN n) && c.flag (pctlEnable (.rxp n)) && (c.lane n).ready

/-- What the armed trigger of the spyhole may await occurs: `trig` is 2 for a detection, 3 for a failed FC (R194). -/
def Chip.spyEvent (c : Chip) (n : Lane) (trig : Nat) : Chip :=
  if (c.lane n).rx.spy.armed ∧ c.get (F.SPY_SPTRIG_TRIG n) = trig then
    c.onSpy n fun y => { y with event := y.event.orElse fun _ => some c.tick }
  else c

/-- Open a reception: it takes the next serial number. -/
def Chip.openRx (c : Chip) (n : Lane) (f : Nat → Rx) : Chip :=
  c.onRx n fun r => { r with
    rx := some (f r.serial)
    serial := r.serial + 1
    dec := { r.dec with lateRaised := false } }

/-- The reception is over; blocks that still wait or decode have nowhere to report, and its ticks spoil the noise windows (R234).  A
preamble detected meanwhile is the next reception. -/
def Chip.closeRx (c : Chip) (n : Lane) : Chip :=
  (c.onRx n fun r => { r with
    rx := r.found
    found := none
    spans := (r.rx.toList.map fun x => (x.tp, x.tend)) ++ r.spans
    dec := { r.dec with queue := [], busy := [], ended := [] } }).slipWaited n

/-- Nothing is received any more: receptions end at once and the gain is released (R164, R447). -/
def Chip.dropRx (c : Chip) (n : Lane) : Chip := ((c.onRx n fun r => { r with found := none }).unfreeze n).closeRx n

/-- RXCTL.EN and the page's ENABLE take effect: with either 0 nothing is received, a reception in progress included (R164, R447). -/
def Chip.rxpSettle (c : Chip) (n : Lane) : Chip := c.iff (!c.rxOn n) (·.dropRx n)

/-- Bits that a map loads on the data carriers of sherds `sherd` to `sherd + scnt - 1`. -/
def ToneMap.sherdBits (m : ToneMap) (sherd scnt : Nat) : Nat :=
  m.codes.foldl (fun a e =>
    if 40 + 40 * sherd ≤ e.1 ∧ e.1 < 40 + 40 * (sherd + scnt) ∧ !isPilot e.1 then a + loadBits e.2 else a) 0

/-- Start of data symbol `j` (from 0) of an uplink; two sherd-pilot symbols come first (R77, R95). -/
def Granted.symbolAt (g : Granted) (j : Nat) : Nat := g.t0 + (2 + j) * tsTicks g.gi

/-- Uplink set a granted user loads with: the one whose TMV it last sent (R232). -/
def Chip.uplinkSet (c : Chip) (n : Lane) (g : Granted) (slot : Nat) : Option MapSet :=
  (((c.lane n).tmap.lastTmv.get? slot).filter (· != 0)).bind fun v => c.ulMatch n slot v g.bp

/-- Coded capacity of a user over the data symbols of an uplink (R75, R78). -/
def Chip.uplinkCap (c : Chip) (n : Lane) (g : Granted) (u : GrantRec) : Nat :=
  if u.mode ≠ 0 then g.nsym * repNcb (39 * u.scnt) u.mode
  else
    match c.uplinkSet n g u.slot with
    | none => 0
    | some m => (List.range g.nsym).foldl (fun a j =>
        match c.mapOf n m (c.facetAt n (g.symbolAt j)) with
        | some t => a + t.sherdBits u.sherd u.scnt
        | none => a) 0

/-- Rate of a user's uplink: in REP1 that of the map of the facet in which its first data symbol starts (R77). -/
def Chip.uplinkRate (c : Chip) (n : Lane) (g : Granted) (u : GrantRec) : Nat :=
  if u.mode ≠ 0 then 0
  else match (c.uplinkSet n g u.slot).bind fun m => c.mapOf n m (c.facetAt n (g.symbolAt 0)) with
    | some t => t.rate
    | none => 0

/-- What the lane expects of a granted user; its presence is not yet known (R78, R217). -/
def Chip.uplinkUser (c : Chip) (n : Lane) (g : Granted) (u : GrantRec) : RxUser :=
  let rate := c.uplinkRate n g u
  { slot := u.slot, gen := (c.nbr u.slot).gen, tmv := ((c.uplinkSet n g u.slot).map (·.tmv)).getD 0, mode := u.mode, rate,
    bt := g.bt, nblk := uplinkBlocks (c.uplinkCap n g u) g.bt rate, present := false, ranks := [], matched := [], made := [], results := [],
    done := [] }

/-- The uplink of grant `g` opens at B(GFAC): the reception and, for each sender, the slip entries that match (R183,
R218). -/
def Chip.openUplink (c : Chip) (n : Lane) (g : Granted) : Chip :=
  let r := g.users.foldl (fun (a : Chip × List RxUser) u =>
    let x := a.1.slipBegin n (a.1.uplinkUser n g u) g.epl false
    (x.1, a.2 ++ [x.2])) (c, [])
  r.1.openRx n fun serial =>
    { kind := .uplink, tp := g.t0, tend := g.t0 + uplinkTicks g.gi g.nsym, facet := g.facet, turn := g.turn,
      role := c.role n g.facet, codes := (r.1.lane n).rx.agc.codes, first := 0, kept := none, bad := [], contend := none, bp := g.bp,
      epl := g.epl, fd := false, answers := none, coasted := c.coasting n, gi := g.gi, cand := true, users := r.2, action := 0, accepted := [], serial }

end Sys2Proof.Machine
end

