-- ==== Sys2Proof/Machine/WheelLock.lean ====
section
/-!
DEFINITION. Mains lock: acquisition, the crossings of a turn, misses, hold, free running and rephasing (R83 to R89).
Positions and periods are in 1/256 tick.
-/
namespace Sys2Proof.Machine

/-- Units of 1/256 tick in a second. -/
def lockRate : Nat := 102400000 * 256

/-- Whether a period lies within 45 to 65 Hz. -/
def periodOk (p : Nat) : Bool := lockRate ≤ 65 * p && 45 * p ≤ lockRate

/-- The group G of R89: the lowest-numbered other LOCKED group, else the lowest-numbered other one in HOLD or FREE. -/
def Chip.refGroup (c : Chip) (n : Lane) : Option Lane :=
  let others := Lane.all.filter fun m => m != n && c.running m
  match others.find? fun m => c.lstate m == 2 with
  | some m => some m
  | none => others.head?

/-- The mean interval, in 1/256 tick, of nine crossing ticks (newest first) whose eight intervals lie within 45 to 65 Hz and
within 0.5 % of their mean (Table 3-1). -/
def acquired (xs : List Nat) : Option Nat :=
  let iv : List Nat := List.zipWith (fun (a b : Nat) => a - b) xs (xs.drop 1)
  let sum : Nat := iv.foldl (· + ·) 0
  if iv.length = 8 ∧ (iv.all fun d => periodOk (d * 256) && decide (1000 * (((8 * d : Nat) : Int) - (sum : Nat)).natAbs ≤ 5 * sum)) then
    some (sum * 32)
  else none

/-- The first position at or after `x` that is a whole number of periods `p` from `y`. -/
def nextOnGrid (x y p : Nat) : Nat := x + (((y : Int) - x) % (max 1 p : Nat)).toNat

/-- Serial number of the next frame. -/
def Chip.nextSerial (c : Chip) : Nat × Chip := (c.frames, { c with frames := c.frames + 1 })

/-- A frame of the Wheel itself, its settings fixed now, waits for its start (R96, R99, R131). -/
def Chip.wheelFrame (c : Chip) (n : Lane) (t0 f : Nat) (fc : Fc) (body : List Byte) (ep : EpochSet) (cp : Coupling)
    (ports : Nat) : Chip :=
  let (serial, c) := c.nextSerial
  let h : BlkHdr := { mseq := 0, bidx := 0, last := true, vlen := 128, cls := 0, fill := false }
  let x : TxFrame :=
    { serial, t0, fc, recs := [], blocks := [{ queue := noQueue, id := 0, bidx := 0, word := h.word, data := body }],
      epoch := ep, coupling := cp, txports := ports, facet := f, turn := c.turn n, slot := 0, training := 0, fd := false,
      exEnd := t0 + fc.body.ticks, grant := none, late := false, set := none }
  let r := c.fixSettings n x
  r.2.onTx n fun t => { t with ready := t.ready ++ [r.1] }

/-- TXPORTS of the BEACON entry 0 of the pattern in force in the turn that begins: at a switch turn the new one (R91, R107). -/
def Chip.beaconPorts (c : Chip) (n : Lane) : Nat :=
  entryPorts (match c.beaconEpochs (c.turn n) with
    | e :: _ => c.entryWord e.1.pat 0
    | [] => c.entry n 0)

/-- The beacons of the turn that begins go out as stored: the previous-epoch copy 40 µs after the first (R96, R97). -/
def Chip.startBeacons (c : Chip) (n : Lane) : Chip :=
  let turn := c.turn n
  let coast := c.coasting n
  let st := (c.storedBeacons n).filter fun b => b.turn == turn && b.coast == coast
  let eps := c.beaconEpochs turn
  let go (c : Chip) (t0 : Nat) (b : Beacon) : Chip × Nat :=
    match fcOf b.fc, eps.find? fun e => e.2.2 == b.old with
    | some fc, some e =>
      (c.wheelFrame n t0 0 fc b.body e.1 .rotation (c.beaconPorts n), t0 + fc.body.ticks + 4096)
    | _, _ => (c, t0)
  let main := st.find? fun b => !b.old
  let old := st.find? fun b => b.old
  let t0 := c.b n 0
  let r := main.elim (c, t0) fun b => go c t0 b
  old.elim r.1 fun b => (go r.1 r.2 b).1

/-- A group that is LOCKED while MAINS_OK is low goes to HOLD (Table 3-1). -/
def Chip.mainsHold (c : Chip) (n : Lane) : Chip := if c.pins.mainsOk then c else c.toHold n

/-- The first turn of a group begins at `ts`, with its beacon (Table 3-1, R89, R96). -/
def Chip.firstTurn (c : Chip) (n : Lane) (ts p turn st : Nat) : Chip :=
  let c := c.onGroup n fun _ => { WGroup.off with ts, p, loop := c.loopCfg, cslot := c.get F.MAC_CONTCFG_CSLOT }
  let c := ((c.set (F.WHEEL_TURN_TURN n) turn).set (F.WHEEL_PERIOD_P n) p).set (F.WHEEL_GSTAT_FACET n) 0
  let c := (((c.setLock n st).mainsHold n).advanceTo (ts / 256)).fillStore n
  (c.prepareTurn n 0).startBeacons n

/-- Number of the turn of G that begins at most one cycle before `y`, if any (R89). -/
def Chip.placedBy (c : Chip) (g : Lane) (y : Nat) : Option Nat :=
  let x := c.group g
  ([0, 1].find? fun d => (c.startOf g d).1 ≤ y && y < (c.startOf g d).1 + x.p).map fun d => turnAdd (c.turn g) d

/-- Number of a first turn where no other group runs: TURNSET, or as R49 sets it after a loss of REFCLK: N, the turn in
progress when REFCLK was lost, plus the turns of nominal length that have passed since its start, rounded up, plus 2. -/
def Chip.firstNumber (c : Chip) (t : Nat) : Nat :=
  match c.wheel.lost with
  | some (turn, at') => turnAdd turn (ceilDiv (3 * (t - at')) (4 * c.nomCycle3) + 2)
  | none => c.get F.WHEEL_TURNSET_TURN

/-- ACQUIRE has found the period `p`: a crossing at `t` that is accepted, and placed where G runs, begins the first turn. -/
def Chip.awaitFirst (c : Chip) (n : Lane) (p t : Nat) : Chip :=
  let g := c.group n
  let d := (t - g.xs.headD t) * 256
  let k := max 1 (roundDiv d (max 1 p))
  let ok := decide (((d : Int) - k * p).natAbs ≤ g.loop.acc)
  let c := c.onGroup n fun g => { g with xs := [t] }
  if !ok then c
  else
    match c.refGroup n with
    | none => (c.firstTurn n (t * 256) p (c.firstNumber t) 2).onWheel fun w => { w with lost := none }
    | some m =>
      match c.placedBy m (t * 256) with
      | some turn => c.firstTurn n (t * 256) p turn 2
      | none => c

/-- The turn in whose facet 95 a rephase to the crossings at `y0` plus whole periods `p` acts, and the new start of the
turn after it (R87, R89): with G running the first such crossing at or after G's turn start that still lies ahead, one
turn later as often as it takes. -/
def Chip.placeRephase (c : Chip) (n : Lane) (y0 p : Nat) : Nat × Nat :=
  let turn := c.turn n
  match c.refGroup n with
  | none => (turn, nextOnGrid (c.nextStart n).1 y0 p)
  | some m =>
    let at' (j : Nat) : Nat :=
      let d := turnDist (c.turn m) (turnAdd turn (j + 1))
      let x := if 0 ≤ d then (c.startOf m d.toNat).1 else (c.group m).ts - 4 * (c.group m).p * d.natAbs
      nextOnGrid x y0 p
    let j := ([0, 1, 2, 3, 4, 5, 6, 7].find? fun j => c.tick < at' j / 256).getD 7
    (turnAdd turn j, at' j)

/-- Rephase (R87): LOCKED, REPHASE; the turn counter goes on. -/
def Chip.rephaseTo (c : Chip) (n : Lane) (y0 p : Nat) : Chip :=
  let r := c.placeRephase n y0 p
  let c := c.onGroup n fun g => { g with rephase := some r, found := some p, xs := [], offs := [], consec := 0 }
  (((c.setLock n 2).raise .wheel 1).mainsHold n).touchBeacons

/-- The cycle whose prediction is nearest to position `y`, and the error: measured less predicted (R85). -/
def WGroup.nearest (g : WGroup) (y : Nat) : Int × Int :=
  let p : Int := max 1 g.p
  let k := ((y : Int) - g.ts + p / 2) / p
  (k, (y : Int) - (g.ts + k * p))

/-- An accepted crossing of cycle `k` with error `e` counts toward the mean of its turn (R85). -/
def WGroup.accept (g : WGroup) (k : Int) (e : Int) : WGroup :=
  let g := { g with consec := 0 }
  if 0 ≤ k ∧ k < 4 ∧ !g.accepted.testBit k.toNat then
    { g with accepted := setBit g.accepted k.toNat, errSum := g.errSum + e, errCnt := g.errCnt + 1 }
  else g

/-- A crossing at place `y` near the prediction of cycle `k`, off by `e`, is accepted; one of the next turn's cycle 0 is kept for
that turn (R85). -/
def WGroup.take (g : WGroup) (y : Nat) (k e : Int) : WGroup :=
  if k = 4 then { g with early := some (g.early.getD y), consec := 0 } else g.accept k e

/-- A crossing in LOCKED: accepted within ACCWIN of its prediction, else rejected.  One of the next turn's cycle 0 that comes before
the loop has set that turn is kept and judged then (R85). -/
def Chip.lockedCrossing (c : Chip) (n : Lane) (y : Nat) : Chip :=
  let g := c.group n
  let a := g.nearest y
  let e : Int := if a.1 = 4 ∧ g.looped then (y : Int) - g.nextTs else a.2
  if a.1 = 4 ∧ !g.looped then c.onGroup n fun g => { g with early := some (g.early.getD y) }
  else if e.natAbs ≤ g.loop.acc then c.onGroup n fun g => g.take y a.1 e
  else c

/-- A crossing in HOLD: nothing while MAINS_OK is low or the service pause holds the group; within ACCWIN it ends HOLD; eight in a
row off by offsets that agree within ACCWIN bring a rephase by their mean (Table 3-1, R110). -/
def Chip.holdCrossing (c : Chip) (n : Lane) (y : Nat) : Chip :=
  let g := c.group n
  if !c.pins.mainsOk || g.paused then c
  else
    let a := g.nearest y
    if a.2.natAbs ≤ g.loop.acc then
      ((c.onGroup n fun g => { g.take y a.1 a.2 with offs := [], consec := 0 }).setLock n 2).touchBeacons
    else
      let off := a.2 % (max 1 g.p : Nat)
      let offs := (off :: g.offs).take 8
      let lo := offs.foldl min off
      let hi := offs.foldl max off
      let c := c.onGroup n fun g => { g with offs }
      if offs.length = 8 ∧ hi - lo ≤ g.loop.acc then
        let mean := divZero (offs.foldl (· + ·) 0) 8
        c.rephaseTo n (((y : Int) - off + mean).toNat) g.p
      else c

/-- The Wheel acts on a crossing at tick `t`, by the group's lock state (Table 3-1). -/
def Chip.wheelCrossing (c : Chip) (n : Lane) (t : Nat) : Chip :=
    let c := c.advanceTo t
    let g := c.group n
    if c.coasting n then c else
    match c.lstate n, g.found with
    | 1, some p => c.awaitFirst n p t
    | 1, none =>
      let xs := (t :: g.xs).take 9
      match acquired xs with
      | some p => c.onGroup n fun g => { g with xs := [t], found := some p }
      | none => c.onGroup n fun g => { g with xs }
    | 4, _ =>
      let xs := (t :: g.xs).take 9
      match acquired xs with
      | some p => c.rephaseTo n (t * 256) p
      | none => c.onGroup n fun g => { g with xs }
    | 2, _ => c.lockedCrossing n (t * 256)
    | 3, _ => c.holdCrossing n (t * 256)
    | _, _ => c

/-- CROSSING (R83, R85, R86): the oldest crossing of the group's reference phase that ZERO_CROSSING has found and that has not yet
reached the Wheel does so. -/
def execCrossing (n : Lane) (s : State) : Host.Outcome State Fault Refusal :=
  .next (s.onChip fun c =>
    match (c.meas.get n).zcHeard with
    | [] => c
    | t :: rest => (c.onMeas n fun m => { m with zcHeard := rest }).wheelCrossing n t)

/-- MISS (R85): tick TS + c * P + ACCWIN passes for the first cycle of the turn that is neither accepted nor counted. -/
def execMiss (n : Lane) (s : State) : Host.Outcome State Fault Refusal :=
  .next (s.onChip fun c =>
    let g := c.group n
    if (c.lstate n = 2 ∨ c.lstate n = 3) ∧ !c.coasting n then
      match [0, 1, 2, 3].find? fun k => !g.accepted.testBit k && !g.missed.testBit k with
      | none => c
      | some k =>
        let c := c.advanceTo ((g.ts + k * g.p + g.loop.acc) / 256 + 1)
        let c := (c.onGroup n fun g => { g with missed := setBit g.missed k }).count (F.WHEEL_GSTAT_MISSES n) 1
        if c.lstate n = 2 then
          let c := c.onGroup n fun g => { g with consec := g.consec + 1 }
          if 8 ≤ (c.group n).consec then c.toHold n else c
        else c
    else c)

/-- The group starts to run free at the nominal period (Table 3-1, R89).  With no other group running the phase is
arbitrary: a free value. -/
def Chip.freeRun (c : Chip) (n : Lane) : Chip :=
  let p := c.nomPeriod
  match c.refGroup n with
  | none => (c.nextFree.firstTurn n (c.tick * 256 + c.freeBelow p) p (c.firstNumber c.tick) 4).onWheel fun w =>
      { w with lost := none }
  | some m =>
    match c.placedBy m (c.tick * 256) with
    | some turn => c.firstTurn n (c.tick * 256) p turn 4
    | none =>
      let x := (c.startOf m 1).1
      c.firstTurn n (256 * ceilDiv x 256) p (turnAdd (c.turn m) 1) 4

/-- ACQUIRE_TIMEOUT (R86): 1 s without lock; with FREEOK = 1 the group runs free. -/
def execAcquireTimeout (n : Lane) (s : State) : Host.Outcome State Fault Refusal :=
  .next (s.onChip fun c =>
    if c.lstate n = 1 then
      let c := c.advanceTo ((c.group n).since + tickHz)
      if c.flag F.WHEEL_WCTL_FREEOK then c.freeRun n else c
    else c)

end Sys2Proof.Machine
end

