-- ==== Sys2Proof/Machine/Noise.lean ====
section
/-!
DEFINITION. What a facet that ends has shown of the inputs (R140, R167, R233 to R235): noise windows, the noise table, clipped
samples outside receptions, and inputs at the rail.
-/
namespace Sys2Proof.Machine

/-- Whether windows of a facet of this role count (R234). -/
def Chip.noiseRole (c : Chip) (n : Lane) (role : Nat) : Bool :=
  role == 0 || (c.flag (F.TMAP_NOISECFG_IDLE n) && (role == 1 || role == 2 || role == 4 || role == 8))

/-- Spans of ticks at the coupler in which a reception or a candidate is or was in progress, or that a detection spoils (R234). -/
def Chip.busySpans (c : Chip) (n : Lane) : List (Nat × Nat) :=
  let x := (c.lane n).rx
  let now (r : Option Rx) : List (Nat × Nat) := r.toList.map fun r => (r.tp, r.tend)
  let cand := if x.agc.cand then [(x.agc.since, c.tick + 1)] else []
  x.spans ++ now x.rx ++ now x.found ++ cand

/-- Whether no reception and no candidate was in progress at any tick from `a` up to `b`. -/
def Chip.quietSpan (c : Chip) (n : Lane) (a b : Nat) : Bool := (c.busySpans n).all fun s => decide (s.2 ≤ a ∨ b ≤ s.1)

/-- Whether no port of the group transmitted from tick `a` up to `b`, postfix included. -/
def Chip.silentSpan (c : Chip) (n : Lane) (a b : Nat) : Bool :=
  (c.lane n).tx.air.all fun f => decide (f.frame.tend + rampTicks ≤ a ∨ b ≤ f.frame.t0)

/-- Starts of the counted noise windows of a facet from tick `a` to `b` (R234). -/
def Chip.noiseWindows (c : Chip) (n : Lane) (x : Capture) (a b : Nat) : List Nat :=
  let d := c.get (F.RXP_RXDLY_DELAY n)
  ((List.range ((b - a) / 8192)).map fun j => a + 8192 * j).filter fun w =>
    c.silentSpan n w (w + 8192) && c.quietSpan n w (w + 8192)
      && (c.inputs n).all fun i => x.clipped i (w + d : Nat) (w + d + 8192 : Nat) == 0

/-- Power of carrier `k` of input `i` in a noise window (R160, R233). -/
def Chip.windowPower (c : Chip) (n : Lane) (x : Capture) (w i k : Nat) : Rat :=
  let at' : Int := (w + c.get (F.RXP_RXDLY_DELAY n) : Nat)
  let g := c.userGain n i
  g * g * (c.pinCarrier n (c.codeAt n i) x { w := at', len := 8192, bp := 0, origin := at' } i k).power

/-- What a facet from tick `a` to `b` has shown (R140, R170, R233 to R235).  DESIGN CHOICE (log entry 201): outside receptions a symbol
period is 8,704 ticks, end to end from the facet's start. -/
def Chip.hearFacet (c : Chip) (n : Lane) (a b : Nat) (h : Heard FacetLook) : FacetLook :=
  match h with
  | .made l => l
  | .adc x =>
    let d := c.get (F.RXP_RXDLY_DELAY n)
    let ws := c.noiseWindows n x a b
    let ks := (List.range 3960).map (40 + ·)
    { cand := c.metricAt n x b
      means := if ws.isEmpty then [] else (c.inputs n).flatMap fun i => ks.map fun k =>
        (i, k, noiseByte (ratMean (ws.map fun w => c.windowPower n x w i k)))
      peaks := if ws.isEmpty then [] else (c.inputs n).flatMap fun i => (List.range 99).map fun s =>
        let mean (w : Nat) : Rat := ratMean ((List.range 40).map fun j => c.windowPower n x w i (40 + 40 * s + j))
        (i, s, noiseByte ((ws.map mean).foldl max 0))
      clips := (((List.range ((b - a) / 8704)).map fun j => a + 8704 * j).filter fun w => c.quietSpan n w (w + 8704)).map fun w =>
        [0, 1, 2, 3].map fun i => x.clipped i (w + d : Nat) (w + d + 8704 : Nat) }

/-- A mean moves toward the measured power, as power (R235); to the nearest 0.5 dB (log entry 71). -/
def moveMean (old p nk : Nat) : Nat :=
  if old = 0 ∨ nk = 0 ∨ old = p then p
  else noiseByte (noisePower old + (noisePower p - noisePower old) / (2 ^ nk : Nat))

/-- Fold in the counted windows of facet `f`: `means` are (input, carrier, power of P), `peaks` are (input, sherd, highest
sherd mean), both as bytes of 0.5 dB (R235). -/
def Chip.foldNoise (c : Chip) (n : Lane) (role f : Nat) (means peaks : List (Nat × Nat × Nat)) : Chip :=
  if means.isEmpty ∨ !c.noiseRole n role then c
  else
    let ph := f % 24
    let nk := c.get (F.TMAP_NOISECFG_NK n)
    let dec := c.get (F.TMAP_NOISECFG_NPDEC n)
    let c := c.onTmap n fun t => { t with
      mean := (means.filter fun m => decide (m.1 < 4 ∧ 40 ≤ m.2.1 ∧ m.2.1 < 4000)).foldl (fun t m =>
        let k := meanKey m.1 ph m.2.1
        putWord t k (moveMean (t.getD k 0) (m.2.2 % 256) nk)) t.mean
      peak := (peaks.filter fun m => decide (m.1 < 4 ∧ m.2.1 < 99)).foldl (fun t m =>
        let k := peakKey m.1 ph m.2.1
        putWord t k (max (t.getD k 0 - dec) (m.2.2 % 256))) t.peak
      quietPh := if role = 0 then some ph else t.quietPh }
    let used := (List.range 4).filter fun i => (c.inputsMask n).testBit i
    let t := (c.lane n).tmap
    if used.all fun i => t.mean.any fun e => e.1 / 4096 == i * 24 + ph then c.setBitAt (F.TMAP_NOISESTAT_PHASES n) ph true else c

/-- Facet `f` of role `role`, which began at tick `a`, ends at the present tick: clipped samples and overloads outside receptions, inputs
at the rail, its noise (R140, R167, R235); the answer also tells whether a candidate is pending. -/
def Chip.facetEnds (c : Chip) (n : Lane) (role f a : Nat) (h : Heard FacetLook) : Bool × Chip :=
  let look := c.hearFacet n a c.tick h
  let c := (((c.clipCounts n look.clips).railCheck n).foldNoise n role f look.means look.peaks)
  (look.cand, c.onRx n fun r => { r with spans := r.spans.filter fun s => decide (c.tick < s.2) })

end Sys2Proof.Machine
end

