-- ==== Sys2Proof/Machine/WheelClock.lean ====
section
/-!
DEFINITION. The facet clock: what happens when a facet and a turn begin (R84, R85, R96 to R99, R149, R150, R167 to R170, R252).
-/
namespace Sys2Proof.Machine

/-! What a facet brings. -/

/-- The grant whose uplink begins at facet `f` of the present turn (R182). -/
def Chip.grantAt (c : Chip) (n : Lane) (f : Nat) : Option Granted :=
  (c.lane n).tx.grants.find? fun g => !g.fd && g.facet == f && g.turn == c.turn n

/-- Grants at a turn start: those of the turn that begins are placed on its grid; those of exchanges that lie behind are
over (R84, R267). -/
def Chip.placeGrants (c : Chip) (n : Lane) (turn : Nat) : Chip :=
  c.onTx n fun t => { t with
    grants := (t.grants.filter fun g => !(g.fd && turnBefore g.turn turn)).map fun g =>
      if g.turn = turn then { g with t0 := c.b n g.facet } else g }

/-- Line activity of a stopped group ends: frames that have reached the lane are dropped, those on their way given up, the Wheel is OFF
(R135, Table 3-1). -/
def Chip.lineOff (c : Chip) (n : Lane) : Chip :=
  let tx := (c.lane n).tx
  let c := tx.ready.foldl (fun c f => c.barFrame n f) (tx.onWay.foldl Chip.unframe c)
  let c := tx.await.foldl (fun c f => c.settleExchange f 0) c
  let c := c.onTx n fun t => { t with onWay := [], ready := [], await := [], grants := [] }
  (c.closeRx n).onGroup n fun _ => .off

/-- Facet `f` has begun: the gain of its role, and a granted uplink, unless a reception is in progress (R169, R170). -/
def Chip.enterFacet (c : Chip) (n : Lane) (f : Nat) (cand : Bool) : Chip :=
  let c := (c.set (F.WHEEL_GSTAT_FACET n) f).settleInputs n
  match c.grantAt n f with
  | some g =>
    let free := (c.lane n).rx.rx.isNone
    let c := c.agcFacet n f free 3 cand
    if free ∧ c.rxOn n ∧ !c.coasting n then c.openUplink n g else c
  | none => c.agcFacet n f (c.role n f == 5 && !c.listens n) 1 cand

/-- Whether facet `f` begins the first GLP6 run of its turn (R98). -/
def Chip.firstGlp6 (c : Chip) (n : Lane) (f : Nat) : Bool :=
  c.role n f == 7 && (List.range f).all fun k => c.role n k != 7

/-- The G6-BEACON at the start of the first GLP6 run of a turn (R98, R130). -/
def Chip.startG6 (c : Chip) (n : Lane) (f : Nat) : Chip :=
  if c.flag F.WHEEL_WCTL_G6EN ∧ c.firstGlp6 n f then
    let g := c.group n
    let ep := c.epochIn n
    let fc := c.beaconFc true (c.turn n) 0 ep
    let flags := c.beaconFlags n (c.turn n) false false % 8
    let cp := if c.flag (F.TXP_TXCTL_G6BCAST n) then Coupling.same else .single (c.get (F.TXP_TXCTL_G6PORT n))
    c.wheelFrame n (c.b n f) f fc (c.beaconHead n flags g.ts g.p ++ List.replicate 108 0) ep cp (entryPorts (c.entry n f))
  else c

/-- A crossing kept for the next turn's cycle 0 is judged against that turn as now set (R85). -/
def WGroup.judgeEarly (g : WGroup) : WGroup :=
  match g.early with
  | none => g
  | some y => if ((y : Int) - g.nextTs).natAbs ≤ g.loop.acc then { g with consec := 0 } else { g with early := none }

/-- The loop of R85, run in facet 95: TS' and P' from the mean error of the turn.  A period outside 45 to 65 Hz brings HOLD
at the present one.  A rephase that is due in this turn sets the next one instead (R87, R89). -/
def Chip.runLoop (c : Chip) (n : Lane) : Chip :=
  let g := c.group n
  let e := divZero g.errSum (max 1 g.errCnt)
  let ts := g.ts + 4 * g.p
  let due : Option Nat := g.rephase.bind fun r => if r.1 = c.turn n then some r.2 else none
  let c := match due with
    | some y => c.onGroup n fun g => { g with nextTs := y, nextP := g.found.getD g.p }
    | none =>
      if c.lstate n = 2 then
        let ts' : Int := ts + clampInt (-g.loop.ph) g.loop.ph (divZero e (2 ^ g.loop.kp))
        let p' := ((g.p : Int) + clampInt (-g.loop.pr) g.loop.pr (divZero e (2 ^ g.loop.ki))).toNat
        if periodOk p' then c.onGroup n fun g => { g with nextTs := ts'.toNat, nextP := p' }
        else (c.toHold n).onGroup n fun g => { g with nextTs := ts, nextP := g.p }
      else c.onGroup n fun g => { g with nextTs := ts, nextP := g.p }
  c.onGroup n fun g => { g.judgeEarly with looped := true }

/-- Facet 95: the loop, then the beacon store (R85, R99).  A coasting lane runs on at the P of its last turn. -/
def Chip.closeTurn (c : Chip) (n : Lane) : Chip :=
  if (c.group n).looped then c
  else if c.coasting n then
    c.onGroup n fun g => { g with nextTs := g.ts + 4 * g.p, nextP := g.p, looped := true }
  else (c.runLoop n).updateStore n

/-- FACET_START (R84): the facet after the present one begins; `h` is what the facet that ends has shown of the inputs. -/
def execFacetStart (n : Lane) (h : Heard FacetLook) (s : State) : Host.Outcome State Fault Refusal :=
  .next (s.onChip fun c =>
    let g := c.group n
    let f := c.facet n + 1
    let cut : Bool := match g.rephase with
      | some (t, y) => t == c.turn n && decide (y ≤ g.ts + f * g.p / 24)
      | none => false
    if f ≥ 96 ∨ cut ∨ (!c.running n ∧ !g.stopping) then c
    else
      let c := c.advanceTo (g.b f)
      let x := c.facetEnds n (c.role n (f - 1)) (f - 1) (g.b (f - 1)) h
      let c := x.2
      let cand := x.1
      if !c.running n then c.lineOff n
      else
        let c := (c.enterFacet n f cand).iff (!(c.coasting n) && !g.paused) fun c => c.startG6 n f
        if f = 95 then c.closeTurn n else c)

/-! Turns. -/

/-- First facets and lengths of the runs of SOUND facets of a group. -/
def Chip.soundRuns (c : Chip) (n : Lane) : List Nat :=
  (List.range 96).filter fun f => c.role n f == 6 && c.runStart n f == f

/-- Sounding symbols of a training frame (R150). -/
def Chip.trainSymbols (c : Chip) (n : Lane) (kind : Nat) : Nat :=
  let t := c.get (F.ECHO_ECFG_TREP n)
  if kind = 1 then 3 * (2 * t + 1) else 3 * t

/-- Ticks of a SOUND frame. -/
def soundTicks (gi nsnd : Nat) : Nat := headTicks + nsnd * tsTicks gi

/-- Whether some SOUND run of the turn can hold the training frame that is asked for (R93, R150). -/
def Chip.trainFits (c : Chip) (n : Lane) : Bool :=
  (c.soundRuns n).any fun f =>
    decide (c.b n f + soundTicks (entryGimin (c.entry n f)) (c.trainSymbols n (c.lane n).echo.req) ≤ c.b n (c.runEnd n f))

/-- A turn start for the tone maps: ages of builds, sets that wait for their first use, TMX that wait (R240, R242, R243). -/
def Chip.tmapTurn (c : Chip) (n : Lane) : Chip :=
  c.onTmap n fun t => { t with
    since := (c.peersOf n).foldl (fun m s => m.insert s (t.since.getD s 0 + 1)) t.since
    pending := t.pending.mapVals (· + 1)
    tmx := t.tmx.map fun x => { x with turns := x.turns + 1 } }

/-- TURN_START (R85): the next turn begins at the TS and P that the loop or a rephase set; `h` is what the facet that ends has shown of
the inputs. -/
def execTurnStart (n : Lane) (h : Heard FacetLook) (s : State) : Host.Outcome State Fault Refusal :=
  .next (s.onChip fun c =>
    let g := c.group n
    let f := c.facet n
    let cut : Bool := match g.rephase with
      | some (t, y) => t == c.turn n && decide (y ≤ g.ts + (f + 1) * g.p / 24)
      | none => false
    if (f ≠ 95 ∧ !cut) ∨ (!c.running n ∧ !g.stopping) then c
    else
      let c := c.closeTurn n
      let g := c.group n
      let x := c.nextStart n
      let used : Bool := match g.rephase with
        | some (t, _) => t == c.turn n
        | none => false
      let c := c.advanceTo (x.1 / 256)
      let y := c.facetEnds n (c.roleAt n (c.tick - 1)) f (g.b f) h
      let c := y.2
      let cand := y.1
      if !c.running n then c.lineOff n
      else
        let turn := turnAdd (c.turn n) 1
        let loop := c.loopCfg
        let ownEnd := if used then g.b 96 else x.1 / 256
        let lastRole := c.role n f
        let lastRun := c.b n (c.runStart n f)
        let cslot := c.get F.MAC_CONTCFG_CSLOT
        let c := c.onGroup n fun g => { g with
          ts := x.1
          p := x.2
          nextTs := 0
          nextP := 0
          looped := false
          errSum := g.early.elim 0 fun y => (y : Int) - x.1
          errCnt := bit g.early.isSome
          accepted := bit g.early.isSome
          missed := 0
          early := none
          ownEnd
          lastRole
          lastRun
          lastCslot := g.cslot
          loop
          cslot
          rephase := if used then none else g.rephase
          found := if used then none else g.found
          amend := if g.amend == some (c.turn n) then none else g.amend }
        let c := (c.set (F.WHEEL_TURN_TURN n) turn).set (F.WHEEL_PERIOD_P n) x.2
        let c := c.placeGrants n turn
        let c := ((((c.quarantineTurn n turn).portenTurn n).echoTurn n).tmapTurn n).enterFacet n 0 cand
        if c.coasting n then
          let k := (c.lane n).coastTurns
          let c := c.onLane n fun l => { l with coastTurns := k + 1 }
          if k < 8 then c.startBeacons n else c
        else
          let c := if (c.lane n).echo.req ≠ 0 ∧ !c.trainFits n then c.count (F.ECHO_COUNTS2_TRNSKIP n) 1 else c
          if (c.group n).paused then c else c.startBeacons n)

/-- PAUSE_END (R110) in group `n`: with the activation complete beacons resume at B(0) of facet 0, the turn's own first. -/
def execPauseEnd (n : Lane) (s : State) : Host.Outcome State Fault Refusal :=
  .next (s.onChip fun c =>
    if (c.group n).paused ∧ c.wheel.activated ∧ c.facet n = 0 ∧ c.tick ≤ c.b n 0 then
      let c := (c.onGroup n fun g => { g with paused := false }).raise .wheel 7
      let c := if c.running n ∧ !c.coasting n then c.startBeacons n else c
      if Lane.all.any fun m => (c.group m).paused then c
      else (c.setFlag F.WHEEL_WSTAT_PPEND false).onWheel fun w => { w with activated := false }
    else c)

end Sys2Proof.Machine
end

