-- ==== Sys2Proof/Machine/MacTx.lean ====
section
/-!
DEFINITION. The MAC engine's side of sending: opportunities, the choice of MPDUs, protection, and the commitment of DATA,
GRANT, SOUND and WAKE frames (R22, R93, R107, R150, R214, R232, R236, R243, R258, R264, R267, R268, R300).
-/
namespace Sys2Proof.Machine

/-! Opportunities. -/

/-- Tick before which an exchange in the run of facet `f` must end (R93); the span that a rephase adds acts as QUIET (R87). -/
def Chip.runStop (c : Chip) (n : Lane) (f : Nat) : Nat :=
  let e := c.runEnd n f
  min (c.b n e) ((c.group n).b e)

/-- Whether the GX8 may start an exchange of group `n` at tick `t0`, as far as the Wheel and the line decide it: a commitment
by `t0` less 60 µs is still possible, beacons and earlier exchanges are over, no service pause holds (R22, R93, R97, R110). -/
def Chip.mayOpen (c : Chip) (n : Lane) (t0 : Nat) : Bool :=
  let tx := (c.lane n).tx
  let g := c.group n
  c.hubRuns && c.running n && (c.lane n).ready && !g.paused && !c.coasting n && decide (c.tick + 6144 ≤ t0)
    && decide (c.b n 0 ≤ t0) && decide (t0 < min (c.b n 96) (g.b 96)) && decide (g.openFrom ≤ t0)
    && (tx.onWay ++ tx.ready ++ tx.await).all fun f => decide (f.exEnd ≤ t0) && decide (f.tend + rampTicks ≤ t0)

/-- Whether an exchange from `t0` to `e` fits the run of facet `f` and no wake window (R93, R100). -/
def Chip.fitsRun (c : Chip) (n : Lane) (f t0 tend e : Nat) : Bool :=
  decide (e ≤ c.runStop n f) && !c.wakeClash n t0 (tend + rampTicks)

/-- The epoch in which a frame to a peer goes: in the straggle window OLD peers are sent to in the previous one (R107). -/
def Chip.peerEpoch (c : Chip) (n : Lane) (slot : Nat) : EpochSet :=
  match c.wheel.active, c.wheel.prev with
  | some ch, some pv =>
    if (c.group n).switched ∧ turnBefore (c.turn n) (turnAdd ch.s ch.w) ∧ (c.nbr slot).epst = 0 then pv else c.epochIn n
  | _, _ => c.epochIn n

/-- Which group bank serves an epoch: 0 current, 1 next, 2 previous (R309). -/
def Chip.bankOf (c : Chip) (ep : EpochSet) : Nat := if ep.num = c.wheel.cur.num then 0 else 2

/-- Whether a unicast frame may go to a slot at all: an assigned peer of the group that is not STALE, its queues offered; in a
quiet period only a peer that is served (R103, R108, R251). -/
def Chip.mayServe (c : Chip) (n : Lane) (slot : Nat) : Bool :=
  c.peerOf n slot && (c.nbr slot).epst != 3 && (!c.quietIn n || (c.wheel.calls.get? slot).isSome)

/-- Coupling of DATA and ACK frames to a peer (R124, R125). -/
def Chip.peerCoupling (c : Chip) (slot : Nat) : Coupling :=
  let e := c.nbr slot
  if e.proto = 1 then .single (if e.cpl = 0 then e.port else 1)
  else if e.cpl = 0 then .single e.port
  else if e.cpl = 2 then .weights e.wset
  else .rotation

/-- PHASE of DATA to a peer: the single port, or 0 (Table 2-7). -/
def Chip.peerPhase (c : Chip) (slot : Nat) : Nat := if (c.nbr slot).cpl = 0 then (c.nbr slot).port else 0

/-- Coupling of GLP-6 broadcasts (R125). -/
def Chip.g6Coupling (c : Chip) (n : Lane) : Coupling :=
  if c.flag (F.TXP_TXCTL_G6BCAST n) then .same else .single (c.get (F.TXP_TXCTL_G6PORT n))

/-! The choice of MPDUs (R214, R258, R274). -/

/-- Whether a block of the MPDU has been sent and not acknowledged. -/
def TxMpdu.resend (m : TxMpdu) : Bool := m.blocks.any fun b => !b.acked && b.tries != 0

/-- Whether an MPDU waits to be put into a frame. -/
def TxMpdu.waits (m : TxMpdu) : Bool := m.status.isNone && !m.committed

/-- The MPDUs of a slot with failed blocks, with their queues, in the order of their first sending (R214). -/
def Chip.resends (c : Chip) (slot : Nat) : List (Nat × TxMpdu) :=
  let all := [2 * slot, 2 * slot + 1].flatMap fun q =>
    if (c.queue q).held then [] else ((c.queue q).mpdus.filter fun m => m.waits && m.resend).map fun m => (q, m)
  let age (m : TxMpdu) : Nat := ((c.nbr slot).txseq + 4096 - m.mseq.getD 0) % 4096
  all.mergeSort fun a b => decide (age b.2 ≤ age a.2)

/-- Whether the entry's CLASS admits a class (Table 3-3). -/
def classOk (entryCls cls : Nat) : Bool := entryCls == 0 || entryCls == cls + 1

/-- The MPDUs of queue `q` that wait for their first sending and that `p` admits, in submission order. -/
def Chip.firsts (c : Chip) (q : Nat) (p : TxMpdu → Bool) : List TxMpdu :=
  if (c.queue q).held then [] else (c.queue q).mpdus.filter fun m => m.waits && !m.resend && p m

/-- Take MPDUs of the classes named, in order, from class 0 and class 1; class 1 only while class 0 offers nothing (R274);
none if the choice cannot be met. -/
def pickNews (slot : Nat) : List Nat → List TxMpdu → List TxMpdu → List (Nat × TxMpdu) → Option (List (Nat × TxMpdu))
  | [], _, _, got => some got
  | k :: ks, q0, q1, got =>
    match k, q0, q1 with
    | 0, m :: rest, _ => pickNews slot ks rest q1 (got ++ [(2 * slot, m)])
    | 1, [], m :: rest => pickNews slot ks [] rest (got ++ [(2 * slot + 1, m)])
    | _, _, _ => none

/-- Whether no MPDU to the addressee is 64 or more sequence numbers older than the next one and still open (R258); `k` new
numbers are about to be used. -/
def Chip.windowOpen (c : Chip) (slot k : Nat) : Bool :=
  [2 * slot, 2 * slot + 1].all fun q => (c.queue q).mpdus.all fun m =>
    match m.mseq with
    | some s => m.status.isSome || decide (((c.nbr slot).txseq + k + 4095 - s) % 4096 < 64)
    | none => true

/-- New sequence numbers that a choice of MPDUs uses. -/
def newNumbers (ms : List (Nat × TxMpdu)) : Nat := (ms.filter fun m => m.2.mseq.isNone).length

/-- MPDUs whose named epoch has passed complete with EPOCH (Table 10-5, log entry 69). -/
def Chip.dropPassed (c : Chip) (slot : Nat) (e : Nat) : Chip :=
  [2 * slot, 2 * slot + 1].foldl (fun c q => c.onQueue q fun x =>
    { x with mpdus := x.mpdus.map fun m =>
        if m.waits ∧ !m.resend ∧ epochPassed m.target e then m.finish Status.epoch.code else m }) c

/-! Protection (R297 to R300). -/

/-- The bank that protects an MPDU of a frame in epoch `ep`. -/
def Chip.protBank (c : Chip) (m : TxMpdu) (ep : EpochSet) : Option BankRef :=
  if m.gkey then c.groupBank (c.bankOf ep) else some (.nbr m.dest false)

/-- The protection a frame in epoch `ep` uses again, if the MPDU has one for it (R300). -/
def Chip.protKept (c : Chip) (m : TxMpdu) (ep : EpochSet) : Option Prot :=
  let load := ((c.protBank m ep).map fun r => (c.keys.bank r).load).getD 0
  if isGroupDest m.dest then
    [m.prot, m.protOld].findSome? fun p => p.filter fun p => p.epoch == ep.num && (m.level == 0 || p.load == load || !m.sentIn.isEmpty)
  else m.prot.filter fun p => m.level == 0 || p.load == load || m.blocks.any fun b => b.tries != 0

/-- Protect an MPDU whose MSEQ is set; `mis` are the disagreements of the pipelines.  A status tells why it cannot be: no key
or an exhausted counter REFUSED, no working pair RETIRED (R299, R310, R318, R319).  What FCNT an MPDU of LEVEL 0 carries is
not stated (log entry 72). -/
def Chip.protect (c : Chip) (m : TxMpdu) (ep : EpochSet) (mis : Nat × Nat) : Except Status Prot × Chip :=
  if m.level = 0 then
    let f := c.freeBelow (2 ^ 32)
    (.ok { fcnt := f, nonce := List.replicate 13 0, body := m.payload, epoch := ep.num, load := 0 }, c.nextFree)
  else
    match c.protBank m ep with
    | none => (.error .refused, c)
    | some r =>
      let b := c.keys.bank r
      if !b.holds then (.error .refused, c)
      else
        match c.takeCounter r with
        | (none, c) => (.error .refused, c.count F.SAGGAR_SKIPS_CTREXH 1)
        | (some (fcnt, k), c) =>
          let x := c.runPair 0 mis
          let c := x.2
          if x.1 then
            let nonce := nonceOf c.selfEui fcnt (m.level + 8 * bit m.gkey)
            let e := ccmSeal k.key (tagBytes m.level) nonce (m.header fcnt) m.payload
            (.ok { fcnt, nonce, body := e.1 ++ e.2, epoch := ep.num, load := k.load }, c.count F.SAGGAR_PROT_COUNT 1)
          else (.error .retired, c)

/-! Frames of MPDUs. -/

/-- What a DATA frame is to be: its place, its addressee and the form chosen. -/
structure DataPlan where
  t0 : Nat
  facet : Nat
  slot : Nat
  dest : Nat
  g6 : Bool
  bp : Nat
  ep : EpochSet
  gi : Nat
  mode : Nat
  rate : Nat
  bt : Nat
  tmv : Nat
  set : Option MapSet
  fd : Bool
  /-- payload symbols of a full-duplex exchange -/
  exact : Option Nat
  coupling : Coupling
  phase : Nat

/-- Facet in which payload symbol `i` of a plan starts (R94, R95). -/
def Chip.symFacet (c : Chip) (n : Lane) (p : DataPlan) (i : Nat) : Nat :=
  c.facetAt n (p.t0 + headTicks + i * tsTicks p.gi)

/-- Coded bits that payload symbol `i` takes (R71). -/
def Chip.symCap (c : Chip) (n : Lane) (p : DataPlan) (i : Nat) : Nat :=
  if p.mode ≠ 0 then repNcb (dataCarriersOf p.bp) p.mode
  else match p.set.bind fun m => c.mapOf n m (c.symFacet n p i) with
    | some t => t.bits
    | none => 0

/-- Payload symbols of a plan for `nblk` blocks: as R71 gives them, or the granted number of an exchange, where the blocks fit
(R69, R267). -/
def Chip.planSymbols (c : Chip) (n : Lane) (p : DataPlan) (nblk : Nat) : Option Nat :=
  let need := nblk * lcOf p.bt p.rate
  match p.exact with
  | some k =>
    if need ≤ (List.range k).foldl (fun a i => a + c.symCap n p i) 0 then some k else none
  | none => (symbolsFor (c.symCap n p) need 512 0).filter (· ≠ 0)

/-- Blocks of an MPDU that a frame of block type `bt` carries: those not acknowledged; all of one whose blocks were never
sent. -/
def TxMpdu.openBlocks (m : TxMpdu) (bt : Nat) : List Nat :=
  let k := blocksOf bt m.length
  if m.resend then (List.range k).filter fun i => !(m.blocks.getD i ⟨0, false⟩).acked else List.range k

/-- A block of a protected MPDU for the line (R68, R69). -/
def frameBlock (q : Nat) (m : TxMpdu) (p : Prot) (bt k : Nat) : FrameBlk :=
  let bytes := m.header p.fcnt ++ p.body
  let size := blockData bt
  let part := (bytes.drop (k * size)).take size
  let h : BlkHdr :=
    { mseq := m.mseq.getD 0, bidx := k, last := k + 1 == blocksOf bt m.length, vlen := part.length, cls := m.cls, fill := false }
  { queue := q, id := m.id, bidx := k, word := h.word, data := part }

/-- Put one MPDU into a frame: MSEQ and protection where it has none, its record of blocks; one that cannot be protected
completes with the reason (R258, R300). -/
def Chip.placeMpdu (c : Chip) (p : DataPlan) (q : Nat) (m : TxMpdu) (mis : Nat × Nat) : List FrameBlk × Chip :=
  let seq := (c.nbr p.slot).txseq
  let m1 := { m with mseq := some (m.mseq.getD seq) }
  let kept := c.protKept m1 p.ep
  let r := match kept with
    | some x => (Except.ok x, c)
    | none => c.protect m1 p.ep mis
  match r with
  | (.error st, c) => ([], c.onMpdu q m.id fun x => x.finish st.code)
  | (.ok pr, c) =>
    let c := if m.mseq.isNone then c.onNbr p.slot fun e => { e with txseq := (seq + 1) % 4096 } else c
    let n := blocksOf p.bt m.length
    let m2 := { m1 with
      prot := some pr
      protOld := if kept.isSome then (if m.prot = some pr then m.protOld else m.prot) else m.prot
      bt := p.bt
      rate := p.rate
      tmv := p.tmv
      blocks := if m.resend ∨ m.blocks.length = n ∧ isGroupDest m.dest then m.blocks else List.replicate n ⟨0, false⟩
      inFrames := m.inFrames + 1 }
    ((m.openBlocks p.bt).map (frameBlock q m2 pr p.bt), c.onMpdu q m.id fun _ => m2)

/-- Place the MPDUs of a choice in order. -/
def Chip.placeAll (c : Chip) (p : DataPlan) : List (Nat × TxMpdu) → List (Nat × Nat) → List FrameBlk × Chip
  | [], _ => ([], c)
  | (q, m) :: rest, mis =>
    let a := c.placeMpdu p q m (mis.headD (0, 0))
    let b := Chip.placeAll a.2 p rest mis.tail
    (a.1 ++ b.1, b.2)

/-- Hand a frame to its lane. -/
def Chip.commitFrame (c : Chip) (n : Lane) (f : TxFrame) : Chip := c.onTx n fun t => { t with onWay := t.onWay ++ [f] }

/-- End of the exchange that a frame ending at `tend` opens: with its acknowledgement, if one is asked for (R80). -/
def ackEnd (tend : Nat) (g6 ack : Bool) : Nat := if ack then tend + ackGap g6 + headTicks else tend

/-- Build and commit the DATA frame of a plan from a choice of MPDUs, if it keeps every limit and fits its run (R69, R93,
R214).  DESIGN CHOICE (log entry 206): a broadcast or group MPDU that is sent again in another group or epoch carries ATT 0, since no
block of it has failed. -/
def Chip.commitData (c : Chip) (n : Lane) (p : DataPlan) (ms : List (Nat × TxMpdu)) (mis : List (Nat × Nat)) : Chip :=
  let nblk := ms.foldl (fun a m => a + (m.2.openBlocks p.bt).length) 0
  let uni := p.slot != 0
  let fit : Bool := match c.planSymbols n p nblk with
    | none => false
    | some k =>
      let tend := p.t0 + headTicks + k * tsTicks p.gi
      c.fitsRun n p.facet p.t0 tend (ackEnd tend p.g6 uni)
  if ms.isEmpty ∨ 4 < ms.length ∨ 32 < nblk ∨ !fit then c
  else
    let att := match ms with
      | m :: _ => min 6 ((m.2.openBlocks p.bt).foldl (fun a i => max a (m.2.blocks.getD i ⟨0, false⟩).tries) 0)
      | [] => 0
    let att := if uni ∧ (ms.any fun m => m.2.resend) then att else 0
    let r := c.placeAll p ms mis
    let c := r.2
    match r.1, c.planSymbols n p r.1.length with
    | b :: bs, some nsym =>
      let blocks := b :: bs
      let nm := ((blocks.map fun b => (b.queue, b.id)).eraseDups).length
      let (serial, c) := c.nextSerial
      let fc : Fc :=
        { g6 := p.g6, snid := ownSnid, bp := p.bp, epl := if p.g6 then 0 else p.ep.num % 4, stid := 0, dtid := p.dest,
          body := .data p.gi p.mode p.rate p.tmv nsym blocks.length p.bt nm (if p.g6 then 0 else p.phase) att uni
            (if p.g6 then 0 else c.symFacet n p 0) }
      let tend := p.t0 + fc.body.ticks
      c.commitFrame n
        { serial, t0 := p.t0, fc, recs := [], blocks, epoch := p.ep, coupling := p.coupling,
          txports := entryPorts (c.entry n p.facet), facet := p.facet, turn := c.turn n, slot := p.slot, training := 0, fd := p.fd,
          exEnd := ackEnd tend p.g6 uni, grant := none, late := false, set := none }
    | _, _ => c

/-! DATA to a peer. -/

/-- A downlink set that waits goes into force with the first frame that carries no re-send, or after SWWAIT turns with the
next frame, which counts as forced (R243). -/
def Chip.switchSet (c : Chip) (n : Lane) (slot : Nat) (resend : Bool) : Chip :=
  match (c.lane n).tmap.pending.get? slot with
  | none => c
  | some k =>
    if !resend then c.nextToCur slot
    else if c.get (F.TMAP_TMCFG_SWWAIT n) ≤ k then (c.nextToCur slot).count (F.TMAP_COUNTS3_FORCED n) 1
    else c

/-- Whether mode and rate of a plan are allowed: REP4 where no set serves the profile (R246); in REP4 and REP6 only 1/2; a re-send under its own set keeps its rate; a first
sending in REP1 is no faster than the map of its first symbol, and at 1/2 while a port change is not yet answered (R214, R232,
R245, Table 2-7, Table 2-15). -/
def Chip.rateOk (c : Chip) (n : Lane) (p : DataPlan) (ms : List (Nat × TxMpdu)) : Bool :=
  let mapRate := match p.set.bind fun m => c.mapOf n m (c.symFacet n p 0) with
    | some t => t.rate
    | none => 0
  let re := ms.filter fun m => m.2.resend
  let kept := re.all fun m => m.2.bt == p.bt && (m.2.tmv != p.tmv || m.2.rate == p.rate)
  let first := re.isEmpty || re.any fun m => m.2.tmv != p.tmv
  decide (p.mode ≤ 2) && decide (p.rate ≤ if p.g6 then 3 else 4) && (p.mode == 0 || p.rate == 0) && (p.set.isSome || p.mode == 1)
    && kept && (!first || decide (p.rate ≤ mapRate)) && (!first || p.rate == 0 || !(c.lane n).tmap.halfRate.contains p.slot)

/-- Commit a DATA frame to a peer: `resends` of its MPDUs with failed blocks, then new ones of the classes `news`, which are
taken only once every re-send is (R214). -/
def Chip.commitUnicast (c0 : Chip) (n : Lane) (slot t0 f gi mode rate bt resends : Nat) (news : List Nat)
    (exact : Option Nat) (mis : List (Nat × Nat)) : Chip :=
  let ep := c0.peerEpoch n slot
  let c0 := c0.dropPassed slot ep.num
  let g6 := c0.role n f == 7
  let bp := if g6 then c0.g6bp else ep.bp
  let cls := entryClass (c0.entry n f)
  let ok (m : TxMpdu) : Bool := g6 || classOk cls m.cls
  let re := (c0.resends slot).filter fun m => ok m.2
  let then' := c0.switchSet n slot (resends != 0)
  let set := then'.dlFor slot bp
  let fresh (m : TxMpdu) : Bool := ok m && epochFits m.target ep.num
  match pickNews slot news (c0.firsts (2 * slot) fresh) (c0.firsts (2 * slot + 1) fresh) [] with
  | none => c0
  | some new =>
    let ms := re.take resends ++ new
    let plan : DataPlan :=
      { t0, facet := f, slot, dest := slot, g6, bp, ep, gi, mode, rate, bt, tmv := (set.map (·.tmv)).getD 0, set, fd := exact.isSome,
        exact, coupling := c0.peerCoupling slot, phase := c0.peerPhase slot }
    if re.length < resends ∨ (!new.isEmpty ∧ resends < (c0.resends slot).length) ∨ !c0.windowOpen slot (newNumbers ms)
        ∨ !then'.rateOk n plan ms then c0
    else
      let r := c0.commitData n plan ms mis
      if r.frames = c0.frames then r else r.switchSet n slot (resends != 0)

/-- Commit a broadcast or group DATA frame: MPDUs of one destination, once in each epoch of the group, in REP4 or REP6 (R107,
R125, R283). -/
def Chip.commitBroadcast (c0 : Chip) (n : Lane) (t0 f gi mode bt : Nat) (news : List Nat) (mis : List (Nat × Nat)) : Chip :=
  let g6 := c0.role n f == 7
  let c := c0.dropPassed 0 (c0.epochIn n).num
  let cls := entryClass (c.entry n f)
  let todo (ep : EpochSet) (m : TxMpdu) : Bool :=
    m.status.isNone && !m.flushed && (g6 || classOk cls m.cls) && epochFits m.target ep.num && !m.sentIn.contains (256 * n.num + ep.num)
      && !(((c.lane n).tx.onWay ++ (c.lane n).tx.ready).any fun x => x.epoch.num == ep.num && x.mpdus.contains (m.cls, m.id))
  let all (ep : EpochSet) (q : Nat) : List TxMpdu := if (c.queue q).held then [] else (c.queue q).mpdus.filter (todo ep)
  match (c.epochsIn n).find? fun ep => !(all ep 0).isEmpty || !(all ep 1).isEmpty with
  | none => c0
  | some ep =>
    match pickNews 0 news (all ep 0) (all ep 1) [] with
    | some ((q, m) :: rest) =>
      let ms := (q, m) :: rest
      let plan : DataPlan :=
        { t0, facet := f, slot := 0, dest := m.dest, g6, bp := if g6 then c.g6bp else ep.bp, ep, gi, mode, rate := 0, bt, tmv := 0,
          set := none, fd := false, exact := none, coupling := if g6 then c.g6Coupling n else .rotation, phase := 0 }
      if (mode ≠ 1 ∧ mode ≠ 2) ∨ (ms.any fun x => x.2.dest != m.dest || (!x.2.blocks.isEmpty && x.2.bt != bt))
          ∨ !c.windowOpen 0 (newNumbers ms) then c0
      else c.commitData n plan ms mis
    | _ => c0

/-! GRANT, SOUND and WAKE. -/

/-- Turn and start tick of facet `g` next after facet `f` of the present turn. -/
def Chip.grantPlace (c : Chip) (n : Lane) (f g : Nat) : Nat × Nat :=
  if f < g then (c.turn n, c.b n g)
  else
    let x := c.nextStart n
    (turnAdd (c.turn n) 1, (x.1 + g * x.2 / 24) / 256)

/-- Tick before which an exchange of facet `g` at `start` must end. -/
def Chip.grantStop (c : Chip) (n : Lane) (f g : Nat) : Nat :=
  if f < g then c.runStop n g
  else
    let x := c.nextStart n
    (x.1 + c.runEnd n g * x.2 / 24) / 256

/-- A frame without payload blocks. -/
def Chip.plainFrame (c : Chip) (n : Lane) (t0 f : Nat) (fc : Fc) (ep : EpochSet) (cp : Coupling) (slot exEnd training : Nat)
    (recs : List Nat) (grant : Option Granted) : Chip :=
  let (serial, c) := c.nextSerial
  c.commitFrame n
    { serial, t0, fc, recs, blocks := [], epoch := ep, coupling := cp, txports := entryPorts (c.entry n f), facet := f,
      turn := c.turn n, slot, training, fd := false, exEnd, grant, late := false, set := none }

/-- A frame control of the GX8. -/
def ownFc (ep : EpochSet) (dtid : Nat) (body : FcBody) : Fc :=
  { g6 := false, snid := ownSnid, bp := ep.bp, epl := ep.num % 4, stid := 0, dtid, body }

/-- Whether a grant may name a mode for a user: any with a valid uplink set, else REP4 (R232). -/
def Chip.grantModeOk (c : Chip) (n : Lane) (g : Granted) (u : GrantRec) : Bool :=
  if (c.uplinkSet n g u.slot).isSome then decide (u.mode ≤ 2) else u.mode == 1

/-- Whether a user may be granted as asked (R188, R232, R264). -/
def Chip.grantUserOk (c : Chip) (n : Lane) (g : Granted) (ep : EpochSet) (u : GrantRec) : Bool :=
  c.mayServe n u.slot && (c.nbr u.slot).proto == 0 && (c.laneRec n u.slot).tast != 2 && c.peerEpoch n u.slot == ep
    && decide (1 ≤ u.scnt) && decide (u.sherd + u.scnt ≤ sherdsOf ep.bp)
    && c.grantModeOk n g u

/-- Commit a GRANT for a multi-user uplink (R93, R182, R264). -/
def Chip.commitGrant (c : Chip) (n : Lane) (t0 f gi nsym bt gfac : Nat) (users : List GrantRec) : Chip :=
  match users with
  | [] => c
  | u0 :: _ =>
    let ep := c.peerEpoch n u0.slot
    let pl := c.grantPlace n f gfac
    let g : Granted :=
      { t0 := pl.2, facet := gfac, turn := pl.1, gtrn := pl.1 % 256, gi, nsym, bt, bp := ep.bp, epl := ep.num % 4, fd := false, users,
        ovl := [] }
    let body : FcBody := .grant gi nsym users.length gfac (pl.1 % 256) bt
    let tend := t0 + body.ticks
    let ulEnd := pl.2 + uplinkTicks gi nsym
    let stop := ulEnd + ackGap false + (FcBody.groupAck users.length gfac (pl.1 % 256)).ticks
    let clash := (c.lane n).tx.grants.any fun x => x.turn == pl.1 && x.facet == gfac
    if 96 ≤ gfac ∨ c.role n gfac ≠ 3 ∨ 512 < nsym ∨ nsym = 0 ∨ 1 < bt ∨ gi < entryGimin (c.entry n gfac) ∨ 3 < gi
        ∨ users.length > entryMaxusr (c.entry n gfac) ∨ !(users.map (·.slot)).Nodup ∨ !(overlapUsers users).isEmpty
        ∨ (users.any fun u => !c.grantUserOk n g ep u) ∨ pl.2 < tend + 40960 ∨ c.grantStop n f gfac < stop ∨ clash
        ∨ !c.fitsRun n f t0 tend tend ∨ c.wakeClash n pl.2 (stop + rampTicks) then c
    else c.plainFrame n t0 f (ownFc ep 0x3FFF body) ep .rotation 0 tend 0 (users.map GrantRec.word) (some g)

/-- Commit the GRANT of a full-duplex exchange with a peer (R232, R267).  Its BT field is not stated (log entry 73). -/
def Chip.commitFdGrant (c : Chip) (n : Lane) (t0 f slot gi nsym mode gfac : Nat) : Chip :=
  let ep := c.peerEpoch n slot
  let pl := c.grantPlace n f gfac
  let bt := c.freeBelow 2
  let u : GrantRec := { slot, sherd := 0, scnt := sherdsOf ep.bp, mode }
  let g : Granted :=
    { t0 := pl.2, facet := gfac, turn := pl.1, gtrn := pl.1 % 256, gi, nsym, bt, bp := ep.bp, epl := ep.num % 4, fd := true,
      users := [u], ovl := [] }
  let body : FcBody := .grant gi nsym 1 gfac (pl.1 % 256) bt
  let tend := t0 + body.ticks
  let stop := ackEnd (pl.2 + headTicks + nsym * tsTicks gi) false true
  let e := c.nbr slot
  let clash := (c.lane n).tx.grants.any fun x => x.turn == pl.1 && x.fd &&
    decide (x.t0 ≤ stop ∧ pl.2 ≤ ackEnd (x.t0 + headTicks + x.nsym * tsTicks x.gi) false true)
  if 96 ≤ gfac ∨ c.role n gfac ≠ 5 ∨ nsym = 0 ∨ 512 < nsym ∨ !c.grantModeOk n g u ∨ 3 < gi ∨ gi < entryGimin (c.entry n gfac) ∨ !c.mayServe n slot
      ∨ e.proto ≠ 0 ∨ !e.fdel ∨ (c.laneRec n slot).tast ≠ 1 ∨ !c.mac.fdok.testBit n.num ∨ pl.2 < tend + 40960
      ∨ c.grantStop n f gfac < stop ∨ clash ∨ !c.fitsRun n f t0 tend tend ∨ c.wakeClash n pl.2 (stop + rampTicks) then c
  else
    (c.nextFree.plainFrame n t0 f (ownFc ep 0x3FFF body) ep .rotation 0 tend 0 [u.word] (some g)).count F.MAC_FDEXCH_COUNT 1

/-- Commit the adaptation SOUND of a build (R79, R236). -/
def Chip.commitSound (c : Chip) (n : Lane) (t0 f slot gi : Nat) : Chip :=
  let ep := c.peerEpoch n slot
  let e := c.nbr slot
  let k := c.get (F.TMAP_TMCFG_NSND n)
  let single := e.cpl == 0
  let body : FcBody := .sound gi k (if single then 0 else 1) (if single then e.port else 0) true
  let tend := t0 + body.ticks
  let stop := tend + ackGap false + body.ticks
  let due := (c.lane n).tmap.builds.any fun b => b.slot == slot && b.source == 0 && decide (b.tries < 3)
  if !due ∨ !c.mayServe n slot ∨ e.proto ≠ 0 ∨ !c.fitsRun n f t0 tend stop then c
  else c.plainFrame n t0 f (ownFc ep slot body) ep (if single then .single e.port else .rotation) slot stop 0 [] none

/-- Whether a training frame is under way. -/
def Chip.trainUnder (c : Chip) (n : Lane) : Bool := ((c.lane n).tx.onWay ++ (c.lane n).tx.ready).any fun x => x.training != 0

/-- Whether the run of facet `f` is due to the training frame that is asked for: it can hold it, and none is under way (R150). -/
def Chip.trainDue (c : Chip) (n : Lane) (f : Nat) : Bool :=
  let e := (c.lane n).echo
  let gi := entryGimin (c.entry n f)
  e.req != 0 && e.running == 0 && !c.trainUnder n
    && decide (c.b n (c.runStart n f) + soundTicks gi (c.trainSymbols n e.req) ≤ c.runStop n f)

/-- Commit the SOUND of the training pass that is asked for (R150). -/
def Chip.commitTraining (c : Chip) (n : Lane) (t0 f : Nat) : Chip :=
  let ep := c.epochIn n
  let e := (c.lane n).echo
  let body : FcBody := .sound (entryGimin (c.entry n f)) (c.trainSymbols n e.req) 1 0 false
  let tend := t0 + body.ticks
  if e.req = 0 ∨ e.running ≠ 0 ∨ c.trainUnder n ∨ !c.fitsRun n f t0 tend tend then c
  else c.plainFrame n t0 f (ownFc ep 0x3FFF body) ep .rotation 0 tend e.req [] none

/-- Commit a WAKE call to a peer (R104, Table 3-4): to one served in a quiet period, in a WAKE-LISTEN facet, and it names an exchange that
starts no later than one turn after the request's arrival; or to one that sleeps. -/
def Chip.commitWake (c : Chip) (n : Lane) (t0 f slot wtrn wfac : Nat) : Chip :=
  let ep := c.peerEpoch n slot
  let body : FcBody := .wake false 0 wtrn wfac
  let tend := t0 + body.ticks
  let due : Bool := match c.wheel.calls.get? slot with
    | some a => c.role n f == 8 && decide (stampDist a (wtrn, wfac) ≤ 96)
    | none => (c.nbr slot).sleep
  if !c.mayServe n slot ∨ !due ∨ 96 ≤ wfac ∨ stampDist (c.turn n, f) (wtrn, wfac) < 0 ∨ !c.fitsRun n f t0 tend tend then c
  else c.plainFrame n t0 f (ownFc ep slot body) ep .rotation slot tend 0 [] none

/-- Whether the line has been free of detections long enough for a G6-DATA frame at `t0` (R268). -/
def Chip.g6Idle (c : Chip) (n : Lane) (t0 : Nat) : Bool :=
  (c.lane n).rx.rx.isNone && match c.mac.lastDet.get? n.num with
    | some t => decide (t + c.get F.MAC_G6CFG_IFS * 1024 ≤ t0)
    | none => true

/-- FRAME_COMMIT (R22): the MAC engine commits a frame to lane `n` for tick `t0`.  `req` is the scheduler's choice and `mis` the
disagreements of the saggar's pipelines, for each MPDU protected.  A choice that the rules do not allow commits nothing; a SOUND run that
can hold a training frame that is asked for is first that frame's (R150). -/
def execFrameCommit (n : Lane) (t0 : Nat) (req : TxReq) (mis : List (Nat × Nat)) (s : State) :
    Host.Outcome State Fault Refusal :=
  .next (s.onChip fun c =>
    let f := c.facetAt n t0
    let role := c.role n f
    let gimin := entryGimin (c.entry n f)
    let giOk (gi : Nat) : Bool := decide (gi ≤ 3) && decide (gimin ≤ gi) && (role != 7 || decide (1 ≤ gi))
    if !c.mayOpen n t0 then c
    else
      match req with
      | .data slot gi mode rate bt resends news =>
        if !giOk gi ∨ 1 < bt then c
        else if slot = 0 then
          if (role = 4 ∧ !c.quietIn n) ∨ (role = 7 ∧ c.g6Idle n t0) then c.commitBroadcast n t0 f gi mode bt news mis else c
        else if !c.mayServe n slot then c
        else if (role = 4 ∧ (c.nbr slot).proto = 0) ∨ (role = 7 ∧ (c.nbr slot).proto = 1 ∧ c.g6Idle n t0) then
          c.commitUnicast n slot t0 f gi mode rate bt resends news none mis
        else c
      | .fdData mode rate bt resends news =>
        match (c.lane n).tx.grants.find? fun g => g.fd && g.t0 == t0 with
        | some g =>
          match g.users with
          | u :: _ =>
            if c.mayServe n u.slot ∧ bt ≤ 1 then
              c.commitUnicast n u.slot t0 f g.gi mode rate bt resends news (some g.nsym) mis
            else c
          | [] => c
        | none => c
      | .grant gi nsym bt gfac users => if role = 4 then c.commitGrant n t0 f gi nsym bt gfac users else c
      | .fdGrant slot gi nsym mode gfac => if role = 4 then c.commitFdGrant n t0 f slot gi nsym mode gfac else c
      | .sound slot gi => if role = 6 ∧ giOk gi ∧ !c.trainDue n f then c.commitSound n t0 f slot gi else c
      | .training => if role = 6 then c.commitTraining n t0 f else c
      | .wake slot wtrn wfac => if role = 4 ∨ role = 8 then c.commitWake n t0 f slot wtrn wfac else c)

/-- COMMITMISS (R22): the deadline of an opportunity passes without a commitment. -/
def execCommitmiss (n : Lane) (t0 : Nat) (s : State) : Host.Outcome State Fault Refusal :=
  .next (s.onChip fun c =>
    if c.running n then
      (((c.advanceTo (t0 - 6144)).count F.MAC_MISC_COMMITMISS 1).pfaultSet .mac 0).raise .mac 0
    else c)

end Sys2Proof.Machine
end

