-- ==== Sys2Proof/Machine/RxFc.lean ====
section
/-!
DEFINITION. Detection of frames and the judgement of their frame controls (R82, R95, R106, R163, R164, R172 to R174, R231,
R249, R252, R261, R265, R267 to R270).
-/
namespace Sys2Proof.Machine

/-- Whether a reception is a GLP-6 frame. -/
def Rx.g6 (r : Rx) : Bool :=
  match r.kind with
  | .frame fc => fc.g6
  | _ => false

/-- Gap from the end of a frame to the acknowledgement's preamble, ticks (Table 2-14): what R80 gives GLP-8 or GLP-6. -/
def Rx.gap (r : Rx) : Nat := ackGap r.g6

/-- Commitment deadline of the acknowledgement of a reception: 60 us before its preamble (R22). -/
def Rx.deadline (r : Rx) : Nat := r.tend + r.gap - 6144

/-- Distance of two ticks. -/
def natDist (a b : Nat) : Nat := (a - b) + (b - a)

/-- Whether two ticks lie within GI/4 of each other (R173, R174). -/
def nearGi (gi a b : Nat) : Bool := decide (4 * natDist a b ≤ giTicks gi)

/-- Facet and turn of a preamble start: one before B(0) belongs to the last facet of the turn before. -/
def Chip.placeOf (c : Chip) (n : Lane) (tp : Nat) : Nat × Nat :=
  if tp < c.b n 0 then (95, (c.turn n + 2 ^ 32 - 1) % 2 ^ 32) else (c.facetAt n tp, c.turn n)

/-- Whole TA units nearest to a time in ticks (R186). -/
def taUnits (d : Int) : Int := roundHalfUp d 4

/-- Arrival of a frame that starts at `tp` in a CONTEND facet against the nearest contention boundary, if it lies within 1,024 TA
units (R186, R266). -/
def Chip.contendDelta (c : Chip) (n : Lane) (tp : Nat) : Option Int :=
  let g := c.group n
  let run : Nat × Nat := if tp < c.b n 0 then (g.lastRun, g.lastCslot) else (c.b n (c.runStart n (c.facetAt n tp)), g.cslot)
  let step := 4096 * run.2
  let d := taUnits ((tp : Int) - (run.1 + roundDiv (tp - run.1) step * step : Nat))
  if c.roleNear n tp = 2 ∧ d.natAbs ≤ 1024 then some d else none

/-- A reception whose FC is still to come. -/
def Chip.bareRx (c : Chip) (n : Lane) (tp serial : Nat) : Rx :=
  let pl := c.placeOf n tp
  { kind := .detected, tp, tend := tp + headTicks, facet := pl.1, turn := pl.2, role := c.roleNear n tp,
    codes := (c.lane n).rx.agc.codes, first := 7, kept := none, bad := [], contend := c.contendDelta n tp, bp := 0, epl := 0, fd := false,
    coasted := c.coasting n, answers := none,
    gi := 0, cand := false, users := [], action := 0, accepted := [], serial }

/-- Whether a granted uplink occupies the path at tick `t`, from B(GFAC) to its end (R164). -/
def Chip.uplinkSpan (c : Chip) (n : Lane) (t : Nat) : Bool :=
  (c.lane n).tx.grants.any fun g => !g.fd && decide (g.t0 ≤ t) && decide (t < g.t0 + uplinkTicks g.gi g.nsym)

/-- Whether a reception or its frozen gain still occupies the path at tick `t`: the search resumes 2.5 µs after the end of a frame
(R163, R168, Table 6-2). -/
def Chip.pathBusy (c : Chip) (n : Lane) (t : Nat) : Bool :=
  let x := (c.lane n).rx
  x.found.isSome || (x.agc.holdTo.any fun k => decide (t < k)) || match x.rx with
    | none => false
    | some r => match r.kind with
      | .detected => true
      | .frame _ => decide (t < r.tend + 256)
      | .uplink => decide (t < r.tend)

/-- Whether the receive path searches for preambles at tick `t` (R163, R164): it works, no port transmits, no reception or granted
uplink occupies it, and it is no FD facet without a wake window; a candidate for which a stored gain waits may still become a
detection (R100, R170). -/
def Chip.searches (c : Chip) (n : Lane) (t : Nat) : Bool :=
  let l := c.lane n
  c.rxOn n && c.running n && l.tx.busy.all (fun e => decide (e.2 ≤ t)) && !c.flag (F.RXP_DETOVR_NOSEARCH n)
    && (l.rx.agc.deferred.isSome
      || (!c.pathBusy n t && !c.uplinkSpan n t && (c.roleAt n t != 5 || c.listens n)))

/-- The frame of a preamble that starts at `tp` is received next: at once, or while the blocks of the one before are still being
decoded; an uplink that a candidate held off is not received (R170, Table 6-2). -/
def Chip.foundRx (c : Chip) (n : Lane) (tp first : Nat) (kept : Option Capture) : Chip :=
  let fresh (serial : Nat) : Rx := { c.bareRx n tp serial with first, kept }
  match (c.lane n).rx.rx with
  | some r =>
    if r.kind = .uplink then (c.closeRx n).openRx n fresh
    else c.onRx n fun x => { x with found := some (fresh x.serial), serial := x.serial + 1 }
  | none => c.openRx n fresh

/-- DETECTION (R172): at tick `t` the metric has held for 1,024 ticks; S11 starts at tick `s11` at the
input pins, and RXDLY refers it to the coupler (R166).  The loops freeze; with fewer
than two whole short symbols between the freeze and S11 the frame is discarded.  A noise window that ended less than 40 µs before is
dropped (R234). -/
def Chip.detected (c : Chip) (n : Lane) (t s11 : Nat) (kept : Option Capture) : Chip :=
  let dly := c.get (F.RXP_RXDLY_DELAY n)
  let tp := (s11 - dly - 10240 + 2) / 4 * 4
  let c := (((c.advanceTo t).settleInputs n).freeze n).count (F.RXP_DETECT_COUNT n) 1
  let c := (c.onMac fun m => { m with lastDet := m.lastDet.insert n.num t }).endCandidate n |>.spyEvent n 2
  let c := c.onRx n fun r => { r with spans := (t - 4096, t) :: r.spans }
  let past := ceilDiv (t - (tp + dly)) 1024
  if 10 - past < 2 then (c.unfreeze n).count (F.RXP_ERR3_LATEDET n) 1
  else c.foundRx n tp (past + 1) kept


/-- DETECTION (R163, R164, R172): what the inputs took in up to tick `t` is no detection unless the path searches, and the metric of
their sum has stayed at or above THR for 1,024 ticks. -/
def execDetection (n : Lane) (t : Nat) (h : Heard Nat) (s : State) : Host.Outcome State Fault Refusal :=
  .next (s.onChip fun c =>
    if !c.searches n t then c
    else match c.hearDetection n t h with
      | some s11 => c.detected n t s11 h.samples
      | none => c)

/-! Judging a frame control. -/

/-- Whether a short ID stands for a peer or for a sender that holds no slot (Table 9-1). -/
def stidOk (s : Nat) : Bool := decide (s < 0x2000) || s == 0x3FFE

/-- Whether a short ID may stand in DTID (Table 9-1). -/
def dtidOk (d : Nat) : Bool := decide (d ≤ 0x203F) || d == 0x3FFF

/-- ACLASS of a DTID (R269). -/
def aclass (d : Nat) : Nat := if d = 0 then 0 else if d = 0x3FFF then 1 else if 0x2000 ≤ d then 2 else 3

/-- The granted full-duplex exchange in which a frame that starts at `tp` stands (R267). -/
def Chip.fdAt (c : Chip) (n : Lane) (tp : Nat) : Option Granted :=
  (c.lane n).tx.grants.find? fun g => g.fd && nearGi g.gi tp g.t0

/-- Whether an answer to a frame of a full-duplex exchange is due at `tp` (R267). -/
def Chip.fdAckAt (c : Chip) (n : Lane) (tp : Nat) : Bool :=
  (c.lane n).tx.await.any fun f => f.fd && nearGi f.fc.gi tp (f.tend + ackGap false)

/-- The awaited frame that a frame control answers: from its addressee, at its time (R134, R174). -/
def Chip.awaited (c : Chip) (n : Lane) (fc : Fc) (tp : Nat) : Option TxFrame :=
  (c.lane n).tx.await.find? fun f =>
    f.slot == fc.stid && f.fc.g6 == fc.g6 && nearGi f.fc.gi tp (f.tend + ackGap fc.g6) &&
      match fc.body, f.fc.body with
      | .ack .., .data .. => true
      | .g6ack .., .data .. => true
      | .sound .., .sound .. => true
      | _, _ => false

/-- Whether profile and epoch of a frame are in force: those of the group's epoch, or in a straggle window of the previous one
too; the GLP-6 profile for GLP-6 frames (R82, R107). -/
def Chip.epochOk (c : Chip) (n : Lane) (fc : Fc) : Bool :=
  if fc.g6 then fc.bp == c.g6bp else (c.epochsIn n).any fun e => e.bp == fc.bp && e.num % 4 == fc.epl

/-- The plan by which the payload of a received DATA frame is counted (R71, R231). -/
def Chip.rxPlan (c : Chip) (n : Lane) (tp : Nat) (fc : Fc) (gi mode rate tmv bt : Nat) : DataPlan :=
  { t0 := tp, facet := 0, slot := fc.stid, dest := fc.dtid, g6 := fc.g6, bp := fc.bp, ep := c.epochIn n, gi, mode, rate, bt, tmv,
    set := c.ulMatch n fc.stid tmv fc.bp, fd := false, exact := none, coupling := .rotation, phase := 0 }

/-- Blocks of the longest MPDU of a block type, 4,096 bytes (R69). -/
def mpduBlocks (bt : Nat) : Nat := blocksOf bt 4096

/-- Whether `nblk` blocks and `nmpdu` MPDUs keep the limits of R69: every MPDU has at least one block, and none more than 4,096
bytes. -/
def countsOk (bt nblk nmpdu : Nat) : Bool := decide (nmpdu ≤ nblk) && decide (nblk ≤ nmpdu * mpduBlocks bt)

/-- The checks of the payload of a received frame (R69, R71, R82, R94, R95, R96, R231, R267).  What concerns the maps is checked
only on a frame to the GX8, whose maps they are; a guard interval below GIMIN of the facet of the preamble counts as a format
error. -/
def Chip.dataFate (c : Chip) (n : Lane) (r : Rx) (fd : Option Granted) (fc : Fc) : RxFate :=
  let short (gi : Nat) : Bool := decide (gi < entryGimin (c.entry n r.facet))
  match fc.body with
  | .data gi mode rate tmv nsym nblk bt nmpdu _ _ _ sfac =>
    let p := c.rxPlan n r.tp fc gi mode rate tmv bt
    let known := mode != 0 || fc.dtid == 0
    let count : Bool := match fd with
      | some g => nsym == g.nsym
      | none => !known || c.planSymbols n p nblk == some nsym
    if mode = 0 ∧ fc.dtid = 0 ∧ p.set.isNone then .mapMis
    else if !count ∨ !countsOk bt nblk nmpdu then .fmtErr
    else if !fc.g6 ∧ sfac ≠ c.symFacet n p 0 then .fmtErr
    else if fd.isNone ∧ short gi then .fmtErr
    else .accept
  | .beacon _ mode nsym nblk bt _ _ _ =>
    if nsym ≠ ceilDiv (nblk * lcOf bt 0) (max 1 (repNcb (dataCarriersOf fc.bp) mode)) ∨ !countsOk bt nblk 1 then .fmtErr else .accept
  | .sound gi .. => if short gi then .fmtErr else .accept
  | _ => .accept

/-- Whether a frame control names a STALE peer of the GX8's network, whose frames are dropped as soon as the FC is decoded
(R108). -/
def Chip.fromStale (c : Chip) (fc : Fc) : Bool :=
  fc.snid == ownSnid && decide (fc.stid < 0x2000) && (c.nbr fc.stid).st == 1 && (c.nbr fc.stid).epst == 3

/-- The checks that the lane makes (R82, R95, R231, R249, R268).  A frame that meets several rows of Table 2-17 counts by the first
in the order foreign network, GLP type, GRANT or GROUP-ACK, short ID, epoch, counts, which the spec does not give (log entry 178). -/
def Chip.laneFate (c : Chip) (n : Lane) (r : Rx) (fd : Option Granted) (fc : Fc) : RxFate :=
  if fc.snid ≠ ownSnid ∨ fc.stid = 0 then .foreign
  else if fc.g6 ≠ (r.role == 7) then .fmtErr
  else match fc.body with
    | .grant .. => .foreign
    | .groupAck .. => .foreign
    | _ =>
      if !stidOk fc.stid ∨ !dtidOk fc.dtid then .fmtErr
      else if !c.epochOk n fc then .epMis
      else c.dataFate n r fd fc

/-- The frame-action entry of a frame (R269). -/
def Chip.frameAction (c : Chip) (fc : Fc) : Nat := c.fa (4 * fc.dt + aclass fc.dtid)

/-- Whether the role of the facet lets a peer send the frame (R265, Table 3-4).  Between peers an answer is taken as one that
their exchange calls for. -/
def Chip.roleOk (c : Chip) (n : Lane) (r : Rx) (fd : Option Granted) (fc : Fc) : Bool :=
  let role := r.role
  match fc.body with
  | .data .. =>
    if fc.g6 then role == 7
    else match fd with
      | some g => (g.users.map (·.slot)).contains fc.stid
      | none => role == 2
  | .ack .. => fc.dtid != 0 || (c.awaited n fc r.tp).isSome
  | .g6ack .. => role == 7 && (fc.dtid != 0 || (c.awaited n fc r.tp).isSome)
  | .sound .. => fc.dtid != 0 || (c.awaited n fc r.tp).isSome
  | .wake wreq .. => wreq && (role == 8 || c.wheel.windows.contains fc.stid)
  | _ => false

/-- The checks that the MAC engine makes, and the frame-action table (R108, R252, R265, R268 to R270). -/
def Chip.macFate (c : Chip) (n : Lane) (r : Rx) (fd : Option Granted) (fc : Fc) : RxFate :=
  let a := c.frameAction fc
  let e := c.nbr fc.stid
  let unj := fc.stid == 0x3FFE
  let isData : Bool := match fc.body with
    | .data .. => true
    | _ => false
  if fc.g6 ∧ isData ∧ c.flag F.MAC_G6CFG_FILT ∧
      !(fc.dtid == 0 && (if unj then a.testBit 4 else e.st == 1 && e.proto == 1)) then .g6filt
  else if !unj ∧ (e.st = 2 ∨ e.epst = 3) then .qdrop
  else if !unj ∧ e.st ≠ 1 then .unknown
  else if !c.roleOk n r fd fc then .roleErr
  else if unj ∧ !a.testBit 4 then .faDrop
  else match a % 8 with
    | 0 => .faDrop
    | 4 => .ignore
    | 5 => .reserved
    | 6 => .reserved
    | 7 => .reserved
    | _ => .accept

/-- What becomes of a decoded FC.  A coasting lane makes only its own checks and keeps DATA frames to the GX8 (R392). -/
def Chip.fcFate (c : Chip) (n : Lane) (r : Rx) (fd : Option Granted) (w crc : Nat) : RxFate × Option Fc :=
  if crc ≠ crc24 (lsbFirst 128 w) then (.fcErr, none)
  else match fcOf w with
    | none => (.fmtErr, none)
    | some fc =>
      match (if !c.coasting n && c.fromStale fc then .qdrop else c.laneFate n r fd fc) with
      | .accept =>
        if c.coasting n then
          match fc.body with
          | .data .. => (if fc.dtid = 0 then .accept else .ignore, some fc)
          | _ => (.ignore, some fc)
        else (c.macFate n r fd fc, some fc)
      | x => (x, some fc)

/-- Whether a failed FC or check of R82 rejects the frame, so that the loops resume and the search goes on at once (R82, R168). -/
def RxFate.rejects : RxFate → Bool
  | .fcErr => true
  | .fmtErr => true
  | .foreign => true
  | .epMis => true
  | .mapMis => true
  | _ => false

/-- Count a rejected frame (R82, R231, R252, R265, R268, R269). -/
def Chip.countFate (c : Chip) (n : Lane) : RxFate → Chip
  | .fcErr => (c.count (F.RXP_ERR1_FCERR n) 1).spyEvent n 3
  | .fmtErr => c.count (F.RXP_ERR1_FMTERR n) 1
  | .foreign => c.count (F.RXP_ERR2_FOREIGN n) 1
  | .epMis => c.count (F.RXP_ERR2_EPMIS n) 1
  | .mapMis => ((c.count (F.RXP_ERR1_FMTERR n) 1).count (F.TMAP_COUNTS3_MAPMIS n) 1).pfaultSet (.tmap n) 2
  | .g6filt => c.count F.MAC_MISC_G6FILT 1
  | .qdrop => (c.count F.MAC_SLOTERR_QDROP 1).raise .mac 4
  | .unknown => (c.count F.MAC_SLOTERR_UNKNOWN 1).raise .mac 5
  | .roleErr => (c.count F.MAC_ACCERR_ROLEERR 1).raise .mac 7
  | .faDrop => c.count F.MAC_ACCERR_FADROP 1
  | .reserved => (c.count F.MAC_ACCERR_FADROP 1).pfaultSet .mac 1
  | .ignore => c
  | .accept => c

/-- A frame that is not received further.  One whose FC passed teaches the gain: a rejected one by its preamble and FC, one that the
MAC engine refuses when the gain is released, 2.5 µs after its end (R82, R168, R171). -/
def Chip.refuseRx (c : Chip) (n : Lane) (r : Rx) (f : RxFate) (fc : Option Fc) (rms : List Int) : Chip :=
  let c := c.countFate n f
  match f, fc with
  | .fcErr, _ => c.unfreeze n
  | _, some x =>
    if f.rejects then (c.agcLearn n r.facet r.codes rms).unfreeze n
    else (c.holdGain n (r.tp + x.body.ticks)).onAgc n fun a => { a with learn := some (r.facet, r.codes) }
  | _, none => (c.agcLearn n r.facet r.codes rms).unfreeze n

/-- Whether the frame-action table has been asked. -/
def RxFate.asked : RxFate → Bool
  | .faDrop => true
  | .reserved => true
  | .ignore => true
  | .accept => true
  | _ => false

/-- FAEVT of an entry that asks for it (R269). -/
def Chip.actionEvent (c : Chip) (a : Nat) : Chip := if a.testBit 6 then c.raise .mac 6 else c

/-- Incomplete MPDUs of a sender are discarded (R261). -/
def Chip.dropHeld (c : Chip) (slot : Nat) : Chip :=
  let k := (c.qm.reasm.filter fun r => r.slot == slot).length
  if k = 0 then c
  else (((c.onQm fun q => { q with reasm := q.reasm.filter fun r => r.slot != slot }).count F.MAC_LOSSES_REASMTO k).raise .mac 8).recount

/-- Epoch state of a peer after a frame of it in a straggle window (R106, Table 3-8). -/
def Chip.epstSeen (c : Chip) (n : Lane) (fc : Fc) : Chip :=
  if fc.g6 ∨ !(c.wheel.active.isSome && (c.group n).switched) ∨ fc.stid = 0x3FFE then c
  else
    let new := fc.epl == c.wheel.cur.num % 4
    (c.onNbr fc.stid fun e => { e with epst := if e.epst = 3 then 3 else if new then 2 else 0 }).settleStraggle

/-- What the lane expects of an accepted DATA frame's sender (R217, R232). -/
def Chip.dataUser (c : Chip) (fc : Fc) : RxUser :=
  match fc.body with
  | .data _ mode rate tmv _ nblk bt .. =>
    { slot := fc.stid, gen := (c.nbr fc.stid).gen, tmv, mode, rate, bt, nblk, present := true, ranks := [], matched := [], made := [],
      results := [], done := [] }
  | _ =>
    { slot := fc.stid, gen := (c.nbr fc.stid).gen, tmv := 0, mode := 0, rate := 0, bt := 0, nblk := 0, present := true, ranks := [],
      matched := [], made := [], results := [], done := [] }

/-- TMV that a frame tells (R232, R242). -/
def Fc.tmv? (f : Fc) : Option Nat :=
  match f.body with
  | .data _ _ _ tmv .. => some tmv
  | .ack _ _ _ _ _ _ tmv => some tmv
  | .g6ack _ _ tmv => some tmv
  | _ => none

/-- An accepted frame: its reception goes on with what the FC says (R164, R218, R242, R261). -/
def Chip.acceptRx (c : Chip) (n : Lane) (r : Rx) (fd : Option Granted) (fc : Fc) : Chip :=
  let hub := !c.coasting n
  let att : Option Nat := match fc.body with
    | .data _ _ _ _ _ _ _ _ _ att .. => some att
    | _ => none
  let tp := r.tp
  let c := if hub then c.epstSeen n fc else c
  let c := if hub then
      match fc.tmv? with
      | some v => if fc.stid = 0x3FFE ∨ fc.dtid ≠ 0 then c else c.tmvSeen n fc.stid v
      | none => c
    else c
  let c := if hub ∧ att = some 0 then c.dropHeld fc.stid else c
  let (us, c) : List RxUser × Chip :=
    match att with
    | some k =>
      let x := c.slipBegin n (c.dataUser fc) fc.epl (k == 0)
      ([x.2], x.1)
    | none => ([], c)
  (c.holdGain n (tp + fc.body.ticks)).onRx n fun x => { x with
    rx := some { r with
      kind := .frame fc
      tp := tp
      tend := tp + fc.body.ticks
      bp := fc.bp
      epl := fc.epl
      fd := fd.isSome
      answers := if hub then (c.awaited n fc r.tp).map (·.serial) else none
      gi := fc.gi
      cand := att.any fun k => k != 0
      users := us
      action := c.frameAction fc } }

/-- FC_DECODED (R82, R173, R206): the FC of a frame whose preamble starts at tick `tp` at the input pins has been decoded.  In an FD
facet nothing is searched for: a frame is looked for only where an exchange puts one, and one whose FC fails counts as not
received. -/
def execFcDecoded (n : Lane) (tp : Nat) (h : Heard FcGot) (s : State) : Host.Outcome State Fault Refusal :=
  .next (s.onChip fun c =>
    match (c.lane n).rx.rx with
    | some r =>
      if r.kind ≠ .detected then c
      else
        let c := c.advanceTo r.tend
        let g := c.hearFc n r h
        let r := r.keep h.samples
        let x := c.fcFate n r none g.w g.crc
        let c := match x.2 with
          | some fc => if x.1.asked ∧ !c.coasting n then c.actionEvent (c.frameAction fc) else c
          | none => c
        match x.1, x.2 with
        | .accept, some fc => c.acceptRx n r none fc
        | f, _ => (c.refuseRx n r f x.2 g.rms).closeRx n
    | none =>
      let tp := tp - c.get (F.RXP_RXDLY_DELAY n)
      let fd := c.fdAt n tp
      if !c.rxOn n ∨ c.coasting n ∨ !(fd.isSome || c.fdAckAt n tp) then c
      else
        let c := (c.advanceTo (tp + headTicks)).freeze n
        let r := { c.bareRx n tp (c.lane n).rx.serial with fd := true }
        let g := c.hearFc n r h
        let r := r.keep h.samples
        let x := c.fcFate n r fd g.w g.crc
        let c := match x.2 with
          | some fc => if x.1.asked then c.actionEvent (c.frameAction fc) else c
          | none => c
        match x.1, x.2 with
        | .accept, some fc => (c.openRx n fun _ => r).acceptRx n r fd fc
        | .fcErr, _ => c.unfreeze n
        | f, _ => c.refuseRx n r f x.2 g.rms)

end Sys2Proof.Machine
end

