-- ==== Sys2Proof/Machine/RxHear.lean ====
section
/-!
DEFINITION. What a lane makes of the payload of a reception (R148, R175 to R184, R189, R190, R203 to R205, R236): tracked estimates,
metrics of blocks, users of an uplink, frequency, EVM and channel.
-/
namespace Sys2Proof.Machine

/-- An estimate of the inputs' channels by input and carrier. -/
abbrev Est := Nat → Nat → Cx

/-! Pilots (R175, R178). -/

/-- What the pilots of sherds `lo` to `lo + cnt - 1` of a symbol ask for on input `i` (R178). -/
def Chip.pilots (c : Chip) (n : Lane) (h : Hearing) (est : Est) (lo cnt : Nat) (sym : TxSym) (i : Nat) : List Cx :=
  (List.range cnt).map fun s =>
    let k := 40 + 40 * (lo + s)
    pilotFactor (c.heard n h sym i k) (est i k) (refValue k)

/-- The estimate at a carrier of a symbol, corrected by its pilots (R178). -/
def Chip.tracked (c : Chip) (n : Lane) (h : Hearing) (est : Est) (lo cnt : Nat) (sym : TxSym) : Est :=
  fun i k => (est i k).mul (correctionAt lo (c.pilots n h est lo cnt sym i) k)

/-- The equalised value of a carrier of a payload symbol (R178 to R180). -/
def Chip.payloadAt (c : Chip) (n : Lane) (h : Hearing) (est : Est) (lo cnt : Nat) (sym : TxSym) (k : Nat) : Option (Cx × Rat) :=
  c.equalised n h (c.tracked n h est lo cnt sym) sym k

/-- What is left of the clock offset over a run of symbols, from the phase progression of the pilots from symbol to symbol (R175). -/
def Chip.fineOffset (c : Chip) (n : Lane) (h : Hearing) (est : Est) (lo cnt : Nat) (syms : List TxSym) : Rat :=
  offsetOf (tsTicks h.gi) (h.used.flatMap fun i => (syms.zip syms.tail).flatMap fun e =>
    ((c.pilots n h est lo cnt e.1 i).zip (c.pilots n h est lo cnt e.2 i)).zipIdx.map fun p =>
      (40 + 40 * (lo + p.2), p.1.2.mul p.1.1.conj))

/-! Metrics (R181, R204, R205). -/

/-- The scale of the demapper for a mode: REP1, REP4, REP6 (R204). -/
def Chip.llrScale (c : Chip) (n : Lane) (mode : Nat) : Nat :=
  match mode with
  | 1 => c.get (F.DEC_LLRCFG_SCALE4 n)
  | 2 => c.get (F.DEC_LLRCFG_SCALE6 n)
  | _ => c.get (F.DEC_LLRCFG_SCALE1 n)

/-- The received metrics of a block (R204, R205): for each of its coded positions the LLRs of its copies, in 1/16 of the
natural unit, scaled, rounded, added and limited.  A position with no copy carries no information. -/
def Chip.blockMetrics (c : Chip) (n : Lane) (u : RxUser) (llrs : List (List Int)) : List Int :=
  (List.range (lcOf u.bt u.rate)).map fun j => combineCopies (c.llrScale n u.mode) (llrs.getD j [])

/-- Data carriers of sherds `lo` to `lo + cnt - 1`. -/
def dataIn (lo cnt : Nat) : List Nat := (List.range (39 * cnt)).map fun d => dataCarrier (39 * lo + d)

/-- The metrics of a payload symbol in encoder order: of a tone-mapped one by its loading codes, of a repetition-mode one with its copies
added (R181, R205).  A copy on a glaze-off carrier contributes 0. -/
def Chip.softSymbol (c : Chip) (n : Lane) (h : Hearing) (est : Est) (lo cnt mode : Nat) (codes : List Nat) (glz : Nat) (sym : TxSym) :
    List Int :=
  let ks := dataIn lo cnt
  if mode = 0 then symbolCoded (c.llrScale n 0) ((codes.zip ks).map fun e => (e.1, c.payloadAt n h est lo cnt sym e.2))
  else repCoded (39 * cnt) mode fun d =>
    let k := ks.getD d 0
    if c.carrierOff n glz k then 0 else bpskMetric (c.llrScale n mode) (c.payloadAt n h est lo cnt sym k)

/-- The metrics of block `idx` in those of a sender's symbols, in order. -/
def blockOf (lc idx : Nat) (symbols : List (List Int)) : List Int :=
  let own := (symbols.flatten.drop (idx * lc)).take lc
  own ++ List.replicate (lc - own.length) 0

/-! Single-user frames. -/

/-- Loading codes of payload symbol `i` of a received frame: by the uplink set that its TMV names, in the facet in which the symbol starts
(R94, R231). -/
def Chip.rxCodes (c : Chip) (n : Lane) (r : Rx) (fc : Fc) (i : Nat) : List Nat :=
  match fc.body with
  | .data gi _ _ tmv .. =>
    match (c.ulMatch n fc.stid tmv fc.bp).bind fun m => c.mapOf n m (c.facetAt n (r.tp + (TxSym.payload i).offset gi)) with
    | some t => t.dataCodes
    | none => []
  | _ => []

/-- The glaze number of the epoch of a received frame. -/
def Chip.rxGlaze (c : Chip) (n : Lane) (r : Rx) : Nat := (((c.epochsIn n).find? fun e => e.num % 4 == r.epl).getD (c.epochIn n)).glz

/-- The metrics of block `idx` of a single-user frame. -/
def Chip.frameBlock (c : Chip) (n : Lane) (r : Rx) (fc : Fc) (u : RxUser) (idx : Nat) (x : Capture) : List Int :=
  let h := c.hearing n r x fc.bp fc.gi
  let est := c.preambleAt n h
  blockOf (lcOf u.bt u.rate) idx (fc.body.payloadSyms.zipIdx.map fun e =>
    c.softSymbol n h est 0 (sherdsOf fc.bp) u.mode (c.rxCodes n r fc e.2) (c.rxGlaze n r) e.1)

/-- Values of a frame against their references for the EVM (R190): of a frame with payload its data carriers by hard decision and its
pilots, of others the FC symbols against the FC encoded again. -/
def Chip.evmTerms (c : Chip) (n : Lane) (h : Hearing) (r : Rx) (fc : Fc) : List (Cx × Cx) :=
  let est := c.preambleAt n h
  match fc.body with
  | .data _ mode .. =>
    let cnt := sherdsOf fc.bp
    fc.body.payloadSyms.zipIdx.flatMap fun e =>
      let codes := if mode = 0 then c.rxCodes n r fc e.2 else List.replicate (39 * cnt) 1
      let data := (codes.zip (dataIn 0 cnt)).filterMap fun d =>
        if d.1 = 0 ∨ c.carrierOff n (c.rxGlaze n r) d.2 then none
        else (c.payloadAt n h est 0 cnt e.1 d.2).map fun y => (y.1, hardPoint d.1 y.1)
      let pilot := (List.range cnt).filterMap fun s =>
        (c.payloadAt n h est 0 cnt e.1 (40 + 40 * s)).map fun y => (y.1, Cx.real (refValue (40 + 40 * s)))
      data ++ pilot
  | _ => [0, 1].flatMap fun j => ((fcSymbol fc.word j).zipIdx).filterMap fun e =>
      (c.equalised n h est (.fc j) (40 + e.2)).map fun y => (y.1, Cx.real e.1)

/-- The channel that a frame shows, by input from 0 and carrier from 40: a SOUND frame's as the mean over its sounding symbols, others' as
their preamble's estimate (R79, R177, R236; log entry 203). -/
def Chip.channelOf (c : Chip) (n : Lane) (h : Hearing) (fc : Fc) : List (List Cx) :=
  [0, 1, 2, 3].map fun i => (List.range (carriersOf fc.bp)).map fun j =>
    let k := 40 + j
    if !h.used.contains i then ⟨0, 0⟩
    else match fc.body with
      | .sound .. => Cx.mean (fc.body.payloadSyms.map fun s => (c.heard n h s i k).div (Cx.real (refValue k)))
      | _ => c.preambleAt n h i k

/-- Clipped samples of the four inputs in each of a list of symbols. -/
def Hearing.clipsOf (h : Hearing) (syms : List TxSym) : List (List Nat) :=
  syms.map fun s =>
    let t : Int := h.base + (s.offset h.gi : Nat)
    [0, 1, 2, 3].map fun i => h.x.clipped i t (t + (s.length h.gi : Nat))

/-- What a lane measures of a single-user frame (R140, R171, R189, R190). -/
def Chip.hearRx (c : Chip) (n : Lane) (r : Rx) (fc : Fc) (m : Heard RxMeas) : RxMeas :=
  match m with
  | .made m => m
  | .adc x =>
    let h := c.hearing n r x fc.bp fc.gi
    let fine : Rat := match fc.body with
      | .data .. => c.fineOffset n h (c.preambleAt n h) 0 (sherdsOf fc.bp) fc.body.payloadSyms
      | _ => 0
    { fofs := fofsOf (h.eps + fine)
      evm := evmOf (evmPower (c.evmTerms n h r fc))
      rms := [0, 1, 2, 3].map fun i => h.x.level i h.base (h.base + (fc.body.ticks : Nat))
      clips := h.clipsOf ((List.range 12).map (fun s => .short (s + 1)) ++ [.fc 0, .fc 1] ++ fc.body.payloadSyms)
      chan := c.channelOf n h fc }

/-! Uplinks (R182 to R184). -/

/-- What is heard of an uplink: its symbols are payload symbols from B(GFAC) on, the first two the sherd-pilot symbols; the window stands at
6 GI / 8 (R77, R176). -/
def Chip.upHearing (c : Chip) (n : Lane) (g : Granted) (r : Rx) (x : Capture) (eps : Rat) : Hearing :=
  { x := Capture.join r.kept x, codes := r.codes, used := c.inputs n,
    base := (g.t0 + c.get (F.RXP_RXDLY_DELAY n) : Nat) - (headTicks : Nat), bp := g.bp, gi := g.gi, su := 6, facet := g.facet,
    fd := false, first := 0, bad := r.bad, eps }

/-- Carriers of a granted user. -/
def GrantRec.carriers (u : GrantRec) : List Nat := (List.range (40 * u.scnt)).map fun j => 40 + 40 * u.sherd + j

/-- Energy of a user's sherd-pilot symbols correlated with v(k) at a delay of `d` ticks from the grid, against the noise (R183; log entry
204 on how it is summed). -/
def Chip.userEnergy (c : Chip) (n : Lane) (h : Hearing) (u : GrantRec) (d : Int) : Rat :=
  let ks := u.carriers
  ratMean (h.used.zipIdx.flatMap fun i => [0, 1].map fun j =>
    let sum := Cx.sum (ks.map fun k =>
      ((c.heard n h (.payload j) i.1 k).mul (Cx.turn ((k : Rat) * d / 8192))).scale (refValue k))
    let noise := ratSum (ks.map fun k => (c.noiseAt n h.facet false h.used k).getD i.2 0)
    sum.power / noise)

/-- The delay within ±GI of the grid at which a user's energy is highest, the first of equals (R183). -/
def Chip.userDelay (c : Chip) (n : Lane) (h : Hearing) (u : GrantRec) : Int :=
  let lo : Int := -(giTicks h.gi : Nat)
  ((List.range (2 * giTicks h.gi + 1)).foldl (fun (b : Int × Rat) m =>
    let e := c.userEnergy n h u (lo + (m : Nat))
    if b.2 < e then (lo + (m : Nat), e) else b) (lo, c.userEnergy n h u lo)).1

/-- The clock offset of a user from the phase change between its sherd-pilot symbols, which lie Ts apart (R184). -/
def Chip.userOffset (c : Chip) (n : Lane) (h : Hearing) (u : GrantRec) : Rat :=
  offsetOf (tsTicks h.gi) (h.used.flatMap fun i => u.carriers.map fun k =>
    (k, (c.heard n h (.payload 1) i k).mul (c.heard n h (.payload 0) i k).conj))

/-- A user's hearing, with its own clock offset, and the estimate of its channel (R184). -/
def Chip.userHearing (c : Chip) (n : Lane) (g : Granted) (r : Rx) (x : Capture) (u : GrantRec) : Hearing × Est :=
  let h := c.upHearing n g r x (c.userOffset n (c.upHearing n g r x 0) u)
  (h, fun i k => userEstimate (c.heard n h (.payload 0) i k) (c.heard n h (.payload 1) i k) (refValue k))

/-- Loading codes of a user in data symbol `j` (from 0) (R77, R232). -/
def Chip.userCodes (c : Chip) (n : Lane) (g : Granted) (u : GrantRec) (j : Nat) : List Nat :=
  match (c.uplinkSet n g u.slot).bind fun m => c.mapOf n m (c.facetAt n (g.symbolAt j)) with
  | some t => (dataIn u.sherd u.scnt).map fun k => t.codes.getD k 0
  | none => []

/-- Data symbols of an uplink. -/
def Granted.dataSyms (g : Granted) : List TxSym := (List.range g.nsym).map fun j => .payload (j + 2)

/-- The metrics of block `idx` of a user of an uplink. -/
def Chip.uplinkBlock (c : Chip) (n : Lane) (g : Granted) (r : Rx) (v : RxUser) (u : GrantRec) (idx : Nat) (x : Capture) : List Int :=
  let e := c.userHearing n g r x u
  blockOf (lcOf v.bt v.rate) idx (g.dataSyms.zipIdx.map fun s =>
    c.softSymbol n e.1 e.2 u.sherd u.scnt u.mode (c.userCodes n g u s.2) (c.rxGlaze n r) s.1)

/-- What a lane measures of a user of an uplink (R183, R184, R189, R190). -/
def Chip.hearUser (c : Chip) (n : Lane) (g : Granted) (r : Rx) (x : Capture) (u : GrantRec) : UpMeas :=
  let h0 := c.upHearing n g r x 0
  let d := c.userDelay n h0 u
  let e := c.userHearing n g r x u
  let h := e.1
  let est := e.2
  let at' (sym : TxSym) (k : Nat) : Option (Cx × Rat) := c.payloadAt n h est u.sherd u.scnt sym k
  let known (sym : TxSym) (k : Nat) : Option (Cx × Cx) := (at' sym k).map fun y => (y.1, Cx.real (refValue k))
  let pilots := [0, 1].flatMap fun j => u.carriers.filterMap (known (.payload j))
  let data := g.dataSyms.zipIdx.flatMap fun s =>
    let codes := if u.mode = 0 then c.userCodes n g u s.2 else List.replicate (39 * u.scnt) 1
    ((codes.zip (dataIn u.sherd u.scnt)).filterMap fun p =>
      if p.1 = 0 then none else (at' s.1 p.2).map fun y => (y.1, hardPoint p.1 y.1))
      ++ (List.range u.scnt).filterMap fun q => known s.1 (40 + 40 * (u.sherd + q))
  { present := decide (Config.ofDecibels ((c.get (F.RXP_MUCFG_UPDET n) : Rat) / 2) < c.userEnergy n h0 u d)
    late := d + (c.get (F.RXP_RXDLY_DELAY n) : Nat)
    fofs := fofsOf (h.eps + c.fineOffset n h est u.sherd u.scnt g.dataSyms)
    evm := evmOf (evmPower (pilots ++ data))
    chan := [0, 1, 2, 3].map fun i => (List.range (carriersOf g.bp)).map fun j =>
      if h.used.contains i ∧ u.carriers.contains (40 + j) then est i (40 + j) else ⟨0, 0⟩ }

/-- What a lane measures of an uplink (R140, R171, R183). -/
def Chip.hearUp (c : Chip) (n : Lane) (g : Granted) (r : Option Rx) (m : Heard UpGot) : UpGot :=
  match m, r with
  | .made m, _ => m
  | .adc _, none => { users := [], rms := [], clips := [] }
  | .adc x, some r =>
    let h := c.upHearing n g r x 0
    let syms := (List.range (g.nsym + 2)).map TxSym.payload
    let t0 : Int := h.base + (headTicks : Nat)
    { users := g.users.map (c.hearUser n g r x)
      rms := [0, 1, 2, 3].map fun i => h.x.level i t0 (t0 + (uplinkTicks g.gi g.nsym : Nat))
      clips := h.clipsOf syms }

/-! Blocks and partial symbols. -/

/-- The grant of the uplink that a reception is. -/
def Chip.uplinkGrant (c : Chip) (n : Lane) (r : Rx) : Option Granted :=
  (c.lane n).tx.grants.find? fun g => !g.fd && g.facet == r.facet && g.turn == r.turn

/-- The received metrics of block `idx` of sender `user` of a reception (R203 to R205). -/
def Chip.hearBlock (c : Chip) (n : Lane) (r : Rx) (u : RxUser) (user idx : Nat) (h : Heard (List (List Int))) : List Int :=
  match h with
  | .made llrs => c.blockMetrics n u llrs
  | .adc x =>
    match r.kind with
    | .frame fc => c.frameBlock n r fc u idx x
    | .uplink =>
      match c.uplinkGrant n r with
      | some g => match g.users[user]? with
        | some v => c.uplinkBlock n g r u v idx x
        | none => []
      | none => []
    | .detected => []

/-- The last payload symbol, counted from 0, that the first `need` coded bits reach, where a symbol takes `cap` of them. -/
def lastSymbol (cap : Nat → Nat) (need : Nat) : Nat := (symbolsFor cap need 512 0).getD 0 - 1

/-- The payload symbol that holds the last coded bit of block `idx` of sender `user` of a reception (R71, R77, R207). -/
def Chip.blockSym (c : Chip) (n : Lane) (r : Rx) (u : RxUser) (user idx : Nat) : Nat :=
  let need := (idx + 1) * lcOf u.bt u.rate
  match r.kind with
  | .frame fc => lastSymbol (c.symCap n (c.rxPlan n r.tp fc fc.gi u.mode u.rate u.tmv u.bt)) need
  | .uplink =>
    match c.uplinkGrant n r with
    | some g => match g.users[user]? with
      | some v => lastSymbol (fun j =>
          if v.mode ≠ 0 then repNcb (39 * v.scnt) v.mode
          else (c.userCodes n g v j).foldl (fun a k => a + loadBits k) 0) need
      | none => 0
    | none => 0
  | .detected => 0

/-- Payload symbols of a reception whose FFT window spans a boundary between two of the GX8's own symbols, or the start or end of its
transmission, while the digital stage runs (R148). -/
def Chip.partialSymbols (c : Chip) (n : Lane) (tp su gi : Nat) (syms : List TxSym) : Nat :=
  let d := c.get (F.RXP_RXDLY_DELAY n)
  (syms.filter fun s =>
    let w : Int := (tp + d + s.offset gi + windowStart (s.guard gi) su : Nat)
    c.digitalRuns n w 8192 && (ownSymbol (c.lane n).tx.air d w 8192).any fun o => !o.2.2).length

end Sys2Proof.Machine
end

