-- ==== Sys2Proof/Machine/Decoder.lean ====
section
/-!
DEFINITION. The decoders of a lane: blocks that become ready, decodes, self-tests and injected engine faults (R203 to R212,
R219, R223).
-/
namespace Sys2Proof.Machine

/-! Ready blocks. -/

/-- Whether block `idx` of sender `user` has become ready before: it has its result, waits for an engine, or is or has been on one. -/
def Chip.blockKnown (c : Chip) (n : Lane) (r : Rx) (user idx : Nat) : Bool :=
  let d := (c.lane n).rx.dec
  let it (b : RxBlk) : Bool := b.user == user && b.idx == idx
  (r.users[user]?.any fun u => (u.results.get? idx).isSome) || d.queue.any it || (d.busy.any fun e => it e.2)
    || d.ended.any fun e => it e.1

/-- Insert a ready block in the decode queue: blocks that wait from the same symbol stand in order of user index and then block
index (R207). -/
def insertReady (b : RxBlk) : List RxBlk → List RxBlk
  | [] => [b]
  | x :: xs =>
    if x.num.isNone ∧ x.sym = b.sym ∧ (b.user < x.user ∨ b.user = x.user ∧ b.idx < x.idx) then b :: x :: xs
    else x :: insertReady b xs

/-- A block is reported as failed without decoding. -/
def Chip.failBlock (c : Chip) (n : Lane) (user idx : Nat) : Chip := c.onRxn n fun r => r.result user idx .failed

/-- Block `b` of the reception has become ready: with no working engine it fails (R210), and with a full queue too, counted (R207);
else it waits for an engine and the lane dispatches. -/
def Chip.takeReady (c : Chip) (n : Lane) (b : RxBlk) : Chip :=
  if !c.anyEngine n then c.failBlock n b.user b.idx
  else if 48 ≤ (c.lane n).rx.dec.queue.length then
    ((c.failBlock n b.user b.idx).count (F.DEC_MISC_QOVF n) 1).pfaultSet (.dec n) 2
  else (c.onDec n fun d => { d with queue := insertReady b d.queue }).dispatch n

/-- BLOCK_READY: the last coded bit of block `idx` of sender `user` of the reception has been demapped.  The blocks of a sender
become ready in order. -/
def execBlockReady (n : Lane) (user idx : Nat) (h : Heard (List (List Int))) (s : State) : Host.Outcome State Fault Refusal :=
  .next (s.onChip fun c =>
    match (c.lane n).rx.rx with
    | none => c
    | some r =>
      let r := r.keep h.samples
      match r.users[user]? with
      | none => c
      | some u =>
        if !c.rxOn n ∨ u.nblk ≤ idx ∨ c.blockKnown n r user idx ∨ (idx ≠ 0 ∧ !c.blockKnown n r user (idx - 1)) then c
        else
          let b : RxBlk :=
            { user, idx, sym := c.blockSym n r u user idx, metrics := c.hearBlock n r u user idx h, num := none }
          ((c.onRxn n fun x => x.keep h.samples).takeReady n b).recount)

/-! Decoding. -/

/-- The result of decoding metrics: passed with its header word and data, or failed; a passed block with a forbidden header
is counted in FMTBLK (R211, R212). -/
def Chip.checked (c : Chip) (n : Lane) (r : Rx) (u : RxUser) (ms : List Int) : BlkRes × Chip :=
  let c := c.count (F.DEC_BLOCKS_COUNT n) 1
  match checkBlock u.bt (decodeBlock u.bt u.rate ms) with
  | none => (.failed, c.count (F.DEC_CRCFAIL_COUNT n) 1)
  | some (w, d) =>
    let c := if formatBlock u.bt w (r.kind == .uplink) then c.count (F.DEC_ERRS_FMTBLK n) 1 else c
    ({ pass := true, word := w, data := d }, c)

/-- A result later than the deadline counts in LATE, raised once for each reception (R208). -/
def Chip.lateBlock (c : Chip) (n : Lane) : Chip :=
  let c := c.count (F.DEC_ERRS_LATE n) 1
  if (c.lane n).rx.dec.lateRaised then c
  else (c.onDec n fun d => { d with lateRaised := true }).raise (.dec n) 1

/-- A passed block reaches the hub: it is reported as failed where no cell is free (R275).  A coasting lane keeps it. -/
def Chip.hubTakes (c : Chip) (n : Lane) (res : BlkRes) (ok : Bool) : BlkRes × Chip :=
  if !ok then (.failed, c)
  else if !c.coasting n ∧ 32768 ≤ c.cellsUsed then (.failed, (c.count F.QM_DROPS_RXOVF 1).pfaultSet .qm 2)
  else (res, c)

/-- Block `b` of reception `r`, which left its engine at tick `t`, is handled (R219). -/
def Chip.decodeDone (c : Chip) (n : Lane) (r : Rx) (u : RxUser) (b : RxBlk) (t : Nat) : Chip :=
  let late := decide (r.deadline < t)
  let c := if late then c.lateBlock n else c
  let order := r.serial * 64 + b.idx
  match c.slipFind n r u b.idx b.metrics with
  | some e =>
    let sum := slipSum e.metrics b.metrics
    let (res, c) := c.checked n r u sum
    let ok := res.pass && !late
    let (res, c) := c.hubTakes n res ok
    let c := c.onRxn n fun r => { r.result b.user b.idx res with
      users := (r.result b.user b.idx res).users.modify b.user fun (u : RxUser) =>
        { u with matched := e.order :: u.matched } }
    c.slipCombined n r e ok sum
  | none =>
    let (res, c) := c.checked n r u b.metrics
    let ok := res.pass && !late
    let (res, c) := c.hubTakes n res ok
    let c := c.onRxn n fun r => r.result b.user b.idx res
    if ok || !c.slipStoring n || decide (8192 ≤ u.slot) then c else c.slipStoreBlk n r u b.user order b.metrics

/-- Of the blocks that engines have ended, the one dispatched first, unless a block dispatched before it is still in decode (R222). -/
def Dec.nextEnded (d : Dec) : Option (RxBlk × Nat) :=
  match d.ended.foldl (fun (a : Option (RxBlk × Nat)) e => match a with
      | some x => if e.1.num.getD 0 < x.1.num.getD 0 then some e else a
      | none => some e) none with
  | some x => if d.busy.any fun b => decide (b.2.num.getD 0 < x.1.num.getD 0) then none else some x
  | none => none

/-- One ended block is handled, if one is next. -/
def Chip.handleOne (c : Chip) (n : Lane) : Chip :=
  match (c.lane n).rx.dec.nextEnded with
  | none => c
  | some (b, t) =>
    let c := c.onDec n fun d => { d with ended := d.ended.filter fun e => e.1.num != b.num }
    match (c.lane n).rx.rx with
    | some r =>
      match r.users[b.user]? with
      | some u => c.decodeDone n r u b t
      | none => c
    | none => c

/-- The ended blocks whose turn it is are handled in the order of dispatch (R222). -/
def Chip.handleEnded (c : Chip) (n : Lane) : Chip := (c.lane n).rx.dec.ended.foldl (fun c _ => c.handleOne n) c

/-- The exchange of the reserve `r` with engine `a`: each takes the role of the other, so that no more engines are active than before
(R207, R209). -/
def Chip.exchange (c : Chip) (n : Lane) (r a : Nat) : Chip :=
  let act := c.engActive n a
  let c := (c.setBitAt (F.DEC_ENGSTAT_ACTIVE n) r act).setBitAt (F.DEC_ENGSTAT_RESERVE n) r false
  let c := (c.setBitAt (F.DEC_ENGSTAT_ACTIVE n) a false).setBitAt (F.DEC_ENGSTAT_RESERVE n) a true
  c.onDec n fun d => { d with swap := none }

/-- The exchange that waits, if engine `e` is the one it waits for. -/
def Chip.exchangeDue (c : Chip) (n : Lane) (e : Nat) : Chip :=
  match (c.lane n).rx.dec.swap with
  | some (r, a) => if a = e then c.exchange n r a else c
  | none => c

/-- Engine `e` ends block `b` at the present tick: the blocks whose turn it is are handled, freeings that waited act, exchanges and
surplus engines take effect, and ready blocks are dispatched (R207, R209, R219, R222). -/
def Chip.engineEnds (c : Chip) (n : Lane) (e : Nat) (b : RxBlk) : Chip :=
  let c := c.onDec n fun d => { d with busy := d.busy.erase e, ended := d.ended ++ [(b, c.tick)] }
  ((((((c.handleEnded n).slipWaited n).exchangeDue n e).dropSurplus n).dispatch n).recount)

/-- BLOCK_DECODE: engine `e` ends its block at tick `t` and takes the next ready one. -/
def execBlockDecode (n : Lane) (e t : Nat) (s : State) : Host.Outcome State Fault Refusal :=
  .next (s.onChip fun c =>
    match (c.lane n).rx.dec.busy.get? e with
    | none => c
    | some b => (c.advanceTo t).engineEnds n e b)

/-- SELF_TEST: the self-test interval ends; the reserve decodes the test block, as soon as no ready block waits for an engine
(R209). -/
def execSelfTest (n : Lane) (s : State) : Host.Outcome State Fault Refusal :=
  .next (s.onChip fun c =>
    if c.flag (F.DEC_STCFG_STEN n) then (c.onDec n fun d => { d with due := true }).startTest n else c)

/-- The engine that becomes the reserve next: the lowest-numbered active one not yet tested in this round, or where none is left an
idle one (log entry 50). -/
def Chip.nextReserve (c : Chip) (n : Lane) : Option Nat :=
  let t := (c.lane n).rx.dec.tested
  ((List.range 7).find? fun e => c.engActive n e && !t.testBit e).orElse fun _ =>
    (List.range 7).find? fun e => !c.engRetired n e && !c.engReserve n e && !t.testBit e

/-- Record an engine as tested; the round ends when every engine not retired has been tested (R209). -/
def Chip.markTested (c : Chip) (n : Lane) (e : Nat) : Chip :=
  (c.onDec n fun d => { d with testing := none, tested := setBit d.tested e }).roundEnd n

/-- SELF_TEST_DONE: the self-test ends, with or without a mismatch; the roles are exchanged, and a mismatch adds a fault to
the tested engine's bucket (R209). -/
def execSelfTestDone (n : Lane) (mismatch : Bool) (s : State) : Host.Outcome State Fault Refusal :=
  .next (s.onChip fun c =>
    match (c.lane n).rx.dec.testing with
    | none => c
    | some r =>
      let c := c.markTested n r
      let c := match c.nextReserve n with
        | some a =>
          if c.engBusy n a then c.onDec n fun d => { d with swap := some (r, a) } else (c.exchange n r a).dispatch n
        | none => c
      if mismatch then ((c.count (F.DEC_MISC_STFAIL n) 1).pfaultSet (.dec n) 0).fault1 2 n.num r else c)

/-- A write of ENGOVR: one fault for each engine named (R223). -/
def Chip.engovrWrite (c : Chip) (n : Lane) (mask : Nat) : Chip :=
  (bitsOf 7 mask).foldl (fun c e => c.fault1 2 n.num e) c

/-- ENGOVR: DEC.ENGOVR written by `i`. -/
def execEngovr (i : Init) (n : Lane) (mask : Nat) (s : State) : Host.Outcome State Fault Refusal :=
  .next (s.onChip fun c => c.gate i (.dec n) 0x408 (·.engovrWrite n mask))

/-- A write of DECCTL: a lower ACTMAX idles surplus engines as they finish (R223). -/
def Chip.decctlWrite (c : Chip) (n : Lane) (val : Nat) : Chip :=
  (((c.store (.dec n) 0x040 val).dropSurplus n).addEngines n).dispatch n

end Sys2Proof.Machine
end

