-- ==== Sys2Proof/Machine/Rxp.lean ====
section
/-!
DEFINITION. Timing advance, cone and frequency of peers (R185 to R193, R198).
-/
namespace Sys2Proof.Machine

/-! Timing advance (R187). -/

/-- AEST as its 16-bit field holds it; what it holds of a value that does not fit is not stated. -/
def Chip.fitAest (c : Chip) (z : Int) : Int × Chip :=
  if -32768 ≤ z ∧ z ≤ 32767 then (z, c) else (toSigned 16 (c.freeBelow 65536), c.nextFree)

/-- The update of a record by a measurement: the applied value, whether TAC was chosen, and A's estimate (R187). -/
def taChoice (r : LaneRec) (d : Int) : Int × Bool :=
  if r.tast = 0 then (0, false)
  else
    let at' := r.tac + d
    let ap := r.prev + d
    if (16 * at' - r.aest).natAbs ≤ (16 * ap - r.aest).natAbs then (r.tac, true) else (r.prev, false)

/-- A measurement `d` of a peer from source `src` (1 to 3): its record moves as R187 says; a LOST peer returns to TRACK only
on a single-user source (R188). -/
def Chip.measureTa (c : Chip) (n : Lane) (slot : Nat) (d : Int) (src : Nat) : Chip :=
  let r := c.laneRec n slot
  let ch := taChoice r d
  let applied := ch.1
  let missed := r.tast ≠ 0 ∧ !ch.2 ∧ r.tac ≠ r.prev
  let a := applied + d
  let est := c.fitAest (
    if r.tast = 0 ∨ (r.tast = 2 ∧ src ≠ 2) then 16 * a
    else r.aest + divZero (16 * a - r.aest) (2 ^ c.get (F.RXP_TACFG_TAK n)))
  let c := est.2
  let tast := if r.tast = 2 ∧ src = 2 then 2 else 1
  let keep := r.tast ≠ 0 ∧ ch.2 ∧ d.natAbs ≤ c.get (F.RXP_TACFG_DEADB n)
  let tac := if keep then r.tac else clampInt (-2048) 2047 ((est.1 + 8) / 16)
  let c := c.onRec n slot fun x => { x with
    tast := tast, prev := applied, aest := est.1, tac := tac, ldelta := d, lsrc := src
    tahit := if missed then satAdd 16 x.tahit 1 else x.tahit }
  if missed then c.count (F.RXP_MU2_MISSES n) 1 else c

/-- A write of TAOVR (R198). -/
def Chip.taovrWrite (c : Chip) (n : Lane) (val : Nat) : Chip :=
  let slot := bitField val 0 14
  let ta := toSigned 12 (bitField val 16 12)
  if c.peerOf n slot then
    c.onRec n slot fun r => { r with tac := ta, prev := ta, aest := 16 * ta, tast := 1 }
  else c

/-- TAOVR (R198). -/
def execTaovr (i : Init) (n : Lane) (slot : Nat) (ta : Int) (s : State) : Host.Outcome State Fault Refusal :=
  .next (s.onChip fun c => c.gate i (.rxp n) 0x40C fun c => c.taovrWrite n (slot % 2 ^ 14 + 2 ^ 16 * ofSigned 12 ta))

/-! Cone and frequency (R189 to R192). -/

/-- PPM from FOFS. -/
def ppmOf (fofs : Int) : Int := (8 * fofs + 5) / 10

/-- The cone of an EVM in 0.1 dB and a frequency offset (R191). -/
def coneOf (evm fofs : Int) : Nat :=
  let f : Int := if fofs.natAbs ≤ 1000 then 0 else ceilDiv (fofs.natAbs - 1000) 250
  (clampInt 0 63 ((-2 * evm + 5) / 10 - f)).toNat

/-- FOFS as reported: it saturates (R189). -/
def fitFofs (f : Int) : Int := clampInt (-32767) 32767 f

/-- EVM as reported, 0.1 dB (R190). -/
def fitEvm (e : Int) : Int := clampInt (-500) 0 e

/-- A peer's measurements enter its record: cone average with CONELOW, frequency (R192). -/
def Chip.measureCone (c : Chip) (n : Lane) (slot : Nat) (evm fofs : Int) : Chip :=
  let fofs := fitFofs fofs
  let k := coneOf (fitEvm evm) fofs
  let r := c.laneRec n slot
  let avg : Nat := if !r.coneSeen then 16 * k
    else ((r.cavg : Int) + divZero (16 * (k : Int) - r.cavg) (2 ^ c.get (F.RXP_CONECFG_CONEK n))).toNat
  let c := c.onRec n slot fun x => { x with
    cavg := avg, lcone := k, coneSeen := true, fofs := fofs, ppm := ppmOf fofs }
  let low := 16 * c.get (F.RXP_CONECFG_LOWTHR n)
  if r.coneSeen ∧ low ≤ r.cavg ∧ avg < low then
    let c := (c.set (F.RXP_LOWSLOT_CONE n) slot).raise (.rxp n) 1
    if c.flag (F.TMAP_TMCFG_AUTOUL n) then c.startBuild n slot false else c
  else c

/-- The registers of the last measured reception: sender, cone, frequency, EVM, and the arrival measurement if any. -/
def Chip.showMeasured (c : Chip) (n : Lane) (stid : Nat) (evm fofs : Int) (d : Option (Int × Nat)) : Chip :=
  let fofs := fitFofs fofs
  let evm := fitEvm evm
  let c := (c.set (F.RXP_LASTID_STID n) stid).set (F.RXP_LASTID_CONE n) (coneOf evm fofs)
  let c := (c.setInt (F.RXP_LASTOFS_FOFS n) fofs).setInt (F.RXP_LASTOFS_PPM n) (ppmOf fofs)
  let c := c.setInt (F.RXP_LASTTIM_EVM n) evm
  match d with
  | some (x, src) => (c.setInt (F.RXP_LASTTIM_DELTA n) x).set (F.RXP_LASTTIM_DSRC n) src
  | none => c.set (F.RXP_LASTTIM_DSRC n) 0

end Sys2Proof.Machine
end

