-- ==== Sys2Proof/Machine/Spyhole.lean ====
section
/-!
DEFINITION. The spyhole of a lane (R194 to R196, R199).
-/
namespace Sys2Proof.Machine

/-! Commands (R196). -/

/-- Ticks between entries of the sources whose entries follow each other: raw samples, replica samples, PGA codes (Table 6-6). -/
def Chip.spyStep (c : Chip) (n : Lane) : Nat :=
  match c.get (F.SPY_SPCFG_SRC n) with
  | 0 => 2 ^ c.get (F.SPY_SPCFG_DEC n)
  | 4 => 64
  | _ => 1

/-- Entries before the trigger point with which a capture that a trigger starts begins: those of the sources that keep a history
(R194). -/
def Chip.spyBefore (c : Chip) (n : Lane) : Nat :=
  if c.get (F.SPY_SPCFG_SRC n) ≤ 1 then 256 * c.get (F.SPY_SPCFG_PRETRIG n) else 0

/-- SPCMD.ARM: the ring is checked, then the trigger awaited; TRIG 0 starts the capture at once.  A stopped page ignores it
(R447). -/
def Chip.spyArm (c : Chip) (n : Lane) : Chip :=
  if !c.flag (pctlEnable (.spy n)) then c
  else
    let size := 2 ^ c.get (F.SPY_SPDEST_SIZE n)
    let base := 4096 * c.get (F.SPY_SPDEST_BASE n)
    if 12 ≤ c.get (F.SPY_SPDEST_SIZE n) ∧ c.get (F.SPY_SPDEST_SIZE n) ≤ 20 ∧ base % size = 0 ∧ 0x00EC0000 ≤ base
        ∧ base + size ≤ 0x01000000 then
      let now := c.get (F.SPY_SPTRIG_TRIG n) == 0
      ((c.set (F.SPY_SPCOUNT_COUNT n) 0).set (F.SPY_SPWPTR_PTR n) 0).onSpy n fun _ =>
        { armed := !now, running := now, done := false, gap := false, seq := 0, event := none,
          trigAt := if now then some c.tick else none, next := c.tick, part := none, hist := none }
    else c.pfaultSet (.spy n) 0

/-- The capture ends; DONE. -/
def Chip.spyEnd (c : Chip) (n : Lane) : Chip :=
  let s := (c.lane n).rx.spy
  if s.armed || s.running then (c.onSpy n fun s => { s with armed := false, running := false, done := true }).raise (.spy n) 0
  else c

/-- A write of SPCMD (R452). -/
def Chip.spcmdWrite (c : Chip) (i : Init) (n : Lane) (val : Nat) : Chip :=
  if val % 4 = 3 then c.refuseMulti i (.spy n) 0x050
  else if val.testBit 0 then c.spyArm n
  else if val.testBit 1 then c.spyEnd n
  else c

/-- ARM (R196). -/
def execArm (i : Init) (n : Lane) (s : State) : Host.Outcome State Fault Refusal :=
  .next (s.onChip fun c => c.gate i (.spy n) 0x050 fun c => c.spcmdWrite i n 1)

/-- STOP (R196). -/
def execStop (i : Init) (n : Lane) (s : State) : Host.Outcome State Fault Refusal :=
  .next (s.onChip fun c => c.gate i (.spy n) 0x050 fun c => c.spcmdWrite i n 2)

/-! The trigger (R194). -/

/-- Whether the armed trigger's facet is the present one (TRIG 1). -/
def Chip.spyFacet (c : Chip) (n : Lane) : Bool :=
  c.facet n == c.get (F.SPY_SPTRIG_FACET n)
    && (c.flag (F.SPY_SPTRIG_ANYTURN n) || c.turn n % 256 == c.get (F.SPY_SPTRIG_TURN n))

/-- The trigger point, once the armed trigger's condition has occurred: the present tick in the facet of TRIG 1, else the tick of the
detection or of the failed FC. -/
def Chip.spyPoint (c : Chip) (n : Lane) : Option Nat :=
  if c.get (F.SPY_SPTRIG_TRIG n) = 1 then (if c.spyFacet n then some c.tick else none) else (c.lane n).rx.spy.event

/-- The last 4,096 samples of the source, as samples of the inputs (R194). -/
def Chip.spyHistory (c : Chip) (n : Lane) (old : Option Capture) (x : Option Capture) : Option Capture :=
  match x with
  | none => old
  | some x => some ((Capture.join old x).last (4096 * c.spyStep n))

/-- TRIGGER (R194): the armed trigger occurs; `h` are samples that the inputs took in before it.  The capture begins PRETRIG × 256 samples
before the trigger point. -/
def execTrigger (n : Lane) (h : Heard Unit) (s : State) : Host.Outcome State Fault Refusal :=
  .next (s.onChip fun c =>
    match (c.lane n).rx.spy.armed, c.spyPoint n with
    | true, some t => c.onSpy n fun y => { y with
        armed := false, running := true, trigAt := some t, next := t - c.spyBefore n * c.spyStep n
        hist := c.spyHistory n y.hist h.samples }
    | _, _ => c)

/-! Entries (Table 6-6). -/

/-- A value as a little-endian 16-bit entry. -/
def spyWord (v : Int) : List Byte := leBytes 2 (ofSigned 16 v)

/-- A complex value as an entry of a source (log entry 190). -/
def spyPair (src : Nat) (y : Cx) : List Byte := spyWord (Config.spyEntry src y.re) ++ spyWord (Config.spyEntry src y.im)

/-- The raw entry at tick `t`: the code after the factory correction, of one sample or decimated from 2^DEC (log entry 190). -/
def Chip.rawEntry (c : Chip) (n : Lane) (x : Capture) (i t : Nat) : List Byte :=
  let step := c.spyStep n
  let v (m : Nat) : Rat := (c.corrected n x i (t + m : Nat)).getD 0
  spyWord ((if step = 1 then v 0 else Config.decimate ((List.range step).map v)) + 1 / 2).floor

/-- Entries of a source whose entries follow each other, from tick `t` on. -/
def Chip.spyRun (c : Chip) (n : Lane) (x : Capture) (src i t : Nat) : List Byte :=
  let at' (j : Nat) : Nat := t + j * c.spyStep n
  match src with
  | 0 => (List.range 120).flatMap fun j => c.rawEntry n x i (at' j)
  | 1 => (List.range 120).flatMap fun j => spyWord (Config.spyEntry 1 (c.replicaOut n i (at' j : Nat)))
  | _ => (List.range 60).flatMap fun j => leBytes 4 (c.codesAt n (at' j : Nat))

/-- Sherds of the capture: SHERD0 to SHERD0 + SHERDN. -/
def Chip.spySherds (c : Chip) (n : Lane) : List Nat :=
  (List.range (c.get (F.SPY_SPCFG_SHERDN n) + 1)).map fun j => c.get (F.SPY_SPCFG_SHERD0 n) + j

/-- Band profile that the FFTs of the present run in: that of the reception, else that of the epoch. -/
def Chip.spyBand (c : Chip) (n : Lane) : Nat :=
  match (c.lane n).rx.rx with
  | some r => match r.kind with
    | .detected => 2
    | _ => r.bp
  | none => (c.epochIn n).bp

/-- The window of a symbol of a hearing that begins at tick `t`. -/
def Hearing.symbolAt (h : Hearing) (syms : List TxSym) (t : Nat) : Option TxSym := syms.find? fun s => (h.win s).w == t

/-- The combined, equalised value of data carrier `k` in the symbol whose window begins at tick `t` (R179). -/
def Chip.combinedAt (c : Chip) (n : Lane) (r : Rx) (x : Capture) (t k : Nat) : Option Cx :=
  match r.kind with
  | .detected => none
  | .frame fc =>
    let h := c.hearing n r x fc.bp fc.gi
    (h.symbolAt fc.body.payloadSyms t).bind fun s =>
      (c.payloadAt n h (c.preambleAt n h) 0 (sherdsOf fc.bp) s k).map Prod.fst
  | .uplink =>
    (c.uplinkGrant n r).bind fun g => (g.users.find? fun u => u.carriers.contains k).bind fun u =>
      let e := c.userHearing n g r x u
      (e.1.symbolAt g.dataSyms t).bind fun s => (c.payloadAt n e.1 e.2 u.sherd u.scnt s k).map Prod.fst

/-- Entries of the FFT window at tick `t`: the carriers of the chosen sherds of one input after the digital echo stage, or their combined,
equalised data carriers, 0 where every input is excluded (R179, R180, R194). -/
def Chip.spyWindow (c : Chip) (n : Lane) (x : Capture) (src i t : Nat) : List (List Byte) :=
  let ks := (c.spySherds n).flatMap fun s => (List.range 40).map fun j => 40 + 40 * s + j
  if src = 2 then ks.map fun k =>
    spyPair 2 (c.cleanCarrier n (fun u => codeOf (c.codesAt n u) i) x { w := t, len := 8192, bp := c.spyBand n, origin := t } i k)
  else match (c.lane n).rx.rx with
    | some r => (ks.filter fun k => !isPilot k).map fun k => spyPair 3 ((c.combinedAt n r x t k).getD ⟨0, 0⟩)
    | none => []

/-- Entry bytes of a record: those told, or made of the samples told and the history; `part` says how much of the window earlier
records took. -/
def Chip.hearSpy (c : Chip) (n : Lane) (t : Nat) (h : Heard (List Byte)) : List Byte :=
  match h with
  | .made es => es.take 240
  | .adc x =>
    let y := (c.lane n).rx.spy
    let src := c.get (F.SPY_SPCFG_SRC n)
    let i := c.get (F.SPY_SPCFG_INPUT n)
    let x := Capture.join y.hist x
    if src = 2 ∨ src = 3 then
      let from' := ((y.part.filter fun p => p.1 == t).map Prod.snd).getD 0
      (((c.spyWindow n x src i t).drop from').take 60).flatten
    else c.spyRun n x src i t

/-! Records (R195, R196). -/

/-- Tick at the pins of the first entry of the next record: FFT windows are told, other entries follow each other. -/
def Chip.spyStart (c : Chip) (n : Lane) (t : Nat) : Nat :=
  if c.get (F.SPY_SPCFG_SRC n) = 2 ∨ c.get (F.SPY_SPCFG_SRC n) = 3 then t else (c.lane n).rx.spy.next

/-- Ticks that a record spans. -/
def Chip.spySpan (c : Chip) (n : Lane) : Nat :=
  match c.get (F.SPY_SPCFG_SRC n) with
  | 0 => 120 * c.spyStep n
  | 1 => 120
  | 4 => 60 * 64
  | _ => 8192

/-- Tick `t` as the lane's copy of the tick counter shows it (R31; log entry 173 on the other timestamps). -/
def Chip.laneTick (c : Chip) (n : Lane) (t : Nat) : Nat := ((t : Int) + (c.links.get n).copyOff).toNat

/-- The bytes of a record (Table 6-7): its flags say that records before it were lost, that it holds the trigger point, and that a port
of the group transmitted during it. -/
def Chip.spyRecord (c : Chip) (n : Lane) (t : Nat) (es : List Byte) : List Byte :=
  let y := (c.lane n).rx.spy
  let src := c.get (F.SPY_SPCFG_SRC n)
  let trig := y.trigAt.any fun k => decide (t ≤ k ∧ k < t + c.spySpan n)
  let a := t - c.get (F.RXP_RXDLY_DELAY n)
  let tx := !c.silentSpan n a (a + c.spySpan n)
  leBytes 4 y.seq ++ leBytes 8 (c.laneTick n a) ++ leBytes 1 (src + 8 * c.get (F.SPY_SPCFG_INPUT n))
    ++ leBytes 1 (bit y.gap + 2 * bit trig + 4 * bit tx) ++ leBytes 2 (es.length / (if src ≤ 1 then 2 else 4)) ++ es
    ++ List.replicate (240 - es.length) 0

/-- The capture goes on after the record at tick `t`, written or lost. -/
def Chip.spyGoes (c : Chip) (n : Lane) (t : Nat) (h : Heard (List Byte)) : Chip :=
  let src := c.get (F.SPY_SPCFG_SRC n)
  let all := (if src = 2 then 40 else 39) * (c.spySherds n).length
  c.onSpy n fun y =>
    let k := ((y.part.filter fun p => p.1 == t).map Prod.snd).getD 0 + 60
    { y with
      next := t + c.spySpan n
      part := if (src = 2 ∨ src = 3) ∧ k < all then some (t, k) else none
      trigAt := y.trigAt.filter fun k => decide (t + c.spySpan n ≤ k)
      hist := c.spyHistory n y.hist h.samples }

/-- RECORD (R195, R196): the entries of a record are complete; those of an FFT window begin at tick `t` of the pins, which the record
states at the coupler (R166).  VC3 carries its 256 bytes if it has credit and SPYCAP leaves room for them; otherwise they are dropped
at the source, which leaves a gap (R26), as does a full ring. -/
def execRecord (n : Lane) (t : Nat) (h : Heard (List Byte)) (s : State) : Host.Outcome State Fault Refusal :=
  .next (s.onWork fun w =>
    let c := w.chip
    let t := c.spyStart n t
    let es := c.hearSpy n t h
    if !(c.lane n).rx.spy.running ∨ es = [] then w
    else
      let c := c.advanceTo (t + c.spySpan n)
      let recs := 2 ^ c.get (F.SPY_SPDEST_SIZE n) / 256
      let wp := c.get (F.SPY_SPWPTR_PTR n)
      let full := !c.flag (F.SPY_SPCFG_WRAP n) && (wp + 1) % recs == c.get (F.SPY_SPRPTR_PTR n)
      let bytes := c.spyRecord n t es
      let pkt : SkejoPkt := ⟨3, 0, List.replicate 256 0⟩
      if c.spyMayGo n .toHub pkt = false then { w with chip := ((c.spyGoes n t h).dropSpyGap n).pfaultSet (.spy n) 1 }
      else if full then { w with chip := ((c.spyGoes n t h).onSpy n fun y => { y with gap := true }).pfaultSet (.spy n) 1 }
      else
        let c := (c.spyGoes n t h).set (F.SPY_SPWPTR_PTR n) ((wp + 1) % recs)
        let c := (c.count (F.SPY_SPCOUNT_COUNT n) 1).holdSpy n pkt
        let c := c.onDir n .toHub fun x => x.setCredit 3 (x.credit 3 - pkt.units)
        let c := c.onSpy n fun y => { y with gap := false, seq := y.seq + 1 }
        let lim := c.get (F.SPY_SPLEN_RECORDS n)
        let w := w.write .sram (4096 * c.get (F.SPY_SPDEST_BASE n) + 256 * wp) bytes
        { w with chip := if lim ≠ 0 ∧ lim ≤ (c.lane n).rx.spy.seq then c.spyEnd n else c })

end Sys2Proof.Machine
end

