-- ==== Sys2Proof/Machine/Pcie.lean ====
section
/-!
DEFINITION. The event router's registers, the PCIe endpoint and the host wake (R410 to R413, R428, R429).
-/
namespace Sys2Proof.Machine

/-- The source after `s`, wrapping from 287 to 0 (R428). -/
def nextSource (s : Nat) : Nat := if 287 ≤ s then 0 else s + 1

/-- A read of RTDATA: the entry of SOURCE, which moves on. -/
def Chip.readRtdata (c : Chip) : Nat × Chip :=
  let src := c.get F.EVT_RTSEL_SOURCE
  (c.routerEntry src, c.set F.EVT_RTSEL_SOURCE (nextSource src))

/-- RTDATA_READ: EVT.RTDATA read by `i`. -/
def execRtdataRead (i : Init) (s : State) : Host.Outcome State Fault Refusal :=
  .next (s.onChip fun c => c.gateRead i .evt 0x044 Chip.readRtdata)

/-- A write of RTDATA: VEC, MSIX and FAULT of the entry of SOURCE, which moves on. -/
def Chip.writeRtdata (c : Chip) (val : Nat) : Chip :=
  let src := c.get F.EVT_RTSEL_SOURCE
  let e := val &&& 0x31F
  let c := { c with router := if e = 0 then c.router.erase src else c.router.insert src e }
  c.set F.EVT_RTSEL_SOURCE (nextSource src)

/-- RTDATA_WRITE: EVT.RTDATA written by `i`. -/
def execRtdataWrite (i : Init) (val : Nat) (s : State) : Host.Outcome State Fault Refusal :=
  .next (s.onChip fun c => c.gate i .evt 0x044 (·.writeRtdata val))

/-- MSIX_MESSAGE: with MSI-X Enable and Function Mask of the configuration space as the host has now set them, one message
of vector `v` leaves if the vector is pending and open (R412). -/
def execMsixMessage (enable fmask : Bool) (v : Nat) (s : State) : Host.Outcome State Fault Refusal :=
  .next (s.onChip fun c =>
    (c.onPcie fun x => { x with msixEnable := enable, funcMask := fmask }).sendVec (v % 32))

/-- Effects of a hot reset, function level reset or link-down event on the host interface (R410). -/
def Chip.pcieReset (c : Chip) (linkDown : Bool) : Chip :=
  let c := c.onPcie fun x => { x with msixEnable := false, funcMask := false, pmeEn := false, table := [] }
  let c := c.set F.PCIE_LNKSTAT_DSTATE 0
  let c := if linkDown then ((c.set F.PCIE_LNKSTAT_SPEED 0).set F.PCIE_LNKSTAT_WIDTH 0).set F.PCIE_LNKSTAT_PMSUB 0 else c
  let c := (c.qm.rings.map Prod.fst).foldl (fun c r => c.ringOff r) c
  ((c.onMbx fun m => { m with stopped := true }).count F.PCIE_RSTCNT_RESETS 1).raise .pcie 0

/-- PCIE_RESET: a hot reset, a function level reset or, with `linkDown`, a link-down event: configuration space and MSI-X
table return to reset, every ring is disabled and the D2H path stops (R410). -/
def execPcieReset (linkDown : Bool) (s : State) : Host.Outcome State Fault Refusal :=
  .next (s.onChip fun c => c.pcieReset linkDown)

/-- PCIE_LINK_UP: the link reaches L0 at a speed code and width, after training or, with `recovery`, after a recovery;
WAKE_N is released (R411, R429). -/
def execPcieLinkUp (speed width : Nat) (recovery : Bool) (s : State) : Host.Outcome State Fault Refusal :=
  .next (s.onChip fun c =>
    if 1 ≤ speed ∧ speed ≤ 3 ∧ (width = 1 ∨ width = 2 ∨ width = 4) then
      let c := ((c.set F.PCIE_LNKSTAT_SPEED speed).set F.PCIE_LNKSTAT_WIDTH width).set F.PCIE_LNKSTAT_PMSUB 0
      let c := c.onPcie fun x => { x with wakeN := false }
      (if recovery then c.count F.PCIE_RSTCNT_RECOV 1 else c).raise .pcie 0
    else c)

/-- PCIE_ERROR: a correctable or uncorrectable error is counted and raised (R429). -/
def execPcieError (uncorrectable : Bool) (s : State) : Host.Outcome State Fault Refusal :=
  .next (s.onChip fun c =>
    if uncorrectable then (c.count F.PCIE_ERRCNT_UNCORR 1).raise .pcie 2 else (c.count F.PCIE_ERRCNT_CORR 1).raise .pcie 1)

/-- DSTATE_CHANGE: the host moves the function to D3hot or D0, with PME_En as it stands then and the link substate in which
the link rests (R409, R429). -/
def execDstateChange (d3 pmeEn : Bool) (substate : Nat) (s : State) : Host.Outcome State Fault Refusal :=
  .next (s.onChip fun c =>
    let c := c.onPcie fun x => { x with pmeEn := pmeEn }
    let c := (c.set F.PCIE_LNKSTAT_DSTATE (if d3 then 3 else 0)).set F.PCIE_LNKSTAT_PMSUB
      (if c.get F.PCIE_LNKSTAT_SPEED = 0 then 0 else substate)
    c.raise .pcie 3)

/-- The host wake of a D2H doorbell (R411). -/
def Chip.hostWake (c : Chip) : Chip :=
  if c.get F.PCIE_LNKSTAT_SPEED = 0 then
    if c.flag F.PCIE_WAKECFG_WAKEPIN then c.onPcie fun x => { x with wakeN := true } else c
  else if (c.get F.PCIE_LNKSTAT_DSTATE = 3 ∨ c.get F.PCIE_LNKSTAT_PMSUB ≠ 0) ∧ c.pcie.pmeEn then
    (c.set F.PCIE_LNKSTAT_PMSUB 0).emit .pme
  else c

end Sys2Proof.Machine
end

