-- ==== Sys2Proof/Machine/Mailbox.lean ====
section
/-!
DEFINITION. Mailboxes, the services of device firmware that need nothing but the neighbour table and routes, and doorbells
(R287 to R291, Tables 10-5 to 10-8).
-/
namespace Sys2Proof.Machine

/-! Requests. -/

/-- The limit of LEN of an H2D type (Table 10-7), or none for a reserved or device-only type. -/
def typeLimit : Nat → Option Nat
  | 0x01 => some 16 | 0x02 => some 20 | 0x03 => some 4112 | 0x04 => some 18 | 0x05 => some 28 | 0x06 => some 20
  | 0x07 => some (2 ^ 20) | 0x08 => some (2 ^ 20) | 0x09 => some (2 ^ 20) | _ => none

/-- A GO: the notice waits for its check; to a busy mailbox it is discarded with OVERPOST (R287). -/
def Chip.postGo (c : Chip) (n val : Nat) : Chip :=
  if val.testBit 31 then
    if c.bitAt F.MBX_MBSTAT_H2DBUSY n then c.pfaultSet .mbx 1
    else ((c.store .mbx (0x10C + 16 * n) val).setBitAt F.MBX_MBSTAT_H2DBUSY n true).setFlag (F.MBX_RES_PEND n) true
  else c.store .mbx (0x10C + 16 * n) val

/-- GO: LENGO of H2D mailbox `n` written by `i` with GO = 1. -/
def execGo (i : Init) (n len : Nat) (s : State) : Host.Outcome State Fault Refusal :=
  .next (s.onChip fun c =>
    if n < 32 then c.gate i .mbx (0x10C + 16 * n) (·.postGo n (len % 2 ^ 24 + 2 ^ 31)) else c)

/-- The memory a LOC bit names. -/
def locSpace (loc : Bool) : Space := if loc then .sram else .host

/-- Bytes of a request's body. -/
def Work.reqBytes (w : Work) (q : Request) (off len : Nat) : List Byte := w.readBytes (locSpace q.loc) (q.ptr + off) len

/-- The code of a notice's check (Table 10-5): the earliest row that applies. -/
def Work.checkNotice (w : Work) (q : Request) : Status :=
  let hdr := w.reqBytes q 0 16
  let tags := w.chip.mbx.requests.map (·.tag)
  match typeLimit q.type with
  | none => .format
  | some lim =>
    if q.tag = 0xFFFF ∨ leAt hdr 13 1 / 2 ≠ 0 ∨ leAt hdr 14 2 ≠ 0 then .format
    else if leAt hdr 12 1 ≠ 1 then .version
    else if q.len < 16 ∨ lim < q.len then .length
    else if tags.contains q.tag then .refused
    else if 256 ≤ tags.length then .busy
    else .ok

/-- Check the notice of H2D mailbox `n`, if it is busy (R287). -/
def Work.checkMailbox (w : Work) (n : Nat) : Work :=
  let c := w.chip
  if !c.bitAt F.MBX_MBSTAT_H2DBUSY n then w
  else
    let q : Request :=
      { tag := c.get (F.MBX_HDR_TAG n), type := c.get (F.MBX_HDR_TYPE n),
        ptr := c.get (F.MBX_PTRL_PTR n) + 2 ^ 32 * c.get (F.MBX_PTRH_PTR n), loc := c.flag (F.MBX_HDR_LOC n),
        len := c.get (F.MBX_LENGO_LEN n), answered := false }
    let st := w.checkNotice q
    w.onChip fun c =>
      let c := if st = .ok then c.onMbx fun m => { m with requests := m.requests ++ [q] }
        else c.count F.MBX_MBCNT_REFUSALS 1
      let c := ((c.set (F.MBX_RES_STATUS n) st.code).set (F.MBX_RES_TAG n) q.tag).setFlag (F.MBX_RES_PEND n) false
      (c.setBitAt F.MBX_MBSTAT_H2DBUSY n false).raise .mbx 2

/-- MAILBOX_CHECK: a check cycle goes through the posted mailboxes in rising order, so that of two equal tags the
lower-numbered mailbox is accepted (R287, R289). -/
def execMailboxCheck (s : State) : Host.Outcome State Fault Refusal :=
  .next (s.onWork fun w => if w.chip.hubRuns then (List.range 32).foldl Work.checkMailbox w else w)

/-- The unanswered request with a tag and a type. -/
def Chip.request (c : Chip) (tag type : Nat) : Option Request :=
  c.mbx.requests.find? fun q => q.tag == tag && q.type == type && !q.answered

/-- Answer a request: the reply body goes to RSPADDR, and a D2H post with the request's TAG, TYPE and the status waits for a
mailbox; a reply larger than RSPMAX is answered with LENGTH (R288, Table 10-5).  `facts` stands in the post for a body
whose layout is not stated. -/
def Work.reply (w : Work) (q : Request) (st : Status) (body facts : List Byte) : Work :=
  let hdr := w.reqBytes q 0 16
  let st := if leAt hdr 8 4 < body.length then .length else st
  let body := if st = .length then [] else body
  let w := w.write (locSpace ((leAt hdr 13 1).testBit 0)) (leAt hdr 0 8) body
  w.onChip fun c => c.onMbx fun m => { m with
    requests := m.requests.map fun x => if x.tag = q.tag then { x with answered := true } else x
    waiting := m.waiting ++ [{ ptr := leAt hdr 0 8, tag := q.tag, type := q.type, status := st.code, len := body.length,
                               body := facts }] }

/-- Serve the request with a tag and a type, if there is one and the hub runs. -/
def Work.serve (w : Work) (tag type : Nat) (f : Work → Request → Work) : Work :=
  if w.chip.hubRuns then
    match w.chip.request tag type with
    | some q => f w q
    | none => w
  else w

/-- `k` free bytes from the present free value on. -/
def Chip.freeBytes (c : Chip) (k : Nat) : List Byte := (List.range k).map fun j => BitVec.ofNat 8 (Config.free (c.free + j))

/-- A reply whose layout the spec does not state: its length and bytes are free; `facts` says what it tells (log entry 57). -/
def Work.freeReply (w : Work) (q : Request) (facts : List Byte) : Work :=
  let k := w.chip.freeBelow 65536
  let body := w.chip.nextFree.freeBytes k
  (w.onChip fun c => { c with free := c.free + 1 + k }).reply q .ok body facts

/-- INFO: firmware version, active slot and fired state; the reply's layout is not stated (R288, Table 10-7). -/
def execInfo (tag : Nat) (s : State) : Host.Outcome State Fault Refusal :=
  .next (s.onWork fun w => w.serve tag 0x01 fun w q =>
    let c := w.chip
    let act := c.get F.BOOT_BSTAT_ACTSLOT
    let ver := if act = 0 then c.get F.BOOT_VERA_VERSION else c.get F.BOOT_VERB_VERSION
    w.freeReply q (leBytes 4 ver ++ [BitVec.ofNat 8 act, BitVec.ofNat 8 (c.get F.BOOT_BSTAT_FIRED)]))

/-- A ROUTESET entry: FINAL, next-hop slot, GEN and metric, as four 16-bit words (log entry 58). -/
def routeEntry (bs : List Byte) : Nat × Nat × Nat × Nat := (leAt bs 0 2, leAt bs 2 2, leAt bs 4 2, leAt bs 6 2)

/-- The route entries of a ROUTESET body. -/
def Work.routeEntries (w : Work) (q : Request) : List (Nat × Nat × Nat × Nat) :=
  (List.range ((q.len - 16) / 8)).map fun k => routeEntry (w.reqBytes q (16 + 8 * k) 8)

/-- ROUTESET: the routing service stores route entries; STALE if a next hop is not assigned under its generation
(R288). -/
def execRouteset (tag : Nat) (s : State) : Host.Outcome State Fault Refusal :=
  .next (s.onWork fun w => w.serve tag 0x03 fun w q =>
    let es := w.routeEntries q
    let stale := es.any fun e => !(w.chip.assigned e.2.1 && (w.chip.nbr e.2.1).gen == e.2.2.1)
    if stale then w.reply q .stale [] []
    else
      let w := w.onChip fun c => c.onMac fun m => { m with routes := es.foldl (fun r e => r.insert e.1 e.2) m.routes }
      w.reply q .ok [] [])

/-- ROUTEGET: the next hop and metric of a final destination, or NO_ROUTE; the reply's layout is not stated (R288). -/
def execRouteget (tag : Nat) (s : State) : Host.Outcome State Fault Refusal :=
  .next (s.onWork fun w => w.serve tag 0x04 fun w q =>
    match w.chip.mac.routes.get? (leNat (w.reqBytes q 16 2)) with
    | some (hop, _, metric) => w.freeReply q (leBytes 2 hop ++ leBytes 2 metric)
    | none => w.reply q .noRoute [] [])

/-- JOINACC: the host accepts or turns down a pending join; device firmware sends the JOINRSP, whose body carries CSLOT,
CWMIN and CWMAX in a layout not stated (R257, R266, R288). -/
def execJoinacc (tag : Nat) (s : State) : Host.Outcome State Fault Refusal :=
  .next (s.onWork fun w => w.serve tag 0x05 fun w q =>
    let b := w.reqBytes q 16 12
    let eui := leAt b 0 8
    let slot := leAt b 8 2
    let accept := (leAt b 11 1).testBit 0
    if accept ∧ !((1 ≤ slot && slot < 8192) && w.chip.assigned slot && (w.chip.nbr slot).gen == leAt b 10 1) then
      w.reply q .stale [] []
    else if !(w.chip.mac.joins.any fun j => j.1 == eui) then w.reply q .refused [] []
    else
      let w := w.onChip fun c =>
        let c := c.onMac fun m => { m with joins := m.joins.filter fun j => j.1 != eui }
        if accept then
          let k := c.freeBelow 4065
          let body := c.nextFree.freeBytes k
          ({ c with free := c.free + 1 + k }).firmwareSend slot 0x11 body
        else c
      w.reply q .ok [] [])

/-- The 12 B of a map set. -/
def MapSet.bytes (m : MapSet) : List Byte := leBytes 4 m.w0 ++ leBytes 4 m.w1 ++ leBytes 4 m.w2

/-- Bytes 0 to 111 of a hub neighbour entry (Table 9-3). -/
def Nbr.bytes (e : Nbr) : List Byte :=
  leBytes 8 e.eui
    ++ leBytes 4 (packFields [(2, e.st), (4, e.gen), (1, e.proto), (1, bit e.fdel), (3, e.group), (1, bit e.sleep),
        (2, e.epst), (1, bit e.g6pend), (1, bit e.seqvalid)])
    ++ leBytes 4 (packFields [(2, e.cpl), (2, e.port), (8, e.wset)]) ++ leBytes 4 e.qexp
    ++ leBytes 2 e.txseq ++ leBytes 2 e.rxh ++ leBytes 8 e.rxw ++ leBytes 4 e.rxfc ++ leBytes 4 e.lastrx
    ++ leBytes 2 e.n ++ leBytes 1 e.f ++ [0] ++ leBytes 2 (ofSigned 16 e.drift) ++ leBytes 2 e.unc ++ leBytes 8 e.tref
    ++ e.dlcur.bytes ++ e.dlnext.bytes ++ e.dlepo.bytes ++ leBytes 4 0 ++ leBytes 4 e.txmpdu ++ leBytes 4 e.rxmpdu
    ++ leBytes 2 e.dups ++ leBytes 2 e.replays ++ leBytes 2 e.authf ++ leBytes 2 e.abandon

/-- A slot's entry as the table shows it; slot 0 is always ASSIGNED with the GX8's own EUI-64 (R250). -/
def Chip.nbrShown (c : Chip) (s : Nat) : Nbr := if s = 0 then { c.nbr 0 with eui := c.selfEui, st := 1 } else c.nbr s

/-- NBRDUMP: bytes 0 to 111 of the entries from a first slot on; slots beyond 8,191 have none (R288, log entry 59). -/
def execNbrdump (tag : Nat) (s : State) : Host.Outcome State Fault Refusal :=
  .next (s.onWork fun w => w.serve tag 0x06 fun w q =>
    let b := w.reqBytes q 16 4
    let first := leAt b 0 2
    let slots := ((List.range (leAt b 2 2)).map (first + ·)).filter (· < 8192)
    w.reply q .ok (slots.flatMap fun s => (w.chip.nbrShown s).bytes) [])

/-- SERVICE_TIMEOUT: the request with a tag has passed its time limit and is answered with TIMEOUT (R289). -/
def execServiceTimeout (tag : Nat) (s : State) : Host.Outcome State Fault Refusal :=
  .next (s.onWork fun w =>
    match w.chip.mbx.requests.find? fun q => q.tag == tag && !q.answered with
    | some q => if w.chip.hubRuns then w.reply q .timeout [] [] else w
    | none => w)

/-- Requests left unanswered by a warm restart or STANDBY are answered with TIMEOUT once the hub runs again (R289). -/
def Work.timeoutRequests (w : Work) : Work :=
  (w.chip.mbx.requests.filter fun q => !q.answered).foldl (fun w q => w.reply q .timeout [] []) w

/-! D2H mailboxes (R290). -/

/-- The 32 B image of Table 10-8; SEQ counts the posts up to this one (log entry 55). -/
def D2hPost.image (p : D2hPost) (seq : Nat) : List Byte :=
  leBytes 8 p.ptr ++ leBytes 2 p.tag ++ [BitVec.ofNat 8 p.type, BitVec.ofNat 8 p.status] ++ leBytes 4 p.len
    ++ leBytes 4 seq ++ List.replicate 12 0

/-- D2H_POST: the oldest waiting reply or notice goes to D2H mailbox `n`, if it is free (R290). -/
def execD2hPost (n : Nat) (s : State) : Host.Outcome State Fault Refusal :=
  .next (s.onWork fun w =>
    let c := w.chip
    match c.mbx.waiting with
    | [] => w
    | p :: rest =>
      if 32 ≤ n ∨ c.bitAt F.MBX_D2HFULL_FULL n ∨ c.mbx.err ∨ c.mbx.stopped ∨ !c.hubRuns then w
      else
        let base := c.get F.MBX_D2HBASE_BASE
        let seq := c.mbx.seq + 1
        let w := w.write (locSpace (base.testBit 0)) (base / 1024 * 1024 + 32 * n) (p.image seq)
        w.onChip fun c =>
          let c := c.onMbx fun m => { m with waiting := rest, seq := seq, full := m.full.insert n p.tag }
          (c.setBitAt F.MBX_D2HFULL_FULL n true).raise .mbx 1)

/-- A W1C write of D2HFULL frees mailboxes and acknowledges the tags they carry (R289, R290). -/
def Chip.d2hfullWrite (c : Chip) (val : Nat) : Chip :=
  let freed := bitsOf 32 (val &&& c.get F.MBX_D2HFULL_FULL)
  let tags := freed.filterMap fun n => c.mbx.full.get? n
  (c.onMbx fun m => { m with
    full := m.full.keep fun n _ => !freed.contains n
    requests := m.requests.filter fun q => !(q.answered && tags.contains q.tag) }).store .mbx 0x06C val

/-- D2HFULL_CLEAR: D2HFULL written by `i`. -/
def execD2hfullClear (i : Init) (mask : Nat) (s : State) : Host.Outcome State Fault Refusal :=
  .next (s.onChip fun c => c.gate i .mbx 0x06C (·.d2hfullWrite mask))

/-! Doorbells (R291). -/

/-- A write of H2DSETL or H2DSETH: doorbells are set; one enabled in H2DWAKE wakes the hub from STANDBY. -/
def Chip.h2dSet (c : Chip) (high : Bool) (mask : Nat) : Chip :=
  let f := if high then F.MBX_H2DPENDH_PEND else F.MBX_H2DPENDL_PEND
  let wk := if high then F.MBX_H2DWAKEH_WAKE else F.MBX_H2DWAKEL_WAKE
  let m := mask % 2 ^ 32
  let c := c.set f (c.get f ||| m)
  if c.power = .standby ∧ m &&& c.get wk ≠ 0 then
    c.onPins fun p => { p with wake := some (p.wake.getD 1) }
  else c

/-- H2D_DOORBELL_SET: H2DSETL, or with `high` H2DSETH, written by `i`. -/
def execH2dDoorbellSet (i : Init) (high : Bool) (mask : Nat) (s : State) : Host.Outcome State Fault Refusal :=
  .next (s.onChip fun c => c.gate i .mbx (if high then 0x044 else 0x040) (·.h2dSet high mask))

/-- H2D_DOORBELL_SERVE: device firmware clears H2D doorbell `b`; a set in the same cycle (`again`) leaves it set. -/
def execH2dDoorbellServe (b : Nat) (again : Bool) (s : State) : Host.Outcome State Fault Refusal :=
  .next (s.onChip fun c =>
    if !c.hubRuns ∨ again then c
    else if b < 32 then c.setBitAt F.MBX_H2DPENDL_PEND b false
    else c.setBitAt F.MBX_H2DPENDH_PEND (b % 32) false)

/-- D2H_DOORBELL_SET: device firmware sets D2H doorbell `b`: D2HDB, and a host wake where D2HWAKE asks for it (R291). -/
def execD2hDoorbellSet (b : Nat) (s : State) : Host.Outcome State Fault Refusal :=
  .next (s.onChip fun c =>
    if c.hubRuns ∧ b < 64 then
      let c := if b < 32 then c.setBitAt F.MBX_D2HL_DB b true else c.setBitAt F.MBX_D2HH_DB (b - 32) true
      let c := c.raise .mbx 0
      let wakes := if b < 32 then c.bitAt F.MBX_D2HWAKEL_WAKE b else c.bitAt F.MBX_D2HWAKEH_WAKE (b - 32)
      if wakes then c.hostWake else c
    else c)

/-- D2H_DOORBELL_CLEAR: D2HL, or with `high` D2HH, written by `i` (W1C). -/
def execD2hDoorbellClear (i : Init) (high : Bool) (mask : Nat) (s : State) : Host.Outcome State Fault Refusal :=
  .next (s.onChip fun c =>
    let off := if high then 0x054 else 0x050
    c.gate i .mbx off (·.store .mbx off mask))

/-- A write of D2HBASE: refused while D2HFULL is not 0 (cause 8); it takes the D2H path out of ERROR and out of the stop of a
PCIe reset (log entry 56). -/
def Chip.d2hbaseWrite (c : Chip) (i : Init) (off val : Nat) : Chip :=
  if c.get F.MBX_D2HFULL_FULL ≠ 0 then c.refuseState i .mbx off
  else (c.set F.MBX_D2HBASE_BASE val).onMbx fun m => { m with err := false, stopped := false }

end Sys2Proof.Machine
end

