-- ==== Sys2Proof/Machine/Verify.lean ====
section
/-!
DEFINITION. Received MPDUs: assembly from blocks, format, verification, the sequence window and the frame-action table (R256,
R259 to R261, R269, R270, R302 to R304, R318, R319).
-/
namespace Sys2Proof.Machine

/-! Assembly. -/

/-- Blocks of a sender that carry MPDU data: those that passed and are neither format nor fill blocks (R212). -/
def RxUser.carried (u : RxUser) (uplink : Bool) : List (Nat × BlkHdr × List Byte) :=
  (u.results.filter fun e => e.2.pass && !formatBlock u.bt e.2.word uplink && !(BlkHdr.ofWord e.2.word).fill).map fun e =>
    let h := BlkHdr.ofWord e.2.word
    (e.1, h, e.2.data.take h.vlen)

/-- The MPDUs a sender's blocks belong to: MSEQ and CLS, in the order of their first blocks. -/
def RxUser.keys (u : RxUser) (uplink : Bool) : List (Nat × Nat) :=
  ((u.carried uplink).map fun e => (e.2.1.mseq, e.2.1.cls)).eraseDups

/-- Blocks of an MPDU held from earlier receptions (R261). -/
def Chip.heldOf (c : Chip) (slot : Nat) (k : Nat × Nat) : Option Reasm :=
  c.qm.reasm.find? fun r => r.slot == slot && r.mseq == k.1 && r.cls == k.2

/-- Held blocks of an MPDU with those of a reception. -/
def Chip.partsOf (c : Chip) (u : RxUser) (uplink : Bool) (turn : Nat) (k : Nat × Nat) : Reasm :=
  let old := (c.heldOf u.slot k).getD { slot := u.slot, mseq := k.1, cls := k.2, parts := [], last := none, firstTurn := turn }
  ((u.carried uplink).filter fun e => (e.2.1.mseq, e.2.1.cls) == k).foldl (fun (r : Reasm) e =>
    { r with parts := r.parts.insert e.2.1.bidx e.2.2, last := if e.2.1.last then some e.2.1.bidx else r.last }) old

/-- The bytes of an MPDU whose blocks are all there. -/
def Reasm.whole (r : Reasm) : Option (List Byte) :=
  match r.last with
  | none => none
  | some l =>
    let ps := (List.range (l + 1)).map r.parts.get?
    if ps.all Option.isSome then some (ps.flatMap fun p => p.getD []) else none

/-- Held blocks of an MPDU are no longer needed. -/
def Chip.forget (c : Chip) (slot : Nat) (k : Nat × Nat) : Chip :=
  c.onQm fun q => { q with reasm := q.reasm.filter fun r => !(r.slot == slot && r.mseq == k.1 && r.cls == k.2) }

/-! The header of a received MPDU (Table 9-5). -/

/-- MTYPE. -/
def mpduType (bs : List Byte) : Nat := leAt bs 0 1
/-- The security level byte. -/
def mpduSec (bs : List Byte) : Nat := leAt bs 1 1
/-- LEVEL. -/
def mpduLevel (bs : List Byte) : Nat := bitField (mpduSec bs) 0 3
/-- GKEY. -/
def mpduGkey (bs : List Byte) : Bool := (mpduSec bs).testBit 3
/-- PLEN. -/
def mpduPlen (bs : List Byte) : Nat := bitField (leAt bs 2 2) 0 12
/-- FCNT. -/
def mpduFcnt (bs : List Byte) : Nat := leAt bs 4 4
/-- MSEQ. -/
def mpduSeq (bs : List Byte) : Nat := bitField (leAt bs 12 2) 0 12
/-- CLS. -/
def mpduCls (bs : List Byte) : Nat := bitField (leAt bs 12 2) 12 1

/-- Whether a received MPDU fails R256. -/
def mpduBad (bs : List Byte) (mseq cls : Nat) : Bool :=
  let l := mpduLevel bs
  decide (bs.length < 16) || (l != 0 && l != 5 && l != 6) || decide (4064 < mpduPlen bs)
    || bs.length != 16 + mpduPlen bs + tagBytes l || mpduSeq bs != mseq || mpduCls bs != cls

/-! Verification (R303, R304). -/

/-- The group bank of the epoch of a frame of lane `n` with epoch number `epl` modulo 4 (R304, R309). -/
def Chip.frameBank (c : Chip) (n : Lane) (g6 : Bool) (epl : Nat) : Option BankRef :=
  if g6 then c.groupBank (c.bankOf (c.epochIn n))
  else ((c.epochsIn n).find? fun e => e.num % 4 == epl).bind fun e => c.groupBank (c.bankOf e)

/-- The banks under which an MPDU is tried, in order.  A sender that holds no slot has neither a bank nor an entry whose EUI-64
could stand in the nonce (R298; log entry 74). -/
def Chip.verifyBanks (c : Chip) (n : Lane) (x : RxWhole) : List BankRef :=
  if 8192 ≤ x.slot then []
  else if mpduGkey x.bytes then ((c.frameBank n x.g6 x.epl).filter fun r => (c.keys.bank r).holds).toList
  else
    let s := c.keys.slot 0 x.slot
    (if s.cur.holds then [.nbr x.slot false] else [])
      ++ (if s.sec.st = .next ∨ s.sec.st = .previous then [.nbr x.slot true] else [])

/-- The bank under which the tag matches, with the plaintext. -/
def Chip.verifyTag (c : Chip) (n : Lane) (x : RxWhole) : Option (BankRef × List Byte) :=
  let t := tagBytes (mpduLevel x.bytes)
  let body := (x.bytes.drop 16).take (mpduPlen x.bytes)
  let tag := (x.bytes.drop (16 + mpduPlen x.bytes)).take t
  let nonce := nonceOf (c.nbr x.slot).eui (mpduFcnt x.bytes) (mpduSec x.bytes)
  (c.verifyBanks n x).findSome? fun r =>
    (ccmOpen (c.keys.bank r).key nonce (x.bytes.take 16) body tag).map fun p => (r, p)

/-- A verification has failed: counted by the saggar and the MAC engine, and in the sender's entry (R260, R303). -/
def Chip.authFails (c : Chip) (slot : Nat) : Chip :=
  let c := ((c.count F.SAGGAR_FAILS_TAGFAIL 1).count F.MAC_SECERR_AUTHF 1).raise .mac 2
  if slot < 8192 then c.onNbr slot fun e => { e with authf := satAdd 16 e.authf 1 } else c

/-- The first MPDU verified under a bank that ROLL made current sets RXFC to 0 (R304). -/
def Chip.freshBank (c : Chip) (r : BankRef) : Chip :=
  match r with
  | .nbr s false =>
    let b := c.keys.bank r
    if b.fresh then (c.onKeys fun k => k.putBank r { b with fresh := false }).onNbr s fun e => { e with rxfc := 0 } else c
  | _ => c

/-! The sequence window (R259). -/

/-- What the window says of an MPDU. -/
def Nbr.windowSays (e : Nbr) (mseq fcnt : Nat) (fallback : Bool) : Option Nat × Nbr :=
  let d := (mseq + 4096 - e.rxh) % 4096
  let ok (x : Nbr) : Option Nat × Nbr := (none, { x with rxfc := max e.rxfc fcnt })
  if !e.seqvalid ∨ (2048 ≤ d ∧ d ≤ 4032) then
    if fallback ∧ e.rxfc < fcnt then ok { e with rxh := mseq, rxw := 1, seqvalid := true }
    else (some 1, { e with replays := satAdd 16 e.replays 1 })
  else if d = 0 ∨ 4033 ≤ d then
    let j := (e.rxh + 4096 - mseq) % 4096
    if e.rxw.testBit j then (some 0, { e with dups := satAdd 16 e.dups 1 }) else ok { e with rxw := setBit e.rxw j }
  else ok { e with rxw := (e.rxw * 2 ^ d ||| 1) % 2 ^ 64, rxh := mseq }

/-- The window check of an MPDU from a slot: accepted, or dropped as a duplicate or a replay. -/
def Chip.windowCheck (c : Chip) (n : Lane) (slot mseq fcnt : Nat) (fallback : Bool) : Bool × Chip :=
  let r := (c.nbr slot).windowSays mseq fcnt fallback
  match r.1 with
  | none => (true, c.onNbr slot fun _ => { r.2 with lastrx := c.turn n })
  | some 0 => (false, (c.onNbr slot fun _ => r.2).count F.MAC_SEQERR_DUPS 1)
  | some _ => (false, ((c.onNbr slot fun _ => r.2).count F.MAC_SEQERR_REPLAYS 1).raise .mac 3)

/-! The MPDU entries of the frame-action table (R269, R270). -/

/-- Hand an MPDU to device firmware. -/
def Chip.toFirmware (c : Chip) (n : Lane) (slot mtype : Nat) (head body : List Byte) : Chip :=
  c.onMac fun m => { m with fw := m.fw ++ [{ lane := n.num, slot, mtype, head, body }] }

/-- An MPDU with its plaintext reaches its entry: what goes to the host, if anything, and the chip. -/
def Chip.mpduAction (c : Chip) (n : Lane) (x : RxWhole) (plain : List Byte) : Option RxMpdu × Chip :=
  let t := mpduType x.bytes
  let a := c.fa (64 + t)
  let c := c.actionEvent a
  let host : RxMpdu :=
    { slot := x.slot, gen := x.gen, eui := (c.nbr x.slot).eui, cls := x.cls, group := x.group, ring := bitField a 8 7, turn := x.turn,
      cone := x.cone, lane := n.num, since := c.turn n, ord := c.qm.nextOrd, bytes := x.bytes.take 16 ++ plain }
  let ordered (c : Chip) : Chip := c.onQm fun q => { q with nextOrd := q.nextOrd + 1 }
  let fw := c.toFirmware n x.slot t (x.bytes.take 16) plain
  let auth := a.testBit 5
  if (auth ∧ mpduLevel x.bytes = 0) ∨ (auth ∧ x.slot = 0x3FFE) then (none, c.count F.MAC_ACCERR_FADROP 1)
  else match a % 8 with
    | 0 => (none, c.count F.MAC_ACCERR_FADROP 1)
    | 1 => (some host, ordered c)
    | 2 => (none, fw)
    | 3 => (some host, ordered fw)
    | 4 => (none, c)
    | _ => (none, (c.count F.MAC_ACCERR_FADROP 1).pfaultSet .mac 1)

/-- An MPDU that the saggar has passed reaches the MAC engine: the slot, the window, the entry (R251, R259, R269). -/
def Chip.mpduArrives (c : Chip) (n : Lane) (x : RxWhole) (plain : List Byte) (fallback : Bool) : Option RxMpdu × Chip :=
  let e := c.nbr x.slot
  if x.slot = 0x3FFE then c.mpduAction n x plain
  else if e.st ≠ 1 ∨ e.gen ≠ x.gen then (none, (c.count F.MAC_SLOTERR_QDROP 1).raise .mac 4)
  else
    let r := c.windowCheck n x.slot x.mseq (mpduFcnt x.bytes) fallback
    if r.1 then r.2.mpduAction n x plain else (none, r.2)

/-- Judge a whole MPDU; `mis` as in `Chip.runPair`.  The answer says whether its blocks count as passed (R260), and what is to
be delivered. -/
def Chip.judgeMpdu (c : Chip) (n : Lane) (x : RxWhole) (mis : Nat × Nat) : Bool × Option RxMpdu × Chip :=
  if mpduBad x.bytes x.mseq x.cls then (true, none, c.count F.MAC_SECERR_FMTMPDU 1)
  else if mpduLevel x.bytes = 0 then (true, c.mpduArrives n x (x.bytes.drop 16) true)
  else
    let p := c.runPair 1 mis
    if !p.1 then (false, none, p.2)
    else match p.2.verifyTag n x with
      | none => (false, none, p.2.authFails x.slot)
      | some (r, plain) =>
        let c := (p.2.count F.SAGGAR_VERIF_COUNT 1).freshBank r
        let prev : Bool := match r with
          | .nbr _ true => (c.keys.bank r).st == .previous
          | _ => false
        (true, c.mpduArrives n x plain !prev)

/-- Accepted MPDUs go ahead to delivery, in the order of their acceptance (R282). -/
def Chip.toDelivery (c : Chip) (ms : List RxMpdu) : Chip :=
  let put (l : List RxMpdu) (m : RxMpdu) : List RxMpdu :=
    l.takeWhile (fun x => decide (x.ord < m.ord)) ++ m :: l.dropWhile fun x => decide (x.ord < m.ord)
  c.onQm fun q => { q with deliver := ms.foldl put q.deliver }

/-! VERIFY. -/

/-- The first whole MPDU of a sender that has not been judged. -/
def Chip.nextWhole (c : Chip) (r : Rx) (u : RxUser) : Option ((Nat × Nat) × List Byte) :=
  let up := r.kind == .uplink
  (u.keys up).findSome? fun k =>
    if u.done.any fun d => d.1 == k.1 && d.2.1 == k.2 then none
    else ((c.partsOf u up r.turn k).whole).map fun bs => (k, bs)

/-- The MPDU of a reception that is verified next: the index of its sender and its bytes. -/
def Chip.toVerify (c : Chip) (r : Rx) : Option (Nat × RxUser × (Nat × Nat) × List Byte) :=
  r.users.zipIdx.findSome? fun e => (c.nextWhole r e.1).map fun x => (e.2, e.1, x)

/-- Judge the MPDU of a reception that is next and record the verdict with its sender. -/
def Chip.verifyNext (c : Chip) (n : Lane) (r : Rx) (mis : Nat × Nat) : Chip :=
  match c.toVerify r with
  | none => c
  | some (i, u, k, bs) =>
    let wide : Bool := match r.kind with
      | .frame fc => aclass fc.dtid == 1 || aclass fc.dtid == 2
      | _ => false
    let x : RxWhole :=
      { lane := n.num, slot := u.slot, epl := r.epl, g6 := c.role n r.facet == 7, group := wide, cls := k.2, mseq := k.1, cone := 0,
        gen := u.gen, turn := r.turn, bytes := bs }
    let j := c.judgeMpdu n x mis
    let c := (j.2.2.forget u.slot k).onRxn n fun r => { r with
      users := r.users.modify i fun (u : RxUser) => { u with done := u.done ++ [(k.1, k.2, j.1)] }
      accepted := r.accepted ++ j.2.1.toList }
    c.recount

/-- Whether a reception of another lane has a whole MPDU whose acknowledgement must be committed earlier (R295). -/
def Chip.verifiedLater (c : Chip) (r : Rx) : Bool :=
  Lane.all.any fun n => (c.lane n).rx.rx.any fun x => decide (x.deadline < r.deadline) && !c.coasting n && (c.toVerify x).isSome

/-- VERIFY (R303): the saggar judges the next MPDU: the oldest one taken over from a coast buffer, or else the next whole one of
the reception of lane `n`, whose blocks have all been decoded in time for its acknowledgement (R260), once no other lane has an MPDU whose
acknowledgement is due earlier (R295). -/
def execVerify (n : Lane) (mis : Nat × Nat) (s : State) : Host.Outcome State Fault Refusal :=
  .next (s.onChip fun c =>
    if !c.hubRuns ∨ c.coasting n then c
    else match c.qm.whole.find? fun x => x.lane == n.num with
      | some x =>
        let c := c.onQm fun q => { q with whole := q.whole.erase x }
        let j := c.judgeMpdu n x mis
        (j.2.2.toDelivery j.2.1.toList).recount
      | none =>
        match (c.lane n).rx.rx with
        | some r => if c.verifiedLater r then c else c.verifyNext n r mis
        | none => c)

end Sys2Proof.Machine
end

