-- ==== Sys2Proof/Machine/RxData.lean ====
section
/-!
DEFINITION. Receptions that end: DATA, acknowledgements, SOUND frames and uplinks; what the GX8 measures of them, and its
acknowledgements (R22, R79, R106, R134, R140, R171, R174, R180, R183 to R192, R212, R213, R236, R260 to R264, R266 to R268, R392).
-/
namespace Sys2Proof.Machine

/-! Measurements. -/

/-- What a lane counts and learns of any reception whose FC passed, or of an uplink: clipped samples by symbol and input, the rms
levels against the codes it was taken at, symbols across a boundary of the GX8's own, and whether staging lost data (R140, R148, R171,
R180). -/
def Chip.receptionDone (c : Chip) (n : Lane) (facet : Nat) (codes : List Nat) (clips : List (List Nat)) (rms : List Int)
    (straddled : Nat) (lost : Bool) : Chip :=
  let c := (c.clipCounts n clips).count (F.RXP_LOSS_OVLEXCL n) (c.excludedSymbols n clips)
  let c := c.count (F.ECHO_COUNTS3_PARTIAL n) straddled
  let c := if lost then (c.count (F.RXP_LOSS_STAGEOVF n) 1).pfaultSet (.rxp n) 0 else c
  c.agcLearn n facet codes rms

/-- The end of a single-user frame: what the lane measures of it, counted and learned (R140, R148, R171, R180, R189, R190). -/
def Chip.frameMeasured (c : Chip) (n : Lane) (r : Rx) (fc : Fc) (lost : Bool) (h : Heard RxMeas) : RxMeas × Chip :=
  let m := c.hearRx n r fc h
  let straddled := c.partialSymbols n r.tp (c.get (F.RXP_WINPOS_SU n)) fc.gi ([.fc 0, .fc 1] ++ fc.body.payloadSyms)
  (m, c.receptionDone n r.facet r.codes m.clips m.rms straddled lost)

/-- The channel that a peer's frame shows is kept: as that of its most recent frame, and where it is a DATA frame or an uplink as one
that a build may take (R129, R236). -/
def Chip.channelSeen (c : Chip) (n : Lane) (slot : Nat) (chan : List (List Cx)) (data : Bool) : Chip :=
  if 8192 ≤ slot then c
  else c.onTmap n fun t => { t with
    est := t.est.insert slot chan
    chan := if data then t.chan.insert slot (c.turn n, chan) else t.chan }

/-- The cone of a peer enters its record; a full-duplex peer whose average falls too low is no longer eligible (R192, R267). -/
def Chip.conePeer (c : Chip) (n : Lane) (slot : Nat) (evm fofs : Int) : Chip :=
  if 8192 ≤ slot then c
  else
    let c := c.measureCone n slot evm fofs
    if c.flag F.MAC_FDCFG_AUTOCLR ∧ (c.nbr slot).fdel ∧ (c.laneRec n slot).cavg < 16 * c.get F.MAC_FDCFG_FDCONE then
      (c.onNbr slot fun e => { e with fdel := false }).raise .mac 9
    else c

/-- A peer's arrival is measured, where it has one (R187). -/
def Chip.arrival (c : Chip) (n : Lane) (slot : Nat) (d : Option (Int × Nat)) : Chip :=
  match d with
  | some (x, src) => if slot < 8192 then c.measureTa n slot x src else c
  | none => c

/-! Blocks and bitmaps. -/

/-- Whether block `idx` of a sender is reported as passed: it passed, and the MPDU it belongs to did not fail verification nor
wait for one (R212, R213, R260). -/
def Chip.blockPassed (c : Chip) (r : Rx) (u : RxUser) (idx : Nat) : Bool :=
  let up := r.kind == .uplink
  match u.results.get? idx with
  | none => false
  | some b =>
    if !b.pass then false
    else
      let h := BlkHdr.ofWord b.word
      if formatBlock u.bt b.word up ∨ h.fill then true
      else match u.done.find? fun d => d.1 == h.mseq && d.2.1 == h.cls with
        | some d => d.2.2
        | none => ((c.partsOf u up r.turn (h.mseq, h.cls)).whole).isNone

/-- The bitmap of a sender (R213). -/
def Chip.bitmap (c : Chip) (r : Rx) (u : RxUser) : Nat :=
  (List.range u.nblk).foldl (fun a i => if c.blockPassed r u i then setBit a i else a) 0

/-- Blocks of a sender's incomplete MPDUs are held; those of one that is whole but was not verified in time are discarded
(R260, R261). -/
def Chip.holdParts (c : Chip) (r : Rx) (u : RxUser) : Chip :=
  let up := r.kind == .uplink
  (u.keys up).foldl (fun c k =>
    if u.done.any fun d => d.1 == k.1 && d.2.1 == k.2 then c
    else
      let p := c.partsOf u up r.turn k
      let c := c.forget u.slot k
      if p.whole.isSome then c else c.onQm fun q => { q with reasm := q.reasm ++ [p] }) c

/-- MPDUs accepted in a reception go ahead to delivery, each with the cone of its sender (R282). -/
def Chip.deliverAccepted (c : Chip) (r : Rx) (cone : Nat → Nat) : Chip :=
  c.toDelivery (r.accepted.map fun m => { m with cone := cone m.slot })

/-- Blocks of a reception of which staging lost data count as failed. -/
def Rx.ifLost (r : Rx) (lost : Bool) : Rx :=
  if lost then { r with users := r.users.map fun u => { u with results := [] } } else r

/-- Whether nothing of the reception is still being decoded. -/
def Chip.decoded (c : Chip) (n : Lane) : Bool := (c.lane n).rx.dec.queue.isEmpty && (c.lane n).rx.dec.busy.isEmpty && (c.lane n).rx.dec.ended.isEmpty

/-- The reception is over: no frame is in progress, and its cells are accounted for. -/
def Chip.endRx (c : Chip) (n : Lane) : Chip := (c.closeRx n).recount

/-! Acknowledgements (R134, R262). -/

/-- The epoch that the acknowledgement of a frame runs in: that of the frame. -/
def Chip.ackEpoch (c : Chip) (n : Lane) (r : Rx) (g6 : Bool) : EpochSet :=
  if g6 then c.epochIn n else ((c.epochsIn n).find? fun e => e.num % 4 == r.epl).getD (c.epochIn n)

/-- TMV of the peer's downlink bank in force for a profile. -/
def Chip.downTmv (c : Chip) (slot bp : Nat) : Nat := ((c.dlFor slot bp).map (·.tmv)).getD 0

/-- Commit the acknowledgement of a DATA or G6-DATA frame, unless it would overlap a wake window (R100, R124, R125, R188, R262). -/
def Chip.commitAck (c : Chip) (n : Lane) (r : Rx) (fc : Fc) (bmap cone : Nat) : Chip :=
  let slot := fc.stid
  let peer := decide (slot < 8192)
  let t0 := r.tend + ackGap fc.g6
  let rec' := c.laneRec n slot
  let tav := peer && rec'.tast != 0
  let tmv := if peer then c.downTmv slot fc.bp else 0
  let pend := peer && [2 * slot, 2 * slot + 1].any fun q => (c.queue q).mpdus.any fun m => m.status.isNone
  let body : FcBody :=
    if fc.g6 then .g6ack bmap pend tmv else .ack bmap tav (if tav then rec'.tac else 0) cone 0 false tmv
  let cp := if peer then c.peerCoupling slot else if fc.g6 then c.g6Coupling n else .rotation
  let ep := c.ackEpoch n r fc.g6
  let ack : Fc := { g6 := fc.g6, snid := ownSnid, bp := fc.bp, epl := if fc.g6 then 0 else r.epl, stid := 0, dtid := slot, body }
  if c.wakeClash n t0 (t0 + headTicks + rampTicks) then c
  else c.plainFrame n t0 (c.facetAt n t0) ack ep cp 0 (t0 + headTicks) 0 [] none

/-- Whether a received frame is acknowledged (R108, R262). -/
def Chip.acknowledges (c : Chip) (r : Rx) (fc : Fc) (ackreq : Bool) : Bool :=
  let e := c.nbr fc.stid
  ackreq && r.action.testBit 3 && (fc.stid == 0x3FFE || (e.st == 1 && e.epst != 3))

/-! DATA. -/

/-- A coasting lane keeps what passed of a DATA frame (R392); the bytes that FC and measurements take are not stated (log entry
75). -/
def Chip.coastKeep (c : Chip) (n : Lane) (r : Rx) (fc : Fc) (cone : Nat) : Chip :=
  let blocks := r.users.flatMap fun u => (u.results.filter fun e => e.2.pass).map fun e => (e.2.word, e.2.data)
  let extra := c.freeBelow 256
  let c := c.nextFree
  let size := blocks.foldl (fun a b => a + 4 + b.2.length) extra
  let used := c.get (F.LSYS_COASTSTAT_USED n)
  if blocks.isEmpty then c
  else if 1048576 < used + size then ((c.set (F.LSYS_COASTSTAT_OVF n) 1).pfaultSet (.lsys n) 0).raise (.lsys n) 1
  else (c.set (F.LSYS_COASTSTAT_USED n) (used + size)).onLane n fun l => { l with
    coasted := l.coasted ++ [{ fc := fc.word, tp := r.tp, turn := r.turn, cone := cone, blocks := blocks }] }

/-- A DATA or G6-DATA frame has been received whole and decoded: 100 us after its end the acknowledgement is committed. -/
def Chip.dataDone (c : Chip) (n : Lane) (r : Rx) (fc : Fc) (ackreq lost : Bool) (h : Heard RxMeas) : Chip :=
  let x := (c.advanceTo r.deadline).frameMeasured n r fc lost h
  let fofs := x.1.fofs
  let evm := x.1.evm
  let c := x.2
  let r := r.ifLost lost
  let cone := coneOf (fitEvm evm) (fitFofs fofs)
  let d := if fc.g6 then none else r.contend.map fun d => (d, 3)
  let c := c.showMeasured n fc.stid evm fofs d
  let c := if r.cand then r.users.foldl (fun c u => c.slipEnd n u) c else c
  if c.coasting n then (c.coastKeep n r fc cone).endRx n
  else
    let c := (c.arrival n fc.stid d).conePeer n fc.stid evm fofs
    let c := c.channelSeen n fc.stid x.1.chan true
    let bmap := r.users.foldl (fun a u => a ||| c.bitmap r u) 0
    let c := r.users.foldl (fun c u => c.holdParts r u) c
    let c := c.deliverAccepted r fun _ => cone
    let c := if c.acknowledges r fc ackreq then c.commitAck n r fc bmap cone else c
    c.endRx n

/-- DATA_RECEIVED (R262): the DATA frame of lane `n` is complete and all its blocks have left the decoders. -/
def execDataReceived (n : Lane) (lost : Bool) (h : Heard RxMeas) (s : State) : Host.Outcome State Fault Refusal :=
  .next (s.onChip fun c =>
    match (c.lane n).rx.rx with
    | none => c
    | some r =>
      match r.kind with
      | .frame fc =>
        match fc.body with
        | .data _ _ _ _ _ _ _ _ _ _ ackreq _ => if !fc.g6 ∧ c.decoded n then c.dataDone n r fc ackreq lost h else c
        | _ => c
      | _ => c)

/-- G6_DATA_RECEIVED (R268): the same for a G6-DATA frame. -/
def execG6DataReceived (n : Lane) (lost : Bool) (h : Heard RxMeas) (s : State) : Host.Outcome State Fault Refusal :=
  .next (s.onChip fun c =>
    match (c.lane n).rx.rx with
    | none => c
    | some r =>
      match r.kind with
      | .frame fc =>
        match fc.body with
        | .data _ _ _ _ _ _ _ _ _ _ ackreq _ => if fc.g6 ∧ c.decoded n then c.dataDone n r fc ackreq lost h else c
        | _ => c
      | _ => c)

/-! Answers to frames of the GX8. -/

/-- Take the awaited frame with a serial number off the list. -/
def Chip.takeAwait (c : Chip) (n : Lane) (serial : Nat) : Option TxFrame × Chip :=
  ((c.lane n).tx.await.find? fun f => f.serial == serial,
    c.onTx n fun t => { t with await := t.await.filter fun f => f.serial != serial })

/-- A peer that says in its ACK that it runs the current epoch of its group, which has not yet switched, and holds the announced next
one is READY (R106). -/
def Chip.epochAnswer (c : Chip) (n : Lane) (slot epoch : Nat) (epnx : Bool) : Chip :=
  if c.switchWaits n ∧ epnx ∧ epoch = (c.epochIn n).num then
    c.onNbr slot fun e => { e with epst := if e.epst = 0 then 1 else e.epst }
  else c

/-- Arrival of an answer against the time R134 gives it. -/
def answerDelta (r : Rx) (f : TxFrame) : Int := taUnits ((r.tp : Int) - (f.tend + ackGap false : Nat))

/-- ACK_RECEIVED (R174): the ACK that the reception holds answers a frame of the GX8. -/
def execAckReceived (n : Lane) (lost : Bool) (h : Heard RxMeas) (s : State) : Host.Outcome State Fault Refusal :=
  .next (s.onChip fun c =>
    match (c.lane n).rx.rx with
    | none => c
    | some r =>
      match r.kind with
      | .frame fc =>
        match fc.body with
        | .ack bmap _ _ _ epoch epnx _ =>
          let x := (c.advanceTo r.tend).frameMeasured n r fc lost h
          let m := x.1
          let c := x.2.channelSeen n fc.stid m.chan false
          match r.answers.map (c.takeAwait n) with
          | some (some f, c') =>
            let d := some (answerDelta r f, 1)
            ((((((c'.settleExchange f bmap).epochAnswer n fc.stid epoch epnx).arrival n fc.stid d).conePeer n fc.stid m.evm
              m.fofs).showMeasured n fc.stid m.evm m.fofs d).endRx n)
          | _ => ((c.conePeer n fc.stid m.evm m.fofs).showMeasured n fc.stid m.evm m.fofs none).endRx n
        | _ => c
      | _ => c)

/-- G6_ACK_RECEIVED (R268): the G6-ACK that the reception holds answers a frame of the GX8; its PEND is kept. -/
def execG6AckReceived (n : Lane) (lost : Bool) (h : Heard RxMeas) (s : State) : Host.Outcome State Fault Refusal :=
  .next (s.onChip fun c =>
    match (c.lane n).rx.rx with
    | none => c
    | some r =>
      match r.kind with
      | .frame fc =>
        match fc.body with
        | .g6ack bmap pend _ =>
          let x := (c.advanceTo r.tend).frameMeasured n r fc lost h
          let m := x.1
          let c := x.2.channelSeen n fc.stid m.chan false
          let c := match r.answers.map (c.takeAwait n) with
            | some (some f, c') => (c'.settleExchange f bmap).onNbr fc.stid fun e => { e with g6pend := pend }
            | _ => c
          ((c.conePeer n fc.stid m.evm m.fofs).showMeasured n fc.stid m.evm m.fofs none).endRx n
        | _ => c
      | _ => c)

/-- The oldest awaited frame that asks for an acknowledgement, or for the reply to a SOUND. -/
def Chip.overdue (c : Chip) (n : Lane) (sound : Bool) : Option TxFrame :=
  let busy : Option Nat := (c.lane n).rx.rx.bind (·.answers)
  match (c.lane n).tx.await.find? fun f => (match f.fc.body with
    | .sound .. => sound
    | _ => !sound) with
  | some f => if busy = some f.serial then none else some f
  | none => none

/-- ACKMISS (R174): the window of an expected acknowledgement has passed; every block of the frame counts as failed. -/
def execAckmiss (n : Lane) (s : State) : Host.Outcome State Fault Refusal :=
  .next (s.onChip fun c =>
    match c.overdue n false with
    | none => c
    | some f =>
      let c := (c.advanceTo f.exEnd).count (F.RXP_ERR3_ACKMISS n) 1
      (c.takeAwait n f.serial).2.settleExchange f 0)

/-- The build of a peer, if there is one, has its channel source (R236). -/
def Chip.buildSource (c : Chip) (n : Lane) (slot source : Nat) (chan : List (List Cx)) : Chip :=
  c.onTmap n fun t => { t with builds := t.builds.map fun b => if b.slot = slot then { b with source, chan } else b }

/-- SOUND_RECEIVED (R79): a SOUND frame or reply has been received; a reply gives a channel to a build and a timing. -/
def execSoundReceived (n : Lane) (lost : Bool) (h : Heard RxMeas) (s : State) : Host.Outcome State Fault Refusal :=
  .next (s.onChip fun c =>
    match (c.lane n).rx.rx with
    | none => c
    | some r =>
      match r.kind with
      | .frame fc =>
        match fc.body with
        | .sound .. =>
          let x := (c.advanceTo r.tend).frameMeasured n r fc lost h
          let c := x.2.channelSeen n fc.stid x.1.chan false
          match r.answers.map (c.takeAwait n) with
          | some (some f, c') =>
            let d := answerDelta r f
            let c := c'.arrival n fc.stid (some (d, 1))
            let c := ((c.set (F.RXP_LASTID_STID n) fc.stid).setInt (F.RXP_LASTTIM_DELTA n) d).set (F.RXP_LASTTIM_DSRC n) 1
            (c.buildSource n fc.stid 1 x.1.chan).endRx n
          | _ => c.endRx n
        | _ => c
      | _ => c)

/-- NOREPLY (R236): a SOUND drew no reply; after three the build takes its channel from recent DATA or uplinks, or fails. -/
def execNoreply (n : Lane) (s : State) : Host.Outcome State Fault Refusal :=
  .next (s.onChip fun c =>
    match c.overdue n true with
    | none => c
    | some f =>
      let c := (c.advanceTo f.exEnd).count (F.TMAP_COUNTS2_NOREPLY n) 1
      let c := ((c.takeAwait n f.serial).2).pfaultSet (.tmap n) 1
      let c := c.onTmap n fun t => { t with
        builds := t.builds.map fun b => if b.slot = f.slot then { b with tries := b.tries + 1 } else b }
      match (c.lane n).tmap.builds.find? fun b => b.slot == f.slot with
      | none => c
      | some b =>
        if b.tries < 3 ∨ b.source ≠ 0 then c
        else match c.recentChannel n f.slot with
          | some t => c.buildSource n f.slot 2 t.2
          | none => c.buildFails n f.slot .timeout)

/-! Multi-user uplinks. -/

/-- The arrival, in TA units, of what reached the input pins `late` ticks after its place on the grid (R166, R183, R186). -/
def Chip.deltaOf (c : Chip) (n : Lane) (late : Int) : Int := taUnits (late - (c.get (F.RXP_RXDLY_DELAY n) : Nat))

/-- A present user of an uplink: counters, arrival, cone, channel (R183, R186 to R192). -/
def Chip.presentUser (c : Chip) (n : Lane) (g : Granted) (slot : Nat) (x : UpMeas) : Chip :=
  let c := c.count (F.RXP_MU1_MUUSERS n) 1
  let delta := c.deltaOf n x.late
  let c := if giTicks g.gi < 16 * delta.natAbs then c.count (F.RXP_MU2_MUMISAL n) 1 else c
  let c := (c.measureTa n slot delta 2).onRec n slot fun r => { r with miss := 0 }
  let c := (c.conePeer n slot x.evm x.fofs).showMeasured n slot x.evm x.fofs (some (delta, 2))
  c.channelSeen n slot x.chan true

/-- An absent user: MISS counts, and at TAMISS the peer is LOST (R183, R188). -/
def Chip.absentUser (c : Chip) (n : Lane) (slot : Nat) : Chip :=
  let c := c.count (F.RXP_MU1_MUABS n) 1
  let r := c.laneRec n slot
  let k := min 15 (r.miss + 1)
  let c := c.onRec n slot fun r => { r with miss := k }
  if c.get (F.RXP_TACFG_TAMISS n) ≤ k ∧ r.tast ≠ 2 then
    ((c.onRec n slot fun r => { r with tast := 2 }).set (F.RXP_LOWSLOT_TA n) slot).raise (.rxp n) 0
  else c

/-- Commit the GROUP-ACK of an uplink, unless it would overlap a wake window (R100, R134, R264). -/
def Chip.commitGroupAck (c : Chip) (n : Lane) (g : Granted) (recs : List Nat) : Chip :=
  let t0 := g.t0 + uplinkTicks g.gi g.nsym + ackGap false
  let body : FcBody := .groupAck g.users.length g.facet (g.turn % 256)
  let ep := ((c.epochsIn n).find? fun e => e.num % 4 == g.epl).getD (c.epochIn n)
  let fc : Fc := { g6 := false, snid := ownSnid, bp := g.bp, epl := g.epl, stid := 0, dtid := 0x3FFF, body }
  if c.wakeClash n t0 (t0 + body.ticks + rampTicks) then c
  else c.plainFrame n t0 (c.facetAt n t0) fc ep .rotation 0 (t0 + body.ticks) 0 recs none

/-- The users of an uplink in GRANT order, with their measurements; the answer holds the GROUP-ACK records. -/
def Chip.uplinkUsers (c : Chip) (n : Lane) (g : Granted) (r : Option Rx) (ms : List UpMeas) : List Nat × Chip :=
  g.users.zipIdx.foldl (fun (a : List Nat × Chip) e =>
    let slot := e.1.slot
    let c := a.2
    let here : Option (Rx × RxUser × UpMeas) := match r, ms[e.2]? with
      | some r, some x => match r.users[e.2]? with
        | some u => if x.present && !g.ovl.contains e.2 then some (r, u, x) else none
        | none => none
      | _, _ => none
    match here with
    | some (r, u, x) =>
      let c := c.presentUser n g slot x
      let bmap := c.bitmap r u
      let c := (c.slipEnd n u).holdParts r u
      (a.1 ++ [AckRec.word { uidx := e.2, val := true, bmap, ta := (c.laneRec n slot).tac }], c)
    | none =>
      let c := c.absentUser n slot
      (a.1 ++ [AckRec.word { uidx := e.2, val := false, bmap := 0, ta := (c.laneRec n slot).tac }], c)) ([], c)

/-- The cone of a granted user, by slot. -/
def upCone (g : Granted) (ms : List UpMeas) (slot : Nat) : Nat :=
  match g.users.findIdx? fun u => u.slot == slot with
  | some i => match ms[i]? with
    | some x => coneOf (fitEvm x.evm) (fitFofs x.fofs)
    | none => 0
  | none => 0

/-- The end of a granted uplink (R183): what its users sent is taken in, its reception ends, its grant is taken and the GROUP-ACK is
committed. -/
def Chip.uplinkEnd (c : Chip) (n : Lane) (g : Granted) (mine : Option Rx) (lost : Bool) (h : Heard UpGot) : Chip :=
  let c := (c.advanceTo (g.t0 + uplinkTicks g.gi g.nsym + 10240)).settled n
  let m := c.hearUp n g mine h
  let ms := m.users
  let straddled := c.partialSymbols n (g.t0 - headTicks) 6 g.gi ((List.range (g.nsym + 2)).map TxSym.payload)
  let r := mine.map (·.ifLost lost)
  let any := r.isSome && ((ms.take g.users.length).zipIdx.any fun e => e.1.present && !g.ovl.contains e.2)
  let c := match any, r with
    | true, some r => c.receptionDone n g.facet r.codes m.clips m.rms straddled lost
    | _, _ => c
  let x := c.uplinkUsers n g r ms
  let c := match r with
    | some r => (x.2.deliverAccepted r (upCone g ms)).endRx n
    | none => x.2
  let c := c.onTx n fun t => { t with grants := t.grants.erase g }
  if c.coasting n then c else c.commitGroupAck n g x.1

/-- MULTI_USER_UPLINK (R183): the oldest granted uplink is over and decoded; the GROUP-ACK follows, even when every user was
absent.  Where the lane did not receive it, every user was. -/
def execMultiUserUplink (n : Lane) (lost : Bool) (h : Heard UpGot) (s : State) : Host.Outcome State Fault Refusal :=
  .next (s.onChip fun c =>
    match (c.lane n).tx.grants.find? fun g => !g.fd with
    | none => c
    | some g =>
      let begun := turnBefore g.turn (c.turn n) || (g.turn == c.turn n && decide (g.facet ≤ c.facet n))
      let mine : Option Rx := match (c.lane n).rx.rx with
        | some r => if r.kind == .uplink ∧ r.facet = g.facet ∧ r.turn = g.turn then some r else none
        | none => none
      if !begun ∨ (mine.isSome ∧ !c.decoded n) then c
      else c.uplinkEnd n g mine lost h)

/-- REASMTO (R261): the oldest incomplete MPDU of lane `n` has been held for REASM turns since its first block. -/
def execReasmto (n : Lane) (s : State) : Host.Outcome State Fault Refusal :=
  .next (s.onChip fun c =>
    let due (r : Reasm) : Bool :=
      (r.slot == 0x3FFE || (c.nbr r.slot).group == n.num) &&
        decide (c.get F.MAC_RSCFG_REASM ≤ (c.turn n + 2 ^ 32 - r.firstTurn) % 2 ^ 32 ∧ !turnBefore (c.turn n) r.firstTurn)
    match c.qm.reasm.find? due with
    | none => c
    | some r =>
      (((c.onQm fun q => { q with reasm := q.reasm.erase r }).count F.MAC_LOSSES_REASMTO 1).raise .mac 8).recount)

end Sys2Proof.Machine
end

