-- ==== Sys2Proof/Machine/Twi.lean ====
section
/-!
DEFINITION. The two-wire controllers (R423, R424, R433).
-/
namespace Sys2Proof.Machine

/-- Controller `u`. -/
def Chip.twi (c : Chip) : Dual → Twi
  | .u0 => c.twi0
  | .u1 => c.twi1

/-- Controller `u` as changed by `f`. -/
def Chip.onTwi (c : Chip) (u : Dual) (f : Twi → Twi) : Chip :=
  match u with
  | .u0 => { c with twi0 := f c.twi0 }
  | .u1 => { c with twi1 := f c.twi1 }

/-- Give a transfer its result: TRES, DONE (R423). -/
def Chip.twiResult (c : Chip) (u : Dual) (st : Status) : Chip :=
  (c.set (F.TWI_TRES_STATUS u) st.code).raise (.twi u) 0

/-- TCMD.START (R423): discarded while a transfer runs or the page is stopped (R447); the first applicable of RETIRED,
LENGTH and FORMAT ends it at once; otherwise the transfer runs, after a bus recovery if SDA is found low. -/
def Chip.twiStart (c : Chip) (u : Dual) (sdaLow : Bool) : Chip :=
  let bus := c.get (F.TWI_TSTAT_BUS u)
  if bus = 1 ∨ (c.twi u).startWaits ∨ !c.flag (pctlEnable (.twi u)) then c
  else if bus = 3 then c.twiResult u .retired
  else if 32 < c.get (F.TWI_TLEN_WLEN u) ∨ 32 < c.get (F.TWI_TLEN_RLEN u) then c.twiResult u .length
  else if (c.twi u).wfifo.length < c.get (F.TWI_TLEN_WLEN u) then c.twiResult u .format
  else
    let c := c.set (F.TWI_TRES_STATUS u) Status.busy.code
    if sdaLow then (c.onTwi u fun x => { x with startWaits := true, sdaStuck := true }).set (F.TWI_TSTAT_BUS u) 2
    else (c.onTwi u fun x => { x with midByte := true }).set (F.TWI_TSTAT_BUS u) 1

/-- TWI_START: TCMD.START written by `i`; `sdaLow` says that SDA is found low with SCL high for 10 us. -/
def execTwiStart (i : Init) (u : Dual) (sdaLow : Bool) (s : State) : Host.Outcome State Fault Refusal :=
  .next (s.onChip fun c => c.gate i (.twi u) 0x050 (·.twiStart u sdaLow))

/-- TWI_DONE: the transfer ends.  The target acknowledged its address or not, acknowledged `acked` data bytes, sent
`data`, or stretched the clock beyond STRTO (R423, Table 16-6). -/
def execTwiDone (u : Dual) (addrAck : Bool) (acked : Nat) (stretched : Bool) (data : List Byte) (s : State) :
    Host.Outcome State Fault Refusal :=
  .next (s.onChip fun c =>
    if c.get (F.TWI_TSTAT_BUS u) ≠ 1 then c
    else
      let wl := c.get (F.TWI_TLEN_WLEN u)
      let rl := c.get (F.TWI_TLEN_RLEN u)
      let k := if addrAck then min acked wl else 0
      let st : Status := if !addrAck then .noRoute else if k < wl ∧ !stretched then .refused
        else if stretched then .timeout else .ok
      let c := c.emit (.twi u.idx (c.get (F.TWI_TADDR_ADDR u)) ((c.twi u).wfifo.take wl) rl)
      let c := c.onTwi u fun x =>
        { x with wfifo := x.wfifo.drop wl, midByte := false,
                 rfifo := if st = .ok then (x.rfifo ++ data.take rl).take 32 else x.rfifo }
      let c := (c.set (F.TWI_TRES_ACKED u) k).set (F.TWI_TSTAT_BUS u) 0
      let c := if st = .noRoute ∨ st = .refused then c.count (F.TWI_TCNT_NAKS u) 1 else c
      c.twiResult u st)

/-- A bus recovery runs (R424): SDA is freed, or the failure is reported and counted, and RETRY failures retire the bus.
A START that waited for the recovery then runs, or ends with RETIRED. -/
def Chip.twiRecover (c : Chip) (u : Dual) (freed : Bool) : Chip :=
  if !c.flag (pctlEnable (.twi u)) then c
  else
    let c := c.count (F.TWI_TCNT_RECOV u) 1
    if freed then
      let go := (c.twi u).startWaits
      let c := (c.onTwi u fun x => { x with sdaStuck := false, startWaits := false, midByte := go }).set
        (F.TWI_TSTAT_TRIES u) 0
      c.set (F.TWI_TSTAT_BUS u) (if go then 1 else 0)
    else
      let c := ((c.pfaultSet (.twi u) 0).raise (.twi u) 1).count (F.TWI_TSTAT_TRIES u) 1
      let c := c.onTwi u fun x => { x with sdaStuck := true, failedAt := c.tick }
      if c.get (F.TWI_TCFG_RETRY u) ≤ c.get (F.TWI_TSTAT_TRIES u) then
        let waits := (c.twi u).startWaits
        let c := ((c.set (F.TWI_TSTAT_BUS u) 3).pfaultSet (.twi u) 1).onTwi u fun x => { x with startWaits := false }
        if waits then c.twiResult u .retired else c
      else c.set (F.TWI_TSTAT_BUS u) 2

/-- BUS_RECOVERY: the recovery that is due ends, the first since the last success; `freed` says that SDA was released within 9 pulses
(R424). -/
def execBusRecovery (u : Dual) (freed : Bool) (s : State) : Host.Outcome State Fault Refusal :=
  .next (s.onChip fun c => if c.get (F.TWI_TSTAT_BUS u) = 2 ∧ c.get (F.TWI_TSTAT_TRIES u) = 0 then c.twiRecover u freed else c)

/-- RECOVERY_RETRY: one second after a failed recovery it is run again (R424). -/
def execRecoveryRetry (u : Dual) (freed : Bool) (s : State) : Host.Outcome State Fault Refusal :=
  .next (s.onChip fun c =>
    if c.get (F.TWI_TSTAT_BUS u) = 2 ∧ (c.twi u).sdaStuck ∧ c.get (F.TWI_TSTAT_TRIES u) ≠ 0 then
      (c.advanceTo ((c.twi u).failedAt + tickHz)).twiRecover u freed
    else c)

/-- A read of TDATA: pops a received byte; what an empty FIFO reads is not stated and is free (log entry 46). -/
def Chip.popTdata (c : Chip) (u : Dual) : Nat × Chip :=
  match (c.twi u).rfifo with
  | b :: rest => (b.toNat, c.onTwi u fun x => { x with rfifo := rest })
  | [] => (c.freeBelow 256, c.nextFree)

/-- TDATA_READ: TDATA read by `i`. -/
def execTdataRead (i : Init) (u : Dual) (s : State) : Host.Outcome State Fault Refusal :=
  .next (s.onChip fun c => c.gateRead i (.twi u) 0x04C (·.popTdata u))

/-- A write of TDATA: pushes a byte to send; a byte that finds the 32-byte FIFO full has no place (log entry 46). -/
def Chip.pushTdata (c : Chip) (u : Dual) (val : Nat) : Chip :=
  if 32 ≤ (c.twi u).wfifo.length then c
  else c.onTwi u fun x => { x with wfifo := x.wfifo ++ [BitVec.ofNat 8 val] }

/-- TDATA_WRITE: TDATA written by `i`. -/
def execTdataWrite (i : Init) (u : Dual) (val : Nat) (s : State) : Host.Outcome State Fault Refusal :=
  .next (s.onChip fun c => c.gate i (.twi u) 0x04C (·.pushTdata u val))

end Sys2Proof.Machine
end

