-- ==== Sys2Proof/Machine/Restart.lean ====
section
/-!
DEFINITION. What stops and restarts of the hub and of lanes share: operations in progress, the lanes' coast, lanes without
power, and the hub's resumption (R20, R45 to R49, R289, R292, R391, R392, R410).
-/
namespace Sys2Proof.Machine

/-- The pages of the hub. -/
def hubPages : List Page := Page.all.filter fun p => p.lane?.isNone

/-- A restart of the hub clears PEVT of the hub pages (R391) and relocks every page, those of lanes too (R11). -/
def Chip.restartPages (c : Chip) : Chip :=
  Page.all.foldl (fun c p => c.set (plock p) 0) (hubPages.foldl (fun c p => c.set (pevt p) 0) c)

/-- A two-wire transfer that the hub gives up; one given up in the middle of a byte is followed by a bus recovery (R424; DESIGN CHOICE, log
entry 213). -/
def Chip.twiAbort (c : Chip) (u : Dual) : Chip :=
  if c.get (F.TWI_TRES_STATUS u) = Status.busy.code then
    let c := c.set (F.TWI_TRES_STATUS u) Status.timeout.code
    let c := if c.get (F.TWI_TSTAT_BUS u) = 1 then c.set (F.TWI_TSTAT_BUS u) (if (c.twi u).midByte then 2 else 0) else c
    c.onTwi u fun x => { x with midByte := false, startWaits := false }
  else c

/-- Operations of the hub in progress end with TIMEOUT (R49, R391): key commands, saggar jobs, hashing, a fuse
re-verification, two-wire transfers. -/
def Chip.timeoutOps (c : Chip) : Chip :=
  let st := Status.timeout.code
  let c := if c.flag F.KEYS_KRES_BUSY then
      ((c.onKeys fun k => { k with cmd := none }).set F.KEYS_KRES_STATUS st).setFlag F.KEYS_KRES_BUSY false else c
  let c := if c.keys.job.isSome then (c.onKeys fun k => { k with job := none }).set F.SAGGAR_JOBRES_STATUS st else c
  let c := if c.keys.hash.isSome then (c.onKeys fun k => { k with hash := none }).set F.SAGGAR_HRES_STATUS st else c
  let c := if c.fuses.running.isSome then
      (c.onFuses fun x => { x with running := none }).set F.FUSE_FRES_STATUS st else c
  (c.twiAbort .u0).twiAbort .u1

/-- The hub's frame engines stop: what is committed for a lane is given up, but for its stored beacons (R391, R392). -/
def Chip.dropCommitted (c : Chip) (n : Lane) : Chip :=
  let tx := (c.lane n).tx
  let gone := (tx.onWay ++ tx.ready).filter fun f => !f.isBeacon
  let c := gone.foldl Chip.unframe c
  let c := tx.await.foldl (fun c f => c.settleExchange f 0) c
  c.onTx n fun t => { t with
    onWay := []
    ready := t.ready.filter TxFrame.isBeacon
    await := []
    grants := [] }

/-- MPDUs already accepted in the reception of a lane go ahead to delivery; the cone of a reception that the restart cuts from
the hub is not known (log entry 81). -/
def Chip.cutReception (c : Chip) (n : Lane) : Chip :=
  match (c.lane n).rx.rx with
  | none => c
  | some r =>
    let k := c.freeBelow 256
    ((c.nextFree.deliverAccepted r fun _ => k).onRxn n fun r => { r with accepted := [] }).recount

/-- A running lane starts to coast (R392). -/
def Chip.startCoast (c : Chip) (n : Lane) : Chip :=
  if c.get (F.LSYS_LSTAT_STATE n) ≠ 2 then c
  else
    let c := (c.cutReception n).dropCommitted n
    let c := ((c.set (F.LSYS_COASTSTAT_USED n) 0).set (F.LSYS_COASTSTAT_OVF n) 0).count (F.LSYS_LCNT_COASTS n) 1
    let c := c.onLane n fun l => { l with coastTurns := 0, coasted := [] }
    (c.slipReset n).setLaneState n 3

/-- Links of fitted lanes that are DOWN train, lanes are powered: all but FAILED ones and those whose rail is low (R45, R389,
R438). -/
def Chip.trainLinks (c : Chip) : Chip :=
  c.fittedLanes.foldl (fun c n =>
    if c.bitAt F.HEALTH_HSTAT_LANEFAIL n.idx ∨ c.pins.railsLow.contains n.num then c
    else
      let c := c.setBitAt F.CLK_PWRSTAT_LANEPWR n.idx true
      if c.get (F.SKEJO_LINKSTAT_STATE n) = 0 then c.setLinkState n 1 else c) c

/-- Base addresses of a lane's pages: a register of the lane has its address among them. -/
def ofLane (n : Lane) (key : Nat) : Bool := decide (n.base * 32 ≤ key) && decide (key < (n.base + 0x200000) * 32)

/-- The lane's ends of its link start afresh: what it was to send is lost, and it expects the first sequence number.  What the hub
was to send still waits, to be numbered anew (R20, R26). -/
def Link.laneLost (l : Link) : Link :=
  { toLane := { SkejoDir.fresh with waiting := l.toLane.replay.map Prod.snd ++ l.toLane.waiting }
    toHub := { SkejoDir.fresh with delivered := l.toHub.delivered }
    copyOff := 0
    spyFrom := 0 }

/-- No lane state survives (R20): the lane's registers return to their reset values, its memories are lost, what it was to send or
receive is given up, on the line and on its link.  LOADS and the level of the BLANK pin stay; decoder engines stay retired. -/
def Chip.clearLane (c : Chip) (n : Lane) : Chip :=
  let tx := (c.lane n).tx
  let c := (tx.onWay ++ tx.ready).foldl Chip.unframe c
  let c := tx.await.foldl (fun c f => c.settleExchange f 0) c
  let loads := c.get (F.LSYS_LCNT_LOADS n)
  let st := c.get (F.LSYS_LSTAT_STATE n)
  let c := { c with
    regs := c.regs.keep fun k _ => !ofLane n k
    lanes := c.lanes.modify n fun _ => .fresh
    meas := c.meas.modify n fun m => { Meas.fresh with blankPin := m.blankPin, pinAt := m.pinAt }
    links := c.links.modify n Link.laneLost }
  let c := c.onHealth fun h => { h with seqRestarts := h.seqRestarts.erase n.num, seqUntil := h.seqUntil.erase n.num }
  let dead := (List.range 7).filter fun e => c.retired 2 n.num e
  let mask (l : List Nat) : Nat := l.foldl setBit 0
  let c := if dead.isEmpty then c else ((c.set (F.DEC_ENGSTAT_RETIRED n) (mask dead)).set (F.DEC_ENGSTAT_ACTIVE n)
    (mask ((List.range 7).filter fun e => !dead.contains e))).set (F.DEC_ENGSTAT_RESERVE n) 0
  ((c.set (F.LSYS_LCNT_LOADS n) loads).set (F.LSYS_LSTAT_STATE n) st).recount

/-- The lane's library is lost: the downlink sets of its peers are invalid (R247). -/
def Chip.loseSets (c : Chip) (n : Lane) : Chip :=
  (c.peersOf n).foldl (fun c s => c.onNbr s fun e => { e with dlcur := .zero, dlnext := .zero, dlepo := .zero }) c

/-- A lane stops at once and loses its state: no power, or no clock. -/
def Chip.dropLane (c : Chip) (n : Lane) : Chip :=
  let c := ((c.wheelHalt n).lineOff n).setLinkState n 0
  ((c.loseSets n).clearLane n).set (F.LSYS_LSTAT_STATE n) 1

/-- A ROM run is due: the cores stop and the ROM starts from SELECT (R365). -/
def Chip.enterRom (c : Chip) : Chip :=
  let c := c.set F.BOOT_BSTAT_STAGE 0
  c.onBoot fun b => { b with 
    rom := .select, refused := [], queue := none, noHeader := false, fromRam := false, fellBack := false, romDue := false }

/-- A hub warm restart (R391): operations end, links retrain at the hub, the lanes coast, the ROM runs. -/
def Chip.warmRestart (c : Chip) : Chip :=
  let c := c.timeoutOps.restartPages
  let c := c.fittedLanes.foldl Chip.startCoast c
  let c := c.fittedLanes.foldl (fun c n => if c.linkUp n then c.startRetrain n else c) c
  let c := (c.enterRom.setPower .coast).count F.HEALTH_HSTAT_WARMS 1
  let c := c.onBoot fun b => { b with activating := none }
  let c := c.onHealth fun h => { h with backstop := 1, secondWarm := false, coresDown := [], warmAt := c.tick }
  (c.raise .health 5).trouble 7 0 0xFF 0 0 0

/-- The hub runs again: rings go on, and requests left unanswered are answered TIMEOUT (R289, R292). -/
def Work.hubResumes (w : Work) : Work := w.ringsResume.timeoutRequests

end Sys2Proof.Machine
end

