-- ==== Sys2Proof/Machine/CfgBlocks.lean ====
section
/-!
DEFINITION. Configuration blocks: their flash copies, the settings that blocks 0 to 3 hold, CFGSAVE, and what is restored at a lane
load (R121, R160, R349, R370, R371, R399).
-/
namespace Sys2Proof.Machine

/-- Flash address of a configuration block copy, 0 to 15 (Table 14-1). -/
def cfgCopyAt (k : Nat) : Nat := 0x00D00000 + 0x10000 * k

/-- The block CRC-32 over bytes (Table 2-4, R361, R370). -/
def bytesCrc (bs : List Byte) : Nat := crc32 (byteBits bs)

/-- A copy of a block that passes MAGIC, BNUM and CRC (R370). -/
structure CfgCopy where
  fver : Nat
  seq : Nat
  body : List Byte
deriving DecidableEq, Repr

/-- Copy `k` of block `b`, if it is valid. -/
def Mems.cfgCopy (m : Mems) (b k : Nat) : Option CfgCopy :=
  let h := m.readBytes .flash (cfgCopyAt k) 32
  let len := leAt h 12 4
  let body := m.readBytes .flash (cfgCopyAt k + 32) (min len 65504)
  if leAt h 0 4 = 0x4B424643 ∧ leAt h 5 1 = b ∧ len ≤ 65504 ∧ leAt h 16 4 = bytesCrc body then
    some { fver := leAt h 4 1, seq := leAt h 8 4, body }
  else none

/-- The valid copy of a block that is used, and its number: the one with the later SEQ, else the other (R88, R370). -/
def Mems.cfgBlock (m : Mems) (b : Nat) : Option (CfgCopy × Nat) :=
  match m.cfgCopy b b, m.cfgCopy b (b + 8) with
  | some x, some y => if turnBefore x.seq y.seq then some (y, b + 8) else some (x, b)
  | some x, none => some (x, b)
  | none, some y => some (y, b + 8)
  | none, none => none

/-- What CONFIG finds of a block for images of format version `ver`: 0 used, with its body, 1 defaulted old, 2 defaulted bad
(Table 14-8). -/
def Mems.cfgOutcome (m : Mems) (b ver : Nat) : Nat × List Byte :=
  match m.cfgBlock b with
  | none => (2, [])
  | some (x, _) => if x.fver = ver then (0, x.body) else if x.fver < ver then (1, []) else (2, [])

/-! What the blocks hold.  An item is a register field, by its key, or a word of a table. -/

/-- Item of word `w` of glaze table `t` of a lane. -/
def glazeItem (n : Lane) (t w : Nat) : Nat := 2 ^ 32 + (n.num * 16 + t) * 1024 + w
/-- Item that says whether a glaze table has an image (1), and whether that image fails its seal (2). -/
def imageItem (n : Lane) (t : Nat) : Nat := 2 ^ 33 + n.num * 16 + t
/-- Item of a Wheel pattern word. -/
def patternItem (k : Nat) : Nat := 2 ^ 34 + k

/-- Fields of a lane that block `b` holds (R160, R349, R370, R371). -/
def laneCfg (n : Lane) : Nat → List Fld
  | 0 => ([0, 1, 2, 3].map (F.AFE_UGAIN_GAIN n)) ++ [F.RXP_RXDLY_DELAY n]
  | 1 => [F.TXP_TXDLY_PORT1 n, F.TXP_TXDLY_PORT2 n, F.TXP_TXDLY_PORT3 n, F.TXP_TXCTL_PORTEN n, F.TXP_TXCTL_G6BCAST n,
      F.TXP_TXCTL_G6PORT n, F.TXP_CEIL_PSD n, F.TXP_CDD_DELAY n]
    ++ [0, 1, 2].flatMap fun p => [F.TXP_PGAIN_GAIN n p, F.TXP_PGAIN_DRVGAIN n p]
  | 2 => ((List.range 6).flatMap fun i => [F.LINEAR_UGAIN_GAIN n i, F.LINEAR_UOFS_OFS n i])
    ++ [F.LINEAR_AUXCFG_CURVE1 n, F.LINEAR_AUXCFG_EXC1 n, F.LINEAR_AUXCFG_CURVE2 n, F.LINEAR_AUXCFG_EXC2 n, F.LINEAR_CJOFS_OFS n]
  | _ => []

/-- WHEEL settings of block 3: every RW field of the page but the table pointer (log entry 79). -/
def wheelCfg : List Fld :=
  (regsWHEEL.filter fun r => r.off != 0x400).flatMap fun r => (r.slices.map Slice.fld).filter fun f => f.ty == .rw

/-- Tables 1 to 15 of a lane that are VALID and differ from their load-time state (R371). -/
def Chip.savedTables (c : Chip) (n : Lane) : List Nat :=
  ((List.range 16).filter fun t => 1 ≤ t && c.glazeValid n t && (4 ≤ t || (c.tableWords n t) != []))

/-- The words of a glaze table. -/
def Chip.tableImage (c : Chip) (n : Lane) (t : Nat) : List Nat := (List.range 825).map (c.glazeRaw n t)

/-- The distinct images that a CFGSAVE of block 1 needs. -/
def Chip.glazeImages (c : Chip) : List (List Nat) :=
  (c.fittedLanes.flatMap fun n => (c.savedTables n).map (c.tableImage n)).eraseDups

/-- The settings of a block as they stand, as items with their values. -/
def Chip.cfgItems (c : Chip) (b : Nat) : NatMap Nat :=
  let put (m : NatMap Nat) (fs : List Fld) : NatMap Nat := fs.foldl (fun m f => m.insert f.key (c.get f)) m
  match b with
  | 3 => c.wheel.table.foldl (fun m e => m.insert (patternItem e.1) e.2) (put [] wheelCfg)
  | 1 => c.fittedLanes.foldl (fun m n =>
      let m := put m (laneCfg n 1)
      let m := [0, 1, 2].foldl (fun m p => (m.insert (F.TXP_GXLATL_G0 n p).key (c.get (F.TXP_GXLATL_G0 n p))).insert
        (F.TXP_GXLATH_G8 n p).key (c.get (F.TXP_GXLATH_G8 n p))) m
      (c.savedTables n).foldl (fun m t =>
        (c.tableImage n t).zipIdx.foldl (fun m w => m.insert (glazeItem n t w.2) w.1) (m.insert (imageItem n t) 1)) m) []
  | b => c.fittedLanes.foldl (fun m n => put m (laneCfg n b)) []

/-- The value a block in use gives an item: none where the block is defaulted, or where CFGSAVE saved none.  What a body holds that
this power cycle's CFGSAVE did not write is not stated (log entry 79). -/
def Chip.cfgValue (c : Chip) (b item : Nat) : Option Nat :=
  (c.boot.cfg.get? b).bind fun body =>
    match c.boot.saved.find? fun x => x.1 == b && x.2.1 == body with
    | some x => x.2.2.get? item
    | none => some (Config.cfgItem b body item)

/-- Restore a field from a block: a reserved encoding leaves it (R15). -/
def Chip.restoreFld (c : Chip) (b : Nat) (f : Fld) : Chip :=
  match c.cfgValue b f.key with
  | some v => if c.encOk f (v % 2 ^ f.width) then c.set f v else c
  | none => c

/-- Restore glaze table `t` of a lane from its image, sealed; one whose image fails its seal is left cleared (R371). -/
def Chip.restoreTable (c : Chip) (n : Lane) (t : Nat) : Chip :=
  match c.cfgValue 1 (imageItem n t) with
  | none => c
  | some v =>
    if !v.testBit 0 then c
    else
      let c := (List.range 825).foldl (fun c w => c.putGlaze n t w ((c.cfgValue 1 (glazeItem n t w)).getD 0)) c
      if c.glazeSealOk n t ∧ !v.testBit 1 then c.setBitAt (F.TXP_GLZVALID_VALID n) t true
      else
        let c := (List.range 825).foldl (fun c w => c.putGlaze n t w 0) c
        (c.setBitAt (F.TXP_GLZVALID_VALID n) t false).pfaultSet .boot 2

/-- User settings of blocks 0 to 2 as they take effect in a lane that has been loaded (R370, R371, R399). -/
def Chip.restoreLane (c : Chip) (n : Lane) : Chip :=
  let was := [0, 1, 2].map (c.clamped n)
  let c := [0, 1, 2].foldl (fun c b => (laneCfg n b).foldl (fun c f => c.restoreFld b f) c) c
  let c := ((List.range 16).drop 1).foldl (fun c t => c.restoreTable n t) c
  let c := [0, 1, 2].foldl (fun c p =>
    let go (c : Chip) (f : Fld) : Chip := match c.cfgValue 1 f.key with
      | some v => c.set f v
      | none => c
    go (go c (F.TXP_GXLATL_G0 n p)) (F.TXP_GXLATH_G8 n p)) c
  c.recomputeEff n was

/-- The Wheel's patterns and settings once after power-up: from block 3, or else the default patterns of the TABLES section
(R363, R370; log entries 79 and 80). -/
def Chip.restoreHub (c : Chip) (tables : List Byte) : Chip :=
  if c.boot.configured then c
  else
    let c := c.onBoot fun b => { b with configured := true }
    let word (k : Nat) : Nat := match c.boot.cfg.get? 3 with
      | some _ => (c.cfgValue 3 (patternItem k)).getD 0
      | none => Config.tablesWord tables k % 2 ^ 32
    let table : NatMap Nat := (List.range 1536).filterMap fun k => if word k = 0 then none else some (k, word k)
    wheelCfg.foldl (fun c f => c.restoreFld 3 f) (c.onWheel fun w => { w with table })

/-! CFGSAVE. -/

/-- Write a configuration block into its older copy (R370): the copy that is not in use, with SEQ one higher. -/
def Work.writeCfg (w : Work) (b : Nat) (items : NatMap Nat) (ver : Nat) : Work :=
  let body := (Config.cfgBody b items).take 65504
  let old := w.mem.cfgBlock b
  let k := match old with
    | some (_, j) => if j = b then b + 8 else b
    | none => b
  let seq := match old with
    | some (x, _) => (x.seq + 1) % 2 ^ 32
    | none => 0
  let head := leBytes 4 0x4B424643 ++ leBytes 1 ver ++ leBytes 1 b ++ [0, 0] ++ leBytes 4 seq ++ leBytes 4 body.length
    ++ leBytes 4 (bytesCrc body) ++ List.replicate 12 0
  let w := (w.clear .flash (cfgCopyAt k) 0x10000).write .flash (cfgCopyAt k) (head ++ body)
  w.onChip fun c => { c with boot := { c.boot with
    cfg := c.boot.cfg.insert b body
    saved := (b, body, items) :: c.boot.saved } }

/-- A flash operation fails (R417): counted as exceeding twice its time, or as a failure reported, and XERR raised. -/
def Chip.flashError (c : Chip) (late : Bool) : Chip :=
  (((if late then c.count F.XSPI_XERRS_TIMEOUTS 1 else c.count F.XSPI_XERRS_FAILS 1)).pfaultSet .xspi 0).raise .xspi 0

/-- CFGSAVE (R370, R371): block number in bytes 16 to 19 of the body; the code for one above 7 is not stated (log entry 82).  `flash` is how erasing and programming end; after an error the
copy written holds no stated bytes. -/
def execCfgsave (tag : Nat) (flash : Sys2Proof.FlashResult) (s : State) : Host.Outcome State Fault Refusal :=
  .next (s.onWork fun w => w.serve tag 0x02 fun w q =>
    let b := leNat (w.reqBytes q 16 4)
    if 8 ≤ b then (w.onChip Chip.nextFree).reply q (if w.chip.freeBelow 2 = 0 then .format else .refused) [] []
    else if b = 1 ∧ 16 < w.chip.glazeImages.length then w.reply q .length [] []
    else
      let ver := leNat (w.readBytes .sram 0x003FFE11 1)
      match flash with
      | .done => (w.writeCfg b (w.chip.cfgItems b) ver).reply q .ok [] []
      | .busy => w.reply q .busy [] []
      | .failed | .late =>
        let k := match w.mem.cfgBlock b with
          | some (_, j) => if j = b then b + 8 else b
          | none => b
        let bytes := w.chip.freeBytes 0x10000
        let w := (w.onChip fun c => { c with free := c.free + 0x10000 }).write .flash (cfgCopyAt k) bytes
        (w.onChip fun c => c.flashError (flash == .late)).reply q .timeout [] [])

end Sys2Proof.Machine
end

