-- ==== Sys2Proof/Machine/Boot.lean ====
section
/-!
DEFINITION. The boot ROM, the boot header, images, and the update services (R361 to R369, R373 to R378).
-/
namespace Sys2Proof.Machine

/-! The boot header (R361). -/

/-- A boot header record (Table 14-2). -/
structure BootHdr where
  seq : Nat
  active : Nat
  sta : Nat
  stb : Nat
  tries : Nat
deriving DecidableEq, Repr

/-- State of a slot in a record. -/
def BootHdr.slotSt (h : BootHdr) (slot : Nat) : Nat := if slot = 0 then h.sta else h.stb

/-- The record with the state of a slot changed. -/
def BootHdr.setSt (h : BootHdr) (slot st : Nat) : BootHdr := if slot = 0 then { h with sta := st } else { h with stb := st }

/-- The record of copy `k`, if MAGIC and CRC match. -/
def Mems.bootCopy (m : Mems) (k : Nat) : Option BootHdr :=
  let bs := m.readBytes .flash (0x1000 * k) 24
  if leAt bs 0 4 = 0x52444842 ∧ leAt bs 20 4 = bytesCrc (bs.take 20) then
    some { seq := leAt bs 4 4, active := leAt bs 8 1 % 2, sta := leAt bs 9 1, stb := leAt bs 10 1, tries := leAt bs 11 1 }
  else none

/-- The record in use and its copy: the valid one with the later SEQ. -/
def Mems.bootHdr (m : Mems) : Option (BootHdr × Nat) :=
  match m.bootCopy 0, m.bootCopy 1 with
  | some a, some b => if turnBefore a.seq b.seq then some (b, 1) else some (a, 0)
  | some a, none => some (a, 0)
  | none, some b => some (b, 1)
  | none, none => none

/-- Memories as a command has changed them so far. -/
def Work.now (w : Work) : Mems := w.mem.applyAll w.writes

/-- Flash address of a slot. -/
def slotAt (slot : Nat) : Nat := if slot = 0 then 0x00100000 else 0x00700000

/-- VERSION of the image in a slot, 0 if none (log entry 83). -/
def Mems.slotVersion (m : Mems) (slot : Nat) : Nat :=
  let bs := m.readBytes .flash (slotAt slot) 12
  if leAt bs 0 4 = 0x58525349 then leAt bs 8 4 else 0

/-- Write a record into the copy not in use, SEQ one higher; SLOTST, VERA and VERB follow.  The SEQ of a first record is 0 (log
entry 84). -/
def Work.writeHdr (w : Work) (h : BootHdr) : Work :=
  let m := w.now
  let k : Nat := match m.bootHdr with
    | some (_, j) => 1 - j
    | none => 0
  let seq := match m.bootHdr with
    | some (x, _) => (x.seq + 1) % 2 ^ 32
    | none => 0
  let va := m.slotVersion 0
  let vb := m.slotVersion 1
  let bs := leBytes 4 0x52444842 ++ leBytes 4 seq ++ leBytes 1 h.active ++ leBytes 1 h.sta ++ leBytes 1 h.stb
    ++ leBytes 1 h.tries ++ leBytes 4 va ++ leBytes 4 vb
  let w := (w.clear .flash (0x1000 * k) 0x1000).write .flash (0x1000 * k) (bs ++ leBytes 4 (bytesCrc bs))
  w.onChip fun c => ((((c.set F.BOOT_SLOTST_STA h.sta).set F.BOOT_SLOTST_STB h.stb).set F.BOOT_SLOTST_TRIES h.tries).set
    F.BOOT_VERA_VERSION va).set F.BOOT_VERB_VERSION vb

/-- Change the record, if there is a valid one. -/
def Work.editHdr (w : Work) (f : BootHdr → BootHdr) : Work :=
  match w.now.bootHdr with
  | some (h, _) => w.writeHdr (f h)
  | none => w

/-- BOOT.BCAUSE of a slot. -/
def Chip.setCause (c : Chip) (slot code : Nat) : Chip :=
  c.set (if slot = 0 then F.BOOT_BCAUSE_CODEA else F.BOOT_BCAUSE_CODEB) code

/-- A return to the previous slot is counted and raised (R375). -/
def Chip.fallBack (c : Chip) : Chip := ((c.count F.BOOT_BOOTCNT_FALLBACKS 1).pfaultSet .boot 3).raise .boot 4

/-! Container checks (R362 to R366). -/

/-- A section of a header: TYPE, LENGTH and LOAD. -/
def sectionsOf (h : List Byte) : List (Nat × Nat × Nat) :=
  (List.range (min 8 (leAt h 16 1))).map fun k => (leAt h (64 + 16 * k) 1, leAt h (68 + 16 * k) 4, leAt h (72 + 16 * k) 4)

/-- Whether reserved header fields are not 0 (Table 14-3). -/
def headerReserved (h : List Byte) : Bool :=
  8 ≤ leAt h 5 1 || 2 ≤ leAt h 6 1 || 64 ≤ leAt h 7 1 || leNat ((h.drop 18).take 14) != 0
    || leNat ((h.drop 192).take 320) != 0
    || (List.range (min 8 (leAt h 16 1))).any fun k => leAt h (65 + 16 * k) 3 != 0 || leAt h (76 + 16 * k) 4 != 0

/-- Largest section of a type. -/
def sectionMax : Nat → Nat
  | 1 => 0x380000 | 2 => 0xC0000 | _ => 0x40000

/-- The layout rules of R362 and R363. -/
def layoutOk (h : List Byte) : Bool :=
  let ss := sectionsOf h
  let total := 512 + ss.foldl (fun a s => a + s.2.1) 0 + 256
  decide (3 ≤ leAt h 16 1) && decide (leAt h 16 1 ≤ 8) && leAt h 12 4 == total && decide (total ≤ 0x600000)
    && ([1, 2, 3].all fun t => (ss.filter fun s => s.1 == t).length == 1)
    && ss.all (fun s => 1 ≤ s.1 && s.1 ≤ 3 && s.2.1 ≤ sectionMax s.1 && s.2.1 % 16 == 0 && s.2.2 % 4096 == 0
      && s.2.2 + s.2.1 ≤ 0x003FFE00)
    && (ss.zipIdx.all fun a => ss.zipIdx.all fun b =>
      a.2 == b.2 || decide (a.1.2.2 + a.1.2.1 ≤ b.1.2.2) || decide (b.1.2.2 + b.1.2.1 ≤ a.1.2.2))

/-- The identity record of the hub die, reserved bits 0 (R362, R398). -/
def Chip.identRecord (c : Chip) : List Byte :=
  leBytes 4 (c.identWord 0 0 &&& 0x3FFFFFFF) ++ leBytes 4 (c.identWord 0 1 &&& 0xFF1F0FFF)
    ++ leBytes 4 (c.identWord 0 2 &&& 0xFFFF)

/-- HWTYPE bit of the part, as SYS.PCAP.LANES reports it. -/
def Chip.hwBit (c : Chip) : Nat := if c.pcapLanes = 7 then 2 else if c.pcapLanes = 3 then 1 else 0

/-- The code of the first header check that fails (R366). -/
def Chip.headerCode (c : Chip) (h : List Byte) : Option Nat :=
  if leAt h 0 4 ≠ 0x58525349 then some 1
  else if leAt h 4 1 ≠ 1 ∨ headerReserved h then some 2
  else if !(leAt h 5 1).testBit c.hwBit then some 3
  else if (leAt h 6 1).testBit 0 ∧ ((c.fuseGroup 0 0 4).isNone ∨ (h.drop 32).take 32 ≠ sha256 c.identRecord) then some 4
  else if leAt h 7 1 < c.floorInForce then some 5
  else if !layoutOk h then some 6
  else none

/-- The code of the first signature check that fails: 7 Ferzalan, 8 OEM (R364, R366). -/
def Chip.signCode (c : Chip) (digest trailer : List Byte) : Option Nat :=
  let passes (block : List Byte) (ws : List Nat) : Bool :=
    verifyBlock digest block true == .ok && digestIs (sha256 (block.drop 64)) ws
  let fz := match c.ferzalanHash with
    | some ws => passes (trailer.take 128) ws
    | none => false
  let oem := match c.oemHash with
    | some (ws, present) => !present || passes (trailer.drop 128) ws
    | none => false
  if !fz then some 7 else if !oem then some 8 else none

/-- Digest over the header and the sections as they lie in SRAM (R364, R365). -/
def Mems.digest (m : Mems) : List Byte :=
  let h := m.readBytes .sram 0x003FFE00 512
  sha256 (h ++ (sectionsOf h).flatMap fun s => m.readBytes .sram s.2.2 s.2.1)

/-- Copy a container from `base` of a memory into SRAM: the header to 0x003F_FE00, each section to its LOAD (R365). -/
def Work.copyImage (w : Work) (sp : Space) (base : Nat) : Work :=
  let h := w.readBytes sp base 512
  let w := w.write .sram 0x003FFE00 h
  ((sectionsOf h).foldl (fun (a : Work × Nat) s =>
    (a.1.write .sram s.2.2 (w.readBytes sp a.2 s.2.1), a.2 + s.2.1)) (w, base + 512)).1

/-! The ROM (R365, R368). -/

/-- What a ROM run does first: the slots it will try, in order, with what R368 writes into the header. -/
def Work.romOrder (w : Work) : Work :=
  let w := w.onChip fun c => c.count F.BOOT_BOOTCNT_BOOTS 1
  let set (w : Work) (q : List Nat) : Work := w.onChip fun c => c.onBoot fun b => { b with queue := some q }
  match w.now.bootHdr with
  | none => set (w.onChip fun c => (c.pfaultSet .boot 0).onBoot fun b => { b with noHeader := true }) [0, 1]
  | some (h, _) =>
    let act := h.active
    let other := 1 - act
    let w := w.onChip fun c => ((c.set F.BOOT_SLOTST_STA h.sta).set F.BOOT_SLOTST_STB h.stb).set F.BOOT_SLOTST_TRIES h.tries
    if h.slotSt act = 2 then
      if w.chip.boot.greenExpired ∨ 3 ≤ h.tries then
        let w := w.writeHdr { (h.setSt act 4) with active := other, tries := 0 }
        set (w.onChip Chip.fallBack) [other]
      else set (w.writeHdr { h with tries := h.tries + 1 }) (act :: if h.slotSt other = 3 then [other] else [])
    else set w (act :: if h.slotSt other = 3 then [other] else [])

/-- A slot is refused: its code is recorded and it becomes FAILED in the boot header. -/
def Work.refuseSlot (w : Work) (slot code : Nat) : Work :=
  let w := w.onChip fun c => (c.setCause slot code).onBoot fun b => { b with refused := slot :: b.refused }
  w.editHdr fun h => h.setSt slot 4

/-- No slot remains: RECOVERY, and FAULT_N is asserted (R365, R393; Table 15-4). -/
def Chip.noSlot (c : Chip) : Chip :=
  let c := (c.set F.BOOT_BSTAT_STAGE 1).pfaultSet .boot 4
  let c := (c.onBoot fun b => { b with rom := .recovery }).onHealth fun h =>
    { h with backstop := if h.backstop = 1 then 2 else h.backstop }
  c.onPins fun p => { p with noBoot := true }

/-- Every slot to be tried has been refused.  An activation goes back to the slot that was active, if that is not FAILED (R375). -/
def Work.exhausted (w : Work) : Work :=
  let back : Option Nat := w.chip.boot.activating.filter fun old =>
    !w.chip.boot.fellBack && (w.now.bootHdr.any fun h => h.1.slotSt old != 4)
  match back with
  | none => w.onChip Chip.noSlot
  | some old =>
    (w.editHdr fun h => { h with active := old, tries := 0 }).onChip fun c =>
      c.fallBack.onBoot fun x => { x with rom := .select, queue := some [old], fellBack := true }

/-- SELECT and HEADER for the slots of the list, until one passes the header checks. -/
def Work.trySlots (w : Work) : List Nat → Work
  | [] => w.exhausted
  | s :: rest =>
    match w.chip.headerCode (w.readBytes .flash (slotAt s) 512) with
    | some code => (w.refuseSlot s code).trySlots rest
    | none => w.onChip fun c => c.onBoot fun b => { b with rom := .copy, slot := s, queue := some rest }

/-- The ROM resets the flash and reads its SFDP: size in MiB, whether octal DTR is advertised, the advertised clock (R417). -/
def Chip.findFlash (c : Chip) (size clk : Nat) (octal : Bool) : Chip :=
  let oct := octal && !c.flag F.XSPI_XCFG_NOOCT
  (((c.set F.XSPI_XSTAT_OWNER 1).set F.XSPI_XINFO_SIZE size).setFlag F.XSPI_XSTAT_OCTAL oct).set F.XSPI_XSTAT_CLK
    (if oct then min clk (c.get F.XSPI_XCFG_MAXCLK) else 25)

/-- Whether the service pause of an activation has begun in every group that runs (R374). -/
def Chip.pauseReached (c : Chip) : Bool := Lane.all.all fun n => !c.running n || (c.group n).paused

/-- An activation reaches its pause: the cores stop, and the ROM runs HEADER on the new slot (R374). -/
def Chip.activationRom (c : Chip) (slot : Nat) : Chip :=
  let c := c.timeoutOps
  let c := c.count F.BOOT_BOOTCNT_BOOTS 1
  c.enterRom.onBoot fun b => { b with queue := some [slot] }

/-- ROM_BOOT (R365, R368): the ROM selects a slot, checks its header and starts the copy.  The flash shows `size`, `clk` and
`octal`. -/
def execRomBoot (size clk : Nat) (octal : Bool) (s : State) : Host.Outcome State Fault Refusal :=
  .next (s.onWork fun w =>
    let c := w.chip
    if c.stopped ∨ c.power = .reset ∨ c.power = .standby then w
    else
      let w := match w.mem.bootHdr with
        | some (h, _) => if c.boot.romDue ∧ c.hubRuns ∧ c.pauseReached then w.onChip fun c => c.activationRom h.active else w
        | none => w
      if w.chip.boot.rom ≠ .select then w
      else
        let w := w.onChip fun c =>
          let c := (((c.setFlag F.CLK_CLKSTAT_REFOK true).setFlag F.CLK_CLKSTAT_HUBPLL true).setFlag F.CLK_CLKSTAT_LINKPLL true)
          ((c.setFlag F.CLK_CLKSTAT_AONRC false).trainLinks).findFlash size clk octal
        let w := if w.chip.boot.queue.isNone then w.romOrder else w
        w.trySlots (w.chip.boot.queue.getD []))

/-- COPY_DONE (R365): header and sections are in SRAM, the trailer in ROM scratch. -/
def execCopyDone (s : State) : Host.Outcome State Fault Refusal :=
  .next (s.onWork fun w =>
    if w.chip.boot.rom ≠ .copy ∨ w.chip.stopped then w
    else
      let base := slotAt w.chip.boot.slot
      let len := leAt (w.readBytes .flash base 512) 12 4
      let w := w.copyImage .flash base
      let tr := w.readBytes .flash (base + len - 256) 256
      w.onChip fun c => c.onBoot fun b => { b with rom := .check, trailer := tr })

/-! CONFIG and RUN. -/

/-- CONFIG: each block is used or replaced by defaults; PFAULT, CFGSTAT and CFGDEF tell (R370). -/
def Work.config (w : Work) : Work :=
  let m := w.now
  let ver := leNat (m.readBytes .sram 0x003FFE11 1)
  let r := (List.range 8).map fun b => m.cfgOutcome b ver
  w.onChip fun c =>
    let c := c.set F.BOOT_CFGSTAT_BLOCKS (r.zipIdx.foldl (fun a x => a + x.1.1 * 4 ^ x.2) 0)
    let c := if r.any fun x => x.1 == 1 then c.pfaultSet .boot 1 else c
    let c := if r.any fun x => x.1 == 2 then c.pfaultSet .boot 2 else c
    let c := if r.any fun x => x.1 != 0 then c.raise .boot 5 else c
    c.onBoot fun b => { b with cfg := r.zipIdx.filterMap fun x => if x.1.1 = 0 then some (x.2, x.1.2) else none }

/-- RUN: the cores start on the SRAM copy.  `st` is the state of the image's slot (0 for one from the packet buffer), `ms` the
duration of the ROM run in 0.1 ms.  The greenware window of a GREENWARE image starts (R376). -/
def Work.runImage (w : Work) (st ms : Nat) : Work :=
  let h := w.readBytes .sram 0x003FFE00 512
  let tables := match (sectionsOf h).find? fun s => s.1 == 3 with
    | some s => w.readBytes .sram s.2.2 s.2.1
    | none => []
  let w := w.onChip fun c =>
    let c := ((c.set F.BOOT_BSTAT_STAGE 2).setFlag F.BOOT_BSTAT_GREEN (st == 2)).setFlag F.BOOT_BSTAT_FIRED (st == 3)
    let c := ((c.setFlag F.BOOT_BSTAT_RAMIMG c.boot.fromRam).set F.BOOT_BTIME_MS ms).setFlag F.BOOT_GCFG_HOSTOK false
    let c := (c.set F.XSPI_XSTAT_OWNER 0).raise .boot 0
    let c := c.onBoot fun b => { b with
      rom := .run
      trailer := []
      greenExpired := false
      fallbackBegun := false
      greenEnd := if st = 2 then c.tick + tickHz * c.get F.BOOT_GWIN_SEC else b.greenEnd }
    let c := if st = 2 then c.raise .boot 2 else c
    let c := if c.pins.refFault then (c.onPins fun p => { p with refFault := false }).raise .clk 0 else c
    let c := (c.onPins fun p => { p with noBoot := false }).restoreHub tables
    c.onHealth fun h => { h with lastBeat := c.tick }
  if w.chip.hubRuns then w.hubResumes else w

/-- A slot has passed every check: the boot header names it, and its image runs. -/
def Work.slotPasses (w : Work) (ms : Nat) : Work :=
  let b := w.chip.boot
  let slot := b.slot
  let w := match w.now.bootHdr with
    | none => w.writeHdr { seq := 0, active := slot, sta := if slot = 0 then 3 else if b.refused.contains 0 then 4 else 0,
                           stb := if slot = 1 then 3 else if b.refused.contains 1 then 4 else 0, tries := 0 }
    | some (h, _) =>
      let h' := if b.noHeader then { h.setSt slot 3 with active := slot } else { h with active := slot }
      if h' = h then w else (w.writeHdr h').iff (!b.noHeader) fun w => w.onChip Chip.fallBack
  let st := match w.now.bootHdr with
    | some (h, _) => h.slotSt slot
    | none => 3
  let w := w.config.onChip fun c => (c.set F.BOOT_BSTAT_ACTSLOT slot).onBoot fun b => { b with slot := slot }
  w.runImage st ms

/-- The lanes resume with the microcode they hold: an activation that fell back is complete (R375). -/
def Chip.activationOver (c : Chip) : Chip :=
  ((c.onBoot fun b => { b with activating := none, fellBack := false }).onWheel fun x => { x with activated := true }).raise .boot 1

/-- CHECK_DONE (R365, R366, R374, R375): the checks end; `readError` is a flash read error in COPY. -/
def execCheckDone (readError : Bool) (ms : Nat) (s : State) : Host.Outcome State Fault Refusal :=
  .next (s.onWork fun w =>
    let b := w.chip.boot
    if b.rom ≠ .check ∨ w.chip.stopped then w
    else
      let code := if readError then some 9 else w.chip.signCode w.now.digest b.trailer
      match code with
      | none =>
        let w := w.slotPasses ms
        if b.activating.isSome ∧ b.fellBack then w.onChip Chip.activationOver else w
      | some k =>
        let w := w.refuseSlot b.slot k
        if b.queue.getD [] = [] then w.exhausted else w.onChip fun c => c.onBoot fun x => { x with rom := .select })

/-! Recovery (R369). -/

/-- Result of a refusal code: FORMAT, REFUSED or AUTH_FAIL. -/
def codeStatus (k : Nat) : Status := if k = 1 ∨ k = 2 ∨ k = 6 then .format else if k ≤ 5 then .refused else .authFail

/-- Packet buffer contents do not survive a recovery: queued MPDUs complete with RETIRED, received ones are lost (R369, log entry
85). -/
def Work.losePackets (w : Work) : Work :=
  let w := w.clear .sram 0x00400000 0x00800000
  w.onChip fun c =>
    let qs := c.qm.queues.map Prod.fst
    let c := qs.foldl (fun c q => c.onQueue q fun x => { x with mpdus := x.mpdus.map fun m => m.finish Status.retired.code }) c
    (c.onQm fun m => { m with reasm := [], whole := [], deliver := [] }).recount

/-- A write of RECCMD: GO checks the container in the packet buffer and runs it; ignored outside RECOVERY. -/
def Work.reccmdWrite (w : Work) (val : Nat) : Work :=
  if !val.testBit 0 ∨ w.chip.get F.BOOT_BSTAT_STAGE ≠ 1 then w
  else
    let base := 0x00400000
    let fin (w : Work) (st : Status) (code : Nat) : Work :=
      w.onChip fun c => (c.set F.BOOT_RECRES_STATUS st.code).set F.BOOT_RECRES_CODE code
    let h := w.readBytes .sram base 512
    match w.chip.headerCode h with
    | some k => fin w (codeStatus k) k
    | none =>
      let tr := w.readBytes .sram (base + leAt h 12 4 - 256) 256
      let w := w.copyImage .sram base
      match w.chip.signCode w.now.digest tr with
      | some k => fin w (codeStatus k) k
      | none =>
        let w := fin w.config .ok 0
        (w.losePackets.onChip fun c => c.onBoot fun b => { b with fromRam := true }).runImage 0 (w.chip.get F.BOOT_BTIME_MS)

/-- RECOVERY_GO: BOOT.RECCMD.GO written by `i`. -/
def execRecoveryGo (i : Init) (s : State) : Host.Outcome State Fault Refusal :=
  .next (s.onWork fun w => w.gate i .boot 0x074 fun w => w.reccmdWrite 1)

end Sys2Proof.Machine
end

