-- ==== Sys2Proof/Machine/Update.lean ====
section
/-!
DEFINITION. The update services, and greenware (R373 to R378).
-/
namespace Sys2Proof.Machine

/-- Whether another request of the update types came before this one and is not yet answered (R373). -/
def Chip.updateBusy (c : Chip) (q : Request) : Bool :=
  match c.mbx.requests.find? fun x => !x.answered && 7 ≤ x.type && x.type ≤ 9 with
  | some x => x.tag != q.tag
  | none => false

/-- The boot header as device firmware has it; without a valid one, no slot holds an image it knows. -/
def Work.hdrNow (w : Work) : BootHdr :=
  match w.now.bootHdr with
  | some (h, _) => h
  | none => { seq := 0, active := w.chip.get F.BOOT_BSTAT_ACTSLOT, sta := 0, stb := 0, tries := 0 }

/-- A reply whose code the spec does not state: FORMAT or REFUSED (log entry 82). -/
def Work.openReply (w : Work) (q : Request) : Work :=
  (w.onChip Chip.nextFree).reply q (if w.chip.freeBelow 2 = 0 then .format else .refused) [] []

/-- IMGWRITE (Table 14-6): bytes 16 to 19 give the offset in the inactive slot, bytes 20 to 23 the length, data from byte 64.
`flash` is how erasing and programming end. -/
def execImgwrite (tag : Nat) (flash : FlashResult) (s : State) : Host.Outcome State Fault Refusal :=
  .next (s.onWork fun w => w.serve tag 0x07 fun w q =>
    let b := w.reqBytes q 16 8
    let off := leAt b 0 4
    let len := leAt b 4 4
    let h := w.hdrNow
    let slot := 1 - h.active
    let at' := slotAt slot + off
    if w.chip.updateBusy q ∨ flash = .busy then w.reply q .busy [] []
    else if (slot = 0 ∧ 0x600000 ≤ off ∧ off < 0xC00000) ∨ h.slotSt h.active = 2 then w.reply q .refused [] []
    else if 0x600000 < off + len then w.reply q .length [] []
    else if off % 0x10000 ≠ 0 ∨ len = 0 ∨ 1048512 < len ∨ q.len < 64 + len then w.openReply q
    else if flash = .done then
      let w := (w.clear .flash at' len).write .flash at' (w.reqBytes q 64 len)
      (w.writeHdr (h.setSt slot 1)).reply q .ok [] []
    else
      let bytes := w.chip.freeBytes len
      let w := (w.onChip fun c => { c with free := c.free + len }).write .flash at' bytes
      (w.onChip fun c => c.flashError (flash == .late)).reply q .timeout [] [])

/-- IMGCHECK (Table 14-6): what the ROM would decide of the slot in byte 16, from flash. -/
def execImgcheck (tag : Nat) (s : State) : Host.Outcome State Fault Refusal :=
  .next (s.onWork fun w => w.serve tag 0x08 fun w q =>
    let slot := leNat (w.reqBytes q 16 1)
    if w.chip.updateBusy q then w.reply q .busy [] []
    else if 2 ≤ slot then w.openReply q
    else
      let h := w.readBytes .flash (slotAt slot) 512
      match w.chip.headerCode h with
      | some k => w.reply q (codeStatus k) [] []
      | none =>
        let len := leAt h 12 4
        let all := w.readBytes .flash (slotAt slot) len
        match w.chip.signCode (sha256 (all.take (len - 256))) (all.drop (len - 256)) with
        | some k => w.reply q (codeStatus k) [] []
        | none => w.reply q .ok [] [])

/-- An activation of `slot` begins: the header, then the announced pause (R374, R377). -/
def Work.beginActivation (w : Work) (h : BootHdr) (slot old : Nat) : Work :=
  (w.writeHdr { h with active := slot, tries := 0 }).onChip fun c =>
    (c.announcePause).onBoot fun b => { b with activating := some old, romDue := true }

/-- ACTIVATE (R374, Table 14-6): byte 16 of the body is the slot. -/
def execActivate (tag : Nat) (s : State) : Host.Outcome State Fault Refusal :=
  .next (s.onWork fun w => w.serve tag 0x09 fun w q =>
    let slot := leNat (w.reqBytes q 16 1)
    let h := w.hdrNow
    let st := h.slotSt slot
    if w.chip.updateBusy q then w.reply q .busy [] []
    else if 2 ≤ slot then w.openReply q
    else if slot = h.active ∨ st = 0 ∨ st = 4 ∨ h.slotSt h.active = 2 then w.reply q .refused [] []
    else if w.chip.wheel.next.isSome ∨ w.chip.wheel.active.isSome then w.reply q .busy [] []
    else
      let w := w.beginActivation ((h.setSt slot 2).setSt h.active 3) slot h.active
      w.reply q .ok [] [])

/-- Burn the rollback counter up to `floor`: the fuses change, the latched value does not, the floor in force does (R378, R396). -/
def Chip.burnFloor (c : Chip) (floor : Nat) : Chip :=
  let f := min 63 floor
  let word (k : Nat) : Nat := 2 ^ (min 32 (f - 32 * k)) - 1
  let arr := [0, 1, 2].foldl (fun (m : NatMap FuseWord) cp => [0, 1].foldl (fun m k =>
    m.modify (fuseKey 0 (75 + 2 * cp + k)) .zero fun w =>
      { normal := w.normal ||| word k, low := w.low ||| word k, high := w.high ||| word k }) m) c.fuses.array
  (c.onFuses fun x => { x with array := arr }).onBoot fun b => { b with burned := max b.burned f }

/-- A CONFIRM that takes effect: the image is FIRED, and the floor may advance (R376, R378). -/
def Work.confirmed (w : Work) : Work :=
  let floor := leNat (w.readBytes .sram 0x003FFE07 1) % 64
  let slot := w.chip.get F.BOOT_BSTAT_ACTSLOT
  let w := w.editHdr fun h => (h.setSt slot 3)
  w.onChip fun c =>
    let c := (((c.setFlag F.BOOT_BSTAT_GREEN false).setFlag F.BOOT_BSTAT_FIRED true).raise .boot 3)
    if c.floorInForce < floor ∧ c.flag F.BOOT_GCFG_RBADV then c.burnFloor floor else c

/-- A write of CONFIRM (R376). -/
def Work.confirmWrite (w : Work) (key : Nat) : Work :=
  let c := w.chip
  if key % 2 ^ 32 = 0x0000F1ED ∧ c.flag F.BOOT_BSTAT_GREEN ∧ !c.boot.greenExpired ∧ c.tick < c.boot.greenEnd
      ∧ (!c.flag F.BOOT_GCFG_HOSTGATE ∨ c.flag F.BOOT_GCFG_HOSTOK) then w.confirmed
  else w

/-- CONFIRM: BOOT.CONFIRM written by `i` (R376). -/
def execConfirm (i : Init) (key : Nat) (s : State) : Host.Outcome State Fault Refusal :=
  .next (s.onWork fun w => w.gate i .boot 0x060 fun w => w.confirmWrite key)

/-- GREENWARE_EXPIRY (R377): the window of a GREENWARE image ends; `sitter` says that the kiln sitter begins the fallback within
1 s. -/
def execGreenwareExpiry (sitter : Bool) (s : State) : Host.Outcome State Fault Refusal :=
  .next (s.onWork fun w =>
    let c := w.chip
    if !c.flag F.BOOT_BSTAT_GREEN ∨ c.boot.greenExpired ∨ c.power = .reset then w
    else
      let w := w.onChip fun c => (c.advanceTo c.boot.greenEnd).onBoot fun b => { b with greenExpired := true }
      if sitter ∧ w.chip.hubRuns then
        let slot := w.chip.get F.BOOT_BSTAT_ACTSLOT
        let w := w.beginActivation (w.hdrNow.setSt slot 4) (1 - slot) slot
        w.onChip fun c => c.fallBack.onBoot fun b => { b with fallbackBegun := true }
      else w)

/-- AON_RESTART (R377): 1 s after the expiry the kiln sitter has begun no fallback; the AON timer orders a hub restart. -/
def execAonRestart (s : State) : Host.Outcome State Fault Refusal :=
  .next (s.onChip fun c =>
    if c.boot.greenExpired ∧ !c.boot.fallbackBegun ∧ c.flag F.BOOT_BSTAT_GREEN ∧ (c.power = .boot ∨ c.power = .active) ∧ !c.stopped then
      (c.advanceTo (c.boot.greenEnd + tickHz)).warmRestart
    else c)

end Sys2Proof.Machine
end

