-- ==== Sys2Proof/Machine/LaneLoad.lean ====
section
/-!
DEFINITION. Loading lanes, and taking up a lane that has coasted (R121, R156, R158, R159, R171, R233, R247, R255, R348, R356,
R371, R372, R389, R392).
-/
namespace Sys2Proof.Machine

/-- A lane reload begins: a spyhole capture ends, no lane state survives, the sets of its group are lost (R20, R196, R247). -/
def Chip.beginLoad (c : Chip) (n : Lane) : Chip := ((((c.spyEnd n).setLaneState n 1).loseSets n).clearLane n).recount

/-- LANE_LOAD (R372): device firmware sends the lane its microcode and tables over its link. -/
def execLaneLoad (n : Lane) (s : State) : Host.Outcome State Fault Refusal :=
  .next (s.onChip fun c =>
    if c.hubRuns ∧ c.laneReach n ∧ !c.bitAt F.HEALTH_HSTAT_LANEFAIL n.idx then c.beginLoad n else c)

/-- Faults of defaulted factory words that a lane reports at its load (R158, R346, R348). -/
def Chip.trimFaults (c : Chip) (n : Lane) : Chip :=
  let c := if [0, 1, 2, 3].any fun i => (c.afeTrim n i).isNone then c.pfaultSet (.afe n) 4 else c
  let c := if (c.tempTrim n).isNone then c.pfaultSet (.meas n) 1 else c
  if [0, 1, 2, 3].any fun ch => (c.polyCoef n ch 0).isNone then c.pfaultSet (.linear n) 1 else c

/-- The lane neighbour records of the group are rebuilt from the hub's entries (R255). -/
def Chip.rebuildRecs (c : Chip) (n : Lane) : Chip :=
  (c.peersOf n).foldl (fun c s =>
    c.onRec n s fun _ => { LaneRec.zero with gen := (c.nbr s).gen, active := true, proto := (c.nbr s).proto }) c

/-- The peers of a reloaded lane get a TMX with TMV 0 and a TMREQ with cause 2, and their uplink sets are rebuilt (R247). -/
def Chip.askSets (c : Chip) (n : Lane) : Chip :=
  (c.peersOf n).foldl (fun c s =>
    ((c.sendRevoke s).sendTmreq s (c.get (F.TMAP_MARGIN_REQADD n)) 2).startBuild n s false) c

/-- An activation whose lanes are all loaded is complete (R374). -/
def Chip.checkActivation (c : Chip) : Chip :=
  let all := c.fittedLanes.all fun n => (c.lane n).ready || c.bitAt F.HEALTH_HSTAT_LANEFAIL n.idx
  if c.boot.activating.isSome ∧ !c.boot.romDue ∧ c.hubRuns ∧ all then c.activationOver else c

/-- A lane load ends well: the sequencers start, the defaults apply, user settings and glaze tables are restored (R372). -/
def Chip.loadDone (c : Chip) (n : Lane) : Chip :=
  let c := (c.count (F.LSYS_LCNT_LOADS n) 1).set (F.WARDEN_WSTAT_STATE n) 1
  let c := c.onLane n fun l => { l with ready := true }
  let c := (c.restartGlost n).restartBisque n
  let c := ((c.trimFaults n).setCodes n [12, 12, 12, 12]).agcConfig n
  let c := ((c.rebuildRecs n).restoreLane n).showEcho n
  let c := c.onEcho n fun e => { e with porten := c.get (F.TXP_TXCTL_PORTEN n) }
  let c := c.onAfe n fun a => { a with cal := some (c.get (F.AFE_RXCFG_INEN n)) }
  let c := ((c.askSets n).setLaneState n 2).wheelStart n
  c.checkActivation

/-- LANE_LOAD_COMPLETE (R372, R389): the load of lane `n` ends, or fails; a second failure within 10 minutes makes the lane
FAILED. -/
def execLaneLoadComplete (n : Lane) (ok : Bool) (s : State) : Host.Outcome State Fault Refusal :=
  .next (s.onChip fun c =>
    if !c.hubRuns ∨ !c.fitted n ∨ c.get (F.LSYS_LSTAT_STATE n) ≠ 1 then c
    else if ok then (if c.laneReach n then c.loadDone n else c)
    else
      let recent := (c.health.reloadFails.getD n.num []).filter fun t => c.tick < t + 600 * tickHz
      let c := c.onHealth fun h => { h with reloadFails := h.reloadFails.insert n.num (c.tick :: recent) }
      if recent.isEmpty then c else (c.failLane n).checkActivation)

/-- What a coasting lane has kept of a reception goes to the saggar, whole MPDUs in order, incomplete ones held (R261, R392). -/
def Chip.takeCoasted (c : Chip) (n : Lane) (x : Coasted) : Chip :=
  match fcOf x.fc with
  | none => c
  | some fc =>
    let slot := fc.stid
    let wide := aclass fc.dtid == 1 || aclass fc.dtid == 2
    let u : RxUser :=
      { slot, gen := (c.nbr slot).gen, tmv := 0, mode := 0, rate := 0, bt := 0, nblk := x.blocks.length, present := true, ranks := [],
        matched := [], made := [], results := x.blocks.zipIdx.map (fun b => (b.2, { pass := true, word := b.1.1, data := b.1.2 })), done := [] }
    (u.keys false).foldl (fun c k =>
      let p := c.partsOf u false x.turn k
      let c := c.forget slot k
      match p.whole with
      | some bs => c.onQm fun q => { q with whole := q.whole ++ [
          { lane := n.num, slot, epl := fc.epl, g6 := fc.g6, group := wide, cls := k.2, mseq := k.1, cone := x.cone, gen := u.gen,
            turn := x.turn, bytes := bs }] }
      | none => c.onQm fun q => { q with reasm := q.reasm ++ [p] }) c

/-- A lane that coasted and runs is taken up again: its buffered receptions in order (R391, R392). -/
def Chip.reattach (c : Chip) (n : Lane) : Chip :=
  let xs := (c.lane n).coasted
  let c := c.onLane n fun l => { l with coasted := [], coastTurns := 0 }
  let c := (xs.foldl (fun c x => c.takeCoasted n x) c).setLaneState n 2
  (if c.running n then c.fillStore n else c).recount

end Sys2Proof.Machine
end

