-- ==== Sys2Proof/Machine/Health.lean ====
section
/-!
DEFINITION. SRAM errors, leaky buckets, wardens, the kiln sitter and the backstop (R28, R380 to R394, R400, R402).
-/
namespace Sys2Proof.Machine

/-! Errors and buckets. -/

/-- LANE_CHECK_ERROR (R28): a check error is attributed to physical lane `unit` of link `n`. -/
def execLaneCheckError (n : Lane) (unit : Nat) (s : State) : Host.Outcome State Fault Refusal :=
  .next (s.onChip fun c => if unit ≤ 9 then c.fault1 4 n.num unit else c)

/-- CORRECTABLE_ERROR (R380): in bank `unit` of a die. -/
def execCorrectableError (die unit : Nat) (s : State) : Host.Outcome State Fault Refusal :=
  .next (s.onChip fun c =>
    if c.dieFitted die then (c.count F.HEALTH_CORRCNT_COUNT 1).fault1 5 die unit else c)

/-- A received MPDU that is lost with its cell is counted (Table 15-1). -/
def Chip.rxDropped (c : Chip) : Chip := c.count F.QM_DROPS2_RXDROP 1

/-- An uncorrectable error in a packet buffer cell. -/
def Chip.cellError (c : Chip) : CellUse → Chip
  | .tx q id => (c.onMpdu q id fun m => m.finish Status.retired.code).recount
  | .held slot mseq cls => ((c.forget slot (mseq, cls)).rxDropped).recount
  | .whole k => ((c.onQm fun q => { q with whole := q.whole.eraseIdx k }).rxDropped).recount
  | .deliver k => ((c.onQm fun q => { q with deliver := q.deliver.eraseIdx k }).rxDropped).recount
  | .block n user idx => (((c.onRxn n fun r => r.result user idx .failed)).rxDropped).recount
  | .unused => c

/-- The warden of a lane requests a reload (R387): its cause code is 1 or 2 for a sequencer, 3 for the microcode, 4 for the link. -/
def Chip.askReload (c : Chip) (n : Lane) (cause : Nat) : Chip :=
  let c := ((c.set (F.WARDEN_WSTAT_STATE n) 3).set (F.WARDEN_WSTAT_CAUSE n) cause).count (F.WARDEN_WCNT_REQS n) 1
  (c.onHealth fun h =>
    { h with reloadAsked := if h.reloadAsked.contains n.num then h.reloadAsked else n.num :: h.reloadAsked }).raise (.warden n) 1

/-- Whether a set bank of a peer names library entry `e`. -/
def Chip.setsName (c : Chip) (n : Lane) (s e : Nat) : Bool :=
  [c.ulBank n s false, c.ulBank n s true, c.dlBank s 0, c.dlBank s 1, c.dlBank s 2].any fun m => m.names.contains e

/-- An uncorrectable error in the library: sets that name the entry are invalid, and their peers are handled as in R247. -/
def Chip.libraryError (c : Chip) (n : Lane) (e : Nat) : Chip :=
  let hit := (c.peersOf n).filter fun s => c.setsName n s e
  hit.foldl (fun c s =>
    let bad (m : MapSet) : Bool := m.names.contains e
    let c := [false, true].foldl (fun c b => if bad (c.ulBank n s b) then c.putUl n s b (c.ulBank n s b).invalid else c) c
    let c := [0, 1, 2].foldl (fun c k => if bad (c.dlBank s k) then c.putDl s k (c.dlBank s k).invalid else c) c
    ((c.sendRevoke s).sendTmreq s (c.get (F.TMAP_MARGIN_REQADD n)) 2).startBuild n s false) c

/-- The action of Table 15-1 for a region. -/
def Chip.regionError (c : Chip) : SramRegion → Chip
  | .code => c.warmRestart
  | .cell u => c.cellError u
  | .neighbour slot => if slot ≠ 0 ∧ (c.nbr slot).st = 1 then c.releaseSlot slot else c
  | .twice both => if both then c.warmRestart else c
  | .staging => c
  | .key cls idx second => ((c.onKeys fun k => k.clearBank cls idx second).pfaultSet .saggar 3).raise .saggar 5
  | .library n e => c.libraryError n e
  | .slip n order place =>
    if c.coasting n then c.onLane n fun l => { l with coasted := l.coasted.eraseIdx place }
    else c.onSlip n fun x => { x with entries := x.entries.filter fun e => e.order != order }
  | .record n slot =>
    let c := (c.putUl n slot false .zero).putUl n slot true .zero
    let live := (c.nbr slot).st == 1 && (c.nbr slot).group == n.num
    c.onRec n slot fun _ =>
      if live then { LaneRec.zero with gen := (c.nbr slot).gen, active := true, proto := (c.nbr slot).proto } else .zero
  | .echo n means peaks =>
    (c.onTmap n fun t => { t with
      mean := t.mean.filter fun e => !means.contains e.1
      peak := t.peak.filter fun e => !peaks.contains e.1 }).echoChange n
  | .microcode n => c.askReload n 3
  | .rxStaging n blocks => blocks.foldl (fun c b => c.onRxn n fun r => r.result b.1 b.2 .failed) c

/-- What every uncorrectable error does, wherever it is (R380): UNCORR counts it, its bank's level rises by THR, the event and a
trouble record tell it, and a lane's warden raises its own. -/
def Chip.sramError (c : Chip) (die unit addr : Nat) : Chip :=
  let lvl := min 255 (c.health.buckets.getD (bucketKey 5 die unit) 0 + c.get (F.HEALTH_THR_THR 5))
  let c := (c.count F.HEALTH_RETCNT_UNCORR 1).addFault 5 die unit (c.get (F.HEALTH_THR_THR 5))
  let c := (c.raise .health 1).trouble 8 die 5 unit lvl addr
  match Lane.ofNum die with
  | some n => c.raise (.warden n) 2
  | none => c

/-- UNCORRECTABLE_ERROR (R380, Table 15-1): in bank `unit` of a die, at SRAM offset `addr`, in a region. -/
def execUncorrectableError (die unit addr : Nat) (r : SramRegion) (s : State) : Host.Outcome State Fault Refusal :=
  .next (s.onChip fun c => if !c.dieFitted die then c else (c.sramError die unit addr).regionError r)

/-- SCRUBDONE (R381). -/
def execScrubdone (s : State) : Host.Outcome State Fault Refusal := .next (s.onChip fun c => c.raise .health 7)

/-- LEAK (R382): a leak period of a class ends. -/
def execLeak (cls : Nat) (s : State) : Host.Outcome State Fault Refusal := .next (s.onChip fun c => c.leakClass cls)

/-- The receive input (from 0) that FFT engine `e` serves, if it serves one: engines 0 to 3 their own unless the spare carries their
load, the spare that of the engine it replaces (R384). -/
def Chip.fftInput (c : Chip) (n : Lane) (e : Nat) : Option Nat :=
  let k := if e = 7 then c.spareServes n else if c.spareServes n = some e then none else some e
  k.filter (· < 4)

/-- A receive mismatch (R384): the input has weight 0 for the symbol of the reception in progress that lies at tick `w` at the pins.
DESIGN CHOICE (log entry 212): as R180 does, OVLEXCL counts that symbol. -/
def Chip.spoilSymbol (c : Chip) (n : Lane) (i w : Nat) : Chip :=
  match (c.lane n).rx.rx with
  | none => c
  | some _ => (c.onRxn n fun r => { r with bad := (i, w) :: r.bad }).count (F.RXP_LOSS_OVLEXCL n) 1

/-- TRANSFORM_CHECK (R384): a transform of FFT engine `e` fails its energy check, one of the symbol at tick `w` at the pins where it is a
receive engine; a transmit mismatch lets the frame continue. -/
def execTransformCheck (n : Lane) (e w : Nat) (s : State) : Host.Outcome State Fault Refusal :=
  .next (s.onChip fun c =>
    if e ≤ 7 ∧ (c.lane n).ready then
      let c := match c.fftInput n e with
        | some i => c.spoilSymbol n i w
        | none => c
      c.fault1 3 n.num e
    else c)

/-- A write of INJECT: one fault to the bucket named (Table 15-9). -/
def Chip.injectWrite (c : Chip) (val : Nat) : Chip := c.fault1 (bitField val 0 3) (bitField val 8 3) (bitField val 16 7)

/-- INJECT: HEALTH.INJECT written by `i`. -/
def execInject (i : Init) (cls die unit : Nat) (s : State) : Host.Outcome State Fault Refusal :=
  .next (s.onChip fun c => c.gate i .health 0x420 fun c => c.injectWrite (cls % 8 + 2 ^ 8 * (die % 8) + 2 ^ 16 * (unit % 128)))

/-! The wardens (R387). -/

/-- SEQHANG (R387): sequencer `q` (0 or 1) of a lane misses its heartbeat.  The restart takes `dur` ticks, at most 2 ms; frames that
fall due meanwhile are late.  More than RSTMAX restarts within 10 s bring a reload request. -/
def execSeqhang (n : Lane) (q dur : Nat) (s : State) : Host.Outcome State Fault Refusal :=
  .next (s.onChip fun c =>
    if !(c.lane n).ready ∨ 2 ≤ q then c
    else
      let recent := c.tick :: ((c.health.seqRestarts.getD n.num []).filter fun t => c.tick < t + 10 * tickHz)
      let until_ := c.tick + min dur 204800
      let c := c.onHealth fun h => { h with
        seqRestarts := h.seqRestarts.insert n.num recent
        seqUntil := h.seqUntil.insert n.num until_ }
      let c := (c.count (F.WARDEN_WCNT_HANGS n) 1).set (F.WARDEN_WSTAT_CAUSE n) (q + 1)
      let c := c.onTx n fun t => { t with ready := t.ready.map fun f => if f.t0 ≤ until_ then { f with late := true } else f }
      let c := ((c.pfaultSet (.warden n) 0).raise (.warden n) 0).trouble 3 n.num 0xFF q 0 0
      if c.get (F.WARDEN_WCFG_RSTMAX n) < recent.length then c.askReload n (q + 1) else c)

/-! The kiln sitter (R388). -/

/-- CORE_HEARTBEAT_MISS (R388): core `k` (0 to 2) misses its heartbeats and is restarted; the requests it was serving are answered
TIMEOUT.  The third restart within 10 minutes brings a hub warm restart. -/
def execCoreHeartbeatMiss (k : Nat) (serving : List Nat) (s : State) : Host.Outcome State Fault Refusal :=
  .next (s.onWork fun w =>
    if !w.chip.hubRuns ∨ 3 ≤ k then w
    else
      let w := (w.chip.mbx.requests.filter fun q => !q.answered && serving.contains q.tag).foldl
        (fun (w : Work) q => w.reply q .timeout [] []) w
      w.onChip fun c =>
        let times := ((k, c.tick) :: c.health.coreRestarts).filter fun e => c.tick < e.2 + 600 * tickHz
        let c := c.onHealth fun h => { h with
          coreRestarts := times
          coresDown := if h.coresDown.contains k then h.coresDown else k :: h.coresDown }
        let c := (c.raise .health 2).trouble 2 0 0xFF k 0 0
        if 3 ≤ (times.filter fun e => e.1 == k).length then c.warmRestart else c)

/-- CORE_RESTART_TIMEOUT (R388): core `k` does not return within 100 ms of its restart.  A core whose restart lies further back has
returned. -/
def execCoreRestartTimeout (k : Nat) (s : State) : Host.Outcome State Fault Refusal :=
  .next (s.onChip fun c =>
    if c.hubRuns ∧ c.health.coresDown.contains k then
      let due := ((c.health.coreRestarts.find? fun e => e.1 == k).map Prod.snd).getD c.tick + tickHz / 10
      if due < c.tick then c else (c.advanceTo due).warmRestart
    else c)

/-- RELOAD_REQUEST (R387, R388): the warden of a lane has asked for a reload, or asks because its link is not up; a link that is down is forced
to retrain once, and the lane is reloaded. -/
def execReloadRequest (n : Lane) (s : State) : Host.Outcome State Fault Refusal :=
  .next (s.onChip fun c =>
    let asked := c.health.reloadAsked.contains n.num
    if !c.hubRuns ∨ !c.fitted n ∨ c.bitAt F.HEALTH_HSTAT_LANEFAIL n.idx ∨ (!asked ∧ c.linkUp n) then c
    else
      let c := if asked then c else c.askReload n 4
      let c := c.onHealth fun h => { h with reloadAsked := h.reloadAsked.filter fun k => k != n.num }
      let c := if c.get (F.SKEJO_LINKSTAT_STATE n) = 0 then (c.setBitAt F.CLK_PWRSTAT_LANEPWR n.idx true).startRetrain n else c
      ((c.beginLoad n).raise .health 3).trouble 4 n.num 0xFF 0 0 0)

/-- A write of LCMD: each FAILED lane named is tried again (R389). -/
def Chip.lcmdWrite (c : Chip) (mask : Nat) : Chip :=
  c.fittedLanes.foldl (fun c n =>
    if mask.testBit n.idx ∧ c.bitAt F.HEALTH_HSTAT_LANEFAIL n.idx then
      ((c.setBitAt F.HEALTH_HSTAT_LANEFAIL n.idx false).beginLoad n).trainLinks
    else c) c

/-- LCMD_RELOAD: HEALTH.LCMD written by `i`. -/
def execLcmdReload (i : Init) (lanes : Nat) (s : State) : Host.Outcome State Fault Refusal :=
  .next (s.onChip fun c => c.gate i .health 0x064 fun c => c.lcmdWrite lanes)

/-! The backstop (R390, Table 15-4). -/

/-- The end of a hub warm restart: device firmware reattaches each coasting lane whose warden reads RUN, and the hub runs; the wardens of
the others have asked for a reload (R391, R392). -/
def Work.warmDone (w : Work) : Work :=
  let w := w.onChip fun c =>
    let c := c.setPower .active
    let c := c.fittedLanes.foldl (fun c n => if c.coasting n ∧ c.get (F.WARDEN_WSTAT_STATE n) = 1 then c.reattach n else c) c
    if c.flag F.WHEEL_WSTAT_PPEND then c.onWheel fun x => { x with activated := true } else c
  w.hubResumes

/-- A write of KSBEAT by core 3. -/
def Work.ksbeatWrite (w : Work) : Work :=
  let c := w.chip
  let w := w.onChip fun c => c.onHealth fun h => { h with lastBeat := c.tick }
  match c.health.backstop with
  | 1 =>
    let w := w.onChip fun c => (c.onHealth fun h => { h with backstop := 0, secondWarm := false }).set F.HEALTH_HSTAT_KSRST 0
    if c.power = .coast then w.warmDone else w
  | 2 =>
    if c.flag F.BOOT_BSTAT_RAMIMG then
      let w := w.onChip fun c => c.onHealth fun h => { h with backstop := 0, secondWarm := false }
      if c.power = .coast then w.warmDone else w
    else w
  | _ => w

/-- KSBEAT: HEALTH.KSBEAT written by `i` (R390). -/
def execKsbeat (i : Init) (s : State) : Host.Outcome State Fault Refusal :=
  .next (s.onWork fun w => w.gate i .health 0x060 Work.ksbeatWrite)

/-- HBTO (R390): HBTO ms pass without KSBEAT in WATCH: core 3 is restarted, or after three restarts the hub. -/
def execHbto (s : State) : Host.Outcome State Fault Refusal :=
  .next (s.onChip fun c =>
    if !c.hubRuns ∨ c.health.backstop ≠ 0 then c
    else
      let c := c.advanceTo (c.health.lastBeat + c.get F.HEALTH_HBCFG_HBTO * 102400)
      if c.get F.HEALTH_HSTAT_KSRST < 3 then
        let c := c.count F.HEALTH_HSTAT_KSRST 1
        let c := c.onHealth fun h => { h with lastBeat := c.tick, lastKsrst := c.tick }
        (c.raise .health 2).trouble 6 0 0xFF 3 0 0
      else c.warmRestart)

/-- WARM_TIMEOUT (R390): 2 s after a warm restart no KSBEAT has come: a second one, then FAILED. -/
def execWarmTimeout (s : State) : Host.Outcome State Fault Refusal :=
  .next (s.onChip fun c =>
    if c.health.backstop ≠ 1 ∨ c.stopped ∨ c.power = .reset then c
    else
      let c := c.advanceTo (c.health.warmAt + 2 * tickHz)
      if c.health.secondWarm then c.onHealth fun h => { h with backstop := 2 }
      else c.warmRestart.onHealth fun h => { h with secondWarm := true })

/-- KSRST_RESET (R390): 60 s of heartbeats since the last restart of core 3. -/
def execKsrstReset (s : State) : Host.Outcome State Fault Refusal :=
  .next (s.onChip fun c =>
    if c.hubRuns ∧ c.health.backstop = 0 then
      (c.advanceTo (c.health.lastKsrst + 60 * tickHz)).set F.HEALTH_HSTAT_KSRST 0
    else c)

/-- COAST_END (R392): after 8 turns a coasting lane stops beaconing; it keeps its facet clock and goes on buffering. -/
def execCoastEnd (n : Lane) (s : State) : Host.Outcome State Fault Refusal :=
  .next (s.onChip fun c => if c.coasting n ∧ 8 ≤ (c.lane n).coastTurns then c.setStored n [] else c)

end Sys2Proof.Machine
end

