-- ==== Sys2Proof/Machine/Time.lean ====
section
/-!
DEFINITION. The time base: references, states, steps and slews, TPULSE, and the stamps of TIME_EVT and TICK (R322 to R336).
-/
namespace Sys2Proof.Machine

/-- Enter a time base state (0 FREE, 1 LOCKED, 2 HOLDOVER, 3 REGAIN); a change raises STATE and the beacons not yet
committed are prepared again (R328, R334, R336). -/
def Chip.setTimeState (c : Chip) (st : Nat) : Chip :=
  if c.get F.TIME_TSTAT_STATE = st then c
  else ((c.set F.TIME_TSTAT_STATE st).raise .time 0).refreshBeacons

/-- End any slew. -/
def Chip.endSlew (c : Chip) : Chip :=
  (c.setFlag F.TIME_TSTAT_SLEWING false).onTime fun t => { t with slew := 0 }

/-- Slew by `e` units from now on (R329). -/
def Chip.startSlew (c : Chip) (e : Int) : Chip :=
  (c.setFlag F.TIME_TSTAT_SLEWING (decide (e ≠ 0))).onTime fun t => { t with slew := e }

/-- Ask for a step by `e` at the next whole second of the scale (R330). -/
def Chip.askStep (c : Chip) (e : Int) : Chip := c.onTime fun t => { t with step := some (.atSecond e) }

/-- Distance from scale value `v` to the nearest whole second: reference minus GX8 time at an edge that marks a
second. -/
def toWholeSecond (v : Int) : Int :=
  let r := v % (secUnits : Int)
  if 2 * r < secUnits then -r else secUnits - r

/-- The reference qualifies with error `e` (Table 12-1). -/
def Chip.refQualifies (c : Chip) (e : Int) : Chip :=
  let c := c.setFlag F.TIME_TSTAT_REFOK true
  if c.get F.TIME_TSTAT_STATE = 0 then (c.askStep e).setTimeState 1
  else if c.get F.TIME_TSTAT_STATE = 2 then
    if e.natAbs < 10 ^ 6 * nsUnits then (c.startSlew e).setTimeState 3
    else (c.askStep e).setTimeState 1
  else c

/-- The reference is lost (Table 12-1): LOCKED and REGAIN go to HOLDOVER, with 50 ns or the remaining error as B0. -/
def Chip.refLost (c : Chip) : Chip :=
  let c := c.setFlag F.TIME_TSTAT_REFOK false
  let st := c.get F.TIME_TSTAT_STATE
  let c := c.onTime fun t => { t with quals := 0, misses := 0, lastEdge := none }
  if st = 1 then
    (c.endSlew.onTime fun t => { t with b0 := 50, holdFrom := c.tick }).setTimeState 2
  else if st = 3 then
    let b := ceilDiv c.time.slew.natAbs nsUnits
    (c.endSlew.onTime fun t => { t with b0 := b, holdFrom := c.tick }).setTimeState 2
  else c

/-- Record an accepted edge. -/
def Chip.acceptEdge (c : Chip) : Chip :=
  c.onTime fun t => { t with lastEdge := some c.tick, quals := t.quals + 1, misses := 0 }

/-- Reject an edge: counted, PPSREJ raised, the run of accepted edges ends (R325). -/
def Chip.rejectEdge (c : Chip) : Chip :=
  ((c.onTime fun t => { t with quals := 0 }).count F.TIME_COUNTS_PPSREJ 1).raise .time 3

/-- Whether an edge now lies within PPSWIN of 1 s after the previous accepted edge; a first edge starts a run
(log entry 40). -/
def Chip.edgeInWindow (c : Chip) : Bool :=
  match c.time.lastEdge with
  | none => true
  | some t =>
    let dev := ((c.tick : Int) - t - tickHz).natAbs
    decide (dev * 625 ≤ 6400 * c.get F.TIME_LOOPCFG_PPSWIN)

/-- The scale at an edge now, less the cable delay. -/
def Chip.edgeScale (c : Chip) : Int := (c.time.scale : Int) - c.getInt F.TIME_CABDLY_PPSDLY * nsUnits

/-- A PPS edge of the selected polarity at the present tick (R325). -/
def Chip.ppsEdge (c : Chip) : Chip :=
  let e := toWholeSecond c.edgeScale
  if c.get F.TIME_TSTAT_STATE = 1 then
    if e.natAbs ≤ 100 * c.get F.TIME_LOOPCFG_PPSWIN * nsUnits then
      (c.acceptEdge.setInt F.TIME_PPSLAST_NS (roundHalfUp e nsUnits)).startSlew e
    else c.rejectEdge
  else if c.edgeInWindow then
    let c := c.acceptEdge
    if c.time.quals = c.get F.TIME_LOOPCFG_QUAL then c.refQualifies e else c
  else c.rejectEdge

/-- PPS_EDGE: an edge of PPS_IN, stamped with the present tick; edges of the other polarity and edges while the
reference is not PPS_IN have no effect (R325). -/
def execPpsEdge (t : Nat) (falling : Bool) (s : State) : Host.Outcome State Fault Refusal :=
  .next (s.onChip fun c =>
    let c := c.advanceTo t
    if c.get F.TIME_TCFG_SRC = 1 ∧ c.flag F.TIME_TCFG_PPSPOL = falling then c.ppsEdge else c)

/-- A miss: no edge has been accepted in time.  The second in a row means that the reference is lost (R325). -/
def Chip.ppsMissed (c : Chip) : Chip :=
  let c := (c.count F.TIME_COUNTS_PPSMISS 1).raise .time 2
  if 2 ≤ c.time.misses + 1 then c.refLost
  else c.onTime fun t => { t with misses := t.misses + 1, quals := if c.get F.TIME_TSTAT_STATE = 3 then t.quals else 0 }

/-- PPSMISS: 1 s + PPSWIN have passed since the last accepted edge, or another second since the first miss (R325, log entry 40).  Where no
edge has been accepted nothing is missed. -/
def execPpsmiss (s : State) : Host.Outcome State Fault Refusal :=
  .next (s.onChip fun c =>
    match c.time.lastEdge with
    | none => c
    | some t =>
      if c.get F.TIME_TCFG_SRC = 1 then
        (c.advanceTo (t + (c.time.misses + 1) * tickHz + c.get F.TIME_LOOPCFG_PPSWIN * 1024 / 100 + 1)).ppsMissed
      else c)

/-- TCMD.STEER (R326): the new host frequency term, and the phase handled as an error of R328.  With another reference
selected the command is refused (log entry 41). -/
def Chip.steer (c : Chip) : Chip :=
  if c.get F.TIME_TCFG_SRC = 2 then
    let c := c.onTime fun t => { t with hostFr := c.getInt F.TIME_STEERFR_FR }
    let e : Int := c.getInt F.TIME_STEERPH_NS * (nsUnits : Int)
    let c := (c.set F.TIME_TRES_STATUS Status.ok.code).onTime fun t => { t with lastEdge := some c.tick }
    if c.get F.TIME_TSTAT_STATE = 1 ∨ c.get F.TIME_TSTAT_STATE = 3 then
      (c.setFlag F.TIME_TSTAT_REFOK true).startSlew e
    else c.refQualifies e
  else c.set F.TIME_TRES_STATUS Status.refused.code

/-- The time that the TSET registers name, in scale units. -/
def Chip.tsetValue (c : Chip) : Nat :=
  (c.get F.TIME_TSETSECH_SEC * 2 ^ 32 + c.get F.TIME_TSETSECL_SEC) * secUnits + c.get F.TIME_TSETNS_NS * nsUnits

/-- TCMD.SET (R326).  DESIGN CHOICE (log entry 210): with SRC = 2 the seconds after which a missing STEER loses the reference count from
the SET that locked to it. -/
def Chip.tset (c : Chip) : Chip :=
  let at' := c.get F.TIME_TSETTICK_TICK
  if at' < c.tick + 1 ∨ c.tick + tickHz < at' then c.set F.TIME_TRES_STATUS Status.format.code
  else if c.get F.TIME_TCFG_SRC = 1 ∧ (c.get F.TIME_TSTAT_STATE = 1 ∨ c.get F.TIME_TSTAT_STATE = 3) then
    c.set F.TIME_TRES_STATUS Status.refused.code
  else
    let c := (c.set F.TIME_TRES_STATUS Status.ok.code).endSlew
    let host := c.get F.TIME_TCFG_SRC = 2
    let c := c.onTime fun t => { t with
      step := some (.atTick at' c.tsetValue), lastEdge := if host then some c.tick else t.lastEdge }
    c.setTimeState (if host then 1 else 0)

/-- A write of TIME.TCMD: one command, or none, or a refusal of several (R326, R452). -/
def Chip.tcmdWrite (c : Chip) (i : Init) (val : Nat) : Chip :=
  match val.testBit 0, val.testBit 1 with
  | true, true => c.refuseMulti i .time 0x088
  | true, false => c.tset
  | false, true => c.steer
  | false, false => c

/-- STEER: TCMD.STEER written by `i`. -/
def execSteer (i : Init) (s : State) : Host.Outcome State Fault Refusal :=
  .next (s.onChip fun c => c.gate i .time 0x088 Chip.steer)

/-- SET: TCMD.SET written by `i`. -/
def execTimeSet (i : Init) (s : State) : Host.Outcome State Fault Refusal :=
  .next (s.onChip fun c => c.gate i .time 0x088 Chip.tset)

/-- STEERTO: no STEER within HOSTCFG.TO seconds of the last one; the host reference is lost (R326). -/
def execSteerto (s : State) : Host.Outcome State Fault Refusal :=
  .next (s.onChip fun c =>
    match c.time.lastEdge with
    | none => c
    | some t =>
      if c.get F.TIME_TCFG_SRC = 2 then ((c.advanceTo (t + c.get F.TIME_HOSTCFG_TO * tickHz)).raise .time 7).refLost else c)

/-- DRIFT_UPDATE: in LOCKED the drift moves toward the measured frequency error `f` (0.1 ppb) and the uncertainty
follows the mean absolute deviation, with the floor DUMIN (R327). -/
def execDriftUpdate (f : Int) (s : State) : Host.Outcome State Fault Refusal :=
  .next (s.onChip fun c =>
    if c.get F.TIME_TSTAT_STATE = 1 then
      let d := c.drift
      let dk := c.get F.TIME_LOOPCFG_DK
      let dev := ((c.time.dev : Int) + (((f - d).natAbs : Int) * 2 ^ 16 - c.time.dev) / 2 ^ dk).toNat
      let c := c.setInt F.TIME_DRIFT_D (d + (f - d) / 2 ^ dk)
      c.onTime fun t => { t with dev := dev, uncert := max (10 * c.get F.TIME_HOLDCFG_DUMIN) (dev / 2 ^ 16) }
    else c)

/-- Record a step by `e` units after which the scale reads `v` (R330). -/
def Chip.recordStep (c : Chip) (e : Int) (v : Nat) : Chip :=
  let c := c.onTime fun t => { t with scale := v, step := none }
  let c := c.setInt F.TIME_STEPSIZE_NS (clampInt (-(2 ^ 31)) (2 ^ 31 - 1) (roundHalfUp e nsUnits))
  let c := c.set F.TIME_STEPSEC_SEC (v / secUnits)
  let c := (c.count F.TIME_COUNTS2_STEPS 1).setFlag F.TIME_TSTAT_TVALID true
  (c.raise .time 1).refreshBeacons

/-- Take over FREQ, WIDTH and POL, as at a whole second (R332). -/
def Chip.loadTpcfg (c : Chip) : Chip :=
  c.onTime fun t => { t with tpFreq := c.get F.TIME_TPCFG_FREQ, tpWidth := c.get F.TIME_TPWIDTH_US,
                                 tpPol := c.flag F.TIME_TPCFG_POL }

/-- Width of a pulse in ticks: WIDTH, or half the period with PFAULT.TPWIDTH when WIDTH is not below the period minus
1 us (R333). -/
def Chip.pulseWidth (c : Chip) : Nat × Chip :=
  let f := max 1 c.time.tpFreq
  if 10 ^ 9 ≤ (c.time.tpWidth * 1000 + 1000) * f then (tickHz / f / 2, c.pfaultSet .time 1)
  else (usTicks c.time.tpWidth, c)

/-- A pulse starts at the present tick, or is skipped and counted if less than half a period has passed since the last start
(R333). -/
def Chip.startPulse (c : Chip) : Chip :=
  let early := match c.time.pulseStart with
    | none => false
    | some t => decide ((c.tick - t) * 625 * 2 * c.time.tpFreq < 64 * 10 ^ 9)
  if early then c.count F.TIME_COUNTS2_TPSKIP 1
  else
    let (w, c) := c.pulseWidth
    (c.onTime fun t => { t with pulseStart := some c.tick, pulseEnd := c.tick + w }).emit .tpulse

/-- Whether pulses are emitted: enabled, and in FREE only with FREEPULSE (R332, R333). -/
def Chip.pulses (c : Chip) : Bool :=
  c.flag F.TIME_TPCFG_EN && (c.get F.TIME_TSTAT_STATE != 0 || c.flag F.TIME_TCFG_FREEPULSE)

/-- Pulse instants, less the output delay, up to scale value `x`, counted from second 0 (R332). -/
def Chip.instantsBy (c : Chip) (x : Int) : Int :=
  let x := x + c.getInt F.TIME_CABDLY_TPDLY * nsUnits
  let ns := (x % (secUnits : Int) / (nsUnits : Int)).toNat
  x / (secUnits : Int) * c.time.tpFreq + min c.time.tpFreq (ceilDiv ((ns + 1) * c.time.tpFreq) (10 ^ 9))

/-- A step from scale value `v0` to `v` at the present tick: a forward step that passes over instants produces at most one
pulse, here (R333; log entry 169). -/
def Chip.stepPulse (c : Chip) (v0 v : Int) : Chip :=
  let before := v0 - tickUnits c.drift c.time.hostFr
  if v ≤ v0 then c
  else
    let c := if before / (secUnits : Int) < v / (secUnits : Int) then c.loadTpcfg else c
    if c.pulses ∧ c.instantsBy before < c.instantsBy v then c.startPulse else c

/-- STEP: the waiting step is applied, at the tick at which the scale reaches a whole second, or at TSETTICK
(R326, R330). -/
def execStep (s : State) : Host.Outcome State Fault Refusal :=
  .next (s.onChip fun c =>
    match c.time.step with
    | none => c
    | some (.atSecond e) =>
      let next := (c.time.scale / secUnits + 1) * secUnits
      let c := c.advance (ticksFor c.drift c.time.hostFr c.time.slew c.slewMax ((next : Int) - c.time.scale))
      let v := ((c.time.scale : Int) + e).toNat
      (c.recordStep e v).stepPulse c.time.scale v
    | some (.atTick t v) =>
      let c := c.advanceTo t
      (c.recordStep ((v : Int) - c.time.scale) v).stepPulse c.time.scale v)

/-- SLEW_END: in REGAIN the remaining error is within 50 ns; the slew ends and the state is LOCKED (Table 12-1). -/
def execSlewEnd (s : State) : Host.Outcome State Fault Refusal :=
  .next (s.onChip fun c =>
    if c.get F.TIME_TSTAT_STATE = 3 ∧ c.time.slew.natAbs ≤ 50 * nsUnits then c.endSlew.setTimeState 1 else c)

/-- HOLDLIM: the holdover age reaches HOLDLIM hours and the time base goes to FREE, keeping d (Table 12-1). -/
def execHoldlim (s : State) : Host.Outcome State Fault Refusal :=
  .next (s.onChip fun c =>
    if c.get F.TIME_TSTAT_STATE = 2 then
      let c := c.advanceTo (c.time.holdFrom + c.get F.TIME_HOLDCFG_HOLDLIM * 3600 * tickHz)
      (c.raise .time 6).setTimeState 0
    else c)

/-- A write of TIME.TCFG: SRC selects the reference, any slew ends and the state becomes FREE (Table 12-1).  A reserved
SRC is not stored and selects nothing. -/
def Chip.tcfgWrite (c : Chip) (val : Nat) : Chip :=
  let c := c.store .time 0x040 val
  if bitField val 0 2 = 3 then c
  else
    let c := c.endSlew.setFlag F.TIME_TSTAT_REFOK false
    let c := c.onTime fun t => { t with quals := 0, misses := 0, lastEdge := none }
    (c.setTimeState 0).refreshBeacons

/-- SRC_WRITE: TCFG written by `i`. -/
def execSrcWrite (i : Init) (val : Nat) (s : State) : Host.Outcome State Fault Refusal :=
  .next (s.onChip fun c => c.gate i .time 0x040 (·.tcfgWrite val))

/-- TPULSE: the scale reaches instant `k` of a second, less the output delay; a pulse starts there, or is skipped if less
than half a period has passed since the last start (R332, R333). -/
def execTpulse (k : Nat) (s : State) : Host.Outcome State Fault Refusal :=
  .next (s.onChip fun c =>
    let c := if k = 0 then c.loadTpcfg else c
    if c.pulses ∧ k < c.time.tpFreq then
      let off : Int := (k * 10 ^ 9 / c.time.tpFreq : Nat) * nsUnits - c.getInt F.TIME_CABDLY_TPDLY * nsUnits
      let inst := ((c.time.scale / secUnits * secUnits : Nat) : Int) + off
      let inst := if inst < c.time.scale then inst + secUnits else inst
      let c := c.advance (ticksFor c.drift c.time.hostFr c.time.slew c.slewMax (inst - c.time.scale))
      c.startPulse
    else c)

/-- Whether EVTEDGE selects an edge (R335). -/
def evtSelected (sel : Nat) (falling : Bool) : Bool := sel == 2 || (sel == 1) == falling

/-- TIME_EVT: an edge at tick `t` after a level of `ns` nanoseconds; a selected edge of at least 100 ns is stamped and
queued, or lost to a full FIFO (R335). -/
def execTimeEvt (t : Nat) (falling : Bool) (ns : Nat) (s : State) : Host.Outcome State Fault Refusal :=
  .next (s.onChip fun c =>
    let c := c.advanceTo t
    if evtSelected (c.get F.TIME_TCFG_EVTEDGE) falling ∧ 100 ≤ ns then
      if 16 ≤ c.time.events.length then ((c.count F.TIME_EVTSTAT_OVF 1).pfaultSet .time 0).raise .time 5
      else
        let tai := c.taiAt c.tick
        (c.onTime fun t => { t with events := t.events ++ [(⟨c.tick, tai.1, tai.2, falling⟩ : EvtStamp)] }).raise .time 4
    else c)

/-- A read of EVTTICKL: pops the oldest stamp into the latched registers; an empty FIFO reads 0 with VALID 0
(R335). -/
def Chip.popEvent (c : Chip) : Nat × Chip :=
  match c.time.events with
  | [] => (0, c.setFlag F.TIME_EVTNS_VALID false)
  | e :: rest =>
    let c := c.onTime fun t => { t with events := rest }
    let c := (c.set F.TIME_EVTTICKH_TICK (e.tick / 2 ^ 32)).set F.TIME_EVTSECL_SEC e.sec
    let c := (c.set F.TIME_EVTSECH_SEC (e.sec / 2 ^ 32)).set F.TIME_EVTNS_NS e.ns
    (e.tick % 2 ^ 32, (c.setFlag F.TIME_EVTNS_VALID true).setFlag F.TIME_EVTNS_EDGE e.falling)

/-- EVTTICKL_READ: EVTTICKL read by `i`. -/
def execEvtticklRead (i : Init) (s : State) : Host.Outcome State Fault Refusal :=
  .next (s.onChip fun c => c.gateRead i .time 0x0B0 Chip.popEvent)

/-- A read of TICK's low word: the tick counter, whose high word is latched for the initiator, and the scale time latched
in the SNAP registers (R335, R407). -/
def Chip.readTick (c : Chip) (i : Init) : Nat × Chip :=
  let tai := c.taiAt c.tick
  let c := (c.set F.TIME_SNAPSECL_SEC tai.1).set F.TIME_SNAPSECH_SEC (tai.1 / 2 ^ 32)
  let c := c.set F.TIME_SNAPNS_NS tai.2
  (c.tick % 2 ^ 32, c.setLatch i .time (.read 0x048 (c.tick / 2 ^ 32 % 2 ^ 32)))

/-- TICK_READ: the low word of TICK read by `i`. -/
def execTickRead (i : Init) (s : State) : Host.Outcome State Fault Refusal :=
  .next (s.onChip fun c => c.gateRead i .time 0x048 (·.readTick i))

/-- Holdover age in seconds (R331). -/
def Chip.holdAge (c : Chip) : Nat := (c.tick - c.time.holdFrom) / tickHz

/-- BOUND (R331), with the floor of u (R327): in REGAIN the spec states none, the value is free (log entry 42). -/
def Chip.timeBound (c : Chip) : Nat :=
  match c.get F.TIME_TSTAT_STATE with
  | 0 => 0xFFFFFFFF
  | 1 => 50
  | 2 =>
    let a := c.holdAge
    min 0xFFFFFFFE (c.time.b0 + (max (10 * c.get F.TIME_HOLDCFG_DUMIN) c.time.uncert * a * 172800 + c.get F.TIME_HOLDCFG_HAGE * a * a) / 1728000)
  | _ => Config.free c.free % 2 ^ 32

end Sys2Proof.Machine
end

