-- ==== Sys2Proof/Machine/Uart.lean ====
section
/-!
DEFINITION. The UARTs: transmitter, receiver, receive ring and breaks (R418 to R422, R432).
-/
namespace Sys2Proof.Machine

/-- UART `u`. -/
def Chip.uart (c : Chip) : Dual → Uart
  | .u0 => c.uart0
  | .u1 => c.uart1

/-- UART `u` as changed by `f`. -/
def Chip.onUart (c : Chip) (u : Dual) (f : Uart → Uart) : Chip :=
  match u with
  | .u0 => { c with uart0 := f c.uart0 }
  | .u1 => { c with uart1 := f c.uart1 }

/-- Whether the UART runs (R447). -/
def Chip.uartOn (c : Chip) (u : Dual) : Bool := c.flag (pctlEnable (.uart u))

/-- Start the next thing the idle transmitter may send: a waiting break, which CTS does not gate, else the oldest
character once CTS allows (R419, R421, R447). -/
def Chip.uartNext (c : Chip) (u : Dual) : Chip :=
  let x := c.uart u
  if !c.uartOn u || x.tx != .idle then c
  else if x.brkPending then c.onUart u fun x => { x with tx := .brk, brkPending := false }
  else
    match x.txFifo with
    | b :: rest =>
      if !c.flag (F.UART_UCFG_FLOW u) || x.cts then c.onUart u fun x => { x with tx := .char b, txFifo := rest } else c
    | [] => c

/-- A write of TXDATA: the character is pushed, or discarded with PFAULT.TXOVF when the FIFO is full (R418). -/
def Chip.pushTx (c : Chip) (u : Dual) (val : Nat) : Chip :=
  if 128 ≤ (c.uart u).txFifo.length then c.pfaultSet (.uart u) 1
  else (c.onUart u fun x => { x with txFifo := x.txFifo ++ [BitVec.ofNat 8 val] }).uartNext u

/-- TXDATA_WRITE: TXDATA written by `i`. -/
def execTxdataWrite (i : Init) (u : Dual) (val : Nat) (s : State) : Host.Outcome State Fault Refusal :=
  .next (s.onChip fun c => c.gate i (.uart u) 0x054 (·.pushTx u val))

/-- CHARACTER_SENT: the transmitter finishes what it sends; CTS, sampled before the next start bit, reads `cts`; the next
character or break starts once allowed (R418, R419, R421). -/
def execCharacterSent (u : Dual) (cts : Bool) (s : State) : Host.Outcome State Fault Refusal :=
  .next (s.onChip fun c =>
    let c := c.onUart u fun x => { x with cts := cts }
    let c := match (c.uart u).tx with
      | .idle => c
      | .char b => (c.onUart u fun x => { x with tx := .idle }).emit
          (.uartChar u.idx (if c.flag (F.UART_UCFG_D7 u) then b &&& 0x7F else b))
      | .brk => (c.onUart u fun x => { x with tx := .idle }).emit (.uartBreak u.idx (c.get (F.UART_BRKLEN_BITS u)))
    c.uartNext u)

/-- RTS follows the level of the receive FIFO under flow control (R419). -/
def Chip.uartRts (c : Chip) (u : Dual) : Chip :=
  let k := (c.uart u).rxFifo.length
  if c.flag (F.UART_UCFG_FLOW u) then
    if c.get (F.UART_FLOWLVL_RTSOFF u) ≤ k then c.onUart u fun x => { x with rts := false }
    else if k ≤ c.get (F.UART_FLOWLVL_RTSON u) then c.onUart u fun x => { x with rts := true }
    else c
  else c

/-- Bytes of a slot of the receive ring (R420). -/
def Chip.slotBytes (c : Chip) (u : Dual) : Nat := 2 ^ (c.get (F.UART_RXRING_SLOT u) + 5)

/-- Slots of the ring. -/
def Chip.slotCount (c : Chip) (u : Dual) : Nat := 2 ^ c.get (F.UART_RXRING_SIZE u) / c.slotBytes u

/-- Whether the ring is full (R420). -/
def Chip.ringFull (c : Chip) (u : Dual) : Bool :=
  (c.get (F.UART_RXWPTR_PTR u) + 1) % c.slotCount u == c.get (F.UART_RXRPTR_PTR u) % c.slotCount u

/-- Close the open slot: header (Table 16-5) and data land in the ring, RXWPTR advances, RX is raised. -/
def Work.closeSlot (w : Work) (u : Dual) (tmo brk : Bool) (brkLen : Nat) : Work :=
  let c := w.chip
  let sl := (c.uart u).slot.getD { data := [], err := false, ovr := false }
  let hdr := sl.data.length + 2 ^ 8 * bit tmo + 2 ^ 9 * bit brk + 2 ^ 10 * bit sl.err + 2 ^ 11 * bit sl.ovr
    + 2 ^ 16 * (if brk then brkLen else 0)
  let at' := c.get (F.UART_RXRING_BASE u) * 256 + c.get (F.UART_RXWPTR_PTR u) * c.slotBytes u
  let w := w.write .sram at' (leBytes 4 hdr ++ sl.data)
  w.onChip fun c =>
    let c := c.set (F.UART_RXWPTR_PTR u) ((c.get (F.UART_RXWPTR_PTR u) + 1) % c.slotCount u)
    (c.onUart u fun x => { x with slot := none }).raise (.uart u) 0

/-- Move one character from the FIFO into the open slot, and close the slot when its data area is full. -/
def Work.dmaOne (w : Work) (u : Dual) : Work :=
  let c := w.chip
  match (c.uart u).rxFifo with
  | [] => w
  | ch :: rest =>
    if c.ringFull u then w
    else
      let sl := (c.uart u).slot.getD { data := [], err := false, ovr := (c.uart u).lost }
      let sl := { sl with data := sl.data ++ [ch.data], err := sl.err || ch.fe || ch.pe }
      let w := w.onChip fun c => c.onUart u fun x => { x with rxFifo := rest, lost := false, slot := some sl }
      if c.slotBytes u ≤ sl.data.length + 4 then w.closeSlot u false false 0 else w

/-- Receive DMA takes the characters of the FIFO as far as the ring has room (R420). -/
def Work.dmaDrain (w : Work) (u : Dual) : Work :=
  if w.chip.flag (F.UART_RXRING_DMAEN u) then
    ((List.range 128).foldl (fun w _ => w.dmaOne u) w).onChip (·.uartRts u)
  else w

/-- Whether the receiver samples its line: enabled, and in STANDBY only once a start edge has woken it (R422, R447). -/
def Chip.uartHears (c : Chip) (u : Dual) : Bool :=
  c.uartOn u && (match c.power with
    | .reset => false
    | .standby => (c.uart u).onRc
    | _ => true)

/-- CHARACTER_RECEIVED: a character arrives, perhaps with a framing or parity error; it is delivered and marked, or lost
to a full FIFO (R418 to R420). -/
def execCharacterReceived (u : Dual) (b : Byte) (fe pe : Bool) (s : State) : Host.Outcome State Fault Refusal :=
  .next (s.onWork fun w =>
    if !w.chip.uartHears u then w
    else if 128 ≤ (w.chip.uart u).rxFifo.length then
      w.onChip fun c => (((c.count (F.UART_UCNT_OVR u) 1).pfaultSet (.uart u) 0).raise (.uart u) 1).onUart u
        fun x => { x with lost := true }
    else
      let w := w.onChip fun c =>
        let d := if c.flag (F.UART_UCFG_D7 u) then b &&& 0x7F else b
        let pe' := pe && c.get (F.UART_UCFG_PARITY u) != 0
        let c := c.onUart u fun x => { x with rxFifo := x.rxFifo ++ [(⟨d, fe, pe'⟩ : UChar)] }
        let c := if fe then c.pfaultSet (.uart u) 2 else c
        let c := if fe || pe' then (c.count (F.UART_UCNT_ERR u) 1).raise (.uart u) 1 else c
        let c := if c.flag (F.UART_RXRING_DMAEN u) then c else c.raise (.uart u) 0
        c.uartRts u
      w.dmaDrain u)

/-- A read of RXDATA: pops a character; with DMA, or with an empty FIFO, VALID reads 0 and nothing is popped (R420). -/
def Chip.popRx (c : Chip) (u : Dual) : Nat × Chip :=
  if c.flag (F.UART_RXRING_DMAEN u) then (0, c)
  else
    match (c.uart u).rxFifo with
    | [] => (0, c)
    | ch :: rest =>
      let c := (c.onUart u fun x => { x with rxFifo := rest }).uartRts u
      (ch.data.toNat + 2 ^ 8 * bit ch.fe + 2 ^ 9 * bit ch.pe + 2 ^ 15,
        if rest.isEmpty then c else c.raise (.uart u) 0)

/-- RXDATA_READ: RXDATA read by `i`. -/
def execRxdataRead (i : Init) (u : Dual) (s : State) : Host.Outcome State Fault Refusal :=
  .next (s.onChip fun c => c.gateRead i (.uart u) 0x058 (·.popRx u))

/-- RECEIVE_TIMEOUT: RTO character times have passed since the last stop bit; the open slot closes (R420). -/
def execReceiveTimeout (u : Dual) (s : State) : Host.Outcome State Fault Refusal :=
  .next (s.onWork fun w =>
    if (w.chip.uart u).slot.isSome then (w.closeSlot u true false 0).dmaDrain u else w)

/-- BREAK: a break of `len` sixteenths of a bit ends on the receive line (R421). -/
def execLineBreak (u : Dual) (len : Nat) (s : State) : Host.Outcome State Fault Refusal :=
  .next (s.onWork fun w =>
    if !w.chip.uartHears u then w
    else
      let l := min 0xFFFF len
      let w := w.onChip fun c => (c.set (F.UART_BRKRX_LEN u) l).raise (.uart u) 1
      if w.chip.flag (F.UART_RXRING_DMAEN u) && !w.chip.ringFull u then (w.closeSlot u false true l).dmaDrain u else w)

/-- UCMD.SENDBRK: a break follows the character in progress; during a break the command is discarded (R421). -/
def Chip.sendBrk (c : Chip) (u : Dual) : Chip :=
  if (c.uart u).tx = .brk then c else (c.onUart u fun x => { x with brkPending := true }).uartNext u

/-- UCMD.RXFLUSH: the receive FIFO empties. -/
def Chip.rxFlush (c : Chip) (u : Dual) : Chip := (c.onUart u fun x => { x with rxFifo := [] }).uartRts u

/-- UCMD.TXFLUSH: the transmit FIFO empties. -/
def Chip.txFlush (c : Chip) (u : Dual) : Chip := c.onUart u fun x => { x with txFifo := [] }

/-- UCMD.CNTCLR: UCNT clears. -/
def Chip.uartCntclr (c : Chip) (u : Dual) : Chip := (c.set (F.UART_UCNT_OVR u) 0).set (F.UART_UCNT_ERR u) 0

/-- A write of UCMD: each bit set acts, in the order SENDBRK, RXFLUSH, TXFLUSH, CNTCLR (R452). -/
def Chip.ucmdWrite (c : Chip) (u : Dual) (val : Nat) : Chip :=
  let c := c.iff (val.testBit 0) (·.sendBrk u)
  let c := c.iff (val.testBit 1) (·.rxFlush u)
  let c := c.iff (val.testBit 2) (·.txFlush u)
  c.iff (val.testBit 3) (·.uartCntclr u)

/-- SENDBRK: UCMD.SENDBRK written by `i`. -/
def execSendbrk (i : Init) (u : Dual) (s : State) : Host.Outcome State Fault Refusal :=
  .next (s.onChip fun c => c.gate i (.uart u) 0x078 (·.sendBrk u))

/-- RXFLUSH: UCMD.RXFLUSH written by `i`. -/
def execRxflush (i : Init) (u : Dual) (s : State) : Host.Outcome State Fault Refusal :=
  .next (s.onChip fun c => c.gate i (.uart u) 0x078 (·.rxFlush u))

/-- TXFLUSH: UCMD.TXFLUSH written by `i`. -/
def execTxflush (i : Init) (u : Dual) (s : State) : Host.Outcome State Fault Refusal :=
  .next (s.onChip fun c => c.gate i (.uart u) 0x078 (·.txFlush u))

/-- UART_CNTCLR: UCMD.CNTCLR written by `i`. -/
def execUartCntclr (i : Init) (u : Dual) (s : State) : Host.Outcome State Fault Refusal :=
  .next (s.onChip fun c => c.gate i (.uart u) 0x078 (·.uartCntclr u))

/-- Whether a ring of 2^size bytes at a window offset lies within the staging region, aligned to its size (R420). -/
def ringPlaced (base size : Nat) : Bool :=
  decide (0x00EC0000 ≤ base) && decide (base + 2 ^ size ≤ 0x01000000) && base % 2 ^ size == 0

/-- A write of RXRING: with DMAEN = 1 a ring out of place leaves DMAEN 0 and sets PFAULT.DESTERR (R420). -/
def Work.rxringWrite (w : Work) (u : Dual) (val : Nat) : Work :=
  let w := w.onChip fun c =>
    let c := c.store (.uart u) 0x068 val
    if val.testBit 31 && !ringPlaced (c.get (F.UART_RXRING_BASE u) * 256) (c.get (F.UART_RXRING_SIZE u)) then
      (c.setFlag (F.UART_RXRING_DMAEN u) false).pfaultSet (.uart u) 3
    else c
  w.dmaDrain u

/-- DMAEN_WRITE: RXRING written by `i`. -/
def execDmaenWrite (i : Init) (u : Dual) (val : Nat) (s : State) : Host.Outcome State Fault Refusal :=
  .next (s.onWork fun w => w.gate i (.uart u) 0x068 (·.rxringWrite u val))

/-- Whether a start edge of UART `u` wakes (CLK.PWRCTL.UARTWAKE0 and 1). -/
def Chip.uartWakes (c : Chip) : Dual → Bool
  | .u0 => c.flag F.CLK_PWRCTL_UARTWAKE0
  | .u1 => c.flag F.CLK_PWRCTL_UARTWAKE1

/-- UART_WAKE: a falling edge on a receive line in STANDBY with its wake enabled starts the RC oscillator and wakes the
hub (R46, R422). -/
def execUartWake (u : Dual) (s : State) : Host.Outcome State Fault Refusal :=
  .next (s.onChip fun c =>
    if c.power = .standby ∧ c.uartWakes u then
      let c := c.onUart u fun x => { x with onRc := true }
      c.onPins fun p => { p with wake := some (p.wake.getD (2 + u.idx)) }
    else c)

end Sys2Proof.Machine
end

