-- ==== Sys2Proof/Machine/Power.lean ====
section
/-!
DEFINITION. Power states: STANDBY, loss of REFCLK, PLLs, MAINS_OK, resets and supply rails (R44 to R49, R86, R437 to R440).
-/
namespace Sys2Proof.Machine

/-! STANDBY (R46, R47). -/

/-- A STANDBY request, by the pin or by the host; one that arrives while another is pending has no further effect. -/
def Chip.askStandby (c : Chip) (byPin : Bool) : Chip :=
  if c.flag F.CLK_PWRSTAT_STBYPEND ∨ c.power = .standby then c
  else (c.setFlag F.CLK_PWRSTAT_STBYPEND true).onPins fun p => { p with stbyPin := byPin }

/-- A pending request made by the host, or by the pin, is withdrawn.  That a write of 0 to PWRCTL.STBY leaves a request of the pin
pending is the model's choice (DESIGN CHOICE, log entry 175): Table 1-16 speaks of "a pending request", R47 of the host's and of
the pin's apart. -/
def Chip.dropStandby (c : Chip) (byPin : Bool) : Chip :=
  if c.flag F.CLK_PWRSTAT_STBYPEND ∧ c.pins.stbyPin = byPin then c.setFlag F.CLK_PWRSTAT_STBYPEND false else c

/-- A write of PWRCTL: STBY = 1 requests STANDBY, STBY = 0 withdraws a pending request of the host. -/
def Chip.pwrctlWrite (c : Chip) (val : Nat) : Chip :=
  let c := c.store .clk 0x048 val
  if val.testBit 0 then c.askStandby false else c.dropStandby false

/-- STBY (R47): PWRCTL written by `i` with STBY = 1; `val` gives its other bits. -/
def execStby (i : Init) (val : Nat) (s : State) : Host.Outcome State Fault Refusal :=
  .next (s.onChip fun c => c.gate i .clk 0x048 fun c => c.pwrctlWrite (setBit val 0))

/-- STBY_WITHDRAW (R47): PWRCTL written by `i` with STBY = 0. -/
def execStbyWithdraw (i : Init) (val : Nat) (s : State) : Host.Outcome State Fault Refusal :=
  .next (s.onChip fun c => c.gate i .clk 0x048 fun c => c.pwrctlWrite (clearMask val 1))

/-- STBY_REQ_RISE (R46): STBY_REQ goes high. -/
def execStbyReqRise (s : State) : Host.Outcome State Fault Refusal :=
  .next (s.onChip fun c =>
    let c := c.onPins fun p => { p with stbyReq := true }
    if c.flag F.CLK_PWRCTL_PINEN ∧ c.power ≠ .reset ∧ !c.stopped then c.askStandby true else c)

/-- STBY_REQ_FALL (R46, R47): STBY_REQ goes low. -/
def execStbyReqFall (s : State) : Host.Outcome State Fault Refusal :=
  .next (s.onChip fun c =>
    let c := (c.onPins fun p => { p with stbyReq := false }).dropStandby true
    if c.flag F.CLK_PWRCTL_PINEN ∧ c.power = .standby then
      c.onPins fun p => { p with wake := some (p.wake.getD 4) }
    else c)

/-- Whether a pending request can be acted on (R47). -/
def Chip.standbyOpen (c : Chip) : Bool :=
  c.flag F.CLK_PWRSTAT_STBYPEND && c.power == .active && !c.stopped && !c.flag F.WHEEL_WSTAT_PPEND
    && c.wheel.next.isNone && c.wheel.active.isNone

/-- In STANDBY a PCIe link that is not down rests in an L1 substate; which of the two is not stated (R45, R411, log entry 176). -/
def Chip.restLink (c : Chip) : Chip :=
  if c.get F.PCIE_LNKSTAT_SPEED = 0 then c else c.nextFree.set F.PCIE_LNKSTAT_PMSUB (2 + c.freeBelow 2)

/-- STANDBY_ENTRY (R46): the steps of a request that can be acted on.  Lanes end line activity at the end of the current facet,
taken here as one step with what follows. -/
def execStandbyEntry (s : State) : Host.Outcome State Fault Refusal :=
  .next (s.onChip fun c =>
    if !c.standbyOpen then c
    else
      let c := c.fittedLanes.foldl Chip.dropLane c
      let c := (c.set F.CLK_PWRSTAT_LANEPWR 0).timeoutOps
      let c := (c.setFlag F.CLK_PWRSTAT_STBYPEND false).setPower .standby
      let c := c.restLink
      c.onPins fun p => { p with wake := none, stbyPin := false })

/-- The hub is active after wake cause `k`: links train, so that the lanes can be reloaded (R46).  The host access that set a
doorbell (cause 1) has returned the PCIe link to L0 (R411). -/
def Chip.wakeUp (c : Chip) (k : Nat) : Chip :=
  let c := c.onPins fun p => { p with wake := none }
  let c := if k = 1 then c.set F.PCIE_LNKSTAT_PMSUB 0 else c
  let c := (c.onUart .u0 fun x => { x with onRc := false }).onUart .u1 fun x => { x with onRc := false }
  let c := c.trainLinks.onHealth fun h => { h with lastBeat := c.tick }
  (((c.setPower .active).set F.CLK_PWRSTAT_WAKECAUSE k).setFlag F.CLK_PWRCTL_STBY false).raise .clk 2

/-- STANDBY_EXIT (R46): after a wake cause the hub is active and resumes. -/
def execStandbyExit (s : State) : Host.Outcome State Fault Refusal :=
  .next (s.onWork fun w =>
    match w.chip.pins.wake with
    | some k =>
      if w.chip.power ≠ .standby ∨ w.chip.stopped then w else (w.onChip fun c => c.wakeUp k).hubResumes
    | none => w)

/-! REFCLK and PLLs (R44, R49). -/

/-- The number and the start of the last turn reached, for the numbering after a loss of REFCLK (R49). -/
def Chip.noteTurn (c : Chip) : Chip :=
  match Lane.all.filter c.running with
  | [] => c
  | n :: rest =>
    let m := rest.foldl (fun a b => if turnBefore (c.turn a) (c.turn b) then b else a) n
    c.onWheel fun w => { w with lost := some (c.turn m, (c.group m).ts / 256) }

/-- A lane die stops with REFCLK.  It does not coast and is reloaded at the restart, so that its state is lost from here on; the
state of its link is the hub's and stands until then (R49). -/
def Chip.stopLane (c : Chip) (n : Lane) : Chip := (((c.wheelHalt n).lineOff n).loseSets n).clearLane n

/-- REFCLK_LOSS (R49): no edge for 1 µs.  AON runs from the RC oscillator, every other island stops, lanes with it, FAULT_N is
asserted.  That the PLLs, whose CLKSTAT bits fall to 0 with their reference, fire no PLL unlock event (CLK source 5) beside the
REFCLK loss is the model's choice (DESIGN CHOICE, log entry 174). -/
def execRefclkLoss (s : State) : Host.Outcome State Fault Refusal :=
  .next (s.onChip fun c =>
    if c.power = .reset ∨ c.stopped then c
    else
      let c := c.noteTurn.endSlew
      let c := ((c.setFlag F.CLK_CLKSTAT_REFOK false).setFlag F.CLK_CLKSTAT_HUBPLL false).setFlag F.CLK_CLKSTAT_LINKPLL false
      let c := (c.setFlag F.CLK_CLKSTAT_AONRC true).count F.CLK_CLKSTAT_REFLOSS 1
      let c := c.fittedLanes.foldl Chip.stopLane c
      ({ c with stopped := true }).onPins fun p => { p with refFault := true })

/-- REFCLK_RESTART (R49): REFCLK has been present for 10 ms.  The part restarts through BOOT, as a hub warm restart does, but the
lanes have stopped too and the PCIe link has gone down. -/
def execRefclkRestart (s : State) : Host.Outcome State Fault Refusal :=
  .next (s.onChip fun c =>
    if !c.stopped then c
    else
      let c := ({ c with stopped := false }.setFlag F.CLK_CLKSTAT_REFOK true).setFlag F.CLK_CLKSTAT_AONRC false
      let c := c.timeoutOps.restartPages
      let c := c.fittedLanes.foldl Chip.dropLane c
      let c := (c.onPins fun p => { p with wake := none }).onBoot fun b => { b with activating := none }
      let c := (c.pcieReset true).setFlag F.TIME_TSTAT_REFOK false
      let c := c.endSlew.onTime fun t => { t with quals := 0, misses := 0, lastEdge := none, step := none }
      (c.setTimeState 0).enterRom.setPower .boot)

/-- PLL_UNLOCK (R44): a hub PLL, or with `link` a link PLL, loses lock. -/
def execPllUnlock (link : Bool) (s : State) : Host.Outcome State Fault Refusal :=
  .next (s.onChip fun c =>
    if c.power = .reset then c
    else (c.setFlag (if link then F.CLK_CLKSTAT_LINKPLL else F.CLK_CLKSTAT_HUBPLL) false).raise .clk 1)

/-- PLL_LOCK (R44): a hub PLL, or with `link` a link PLL, regains lock. -/
def execPllLock (link : Bool) (s : State) : Host.Outcome State Fault Refusal :=
  .next (s.onChip fun c =>
    if c.power = .reset then c else c.setFlag (if link then F.CLK_CLKSTAT_LINKPLL else F.CLK_CLKSTAT_HUBPLL) true)

/-! MAINS_OK (R44, R86). -/

/-- MAINS_OK_LOW: CLK source 7, and every LOCKED group enters HOLD (Table 3-1). -/
def execMainsOkLow (s : State) : Host.Outcome State Fault Refusal :=
  .next (s.onChip fun c =>
    let was := c.pins.mainsOk
    let c := c.onPins fun p => { p with mainsOk := false }
    if c.power = .reset ∨ !was then c else (Lane.all.foldl Chip.toHold c).raise .clk 3)

/-- MAINS_OK_HIGH: groups in HOLD may again accept crossings. -/
def execMainsOkHigh (s : State) : Host.Outcome State Fault Refusal :=
  .next (s.onChip fun c => c.onPins fun p => { p with mainsOk := true })

/-! Resets and rails (R437 to R440). -/

/-- The part is reset completely: what PORST_N low leaves.  The fuses themselves, the levels of the input pins and the outputs so far
are outside; the count of free values goes on. -/
def Chip.porst (c : Chip) : Chip :=
  { Chip.reset with
    part := c.part
    free := c.free
    gpioIn := c.gpioIn
    fuses := { Chip.reset.fuses with array := c.fuses.array }
    pins := { Chip.reset.pins with
      stbyReq := c.pins.stbyReq
      mainsOk := c.pins.mainsOk
      porstLow := c.pins.porstLow
      hubLow := c.pins.hubLow
      railsLow := c.pins.railsLow }
    power := .reset
    out := c.out }

/-- The memories after a complete reset: hub SRAM loses its contents (it reads as nothing written), flash and host memory stay. -/
def Work.porst (w : Work) : Work := (w.clear .sram 0 Space.sram.top).onChip Chip.porst

/-- The part leaves RESET once PORST_N is high and its rails are within tolerance: the tick counter starts, the fuses are latched,
the ROM is in SELECT (R395, R440). -/
def Chip.leaveReset (c : Chip) : Chip :=
  if c.power ≠ .reset ∨ c.pins.porstLow ∨ c.pins.hubLow then c
  else
    let c := ({ c with tick := 0 }).onFuses fun x => { x with latched := x.array, margNow := [], margSeen := [] }
    let c := c.setPower .boot
    if c.dies.any c.fuseDisagree then c.pfaultSet .fuse 0 else c

/-- PORST_N_FALL (R440): PORST_N has been low for 1 µs. -/
def execPorstNFall (s : State) : Host.Outcome State Fault Refusal :=
  .next (s.onWork fun w => w.porst.onChip fun c => c.onPins fun p => { p with porstLow := true })

/-- PORST_N_RISE (R440). -/
def execPorstNRise (s : State) : Host.Outcome State Fault Refusal :=
  .next (s.onChip fun c => (c.onPins fun p => { p with porstLow := false }).leaveReset)

/-- BROWN_OUT (R438): VDD_HUB or VDD_AON below 0.70 V for 1 µs resets the part as PORST_N does. -/
def execBrownOut (s : State) : Host.Outcome State Fault Refusal :=
  .next (s.onWork fun w => w.porst.onChip fun c => c.onPins fun p => { p with hubLow := true })

/-- LANE_RAIL_LOW (R438): a rail of lane `n` falls below its minimum; its link drops and its warden asks for a reload (R387). -/
def execLaneRailLow (n : Lane) (s : State) : Host.Outcome State Fault Refusal :=
  .next (s.onChip fun c =>
    if c.power = .reset ∨ c.pins.railsLow.contains n.num then c
    else
      let c := c.onPins fun p => { p with railsLow := n.num :: p.railsLow }
      if !c.fitted n ∨ !c.bitAt F.CLK_PWRSTAT_LANEPWR n.idx then c
      else
        let c := (c.setLinkState n 0).setBitAt F.CLK_PWRSTAT_LANEPWR n.idx false
        let c := c.onHealth fun h =>
          { h with reloadAsked := if h.reloadAsked.contains n.num then h.reloadAsked else n.num :: h.reloadAsked }
        ((((c.loseSets n).clearLane n).set (F.LSYS_LSTAT_STATE n) 1).set (F.WARDEN_WSTAT_STATE n) 3).set
          (F.WARDEN_WSTAT_CAUSE n) 4)

/-- SUPPLY_RETURN (R437, R438): the rail of lane `n`, or with none a rail of the hub, is within tolerance again: the lane can be
reloaded, or the hub is held no longer. -/
def execSupplyReturn (n : Option Lane) (s : State) : Host.Outcome State Fault Refusal :=
  .next (s.onChip fun c =>
    match n with
    | none => (c.onPins fun p => { p with hubLow := false }).leaveReset
    | some n =>
      let c := c.onPins fun p => { p with railsLow := p.railsLow.filter fun k => k != n.num }
      if c.hubRuns then c.trainLinks else c)

end Sys2Proof.Machine
end

