-- ==== Sys2Proof/Machine/TmapBuild.lean ====
section
/-!
DEFINITION. Building a peer's uplink set: codes and rate from the SNR, clustering, placement and the TMX that commits it (R237 to
R242).
-/
namespace Sys2Proof.Machine

/-! SNR (R179, R237). -/

/-- Builder noise of an input on a carrier in a phase, as a byte of 0.5 dB: max(mean, peak − NPKREL); in a phase that has not been measured
the highest mean of the measured phases (R237). -/
def Chip.builderNoise (c : Chip) (n : Lane) (i ph k : Nat) : Nat :=
  let t := (c.lane n).tmap
  let mean (p : Nat) : Nat := t.mean.getD (meanKey i p k) 0
  if mean ph = 0 then ((List.range 24).map mean).foldl max 0
  else max (mean ph) (t.peak.getD (peakKey i ph ((k - 40) / 40)) 0 - c.get (F.TMAP_NOISECFG_NPKREL n))

/-- The combined SNR of carrier `k` in a phase, in whole 0.25 dB below it, from the channels of a build's source (R179, R237). -/
def Chip.buildSnr (c : Chip) (n : Lane) (chan : List (List Cx)) (ph k : Nat) : Int :=
  let used := c.inputs n
  let known := used.all fun i => c.builderNoise n i ph k != 0
  let xs := used.map fun i => (i, ({ h := (chan.getD i []).getD (k - 40) ⟨0, 0⟩, r := ⟨0, 0⟩
                                     noise := if known then noisePower (c.builderNoise n i ph k) else Config.equalNoise } : InCarrier))
  let snr := carrierSnr (combChoice (c.get (F.RXP_RXCTL_COMB n)) (c.get (F.RXP_RXCTL_FIXIN n)) xs)
  if snr ≤ 0 then -1000 else (4 * Config.decibels snr).floor

/-! Codes and rate (R238). -/

/-- BASE(c) in 0.25 dB (R238, Table 8-3). -/
def Chip.baseOf (c : Chip) (n : Lane) (code : Nat) : Nat :=
  if code ≤ 4 then bitField (c.get (F.TMAP_SNRLO_BASE1 n)) (8 * (code - 1)) 8
  else bitField (c.get (F.TMAP_SNRHI_BASE5 n)) (8 * (code - 5)) 8

/-- OFS(r) in 0.25 dB. -/
def Chip.rateOffset (c : Chip) (n : Lane) (r : Nat) : Nat :=
  if r = 0 then 0 else bitField (c.get (F.TMAP_RATEOFS_OFS1 n)) (8 * (r - 1)) 8

/-- Required SNR of a code at a rate in 0.25 dB, with a margin that the peer asked for (R238, R244). -/
def Chip.required (c : Chip) (n : Lane) (code r add : Nat) : Int :=
  let t : Int := match c.get (F.TMAP_MARGIN_TARGET n) with
    | 0 => -4
    | 1 => 0
    | _ => 4
  (c.baseOf n code : Int) + c.rateOffset n r + t + c.get (F.TMAP_MARGIN_DB n) + add

/-- Thresholds of the codes 1 to `top` at a rate, highest code first. -/
def Chip.thresholds (c : Chip) (n : Lane) (top r add : Nat) : List (Nat × Int) :=
  ((List.range top).map fun k => (k + 1, c.required n (k + 1) r add)).reverse

/-- The largest code whose requirement an SNR meets, or 0. -/
def codeFor (th : List (Nat × Int)) (snr : Int) : Nat :=
  match th.find? fun t => decide (t.2 ≤ snr) with
  | some t => t.1
  | none => 0

/-- Data carriers that a set may load: those on under the current glaze and, while a change is committed, the next (R238). -/
def Chip.openCarriers (c : Chip) (n : Lane) (bp : Nat) : List (Nat × Bool) :=
  let glzs := [(c.epochIn n).glz, c.wheel.cur.glz] ++ (match c.wheel.next with
    | some ch => [ch.dest.glz]
    | none => [])
  (List.range (dataCarriersOf bp)).map fun d => (dataCarrier d, !glzs.any fun g => c.carrierOff n g (dataCarrier d))

/-- A cluster: its phases, lowest first, and the codes of its data carriers. -/
abbrev Cluster := List Nat × List Nat

/-- Bits of a map given by its codes. -/
def codeBits (codes : List Nat) : Nat := codes.foldl (fun a k => a + loadBits k) 0

/-- Per-carrier minimum. -/
def minCodes (a b : List Nat) : List Nat := List.zipWith min a b

/-- Insert a phase's map: into the first cluster with the same map, or as a cluster of its own. -/
def addPhase (cs : List Cluster) (ph : Nat) (codes : List Nat) : List Cluster :=
  if cs.any fun x => x.2 == codes then cs.map fun x => if x.2 == codes then (x.1 ++ [ph], x.2) else x
  else cs ++ [([ph], codes)]

/-- Bits of two clusters before a merge, and what the merge loses (R239). -/
def mergeLoss (a b : Cluster) : Nat × Nat :=
  let before := codeBits a.2 * a.1.length + codeBits b.2 * b.1.length
  (before, before - codeBits (minCodes a.2 b.2) * (a.1.length + b.1.length))

/-- The pair of least loss, ties to the lowest phase in the first, then in the second cluster: their places, bits and loss. -/
def leastPair (cs : List Cluster) : Option (Nat × Nat × Nat × Nat) :=
  let ix := cs.zipIdx
  (ix.flatMap fun a => (ix.drop (a.2 + 1)).map fun b => (a, b)).foldl (fun (best : Option (Nat × Nat × Nat × Nat)) p =>
    let m := mergeLoss p.1.1 p.2.1
    match best with
    | some x => if m.2 < x.2.2.2 then some (p.1.2, p.2.2, m.1, m.2) else some x
    | none => some (p.1.2, p.2.2, m.1, m.2)) none

/-- Merge two clusters into the place of the first. -/
def mergeAt (cs : List Cluster) (i j : Nat) : List Cluster :=
  match cs[i]?, cs[j]? with
  | some a, some b => (cs.set i ((a.1 ++ b.1).mergeSort (· ≤ ·), minCodes a.2 b.2)).eraseIdx j
  | _, _ => cs

/-- The clustering loop of R239; at most 24 merges are possible. -/
def clusterLoop (cltol : Nat) : Nat → List Cluster → List Cluster
  | 0, cs => cs
  | k + 1, cs =>
    match leastPair cs with
    | none => cs
    | some (i, j, before, loss) =>
      if 4 < cs.length ∨ loss * 256 ≤ cltol * before then clusterLoop cltol k (mergeAt cs i j) else cs

/-- The map of a cluster. -/
def Cluster.toneMap (bp rate : Nat) (g6 : Bool) (x : Cluster) : ToneMap :=
  { bp, rate, g6, codes := codesOf (x.2.zipIdx.map fun e => (dataCarrier e.2, e.1)) }

/-- Cluster of each phase. -/
def selsOf (cs : List Cluster) : List Nat :=
  (List.range 24).map fun ph => (cs.findIdx? fun x => x.1.contains ph).getD 0

/-- Codes of the phases at a rate. -/
def Chip.phaseCodes (c : Chip) (n : Lane) (top r add : Nat) (carriers : List (Nat × Bool)) (snr : List (List Int)) :
    List (List Nat) :=
  let th := c.thresholds n top r add
  snr.map fun row => carriers.zipIdx.map fun e => if e.1.2 then codeFor th (row.getD e.2 (-1000)) else 0

/-- The rate that carries most, ties to the lower one, with its codes; none if the mask allows none (R238). -/
def Chip.bestRate (c : Chip) (n : Lane) (g6 : Bool) (add : Nat) (carriers : List (Nat × Bool)) (snr : List (List Int)) :
    Option (Nat × List (List Nat)) :=
  let mask := c.get (F.TMAP_TMCFG_RATEMASK n)
  let rates := (List.range (if g6 then 4 else 5)).filter fun r => mask.testBit r
  let best := rates.foldl (fun (a : Option (Nat × List (List Nat) × Nat)) r =>
    let codes := c.phaseCodes n (if g6 then 7 else 8) r add carriers snr
    let rt := rateOf r
    let v := codes.foldl (fun s k => s + codeBits k) 0 * rt.1 * 840 / rt.2
    match a with
    | some x => if x.2.2 < v then some (r, codes, v) else some x
    | none => some (r, codes, v)) none
  best.map fun x => (x.1, x.2.1)

/-- The clusters of a build: by R239, or for a GLP-6 peer the minimum over the phases of the GLP6 facets. -/
def Chip.buildClusters (c : Chip) (n : Lane) (g6 : Bool) (codes : List (List Nat)) : List Cluster :=
  if g6 then
    let phs := ((List.range 96).filter fun f => c.tableRole n f == 7).map (· % 24)
    match phs.eraseDups with
    | [] => []
    | p :: ps => [(List.range 24, ps.foldl (fun a ph => minCodes a (codes.getD ph [])) (codes.getD p []))]
  else
    clusterLoop (c.get (F.TMAP_MERGE_CLTOL n)) 24
      (codes.zipIdx.foldl (fun cs e => addPhase cs e.2 e.1) [])

/-- The uplink bank of a peer that is not in use: the one that does not hold the version the peer last sent (R242). -/
def Chip.spareBank (c : Chip) (n : Lane) (slot : Nat) : Bool :=
  let a := c.ulBank n slot false
  let b := c.ulBank n slot true
  let last := ((c.lane n).tmap.lastTmv.get? slot).getD 0
  if a.valid ∧ a.tmv = last then true
  else if b.valid ∧ b.tmv = last then false
  else a.valid

/-- Place the maps of clusters; a body that fits no MPDU makes the builder merge the pair of least loss again (R239, R241). -/
def Chip.placeClusters (c : Chip) (n : Lane) (bp rate tmv : Nat) (g6 : Bool) : Nat → List Cluster → Option (MapSet × List Nat) × Chip
  | 0, _ => (none, c)
  | k + 1, cs =>
    match c.installAll n (Chip.placeMerged n) (cs.map (Cluster.toneMap bp rate g6)) [] with
    | (none, c) => (none, c)
    | (some is, c) =>
      let maps := is.filterMap fun i => ((c.lib n).get? i).map (·.map)
      let sels := selsOf cs
      if (tmxBody maps sels tmv bp g6).length ≤ 4064 then (some (.make is sels tmv bp, is), c)
      else
        let c := c.dropRefs n is
        match leastPair cs with
        | none => (none, c)
        | some (i, j, _, _) => Chip.placeClusters c n bp rate tmv g6 k (mergeAt cs i j)

/-- A build has its set: it enters the bank not in use and goes to the peer as a TMX (R240, R242). -/
def Chip.buildDone (c : Chip) (n : Lane) (b : Build) (m : MapSet) (is : List Nat) : Chip :=
  let bank := c.spareBank n b.slot
  let c := (((c.putUl n b.slot bank m).dropRefs n is).sendSet n b.slot bank 1).count (F.TMAP_COUNTS1_BUILDS n) 1
  let c := c.onTmap n fun t => { t with builds := t.builds.filter (·.slot != b.slot), since := t.since.insert b.slot 0 }
  if b.byCmd then (c.set (F.TMAP_BRES_STATUS n) Status.ok.code).set (F.TMAP_BRES_TMV n) m.tmv else c

/-- The channel that a build may take: that of its source; of a GLP-6 peer, which is sent no SOUND, that of a recent frame (R236; log entry
208). -/
def Chip.buildChannel (c : Chip) (n : Lane) (b : Build) : Option (List (List Cx)) :=
  if b.source ≠ 0 then some b.chan
  else if (c.nbr b.slot).proto = 1 then (c.recentChannel n b.slot).map Prod.snd
  else none

/-- BUILD_COMPLETE (R239): the oldest build that has a channel ends, by the SNR of each phase on each data carrier of the profile. -/
def execBuildComplete (n : Lane) (s : State) : Host.Outcome State Fault Refusal :=
  .next (s.onChip fun c =>
    match (c.lane n).tmap.builds.findSome? fun b => (c.buildChannel n b).map fun h => (b, h) with
    | none => c
    | some (b, chan) =>
      if c.get (F.TMAP_NOISESTAT_PHASES n) = 0 ∨ !c.peerOf n b.slot then c
      else
        let g6 := (c.nbr b.slot).proto == 1
        let bp := if g6 then c.g6bp else (c.epochIn n).bp
        let tmv := ((c.lane n).tmap.version.get? b.slot).getD 0 % 15 + 1
        let rows := (List.range 24).map fun ph => (List.range (dataCarriersOf bp)).map fun d =>
          c.buildSnr n chan ph (dataCarrier d)
        match c.bestRate n g6 b.add (c.openCarriers n bp) rows with
        | none => c.buildFails n b.slot .refused
        | some (rate, codes) =>
          match c.buildClusters n g6 codes with
          | [] => c.buildFails n b.slot .refused
          | cs =>
            match c.placeClusters n bp rate tmv g6 24 cs with
            | (none, c) => c.buildFails n b.slot .refused
            | (some (m, is), c) => c.buildDone n b m is)

end Sys2Proof.Machine
end

