-- ==== Sys2Proof/Machine/Fuse.lean ====
section
/-!
DEFINITION. Fuse words as FDATA shows them, and re-verification (R395 to R397, R401).
-/
namespace Sys2Proof.Machine

/-- A write of FCMD: REVERIFY of the die that FSEL names; a request during a run is served by that run (R397). -/
def Chip.fcmdWrite (c : Chip) (val : Nat) : Chip := if val.testBit 0 then c.startReverify (c.get F.FUSE_FSEL_DIE) else c

/-- REVERIFY: FUSE.FCMD written by `i`. -/
def execReverify (i : Init) (s : State) : Host.Outcome State Fault Refusal :=
  .next (s.onChip fun c => c.gate i .fuse 0x050 fun c => c.fcmdWrite 1)

/-- Words of die `d` that are marginal now. -/
def Chip.marginalNow (c : Chip) (d : Nat) : List Nat :=
  (List.range 256).filter fun w => (c.fuses.array.getD (fuseKey d w) .zero).marginal

/-- REVDONE (R397): the run ends: MARGNOW and FCNT; each word found marginal for the first time raises MARGINAL and posts a
record. -/
def execRevdone (s : State) : Host.Outcome State Fault Refusal :=
  .next (s.onChip fun c =>
    match c.fuses.running with
    | none => c
    | some d =>
      let now := if c.dieFitted d then c.marginalNow d else []
      let first := now.filter fun w => !(c.fuseWord d w).marginal && (c.fuses.margSeen.get? (fuseKey d w)).isNone
      let others := c.fuses.margNow.filter fun e => e.1 / 256 != d
      let c := { c with fuses := { c.fuses with
        running := none
        margNow := now.foldl (fun (m : NatMap Nat) w => m.insert (fuseKey d w) 1) others
        margSeen := now.foldl (fun (m : NatMap Nat) w => m.insert (fuseKey d w) 1) c.fuses.margSeen } }
      let c := (c.set F.FUSE_FCNT_MARGWORDS c.fuses.margNow.length).set F.FUSE_FRES_STATUS Status.ok.code
      let c := first.foldl (fun c w => (c.raise .fuse 0).trouble 9 d 0xFF 0 0 w) c
      c.raise .fuse 1)

/-- COPY of FWSTAT: the copy from which the group of a word is read, 3 for a safe default; a word of no group, or of the rollback
counter, shows 0. -/
def Chip.wordCopy (c : Chip) (d w : Nat) : Nat :=
  match groupOfWord d w with
  | none => 0
  | some (first, len, _) => match c.fuseGroup d first len with
    | some (_, k, _) => k
    | none => 3

/-- A read of FDATA (Table 15-10). -/
def Chip.readFdata (c : Chip) : Nat × Chip :=
  let d := c.get F.FUSE_FSEL_DIE
  let w := c.get F.FUSE_FSEL_WORD
  let c := (c.setFlag F.FUSE_FWSTAT_MARGBOOT (c.fuseWord d w).marginal).setFlag F.FUSE_FWSTAT_MARGNOW
    (c.fuses.margNow.get? (fuseKey d w)).isSome
  ((c.fuseWord d w).normal, (c.set F.FUSE_FWSTAT_COPY (c.wordCopy d w)).set F.FUSE_FSEL_WORD ((w + 1) % 256))

/-- FDATA_READ: FUSE.FDATA read by `i` (R401). -/
def execFdataRead (i : Init) (s : State) : Host.Outcome State Fault Refusal :=
  .next (s.onChip fun c => c.gateRead i .fuse 0x048 Chip.readFdata)

end Sys2Proof.Machine
end

