-- ==== Sys2Proof/Machine/Gpio.lean ====
section
/-!
DEFINITION. The GPIO pins and the JTAG port (R425, R426, R434).
-/
namespace Sys2Proof.Machine

/-- Interrupt mode of pin `g`: 0 off, 1 rising, 2 falling, 3 both (Table 16-14). -/
def Chip.gpioMode (c : Chip) (g : Nat) : Nat :=
  if g < 16 then bitField (c.get F.GPIO_IMODEL_MODE) (2 * g) 2 else bitField (c.get F.GPIO_IMODEH_MODE) (2 * (g - 16)) 2

/-- GPIO_EDGE: the level driven onto pin `g` changes; a selected edge sets ISTAT and raises the event of its group of
eight pins, except in STANDBY (R425). -/
def execGpioEdge (g : Nat) (rising : Bool) (s : State) : Host.Outcome State Fault Refusal :=
  .next (s.onChip fun c =>
    if 32 ≤ g then c
    else
      let c := { c with gpioIn := if rising then setBit c.gpioIn g else clearMask c.gpioIn (2 ^ g) }
      let sel := (c.gpioMode g).testBit (if rising then 0 else 1)
      if sel && c.power != .standby && c.power != .reset then
        (c.setBitAt F.GPIO_ISTAT_EDGE g true).raise .gpio (g / 8)
      else c)

/-- Levels of the 32 pins as DIN shows them: an output shows what it drives, an open-drain output drives only 0. -/
def Chip.gpioPins (c : Chip) : Nat :=
  let dir := c.get F.GPIO_DIR_OUT
  let out := c.get F.GPIO_DOUT_LEVEL
  let od := c.get F.GPIO_ODRAIN_OD
  let irq := c.get F.EVT_VECSTAT_SIG &&& c.get F.EVT_IRQMASK_EN
  (List.range 32).foldl (fun a g =>
    let inp := c.gpioIn.testBit g
    let lvl :=
      if g = 0 && c.flag F.GPIO_ALT_IRQN then inp && irq == 0
      else if !dir.testBit g then inp
      else if od.testBit g then inp && out.testBit g
      else out.testBit g
    a + bit lvl * 2 ^ g) 0

/-- DSET: a write by `i` sets DOUT bits (Table 16-14). -/
def execDset (i : Init) (mask : Nat) (s : State) : Host.Outcome State Fault Refusal :=
  .next (s.onChip fun c => c.gate i .gpio 0x048 fun c => c.set F.GPIO_DOUT_LEVEL (c.get F.GPIO_DOUT_LEVEL ||| mask))

/-- DCLR: a write by `i` clears DOUT bits (Table 16-14). -/
def execDclr (i : Init) (mask : Nat) (s : State) : Host.Outcome State Fault Refusal :=
  .next (s.onChip fun c => c.gate i .gpio 0x04C fun c =>
    c.set F.GPIO_DOUT_LEVEL (clearMask (c.get F.GPIO_DOUT_LEVEL) mask))

/-- JTAG_INSTRUCTION: boundary scan always works; debug access acts as BYPASS while the debug lock is set or defaulted
(R426). -/
def execJtagInstruction (r : JtagReq) (s : State) : Host.Outcome State Fault Refusal :=
  .next (s.onChip fun c =>
    { c with jtag := match r with
      | .boundaryScan => .boundary
      | .debugAccess => if c.debugLocked then .bypass else .debug
      | .other => .bypass })

end Sys2Proof.Machine
end

