-- ==== Sys2Proof/Machine/Views.lean ====
section
/-!
DEFINITION. What registers show: identification and status of every page (R404, R449), the registers that only show other
state, and the value of a full 32-bit read with its side effect (R13, R406, R407).
-/
namespace Sys2Proof.Machine

/-- PCAP of a page (R4, R449). -/
def Chip.pcap (c : Chip) : Page → Nat
  | .sys => c.pcapLanes
  | .clk => 0
  | .evt => 0x00200120
  | .health => 0x00000807
  | .fuse => 0x00008100
  | .boot => 0x00000602
  | .time => 0x000003E8
  | .mbx => 0x00004020
  | .qm => 0x00808008
  | .mac => 0x00001407
  | .wheel => 0x00000600
  | .nbr => 0x00042000
  | .saggar => 0x0000002F
  | .keys => 0x10402000
  | .pcie => 0x00000043
  | .qspit => 0x00000032
  | .xspi => 0x00C80200
  | .uart _ => 0x00000C80
  | .twi _ => 0x00000720
  | .gpio => 0x00000020
  | .skejo => 0x00000140 + c.pcapLanes
  | .lsys _ => 0x00001800
  | .afe _ => 0x00000034
  | .agc _ => 0x00000604
  | .echo _ => 0x00006334
  | .txp _ => 0x00020103
  | .rxp _ => 0x00000084
  | .dec _ => 0x00006067
  | .slip _ => 0x04006000
  | .tmap _ => 0x00004400
  | .meas _ => 0x00000036
  | .linear _ => 0x00000C06
  | .warden _ => 0x00000002
  | .spy _ => 0x00000005

/-- The word whose bit `k` tells whether `f` holds of the `k`-th element of a list. -/
def maskWhere {α : Type} (l : List α) (f : α → Bool) : Nat := l.zipIdx.foldl (fun a e => a + bit (f e.1) * 2 ^ e.2) 0

/-- Whether port `p` of a lane transmits now. -/
def Chip.portBusy (c : Chip) (n : Lane) (p : Nat) : Bool := decide (c.tick + c.txdly n p < (c.lane n).tx.busy.getD p 0)

/-- WSTAT.STATE: RESTART while a restart of the sequencers runs (R387, Table 15-11). -/
def Chip.wardenState (c : Chip) (n : Lane) : Nat :=
  let st := c.get (F.WARDEN_WSTAT_STATE n)
  if st = 1 ∧ c.seqDown n c.tick then 2 else st

/-- WSTAT: its state, and the restarts of the last 10 s (Table 15-11). -/
def Chip.wstat (c : Chip) (n : Lane) (stored : Nat) : Nat :=
  let k := ((c.health.seqRestarts.getD n.num []).filter fun t => c.tick < t + 10 * tickHz).length
  stored / 2 ^ 12 * 2 ^ 12 + 2 ^ 8 * min 15 k + c.wardenState n

/-- PSTAT of a page (R449).  Steps are whole, so that a unit reads busy only between steps (log entry 86). -/
def Chip.pstat (c : Chip) : Page → Nat
  | .clk => c.get F.CLK_PWRSTAT_STATE
  | .health => c.health.backstop
  | .fuse => bit c.fuses.running.isSome
  | .boot => c.get F.BOOT_BSTAT_STAGE
  | .time => c.get F.TIME_TSTAT_STATE
  | .mbx => bit c.mbx.err
  | .qm => bit (c.qm.rings.any fun e => e.1 < 128 && !e.2.rxbuf && e.2.st == 1 && e.2.count != 0)
      + 2 * bit (decide (c.get F.QM_CELLSTAT_FREE ≤ c.rxReserve))
  | .mac => c.mac.fdok
  | .wheel => maskWhere Lane.all fun n => c.lstate n == 2
  | .saggar => bit (c.pairWorks 0) + 2 * bit (c.pairWorks 1) + 4 * bit (c.pairWorks 0 != c.pairWorks 1)
      + 8 * bit c.keys.job.isSome + 16 * bit c.keys.hash.isSome + 32 * bit c.keys.rngOk
  | .keys => c.get F.KEYS_KRES_BUSY
  | .skejo => maskWhere Lane.all c.linkUp
  | .lsys n => c.get (F.LSYS_LSTAT_STATE n)
  | .afe n => maskWhere Input.all (fun i => c.retired 1 n.num (i.idx + 1)) + 2 ^ 8 * bit (c.lane n).afe.cal.isNone
  | .agc n =>
    let a := (c.lane n).rx.agc
    bit a.frozen + 2 * (a.mode % 4) + 8 * bit a.cand
  | .echo n => c.get (F.ECHO_ESTAT_FDOK n)
  | .txp n => maskWhere [1, 2, 3] (c.portBusy n) + 2 ^ 4 * maskWhere [1, 2, 3] (fun p => c.retired 0 n.num p)
      + 2 ^ 8 * maskWhere [0, 1, 2] (c.ceilOff n) + 2 ^ 12 * maskWhere [0, 1, 2] (c.clamped n)
  | .rxp n =>
    let r := (c.lane n).rx.rx
    bit (c.searches n c.tick) + 2 * bit r.isSome
      + 4 * bit (match r with
          | some x => x.kind == .uplink
          | none => false)
      + 8 * bit (match r with
          | some x => x.fd
          | none => false)
      + 2 ^ 8 * c.inputsMask n
  | .dec n =>
    let d := (c.lane n).rx.dec
    maskWhere (List.range 7) (fun e => (d.busy.get? e).isSome || d.testing == some e)
      + 2 ^ 8 * bit (c.get (F.DEC_ENGSTAT_RESERVE n) == 0)
  | .slip n => bit (c.slipStoring n) + 2 * bit (c.coasting n)
  | .tmap n => bit (!(c.lane n).tmap.builds.isEmpty)
  | .meas n => bit ((List.range 6).any fun ch => c.flag (F.MEAS_GLOST_PRIME n ch)) + 2 * bit (c.meas.get n).blanked
  | .linear n => c.get (F.LINEAR_LSTAT_RANGE n)
  | .warden n => c.wardenState n
  | .spy n =>
    let y := (c.lane n).rx.spy
    bit y.armed + 2 * bit y.running + 4 * bit y.done
  | _ => 0

/-- PCTL of a page (Table 0-5). -/
def Chip.pctl (c : Chip) (p : Page) : Nat :=
  c.get (pctlEnable p) + 2 * c.get (pctlSoftreset p) + 4 * bit (c.unlocked p)

/-- A common register of Table 0-4. -/
def Chip.commonWord (c : Chip) (p : Page) (off : Nat) : Nat :=
  if off = 0x000 then p.typeCode * 2 ^ 24 + p.unit * 2 ^ 16 + 0x0100
  else if off = 0x004 then c.pcap p
  else if off = 0x008 then c.pctl p
  else if off = 0x00C then c.pstat p
  else if off = 0x010 then c.get (pevt p)
  else if off = 0x014 then c.get (pevten p)
  else if off = 0x018 then c.get (pfault p)
  else if off = 0x01C then c.get (pfcntCount p) + 2 ^ 16 * c.get (pfcntLast p)
  else 0

/-- KSTAT of the slot that KSEL names (Table 11-9). -/
def Chip.kstat (c : Chip) : Nat :=
  let cls := c.get F.KEYS_KSEL_CLASS
  let idx := c.get F.KEYS_KSEL_INDEX
  let s := c.keys.slot cls idx
  let sec : Nat := match s.sec.st with
    | .next => 1
    | .previous => 2
    | .committed => 3
    | _ => 0
  bit s.cur.holds + 2 * bit (s.cur.holds && s.cur.size == 1) + 4 * sec + 2 ^ 4 * bit (s.sec.holds && s.sec.size == 1)
    + 2 ^ 5 * bit s.locked + 2 ^ 6 * bit (cls == 1 && c.keyInForce idx)

/-- KCTR, or with `second` KCTR2 (Table 11-9). -/
def Chip.kctr (c : Chip) (second : Bool) : Nat :=
  let cls := c.get F.KEYS_KSEL_CLASS
  let s := c.keys.slot cls (c.get F.KEYS_KSEL_INDEX)
  if second then (if cls = 1 ∧ s.sec.holds then s.sec.ctr else 0)
  else if cls ≠ 2 ∧ s.cur.holds then s.cur.ctr else 0

/-- GLZUSE (Table 4-5). -/
def Chip.glzuse (c : Chip) (n : Lane) : Nat :=
  let cur := c.wheel.cur.glz
  let old := (c.wheel.prev.map (·.glz)).getD 0
  packFields ([1, 2, 3].map (fun p => (4, c.gxlat n p cur))
    ++ [1, 2, 3].map (fun p => (4, if c.wheel.prev.isSome then c.gxlat n p old else 0)) ++ [(1, bit c.wheel.prev.isSome)])

/-- Peers in an epoch state of a set. -/
def Chip.peersIn (c : Chip) (sts : List Nat) : Nat :=
  (c.mac.nbr.filter fun e => e.1 != 0 && e.2.st == 1 && sts.contains e.2.epst).length

/-- Whether a frame that is due sends from port `p`, so that the driver is on for it: from LEAD before its first sample at the
pins (Table 5-3). -/
def Chip.drvenDue (c : Chip) (n : Lane) (p : Nat) : Bool :=
  (c.lane n).tx.ready.any fun f =>
    decide (f.t0 ≤ c.tick + c.txdly n p + c.get (F.AFE_DRVTIM_LEAD n) * 1024 / 100)
      && !f.late && (match f.set with
        | some x => (c.framePorts n f x).contains p
        | none => false)

/-- The state of DRVEN of port `p` (1 to 3) (R143).  DESIGN CHOICE (log entry 186): it stays low while HELD, although a PORTEN bit that
software writes 1 meanwhile stands (R144). -/
def Chip.drven (c : Chip) (n : Lane) (p : Nat) : Bool :=
  let mode := c.get (F.AFE_DRVCFG_MODE n (p - 1))
  if c.bitAt (F.AFE_DRVSTAT_HELD n) (p - 1) then false
  else if mode = 1 then (c.get (F.LSYS_LSTAT_STATE n) == 2 || c.coasting n) && c.portCause n p == 0
  else if mode = 0 then
    c.drvenDue n p
      || decide (c.tick + c.txdly n p < (c.lane n).tx.busy.getD p 0 + c.get (F.AFE_DRVTIM_LAG n) * 1024 / 100)
  else false

/-- FGAINi of input `i` (0 to 3) (Table 5-8). -/
def Chip.fgain (c : Chip) (n : Lane) (i : Nat) : Nat :=
  match c.afeTrim n i with
  | some w => bitField w 0 12 + 2 ^ 16 * bitField w 16 12 + 2 ^ 31
  | none => 0

/-- FVALID (Table 13-5). -/
def Chip.fvalid (c : Chip) (n : Lane) : Nat :=
  maskWhere (List.range 4) (fun ch => (c.polyCoef n ch 0).isSome) + 2 ^ 4 * (3 * bit (c.auxTrim n).isSome)

/-- NPEAK: the peaks of the sherd that holds CARR (R248). -/
def Chip.npeak (c : Chip) (n : Lane) : Nat :=
  let t := (c.lane n).tmap
  packFields ((List.range 4).map fun i =>
    (8, t.peak.getD (peakKey i (c.get (F.TMAP_NADDR_PHASE n)) ((c.get (F.TMAP_NADDR_CARR n) - 40) / 40)) 0))

/-- BVAL of the bucket that BSEL names (Table 15-9). -/
def Chip.bval (c : Chip) : Nat :=
  let cls := c.get F.HEALTH_BSEL_CLASS
  let k := bucketKey cls (c.get F.HEALTH_BSEL_DIE) (c.get F.HEALTH_BSEL_UNIT)
  c.health.buckets.getD k 0 + 2 ^ 8 * c.get (F.HEALTH_THR_THR cls) + 2 ^ 16 * bit (c.health.retired.get? k).isSome

/-- FLTSRC: the lowest source that holds FAULT_N (R413). -/
def Chip.fltsrc (c : Chip) : Nat :=
  match c.faultSources with
  | s :: rest => rest.foldl min s + 2 ^ 16
  | [] => 0

/-- Whether FAULT_N is asserted (R393, R413): the part is held in reset, REFCLK is lost, the backstop has failed, the ROM found no
bootable slot, or a routed source holds its event. -/
def Chip.faultAsserted (c : Chip) : Bool :=
  c.pins.porstLow || c.pins.hubLow || c.pins.refFault || c.health.backstop == 2 || c.pins.noBoot || !c.faultSources.isEmpty

/-- GREMAIN: whole seconds left of the greenware window, rounded up (R376). -/
def Chip.gremain (c : Chip) : Nat :=
  if c.flag F.BOOT_BSTAT_GREEN ∧ !c.boot.greenExpired then ceilDiv (c.boot.greenEnd - c.tick) tickHz else 0

/-- RSTAT of the ring that RSEL names; FULL is shown for a completion ring (Table 10-9). -/
def Chip.rstat (c : Chip) : Nat :=
  let r := c.get F.QM_RSEL_RING
  let x := c.ring r
  x.st + 2 ^ 4 * x.err + 2 ^ 8 * bit (128 ≤ r && x.full)

/-- QSTAT of the queue that QSEL names (Table 10-9). -/
def Chip.qstat (c : Chip) : Nat :=
  let q := c.queue (c.get F.QM_QSEL_QUEUE)
  q.cells % 2 ^ 16 + 2 ^ 16 * (q.mpdus.length % 2 ^ 15) + 2 ^ 31 * bit q.held

/-- FIFOSTAT of a UART (Table 16-12). -/
def Chip.fifostat (c : Chip) (u : Dual) : Nat :=
  let x := c.uart u
  x.txFifo.length + 2 ^ 8 * x.rxFifo.length + 2 ^ 16 * bit x.rts + 2 ^ 17 * bit x.cts + 2 ^ 18 * bit (x.tx != .idle)

/-- Marginal dies and dies with a defaulted group, as FSTAT shows them (Table 15-10). -/
def Chip.fstat (c : Chip) : Nat :=
  maskWhere (List.range 8) (fun d => c.dieFitted d && c.dieMarginal d)
    + 2 ^ 8 * maskWhere (List.range 8) (fun d => c.dieFitted d && c.dieDefaults d != 0)

/-- The bit of a condition at place `k` instead of what is stored there. -/
def withBit (w k : Nat) (b : Bool) : Nat := if b then setBit w k else clearMask w (2 ^ k)

/-- The word that a register beyond Table 0-4 shows, `stored` being what its fields hold.  A register that only shows other
state is computed here. -/
def Chip.shown (c : Chip) (p : Page) (off stored : Nat) : Nat :=
  match p with
  | .evt => if off = 0x050 then c.fltsrc else stored
  | .health => if off = 0x04C then c.bval else stored
  | .fuse =>
    if off = 0x040 then c.fstat
    else if off = 0x058 then stored % 2 ^ 16 + 2 ^ 16 * ((c.dies.map c.dieDefaults).foldl (· + ·) 0)
    else if 0x080 ≤ off ∧ off < 0x100 then
      let d := (off - 0x080) / 16
      if c.dieFitted d then c.identWord d ((off - 0x080) % 16 / 4) else 0
    else stored
  | .boot =>
    if off = 0x054 then c.floorInForce % 64 + 2 ^ 8 * (c.rollbackLatched % 64)
    else if off = 0x05C then c.gremain % 2 ^ 12 else stored
  | .time =>
    if off = 0x044 then
      withBit (withBit (stored % 2 ^ 8) 4 c.stopped) 5 (c.time.slew != 0) + 2 ^ 8 * (if c.get F.TIME_TSTAT_STATE = 2 then min (2 ^ 24 - 1) c.holdAge else 0)
    else if off = 0x048 then c.tick % 2 ^ 32
    else if off = 0x04C then c.tick / 2 ^ 32 % 2 ^ 32
    else if off = 0x05C then c.timeBound
    else if off = 0x0A8 then stored / 2 ^ 16 * 2 ^ 16 + c.time.events.length
    else stored
  | .mbx => if off = 0x070 then c.mbx.requests.length else stored
  | .qm =>
    if off = 0x064 then c.rstat
    else if off = 0x068 then (c.ring (c.get F.QM_RSEL_RING)).h
    else if off = 0x06C then (c.ring (c.get F.QM_RSEL_RING)).t
    else if off = 0x084 then c.qstat else stored
  | .wheel => if off = 0x074 then c.peersIn [1, 2] + 2 ^ 16 * c.peersIn [0] else stored
  | .nbr => if off = 0x060 then c.slotsAssigned + 2 ^ 16 * c.slotsQuar else stored
  | .keys =>
    if off = 0x06C then c.kstat else if off = 0x070 then c.kctr false else if off = 0x074 then c.kctr true
    else if off = 0x078 then c.keys.poolFree
    else if off < 0x060 then 0 else stored
  | .pcie => if off = 0x040 then withBit stored 12 (c.pcie.msixEnable && !c.pcie.funcMask) else stored
  | .qspit => if off = 0x044 then withBit stored 1 (!c.qspi.buffer.isEmpty) else stored
  | .uart u => if off = 0x05C then c.fifostat u else stored
  | .gpio => if off = 0x050 then c.gpioPins else stored
  | .skejo =>
    if 0x040 ≤ off ∧ off < 0x120 ∧ (off - 0x040) % 0x20 = 0 then
      match Lane.ofNum ((off - 0x040) / 0x20 + 1) with
      | some n => if c.fitted n then stored else 4
      | none => stored
    else stored
  | .afe n =>
    if off = 0x048 then stored / 2 ^ 8 * 2 ^ 8 + 2 ^ 4 * maskWhere [0, 1, 2] (c.fltActive n) + maskWhere [1, 2, 3] (c.drven n)
    else if 0x060 ≤ off ∧ off < 0x070 then c.fgain n ((off - 0x060) / 4) else stored
  | .txp n => if off = 0x078 then c.glzuse n else stored
  | .slip n => if off = 0x044 then c.slipLines n + 2 ^ 16 * (c.slipEntries n).length else stored
  | .tmap n =>
    if off = 0x04C then c.libUsed n + 2 ^ 16 * c.libFree n else if off = 0x43C then c.npeak n else stored
  | .linear n => if off = 0x0C4 then c.fvalid n else stored
  | .warden n => if off = 0x040 then c.wstat n stored else stored
  | _ => stored

/-- The value of a register as a read without side effect shows it. -/
def Chip.view (c : Chip) (p : Page) (off : Nat) : Nat :=
  if off ≤ 0x020 then c.commonWord p off
  else match findReg p off with
    | some r => c.shown p off (c.storedWord r)
    | none => 0

/-- A read of a port register: its value and its side effect. -/
def Chip.portRead (c : Chip) (p : Page) (off : Nat) : Nat × Chip :=
  match p with
  | .evt => c.readRtdata
  | .fuse => c.readFdata
  | .time => c.popEvent
  | .mac => c.readFadata
  | .wheel => c.readTbl
  | .nbr => c.readLrdata
  | .uart u => c.popRx u
  | .twi u => c.popTdata u
  | .agc n => c.readStdata n
  | .echo n => c.readMdata n
  | .txp n => if off = 0x404 then c.readGlz n else c.readWs n
  | .tmap n => c.readNdata n
  | .linear n => c.readCdata n
  | p => (c.view p off, c)

/-- A full 32-bit read of a register by `i`, which had left `held` in its latch for the page: the low word of a pair latches the
high word, the high word shows the latched one (R407); a port register performs its side effect.  A BOUND whose value is open is
a new one at each read. -/
def Chip.readReg (c : Chip) (i : Init) (held : PrLatch) (p : Page) (off : Nat) : Nat × Chip :=
  match findReg p off with
  | none => (c.view p off, c)
  | some r =>
    if p = .time ∧ off = 0x048 then c.readTick i
    else if p = .time ∧ off = 0x05C ∧ c.get F.TIME_TSTAT_STATE = 3 then (c.view p off, c.nextFree)
    else if r.port then c.portRead p off
    else if r.pr then
      if off % 8 = 0 then (c.view p off, c.setLatch i p (.read off (c.view p (off + 4))))
      else match held with
        | .read o h => (if o + 4 = off then h else c.view p off, c)
        | _ => (c.view p off, c)
    else (c.view p off, c)

end Sys2Proof.Machine
end

