-- ==== Sys2Proof/Machine/Access.lean ====
section
/-!
DEFINITION. Register and window accesses: control of pages, soft reset, counters, the effect of a write on each register, paired
registers, and reads (R9 to R15, R32, R33, R404 to R408, R447).
-/
namespace Sys2Proof.Machine

/-! Running and stopping (R447). -/

/-- Whether the page can be stopped (Table 0-9). -/
def stoppable : Page → Bool
  | .txp _ | .rxp _ | .echo _ | .slip _ | .tmap _ | .spy _ | .uart _ | .twi _ => true
  | _ => false

/-- ENABLE takes a value: the block stops or runs as Table 0-9 states; a page that cannot be stopped ignores it. -/
def Chip.setEnable (c : Chip) (p : Page) (b : Bool) : Chip :=
  if !stoppable p || c.flag (pctlEnable p) == b then c
  else
    let c := c.setFlag (pctlEnable p) b
    match p with
    | .echo n => c.ectlSettle n
    | .slip n => c.iff (!b) (·.slipReset n)
    | .spy n => c.iff (!b) (·.spyEnd n)
    | .rxp n => c.rxpSettle n
    | .txp n => c.iff ([1, 2, 3].any fun p => c.bitAt (F.TXP_TXCTL_PORTEN n) (p - 1)) (·.portMoved n)
    | .uart u => c.uartNext u
    | _ => c

/-- A write of PCTL: SOFTRESET starts a soft reset, which carries ENABLE; otherwise ENABLE takes its value at once.  While a soft
reset is under way another write of 1 has no further effect (Table 0-5, R9). -/
def Chip.pctlWrite (c : Chip) (p : Page) (val : Nat) : Chip :=
  if val.testBit 1 then
    if c.flag (pctlSoftreset p) then c
    else (c.setFlag (pctlSoftreset p) true).setFlag (pctlCarried p) (val.testBit 0)
  else c.setEnable p (val.testBit 0)

/-- SOFTRESET: PCTL of a page written by `i` with SOFTRESET = 1 and an ENABLE value (R9). -/
def execSoftreset (i : Init) (p : Page) (en : Bool) (s : State) : Host.Outcome State Fault Refusal :=
  .next (s.onChip fun c => c.gate i p 0x008 fun c => c.pctlWrite p (2 + bit en))

/-- STOP_BLOCK: PCTL written by `i` with ENABLE = 0 (R447). -/
def execStopBlock (i : Init) (p : Page) (s : State) : Host.Outcome State Fault Refusal :=
  .next (s.onChip fun c => c.gate i p 0x008 fun c => c.pctlWrite p 0)

/-- RUN_BLOCK: PCTL written by `i` with ENABLE = 1 (R447). -/
def execRunBlock (i : Init) (p : Page) (s : State) : Host.Outcome State Fault Refusal :=
  .next (s.onChip fun c => c.gate i p 0x008 fun c => c.pctlWrite p 1)

/-- PEVT_CLEAR: PEVT written by `i`; the events of `again` recur in the same cycle (R10). -/
def execPevtClear (i : Init) (p : Page) (mask again : Nat) (s : State) : Host.Outcome State Fault Refusal :=
  .next (s.onChip fun c => c.gate i p 0x010 fun c => c.clearPevt p (mask % 2 ^ 32) again)

/-- PFAULT_CLEAR: PFAULT written by `i`; the faults of `again` recur in the same cycle (R10). -/
def execPfaultClear (i : Init) (p : Page) (mask again : Nat) (s : State) : Host.Outcome State Fault Refusal :=
  .next (s.onChip fun c => c.gate i p 0x018 fun c => c.clearPfault p (mask % 2 ^ 32) again)

/-- PEVTEN_WRITE: PEVTEN written by `i` (R412). -/
def execPevtenWrite (i : Init) (p : Page) (val : Nat) (s : State) : Host.Outcome State Fault Refusal :=
  .next (s.onChip fun c => c.gate i p 0x014 fun c => c.writePevten p (val % 2 ^ 32))

/-- A write of PLOCK (R11): the first key, then the second, unlock; the keys keep an unlocked page unlocked; any other value
relocks and discards a pending first key. -/
def Chip.plockWrite (c : Chip) (p : Page) (val : Nat) : Chip :=
  let st := c.get (plock p)
  if st = 2 then (if val = 0x00004B31 ∨ val = 0x0000B4CE then c else c.set (plock p) 0)
  else if val = 0x00004B31 then c.set (plock p) 1
  else if val = 0x0000B4CE ∧ st = 1 then c.set (plock p) 2
  else c.set (plock p) 0

/-- PLOCK_WRITE: PLOCK written by `i` (R11). -/
def execPlockWrite (i : Init) (p : Page) (val : Nat) (s : State) : Host.Outcome State Fault Refusal :=
  .next (s.onChip fun c => c.gate i p 0x020 fun c => c.plockWrite p (val % 2 ^ 32))

/-! Counters. -/

/-- Every field of the registers of a page from offset `lo` to `hi` returns to its reset value. -/
def Chip.clearRegs (c : Chip) (p : Page) (lo hi : Nat) : Chip :=
  (pageRegs p).foldl (fun c r =>
    if lo ≤ r.off ∧ r.off ≤ hi then r.slices.foldl (fun c s => c.resetFld s.fld) c else c) c

/-- Offset of CNTCLR on the pages that have one. -/
def cntclrOff : Page → Option Nat
  | .skejo => some 0x120
  | .sys | .pcie => some 0x050
  | .qspit => some 0x054
  | .mac | .qm | .txp _ | .afe _ | .rxp _ => some 0x0B0
  | .saggar => some 0x0C0
  | .keys => some 0x080
  | .time | .meas _ => some 0x0D0
  | .echo _ | .slip _ | .tmap _ => some 0x070
  | .agc _ | .dec _ => some 0x060
  | _ => none

/-- A write of CNTCLR: the counters the page names clear (R137 and the register tables).  DESIGN CHOICE (log entry 185): LASTDROP, which is
no count, stays. -/
def Chip.cntclrWrite (c : Chip) (p : Page) (val : Nat) : Chip :=
  let one := val.testBit 0
  match p with
  | .skejo => Lane.all.foldl (fun c n =>
      c.iff (val.testBit n.idx) fun c => c.clearRegs .skejo (0x048 + 0x20 * n.idx) (0x050 + 0x20 * n.idx)) c
  | .txp n => [0, 1, 2].foldl (fun c q =>
      c.iff (val.testBit q) fun c => c.clearRegs (.txp n) (0x080 + 0x10 * q) (0x084 + 0x10 * q)) c
  | .afe n =>
    let c := [0, 1, 2, 3].foldl (fun c i =>
      c.iff (val.testBit i) fun c => c.clearRegs (.afe n) (0x080 + 8 * i) (0x084 + 8 * i)) c
    [0, 1, 2].foldl (fun c q => c.iff (val.testBit (4 + q)) fun c => c.set (F.AFE_FLTCNT_PORT n q) 0) c
  | .echo n => c.iff one fun c => (((c.set (F.ECHO_COUNTS_PASSES n) 0).set (F.ECHO_COUNTS_TRNFAIL n) 0).clearRegs (.echo n)
      0x064 0x06C)
  | .agc n => c.iff one fun c => c.clearRegs (.agc n) 0x048 0x04C
  | .rxp n => c.iff one fun c => c.clearRegs (.rxp n) 0x070 0x088
  | .dec n => c.iff one fun c => c.clearRegs (.dec n) 0x048 0x054
  | .slip n => c.iff one fun c => (c.clearRegs (.slip n) 0x04C 0x05C).set (F.SLIP_PEAK_LINES n) (c.slipLines n)
  | .tmap n => c.iff one fun c => c.clearRegs (.tmap n) 0x05C 0x064
  | .mac => c.iff one fun c => c.clearRegs .mac 0x050 0x070
  | .qm => c.iff one fun c => (c.clearRegs .qm 0x0A0 0x0AC).set F.QM_CELLSTAT_LOW (c.get F.QM_CELLSTAT_FREE)
  | .saggar => c.iff one fun c => c.clearRegs .saggar 0x040 0x04C
  | .keys => c.iff one fun c => c.clearRegs .keys 0x07C 0x07C
  | .time => c.iff one fun c => (c.clearRegs .time 0x0C8 0x0CC).set F.TIME_EVTSTAT_OVF 0
  | .meas n => c.iff one fun c => (c.clearRegs (.meas n) 0x074 0x074).set (F.MEAS_OVRCNT_COUNT n) 0
  | .sys => c.iff one fun c => c.clearRegs .sys 0x048 0x048
  | .pcie => c.iff one fun c => c.clearRegs .pcie 0x048 0x04C
  | .qspit => c.iff one fun c => c.clearRegs .qspit 0x050 0x050
  | _ => c

/-- CNTCLR: the CNTCLR register of a page written by `i`; a page that has none is not accessed. -/
def execCntclr (i : Init) (p : Page) (val : Nat) (s : State) : Host.Outcome State Fault Refusal :=
  .next (s.onChip fun c => match cntclrOff p with
    | some off => c.gate i p off fun c => c.cntclrWrite p val
    | none => c)

/-! The effect of a write. -/

/-- A paired register takes its 64-bit value: those that hold a measured or counted value take none (Table 0-6, R322). -/
def Chip.prCommit (c : Chip) (i : Init) (p : Page) (off val : Nat) : Chip :=
  match p with
  | .qm => c.set F.QM_RBASE_BASE val
  | .mbx => c.d2hbaseWrite i (off + 4) val
  | .time => if off = 0x080 then c.set F.TIME_TSETTICK_TICK val else c
  | _ => c

/-- A write of one half of a paired register at `off` (R407): the low half is held; the high half commits with the held low half,
or with the current low word where the initiator's previous access to the page was not the low write. -/
def Chip.prWrite (c : Chip) (i : Init) (held : PrLatch) (p : Page) (off val : Nat) : Chip :=
  if off % 8 = 0 then c.setLatch i p (.write off val)
  else
    let low := match held with
      | .write o l => if o + 4 = off then l else c.view p (off - 4)
      | _ => c.view p (off - 4)
    c.prCommit i p (off - 4) (low + 2 ^ 32 * val)

/-- A hub register that does more on a write than store its fields. -/
def Work.hubEffect (w : Work) (i : Init) (p : Page) (off val : Nat) : Work :=
  let on (f : Chip → Chip) : Work := w.onChip f
  match p, off with
  | .clk, 0x048 => on (·.pwrctlWrite val)
  | .evt, 0x044 => on (·.writeRtdata val)
  | .health, 0x060 => w.ksbeatWrite
  | .health, 0x064 => on (·.lcmdWrite val)
  | .health, 0x420 => on (·.injectWrite val)
  | .fuse, 0x050 => on (·.fcmdWrite val)
  | .fuse, 0x400 => on (·.burnFloor (bitField val 0 6))
  | .boot, 0x060 => w.confirmWrite val
  | .boot, 0x074 => w.reccmdWrite val
  | .time, 0x040 => on (·.tcfgWrite val)
  | .time, 0x088 => on (·.tcmdWrite i val)
  | .mbx, 0x040 => on (·.h2dSet false val)
  | .mbx, 0x044 => on (·.h2dSet true val)
  | .mbx, 0x06C => on (·.d2hfullWrite val)
  | .qm, 0x048 => w.ringdbWrite val
  | .qm, 0x04C => on (·.rselWrite val)
  | .qm, 0x060 => w.rcmdWrite i val
  | .qm, 0x088 => on (·.qcmdWrite i val)
  | .mac, 0x404 => on (·.writeFadata val)
  | .mac, 0x408 => on (·.farstWrite val)
  | .wheel, 0x040 => on (·.wctlWrite val)
  | .wheel, 0x058 => on (·.qcmdQuiet i val)
  | .wheel, 0x06C => on (·.epcmdWrite i val)
  | .wheel, 0x404 => on (·.writeTbl i val)
  | .wheel, 0x408 => on (·.tblchkWrite val)
  | .wheel, 0x418 => on (·.forceWrite val)
  | .nbr, 0x040 | .nbr, 0x044 => on fun c => if c.wheelRun then c.refuseState i .nbr off else c.store .nbr off val
  | .nbr, 0x058 => on (·.ncmdWrite val)
  | .nbr, 0x080 => on (·.dmcmdWrite i val)
  | .nbr, 0x094 => w
  | .nbr, 0x400 => on (·.qforceWrite val)
  | .saggar, 0x080 => on fun c => c.iff (val.testBit 0) Chip.startJob
  | .saggar, 0x098 => on (·.hcmdWrite i val)
  | .saggar, 0x404 => on (·.pipeovrWrite val)
  | .keys, 0x060 => on (·.keycmdWrite val)
  | .uart u, 0x040 => on fun c => ((c.store p off val).uartRts u).uartNext u
  | .uart u, 0x04C => on fun c => (c.store p off val).uartRts u
  | .uart u, 0x054 => on (·.pushTx u val)
  | .uart u, 0x068 => w.rxringWrite u val
  | .uart u, 0x070 => (on (·.store p off val)).dmaDrain u
  | .uart u, 0x078 => on (·.ucmdWrite u val)
  | .twi u, 0x04C => on (·.pushTdata u val)
  | .twi u, 0x050 => on fun c => c.iff (val.testBit 0) fun c => c.twiStart u (c.twi u).sdaStuck
  | .gpio, 0x048 => on fun c => c.set F.GPIO_DOUT_LEVEL (c.get F.GPIO_DOUT_LEVEL ||| val)
  | .gpio, 0x04C => on fun c => c.set F.GPIO_DOUT_LEVEL (clearMask (c.get F.GPIO_DOUT_LEVEL) val)
  | .skejo, 0x400 => on (·.forceRetrain val)
  | _, _ =>
    if p = .mbx ∧ 0x100 ≤ off ∧ off < 0x300 ∧ off % 16 = 0xC then on (·.postGo ((off - 0x100) / 16) val)
    else if p = .keys ∧ off < 0x060 ∧ w.chip.flag F.KEYS_KRES_BUSY then w
    else on (·.store p off val)

/-- A lane register that does more on a write than store its fields. -/
def Work.laneEffect (w : Work) (i : Init) (p : Page) (off val : Nat) : Work :=
  let on (f : Chip → Chip) : Work := w.onChip f
  match p, off with
  | .txp n, 0x040 => on (·.txctlWrite n val)
  | .txp n, 0x044 => on (·.gainWrite n none val)
  | .txp n, 0x04C => on (·.txdlyWrite n val)
  | .txp n, 0x050 => on (·.gainWrite n (some 0) val)
  | .txp n, 0x054 => on (·.gainWrite n (some 1) val)
  | .txp n, 0x058 => on (·.gainWrite n (some 2) val)
  | .txp n, 0x404 => on (·.writeGlz i n val)
  | .txp n, 0x408 => on (·.glzcmdWrite i n val)
  | .txp n, 0x414 => on (·.writeWs n val)
  | .txp n, 0x418 => on (·.wscmdWrite i n val)
  | .afe n, 0x040 => on (·.drvcfgWrite n val)
  | .afe n, 0x04C => on (·.rxcfgWrite n val)
  | .afe n, 0x400 => on (·.calcmdWrite i n val)
  | .echo n, 0x040 => on (·.ectlWrite n val)
  | .echo n, 0x04C => on (·.ecmdWrite i n val)
  | .echo n, 0x404 => on (·.tgainWrite n val)
  | .echo n, 0x40C => on (·.eovrWrite n val)
  | .echo n, 0x414 => on (·.writeMdata i n val)
  | .echo n, 0x418 => on (·.mcmdWrite n val)
  | .agc n, 0x040 | .agc n, 0x044 => on fun c => (c.store p off val).agcConfig n
  | .agc n, 0x408 => on (·.writeStdata n val)
  | .rxp n, 0x040 => on fun c => (c.store p off val).rxpSettle n
  | .rxp n, 0x40C => on (·.taovrWrite n val)
  | .dec n, 0x040 => on (·.decctlWrite n val)
  | .dec n, 0x408 => on (·.engovrWrite n val)
  | .slip n, 0x040 => on fun c =>
      let c := c.store p off val
      c.iff (!c.flag (F.SLIP_SLCFG_EN n)) (·.slipReset n)
  | .slip n, 0x060 => on (·.slcmdWrite i n val)
  | .tmap n, 0x054 => on (·.bcmdWrite i n val)
  | .tmap n, 0x404 => w.ldcmdWrite i n val
  | .tmap n, 0x41C => on (·.mitcmdWrite i n val)
  | .meas n, 0x040 => on (·.mcfgWrite n val)
  | .linear n, _ => on (·.linearWrite n off val)
  | .spy n, 0x050 => on (·.spcmdWrite i n val)
  | _, _ => on (·.store p off val)

/-- The effect of a served 32-bit write by `i`, which had left `held` in its latch for the page: the common registers of Table 0-4,
CNTCLR, the halves of a paired register, and the rest (R13 to R15). -/
def Work.writeEffect (w : Work) (i : Init) (held : PrLatch) (p : Page) (off val : Nat) : Work :=
  let on (f : Chip → Chip) : Work := w.onChip f
  if off = 0x008 then on (·.pctlWrite p val)
  else if off = 0x010 then on (·.clearPevt p val 0)
  else if off = 0x014 then on (·.writePevten p val)
  else if off = 0x018 then on (·.clearPfault p val 0)
  else if off = 0x020 then on (·.plockWrite p val)
  else if off < 0x040 then w
  else if cntclrOff p = some off then on (·.cntclrWrite p val)
  else if (findReg p off).any (fun r => r.pr) then on (·.prWrite i held p off val)
  else if p.lane?.isSome then w.laneEffect i p off val
  else w.hubEffect i p off val

/-! Soft reset (R9). -/

/-- The reset values of a register's RW fields, as a word. -/
def Reg.resetWord (r : Reg) : Nat :=
  r.slices.foldl (fun a s => if s.fld.ty = .rw then a + bitField s.fld.reset s.src s.width * 2 ^ s.pos else a) 0

/-- A register returns to its reset value, which takes effect as if written; a register that a write would not reach in the present
state returns to it all the same (R9, log entry 87). -/
def Work.resetReg (w : Work) (p : Page) (r : Reg) : Work :=
  if !r.slices.any (fun s => s.fld.ty == .rw) then w
  else if r.pr then
    w.onChip fun c =>
      let c := r.slices.foldl (fun c s => c.resetFld s.fld) c
      if p = .mbx then c.onMbx fun m => { m with err := false, stopped := false } else c
  else if p = .nbr ∧ r.off < 0x048 then w.onChip fun c => c.store p r.off r.resetWord
  else w.writeEffect .core3 .none p r.off r.resetWord

/-- Whether a command of the page is in progress (R18, R451). -/
def Chip.pageBusy (c : Chip) (p : Page) : Bool :=
  let busy (f : Fld) : Bool := c.get f == Status.busy.code
  match p with
  | .wheel => c.flag F.WHEEL_QRES_PEND || c.flag F.WHEEL_EPRES_PEND
  | .nbr => c.flag F.NBR_NRES_PEND || busy F.NBR_DMRES_STATUS
  | .mbx => (List.range 32).any fun k => c.flag (F.MBX_RES_PEND k)
  | .keys => c.flag F.KEYS_KRES_BUSY
  | .saggar => busy F.SAGGAR_JOBRES_STATUS || busy F.SAGGAR_HRES_STATUS
  | .qm => busy F.QM_RRES_STATUS || busy F.QM_QRES_STATUS
  | .time => busy F.TIME_TRES_STATUS
  | .fuse => busy F.FUSE_FRES_STATUS
  | .boot => busy F.BOOT_RECRES_STATUS
  | .twi u => busy (F.TWI_TRES_STATUS u)
  | .txp n => busy (F.TXP_GLZRES_STATUS n) || busy (F.TXP_WSRES_STATUS n)
  | .afe n => busy (F.AFE_CALRES_STATUS n)
  | .slip n => busy (F.SLIP_SLRES_STATUS n)
  | .tmap n => busy (F.TMAP_BRES_STATUS n) || busy (F.TMAP_LDRES_STATUS n) || busy (F.TMAP_MITRES_STATUS n)
  | _ => false

/-- The end of a soft reset: RW registers at their reset values, PEVT cleared, the page locked, the carried ENABLE applied; a
two-wire page loses its retirement and starts a recovery (R9, R424). -/
def Work.softReset (w : Work) (p : Page) : Work :=
  let w := (pageRegs p).foldl (fun w r => w.resetReg p r) w
  w.onChip fun c =>
    let c := ((c.resetFld (pevten p)).resetFld (pevt p)).resetFld (plock p)
    let en := c.flag (pctlCarried p)
    let c := ((c.resetFld (pctlSoftreset p)).resetFld (pctlCarried p)).setEnable p en
    match p with
    | .twi u => (((c.set (F.TWI_TSTAT_BUS u) 2).set (F.TWI_TSTAT_TRIES u) 0).onTwi u fun x => { x with midByte := false })
    | _ => c

/-- SOFT_RESET_COMPLETE: the soft reset of a page completes, unless a command of the page is still in progress (R9). -/
def execSoftResetComplete (p : Page) (s : State) : Host.Outcome State Fault Refusal :=
  .next (s.onWork fun w =>
    if w.chip.flag (pctlSoftreset p) && !w.chip.pageBusy p && !w.chip.stopped && w.chip.power != .reset then w.softReset p else w)

/-! Windows (R32, R33). -/

/-- Whether `i` may write the byte at an SRAM window offset: the packet buffer and the staging region, and for device firmware its
own code and data (Table 1-8, log entry 88). -/
def sramWritable (i : Init) (off : Nat) : Bool :=
  (0x00400000 ≤ off && off < 0x00C00000) || (0x00EC0000 ≤ off && off < 0x01000000) || (!i.isHost && off < 0x00400000)

/-- Note bytes written to the packet buffer through the SRAM window (R32, R39). -/
def Chip.noteWrote (c : Chip) (off len : Nat) : Chip :=
  if off < 0x00C00000 ∧ 0x00400000 < off + len then { c with qm := { c.qm with hostWrote := (off, len) :: c.qm.hostWrote } } else c

/-- Whether a byte of the packet buffer holds what was written through the window. -/
def Chip.wroteByte (c : Chip) (off : Nat) : Bool := c.qm.hostWrote.any fun e => decide (e.1 ≤ off) && decide (off < e.1 + e.2)

/-- A write of bytes to a window: in the SRAM window the bytes in RW regions are written, and those in RO regions are discarded and
recorded as one refusal at the first of them; a lane window takes none (R32, R33). -/
def Work.windowWrite (w : Work) (i : Init) (addr : Nat) (bs : List Byte) : Work :=
  let size := if bs.length = 1 then 1 else if bs.length = 2 then 2 else 4
  if bs.isEmpty || !w.chip.servesTo i (regionOf addr) then w
  else match regionOf addr with
    | .sram off =>
      let w' := bs.zipIdx.foldl (fun w e => if sramWritable i (off + e.2) then w.write .sram (off + e.2) [e.1] else w) w
      let w' := w'.onChip (·.noteWrote off bs.length)
      match bs.zipIdx.find? fun e => !sramWritable i (off + e.2) with
      | some e => w'.onChip fun c => c.refuse i (addr + e.2) 7 size true
      | none => w'
    | .laneWindow n _ => w.onChip fun c => c.refuse i addr (if c.laneReach n then 7 else 6) size true
    | _ => w

/-- WINDOW_WRITE: bytes written by `i` to the hub SRAM window or a lane table window. -/
def execWindowWrite (i : Init) (addr : Nat) (bytes : List Byte) (s : State) : Host.Outcome State Fault Refusal :=
  .next (s.onWork fun w => w.windowWrite i addr bytes)

/-- A byte of a map image (Table 8-1). -/
def LibEntry.imageByte (e : LibEntry) (b : Nat) : Nat :=
  let code (k : Nat) : Nat := e.map.codes.getD k 0
  if b = 0 then 8
  else if b = 1 then e.map.bp + 4 * e.map.rate + 32 * bit e.map.g6
  else if b < 4 then e.count / 2 ^ (8 * (b - 2)) % 256
  else if b < 6 then e.map.bits / 2 ^ (8 * (b - 4)) % 256
  else if 64 ≤ b ∧ b < 2044 then code (40 + 2 * (b - 64)) + 16 * code (41 + 2 * (b - 64))
  else 0

/-- A byte of a lane window: an entry of the library; what an entry that never held a map reads as is not stated and is free. -/
def Chip.laneByte (c : Chip) (n : Lane) (off : Nat) (free : Nat) : Nat :=
  match (c.lib n).get? (off / 2048) with
  | some e => e.imageByte (off % 2048) % 256
  | none => free

/-- A byte of the SRAM window.  The neighbour table shows its entries (R254); the layout of the queue, ring and Wheel regions, and
which cells of the packet buffer the GX8 has used, are not stated, so that their bytes are free (log entry 88); a byte written
through the window reads back as written until the GX8 next takes cells (R39). -/
def Work.sramByte (w : Work) (off free : Nat) : Nat :=
  if 0x00C00000 ≤ off ∧ off < 0x00E00000 then
    let b := off % 256
    if b < 112 then (((w.chip.nbrShown ((off - 0x00C00000) / 256)).bytes).getD b 0).toNat
    else if b < 192 then 0 else free
  else if 0x00E00000 ≤ off ∧ off < 0x00EC0000 then free
  else if 0x00400000 ≤ off ∧ off < 0x00C00000 ∧ w.chip.get F.BOOT_BSTAT_STAGE = 2 ∧ w.chip.wroteByte off = false then free
  else ((w.readBytes .sram off 1).headD 0).toNat

/-- `size` bytes of a window as a number, and the free values used up. -/
def Work.windowRead (w : Work) (r : Region) (size : Nat) : Nat × Work :=
  let free (j : Nat) : Nat := Config.free (w.chip.free + j) % 256
  let byte (j : Nat) : Nat := match r with
    | .sram off => w.sramByte (off + j) (free j)
    | .laneWindow n off => w.chip.laneByte n (off + j) (free j)
    | _ => 255
  ((List.range size).foldl (fun a j => a + byte j * 2 ^ (8 * j)) 0,
    w.onChip fun c => { c with free := c.free + size })

/-! Accesses by address. -/

/-- A refused or unserved read shows all ones in the bytes read. -/
def allOnes (size : Nat) : Nat := 2 ^ (8 * size) - 1

/-- Store a word of the MSI-X table: address bits 1:0 and the reserved bits of the vector control stay 0 (R405). -/
def Chip.msixWrite (c : Chip) (off val : Nat) : Chip :=
  let k := off / 4
  let v := if k % 4 = 0 then val / 4 * 4 else if k % 4 = 3 then val % 2 else val
  c.onPcie fun x => { x with table :=
      if v = (if k % 4 = 3 then 1 else 0) then x.table.erase k else x.table.insert k v }

/-- A word of the MSI-X table. -/
def Chip.msixWord (c : Chip) (off : Nat) : Nat := c.pcie.table.getD (off / 4) (if off / 4 % 4 = 3 then 1 else 0)

/-- A 32-bit write by `i` at a BAR0 offset outside the windows (R404 to R408). -/
def Work.writeWord (w : Work) (i : Init) (addr val : Nat) : Work :=
  let refuse (cause : Nat) : Work := w.onChip fun c => c.refuse i addr cause 4 true
  match regionOf addr with
  | .page p off =>
    let held := w.chip.latch i p
    w.gate i p off fun w => w.writeEffect i held p off val
  | .msixTable off =>
    if !w.chip.servesTo i (.msixTable off) then w else if addr % 4 ≠ 0 then refuse 1 else w.onChip (·.msixWrite off val)
  | .msixPba off => if !w.chip.servesTo i (.msixPba off) then w else if addr % 4 ≠ 0 then refuse 1 else w
  | .sram _ | .laneWindow _ _ => w.windowWrite i addr (leBytes 4 val)
  | .unmapped => if !w.chip.servesTo i .unmapped then w else refuse (if addr % 4 ≠ 0 then 1 else 5)

/-- An 8-bit or 16-bit write by `i` at a BAR0 offset outside the windows: only a BW register takes it, in the bytes written
(Table 16-3, R405). -/
def Work.writeNarrow (w : Work) (i : Init) (addr size val : Nat) : Work :=
  let refuse (cause : Nat) : Work := w.onChip fun c => c.refuse i addr cause size true
  match regionOf addr with
  | .page p off =>
    if !w.chip.servesTo i (.page p off) then w
    else
      let w := w.onChip fun c => c.touch i p
      match w.chip.pageRefusal i p off size true with
      | some cause => w.onChip fun c => c.refuse i addr cause size true
      | none =>
        let word := off / 4 * 4
        let old := w.chip.view p word
        let sh := 8 * (off % 4)
        let new := old - bitField old sh (8 * size) * 2 ^ sh + val % 2 ^ (8 * size) * 2 ^ sh
        w.onChip fun c => c.store p word new
  | .msixTable off => if !w.chip.servesTo i (.msixTable off) then w else refuse (if addr % size ≠ 0 then 1 else 2)
  | .msixPba off => if !w.chip.servesTo i (.msixPba off) then w else refuse (if addr % size ≠ 0 then 1 else 2)
  | .sram _ | .laneWindow _ _ => w.windowWrite i addr (leBytes size val)
  | .unmapped => if !w.chip.servesTo i .unmapped then w else refuse (if addr % size ≠ 0 then 1 else 5)

/-- Whether an address lies in a window. -/
def isWindow (addr : Nat) : Bool :=
  match regionOf addr with
  | .sram _ | .laneWindow _ _ => true
  | _ => false

/-- A write of `size` bytes by `i` at a BAR0 offset: to a window as a whole, narrow, or as 32-bit accesses in address order, each
judged on its own (R406). -/
def Work.writeAt (w : Work) (i : Init) (addr size val : Nat) : Work :=
  if isWindow addr then w.windowWrite i addr (leBytes size val)
  else if size = 1 ∨ size = 2 then w.writeNarrow i addr size val
  else (List.range (size / 4)).foldl (fun w k => w.writeWord i (addr + 4 * k) (bitField val (32 * k) 32)) w

/-- REGISTER_WRITE: `size` bytes of value `val` written by `i` at a BAR0 offset (R13). -/
def execRegisterWrite (i : Init) (addr size val : Nat) (s : State) : Host.Outcome State Fault Refusal :=
  .next (s.onWork fun w => w.writeAt i addr size val)

/-- A 32-bit read by `i` at a BAR0 offset outside the windows. -/
def Work.readWord (w : Work) (i : Init) (addr : Nat) : Nat × Work :=
  let refuse (cause : Nat) : Nat × Work := (allOnes 4, w.onChip fun c => c.refuse i addr cause 4 false)
  match regionOf addr with
  | .page p off =>
    if !w.chip.servesTo i (.page p off) then (allOnes 4, w)
    else
      let held := w.chip.latch i p
      let c := w.chip.touch i p
      match c.pageRefusal i p off 4 false with
      | some cause => (allOnes 4, { w with chip := c.refuse i addr cause 4 false })
      | none =>
        let r := c.readReg i held p off
        (r.1, { w with chip := r.2 })
  | .msixTable off =>
    if !w.chip.servesTo i (.msixTable off) then (allOnes 4, w)
    else if addr % 4 ≠ 0 then refuse 1 else (w.chip.msixWord off, w)
  | .msixPba off =>
    if !w.chip.servesTo i (.msixPba off) then (allOnes 4, w)
    else if addr % 4 ≠ 0 then refuse 1 else (if off = 0 then w.chip.pcie.pending else 0, w)
  | _ => if !w.chip.servesTo i .unmapped then (allOnes 4, w) else refuse (if addr % 4 ≠ 0 then 1 else 5)

/-- An 8-bit or 16-bit read by `i` at a BAR0 offset outside the windows: from the full register, with no side effect; refused for a
port register and for the MSI-X structures (Table 16-3, R405). -/
def Work.readNarrow (w : Work) (i : Init) (addr size : Nat) : Nat × Work :=
  let refuse (cause : Nat) : Nat × Work := (allOnes size, w.onChip fun c => c.refuse i addr cause size false)
  match regionOf addr with
  | .page p off =>
    if !w.chip.servesTo i (.page p off) then (allOnes size, w)
    else
      let c := w.chip.touch i p
      match c.pageRefusal i p off size false with
      | some cause => (allOnes size, { w with chip := c.refuse i addr cause size false })
      | none => (bitField (c.view p (off / 4 * 4)) (8 * (off % 4)) (8 * size), { w with chip := c })
  | .msixTable off => if !w.chip.servesTo i (.msixTable off) then (allOnes size, w) else refuse (if addr % size ≠ 0 then 1 else 3)
  | .msixPba off => if !w.chip.servesTo i (.msixPba off) then (allOnes size, w) else refuse (if addr % size ≠ 0 then 1 else 3)
  | _ => if !w.chip.servesTo i .unmapped then (allOnes size, w) else refuse (if addr % size ≠ 0 then 1 else 5)

/-- A read of `size` bytes by `i` at a BAR0 offset (R5, R30, R33, R406). -/
def Work.readAt (w : Work) (i : Init) (addr size : Nat) : Nat × Work :=
  match regionOf addr with
  | .sram off =>
    if !w.chip.servesTo i (.sram off) then (allOnes size, w) else w.windowRead (.sram off) size
  | .laneWindow n off =>
    if !w.chip.servesTo i (.laneWindow n off) then (allOnes size, w)
    else if !w.chip.laneReach n then
      (allOnes size, w.onChip fun c => c.refuse i addr 6 (if size = 1 then 1 else if size = 2 then 2 else 4) false)
    else w.windowRead (.laneWindow n off) size
  | _ =>
    if size = 1 ∨ size = 2 then w.readNarrow i addr size
    else (List.range (size / 4)).foldl (fun r k =>
      let x := r.2.readWord i (addr + 4 * k)
      (r.1 + x.1 * 2 ^ (32 * k), x.2)) (0, w)

/-- Keep the value of a read as the last one (the model's own record). -/
def Work.keepRead (r : Nat × Work) : Work := r.2.onChip (·.setRdata r.1)

/-- REFUSED_READ: a read of `size` bytes by `i` at a BAR0 offset, refused where R408 says so; one that is not refused is served. -/
def execRefusedRead (i : Init) (addr size : Nat) (s : State) : Host.Outcome State Fault Refusal :=
  .next (s.onWork fun w => Work.keepRead (w.readAt i addr size))

/-- PR_READ: a 32-bit read by `i` of a half of the paired register at a page offset; an offset that holds none is not accessed. -/
def execPrRead (i : Init) (p : Page) (off : Nat) (s : State) : Host.Outcome State Fault Refusal :=
  .next (s.onWork fun w =>
    if (findReg p off).any (fun r => r.pr) then Work.keepRead (w.readWord i (p.base + off)) else w)

/-- PR_WRITE: a 32-bit write by `i` of a half of the paired register at a page offset; an offset that holds none is not accessed. -/
def execPrWrite (i : Init) (p : Page) (off val : Nat) (s : State) : Host.Outcome State Fault Refusal :=
  .next (s.onWork fun w =>
    if (findReg p off).any (fun r => r.pr) then w.writeWord i (p.base + off) (val % 2 ^ 32) else w)

end Sys2Proof.Machine
end

