-- ==== Sys2Proof/Machine/Firmware.lean ====
section
/-!
DEFINITION. What device firmware does with MPDUs handed to it (R100, R257, R271, R288), and peers' WAKE requests (R101, R104).
-/
namespace Sys2Proof.Machine

/-! WAKE requests. -/

/-- The time at which a wake request counts (R104): what it says, if that lies within the last 48 facets, or its arrival.  DESIGN CHOICE
(log entry 181): the arrival of a request is its preamble start. -/
def wakeTime (arrival told : Nat × Nat) : Nat × Nat :=
  let d := stampDist told arrival
  if 0 ≤ d ∧ d ≤ 48 then told else arrival

/-- An announced or active quiet period is judged by a wake request: cancelled, or kept with the peer to be served (R104). -/
def Chip.judgeQuiet (c : Chip) (slot tp : Nat) (arrival told : Nat × Nat) : Chip :=
  match c.wheel.quiet with
  | none => c
  | some q =>
    if stampLt (wakeTime arrival told) (q.t, 0) then c.quietCancel tp
    else (c.count F.WHEEL_QCNT_QSERVED 1).onWheel fun w =>
      { w with calls := w.calls.insert slot arrival }

/-- The entry after a wake request with its preamble at `ta` inside the window (R101), whether r saturated, and the chip.  What
UNC' holds of a value that does not fit 16 bits is not stated (log entry 76). -/
def Chip.learnWake (c : Chip) (slot ta : Nat) : Bool × Chip :=
  let e := c.nbr slot
  let i := c.wakeInterval e
  let raw := divZero (((ta : Int) - e.tref - i) * 10 ^ 8) i
  let r := clampInt (-32767) 32767 raw
  let d := r - e.drift
  let u := max (c.get F.WHEEL_WAKEUNC_UNCMIN : Int) ((e.unc : Int) + divZero (4 * d.natAbs - e.unc) 8)
  let c' := if 65535 < u then c.nextFree else c
  let unc := if 65535 < u then c.freeBelow 65536 else u.toNat
  (r != raw, c'.onNbr slot fun x => { x with drift := e.drift + divZero d 4, unc, tref := ta, wmiss := 0 })

/-- The exchange that a WAKE call names: the one the MAC engine offers, if it is one to come and, for a peer served in a quiet period, starts
no later than one turn after the request's arrival (R101, R104); else the same facet of the next turn. -/
def Chip.offeredTo (c : Chip) (slot : Nat) (arrival offer : Nat × Nat) : Nat × Nat :=
  let d := stampDist arrival offer
  if offer.2 < 96 ∧ 0 ≤ d ∧ (d ≤ 96 ∨ (c.wheel.calls.get? slot).isNone) then offer else (turnAdd arrival.1 1, arrival.2)

/-- The WAKE call that answers a request in a wake window, 160 µs after its end (R101), unless it would overlap a wake window (R100). -/
def Chip.answerWake (c : Chip) (n : Lane) (slot tend : Nat) (arrival offer : Nat × Nat) : Chip :=
  let t0 := tend + ackGap false
  let ep := c.peerEpoch n slot
  let x := c.offeredTo slot arrival offer
  if c.wakeClash n t0 (t0 + headTicks + rampTicks) then c
  else c.plainFrame n t0 (c.facetAt n t0) (ownFc ep slot (.wake false 0 x.1 x.2)) ep .rotation slot (t0 + headTicks) 0 [] none

/-- WAKE_REQUEST (R101): the WAKE request that the reception holds.  `wtrn` and `wfac` are the exchange that the GX8 offers. -/
def execWakeRequest (n : Lane) (lost : Bool) (h : Heard RxMeas) (wtrn wfac : Nat) (s : State) : Host.Outcome State Fault Refusal :=
  .next (s.onChip fun c =>
    match (c.lane n).rx.rx with
    | none => c
    | some r =>
      match r.kind with
      | .frame fc =>
        match fc.body with
        | .wake _ _ rtrn rfac =>
          let slot := fc.stid
          let e := c.nbr slot
          let inside := c.wheel.windows.contains slot && e.sleep &&
            decide ((c.wakeWindow e).1 ≤ r.tp ∧ (r.tp : Int) ≤ (c.wakeWindow e).2)
          let x := (c.advanceTo r.tend).frameMeasured n r fc lost h
          let m := x.1
          let c := (x.2.channelSeen n slot m.chan false).conePeer n slot m.evm m.fofs
          let c := c.showMeasured n slot m.evm m.fofs none
          let c := c.judgeQuiet slot r.tp (r.turn, r.facet) (rtrn, rfac)
          let c := if inside then
              let y := c.learnWake slot r.tp
              let c := y.2.onWheel fun w => { w with windows := w.windows.filter (· != slot) }
              let c := if y.1 then c.raise .wheel 6 else c
              c.answerWake n slot r.tend (r.turn, r.facet) (wtrn, wfac)
            else c
          c.endRx n
        | _ => c
      | _ => c)

/-! MPDUs for device firmware. -/

/-- JOINREQ (R257): device firmware reads the EUI-64 of the peer from the request, whose layout the spec does not give, and posts
a JOINNOTE (R290). -/
def execJoinreq (eui : Nat) (s : State) : Host.Outcome State Fault Refusal :=
  .next (s.onChip fun c =>
    match c.takeFw 0x10 with
    | none => c
    | some (m, c) =>
      let eui := eui % 2 ^ 64
      let c := c.onMac fun x => { x with joins := x.joins.filter (fun j => j.1 != eui) ++ [(eui, m.lane)] }
      c.notice 0x80 32 (leBytes 8 eui ++ leBytes 1 m.lane))

/-- LEAVE (R257): a LEAVENOTE tells the host. -/
def execLeave (s : State) : Host.Outcome State Fault Refusal :=
  .next (s.onChip fun c =>
    match c.takeFw 0x12 with
    | none => c
    | some (m, c) => c.notice 0x81 20 (leBytes 2 m.slot ++ leBytes 1 (c.nbr m.slot).gen))

/-- A sleep declaration comes into force (R100). -/
def Chip.sleepSet (c : Chip) (n : Lane) (slot turns facet : Nat) : Chip :=
  c.onNbr slot fun e => { e with
    sleep := true, n := turns, f := facet, drift := 0, unc := c.get F.WHEEL_WAKEUNC_UNCINIT, tref := c.b n facet, wmiss := 0 }

/-- The status of a sleep request (R257); one that is too short to name a facet gets FORMAT (log entry 77). -/
def sleepStatus (g6 : Bool) (body : List Byte) : Status :=
  if g6 then .refused else if body.length < 3 ∨ 95 < leAt body 2 1 then .format else .ok

/-- SLEEPREQ (R257): the schedule is set or cancelled and a SLEEPRSP queued. -/
def execSleepreq (s : State) : Host.Outcome State Fault Refusal :=
  .next (s.onChip fun c =>
    match c.takeFw 0x13 with
    | none => c
    | some (m, c) =>
      match Lane.ofNum m.lane with
      | none => c
      | some n =>
        if !c.peerOf n m.slot then c
        else
          let st := sleepStatus ((c.nbr m.slot).proto == 1) m.body
          let turns := leAt m.body 0 2
          let c := c.onWheel fun w => if st = .ok then { w with windows := w.windows.filter (· != m.slot) } else w
          let c := if st ≠ .ok then c
            else if turns = 0 then c.onNbr m.slot fun e => { e with sleep := false }
            else c.sleepSet n m.slot turns (leAt m.body 2 1)
          c.firmwareSend m.slot 0x14 [BitVec.ofNat 8 st.code])

/-- RELAY (R271): the routing service forwards the MPDU on the route of its FINAL, or returns NO_ROUTE to its sender; the form
of the answer and the hop count of the new MPDU are not stated (log entry 78). -/
def execRelay (s : State) : Host.Outcome State Fault Refusal :=
  .next (s.onChip fun c =>
    match c.takeFw 0x01 with
    | none => c
    | some (m, c) =>
      let final := leAt m.head 10 2 % 2 ^ 14
      let hop : Option Nat := match c.mac.routes.get? final with
        | some (slot, gen, _) => if slot ≠ 0 ∧ c.assigned slot ∧ (c.nbr slot).gen = gen then some slot else none
        | none => none
      match hop with
      | some slot =>
        let hops := c.freeBelow 256
        let c := c.nextFree
        (c.firmwareSend slot 0x01 m.body).onMpdu (2 * slot) c.qm.nextId fun x =>
          { x with orig := leAt m.head 8 2 % 2 ^ 14, final, hops }
      | none =>
        if m.slot = 0x3FFE ∨ !c.assigned m.slot then c
        else
          let k := c.freeBelow 4064
          let body := c.nextFree.freeBytes k
          ({ c with free := c.free + 1 + k }).firmwareSend m.slot 0x01 (BitVec.ofNat 8 Status.noRoute.code :: body))

end Sys2Proof.Machine
end

