-- ==== Sys2Proof/Machine/Qspi.lean ====
section
/-!
DEFINITION. The QSPI target (R414 to R416, R430).
-/
namespace Sys2Proof.Machine

/-- The QSPI target changed by `f`. -/
def Chip.onQspi (c : Chip) (f : Qspi → Qspi) : Chip := { c with qspi := f c.qspi }

/-- Whether the target hears a frame: it works in every power state, but not in RESET (R414, R437). -/
def Chip.qspiHears (c : Chip) : Bool := c.power != .reset

/-- A written word is posted; one that finds the 64-word buffer full is discarded and sets PFAULT.WOVF (R416). -/
def Chip.qspiPost (c : Chip) (addr word : Nat) : Chip :=
  if 64 ≤ c.qspi.buffer.length then (c.pfaultSet .qspit 1).raise .qspit 1
  else c.onQspi fun q => { q with buffer := q.buffer ++ [(addr % 2 ^ 32, word % 2 ^ 32)] }

/-- QSPI_WRITE: a WRITE frame from a BAR0 offset with its whole data words; `short` says that CS_N rose in the middle of a further
word (R414, R416). -/
def execQspiWrite (addr : Nat) (words : List Nat) (short : Bool) (s : State) : Host.Outcome State Fault Refusal :=
  .next (s.onChip fun c =>
    if !c.qspiHears then c
    else
      let c := words.zipIdx.foldl (fun c e => c.qspiPost (addr + 4 * e.2) e.1) c
      c.iff short fun c => (c.pfaultSet .qspit 0).count F.QSPIT_QCNT_SHORTS 1)

/-- A posted word takes effect. -/
def Work.qspiTake (w : Work) (e : Nat × Nat) : Work := w.writeAt .qspi e.1 4 e.2

/-- QSPI_WORD_POST: the oldest posted word leaves the buffer and takes effect (R416). -/
def execQspiWordPost (s : State) : Host.Outcome State Fault Refusal :=
  .next (s.onWork fun w =>
    match w.chip.qspi.buffer with
    | [] => w
    | e :: rest =>
      if !w.chip.qspiHears then w
      else (w.onChip fun c => c.onQspi fun q => { q with buffer := rest }).qspiTake e)

/-- The ordering domain of an address: its 4 KiB page, the SRAM window, or a lane's table window (R38). -/
def domainOf (addr : Nat) : Nat :=
  match regionOf addr with
  | .sram _ => 0x02000000
  | .laneWindow n _ => n.window
  | _ => addr / 0x1000 * 0x1000

/-- Before a read, every earlier write of the target to the same domain takes effect, in order (R38, R39). -/
def Work.qspiFence (w : Work) (addr : Nat) : Work :=
  let mine (e : Nat × Nat) : Bool := domainOf e.1 == domainOf addr
  let now := w.chip.qspi.buffer.filter mine
  let w := w.onChip fun c => c.onQspi fun q => { q with buffer := q.buffer.filter fun e => !mine e }
  now.foldl Work.qspiTake w

/-- One word of a READ frame: sent with status 0xA5, or if it is late with status 0x5A and data of all ones, its value kept in LATEDATA
and its address in LATEADDR (R415). -/
def Work.qspiReadWord (w : Work) (addr : Nat) (late : Bool) : Work :=
  let r := (w.qspiFence addr).readAt .qspi addr 4
  (Work.keepRead r).onChip fun c =>
    let send (st v : Nat) (c : Chip) : Chip := c.onQspi fun q => { q with sent := q.sent ++ leBytes 1 st ++ leBytes 4 v }
    let c := c.setFlag F.QSPIT_QSTAT_LATE late
    if late then
      let c := ((c.set F.QSPIT_LATEDATA_DATA r.1).set F.QSPIT_LATEADDR_ADDR addr).count F.QSPIT_QCNT_LATES 1
      send 0x5A 0xFFFFFFFF (c.raise .qspit 0)
    else send 0xA5 r.1 c

/-- QSPI_READ: a READ frame from a BAR0 offset; `late` says for each word whether it was not ready in time. -/
def execQspiRead (addr : Nat) (late : List Bool) (s : State) : Host.Outcome State Fault Refusal :=
  .next (s.onWork fun w =>
    if !w.chip.qspiHears then w
    else
      let w := w.onChip fun c => c.onQspi fun q => { q with sent := [] }
      late.zipIdx.foldl (fun w e => w.qspiReadWord ((addr + 4 * e.2) % 2 ^ 32) e.1) w)

/-- The IRQ_N condition (R413). -/
def Chip.irqN (c : Chip) : Bool := c.get F.EVT_VECSTAT_SIG &&& c.get F.EVT_IRQMASK_EN != 0

/-- QSPI_STATUS: a STATUS frame (R414). -/
def execQspiStatus (s : State) : Host.Outcome State Fault Refusal :=
  .next (s.onChip fun c =>
    if !c.qspiHears then c
    else
      let st := bit c.irqN + 2 * bit (!c.qspi.buffer.isEmpty) + 4 * c.get F.QSPIT_QSTAT_LATE
        + 8 * bit (c.power == .standby || c.power == .coast)
      c.onQspi fun q => { q with sent := leBytes 1 st })

/-- BADOP: a frame with any opcode but 0x02, 0x05 and 0x0B is ignored and sets PFAULT.BADOP (R414). -/
def execBadop (op : Nat) (s : State) : Host.Outcome State Fault Refusal :=
  .next (s.onChip fun c =>
    if !c.qspiHears || op == 0x02 || op == 0x05 || op == 0x0B then c else c.pfaultSet .qspit 2)

end Sys2Proof.Machine
end

