-- ==== Sys2Proof/Machine/Dispatch.lean ====
section
/-!
DEFINITION. The dispatch: one arm per command, each one direct call of the command's meaning.
-/
namespace Sys2Proof.Machine

def exec (i : Instr) (s : State) : Host.Outcome State Fault Refusal :=
  match i with
  | .registerWrite ini addr size val => Sys2Proof.Machine.execRegisterWrite ini addr size val s
  | .softreset ini p en => Sys2Proof.Machine.execSoftreset ini p en s
  | .softResetComplete p => Sys2Proof.Machine.execSoftResetComplete p s
  | .stopBlock ini p => Sys2Proof.Machine.execStopBlock ini p s
  | .runBlock ini p => Sys2Proof.Machine.execRunBlock ini p s
  | .pevtClear ini p mask again => Sys2Proof.Machine.execPevtClear ini p mask again s
  | .pfaultClear ini p mask again => Sys2Proof.Machine.execPfaultClear ini p mask again s
  | .pevtenWrite ini p val => Sys2Proof.Machine.execPevtenWrite ini p val s
  | .plockWrite ini p val => Sys2Proof.Machine.execPlockWrite ini p val s
  | .cntclr ini p val => Sys2Proof.Machine.execCntclr ini p val s
  | .prRead ini p off => Sys2Proof.Machine.execPrRead ini p off s
  | .prWrite ini p off val => Sys2Proof.Machine.execPrWrite ini p off val s
  | .packetSend n d vc kind payload => Sys2Proof.Machine.execPacketSend n d vc kind payload s
  | .skejoPacket n d seq flips => Sys2Proof.Machine.execSkejoPacket n d seq flips s
  | .nak n d => Sys2Proof.Machine.execNak n d s
  | .skejoAck n d seq => Sys2Proof.Machine.execSkejoAck n d seq s
  | .creditReturn n d vc units => Sys2Proof.Machine.execCreditReturn n d vc units s
  | .retrainComplete n ok => Sys2Proof.Machine.execRetrainComplete n ok s
  | .laneCheckError n unit => Sys2Proof.Machine.execLaneCheckError n unit s
  | .forceRetrain ini mask => Sys2Proof.Machine.execForceRetrain ini mask s
  | .frameCommit n t0 req mis => Sys2Proof.Machine.execFrameCommit n t0 req mis s
  | .commitmiss n t0 => Sys2Proof.Machine.execCommitmiss n t0 s
  | .commitmentReceipt n arrival => Sys2Proof.Machine.execCommitmentReceipt n arrival s
  | .frameTransmit n encFault h => Sys2Proof.Machine.execFrameTransmit n encFault h s
  | .stby ini val => Sys2Proof.Machine.execStby ini val s
  | .stbyWithdraw ini val => Sys2Proof.Machine.execStbyWithdraw ini val s
  | .stbyReqRise => Sys2Proof.Machine.execStbyReqRise s
  | .stbyReqFall => Sys2Proof.Machine.execStbyReqFall s
  | .standbyEntry => Sys2Proof.Machine.execStandbyEntry s
  | .standbyExit => Sys2Proof.Machine.execStandbyExit s
  | .refclkLoss => Sys2Proof.Machine.execRefclkLoss s
  | .refclkRestart => Sys2Proof.Machine.execRefclkRestart s
  | .pllUnlock link => Sys2Proof.Machine.execPllUnlock link s
  | .mainsOkLow => Sys2Proof.Machine.execMainsOkLow s
  | .mainsOkHigh => Sys2Proof.Machine.execMainsOkHigh s
  | .detection n t s11 => Sys2Proof.Machine.execDetection n t s11 s
  | .fcDecoded n tp h => Sys2Proof.Machine.execFcDecoded n tp h s
  | .dataReceived n lost h => Sys2Proof.Machine.execDataReceived n lost h s
  | .ackReceived n lost h => Sys2Proof.Machine.execAckReceived n lost h s
  | .ackmiss n => Sys2Proof.Machine.execAckmiss n s
  | .soundReceived n lost h => Sys2Proof.Machine.execSoundReceived n lost h s
  | .noreply n => Sys2Proof.Machine.execNoreply n s
  | .g6DataReceived n lost h => Sys2Proof.Machine.execG6DataReceived n lost h s
  | .g6AckReceived n lost h => Sys2Proof.Machine.execG6AckReceived n lost h s
  | .multiUserUplink n lost h => Sys2Proof.Machine.execMultiUserUplink n lost h s
  | .blockReady n user idx h => Sys2Proof.Machine.execBlockReady n user idx h s
  | .blockDecode n e t => Sys2Proof.Machine.execBlockDecode n e t s
  | .verify n mis => Sys2Proof.Machine.execVerify n mis s
  | .mpduDelivery cq => Sys2Proof.Machine.execMpduDelivery cq s
  | .nobuf cq => Sys2Proof.Machine.execNobuf cq s
  | .reasmto n => Sys2Proof.Machine.execReasmto n s
  | .txCompletion q => Sys2Proof.Machine.execTxCompletion q s
  | .zeroCrossing n p => Sys2Proof.Machine.execZeroCrossing n p s
  | .crossing n => Sys2Proof.Machine.execCrossing n s
  | .miss n => Sys2Proof.Machine.execMiss n s
  | .acquireTimeout n => Sys2Proof.Machine.execAcquireTimeout n s
  | .facetStart n h => Sys2Proof.Machine.execFacetStart n h s
  | .turnStart n h => Sys2Proof.Machine.execTurnStart n h s
  | .wheelRun ini val => Sys2Proof.Machine.execWheelRun ini val s
  | .wheelStop ini val => Sys2Proof.Machine.execWheelStop ini val s
  | .forceHold ini groups => Sys2Proof.Machine.execForceHold ini groups s
  | .tbldataRead ini => Sys2Proof.Machine.execTbldataRead ini s
  | .tbldataWrite ini val => Sys2Proof.Machine.execTbldataWrite ini val s
  | .tblchk ini pat => Sys2Proof.Machine.execTblchk ini pat s
  | .wakeRequest n lost h wtrn wfac => Sys2Proof.Machine.execWakeRequest n lost h wtrn wfac s
  | .wakemiss slot => Sys2Proof.Machine.execWakemiss slot s
  | .announce ini => Sys2Proof.Machine.execAnnounce ini s
  | .withdraw ini => Sys2Proof.Machine.execWithdraw ini s
  | .quietCommit n => Sys2Proof.Machine.execQuietCommit n s
  | .quietEnd n => Sys2Proof.Machine.execQuietEnd n s
  | .commit ini => Sys2Proof.Machine.execCommit ini s
  | .cancel ini => Sys2Proof.Machine.execCancel ini s
  | .epochSwitch n => Sys2Proof.Machine.execEpochSwitch n s
  | .straggleEnd => Sys2Proof.Machine.execStraggleEnd s
  | .pauseStart n => Sys2Proof.Machine.execPauseStart n s
  | .pauseEnd n => Sys2Proof.Machine.execPauseEnd n s
  | .glzdataRead ini n => Sys2Proof.Machine.execGlzdataRead ini n s
  | .glzdataWrite ini n val => Sys2Proof.Machine.execGlzdataWrite ini n val s
  | .seal ini n table => Sys2Proof.Machine.execSeal ini n table s
  | .glazeClear ini n table => Sys2Proof.Machine.execGlazeClear ini n table s
  | .wsdataRead ini n => Sys2Proof.Machine.execWsdataRead ini n s
  | .wsdataWrite ini n val => Sys2Proof.Machine.execWsdataWrite ini n val s
  | .flip ini n set => Sys2Proof.Machine.execFlip ini n set s
  | .wsClear ini n set => Sys2Proof.Machine.execWsClear ini n set s
  | .weightUpdate n slot => Sys2Proof.Machine.execWeightUpdate n slot s
  | .gainWrite ini n p val => Sys2Proof.Machine.execGainWrite ini n p val s
  | .portenWrite ini n val => Sys2Proof.Machine.execPortenWrite ini n val s
  | .txdlyWrite ini n val => Sys2Proof.Machine.execTxdlyWrite ini n val s
  | .drvflt n p t levels => Sys2Proof.Machine.execDrvflt n p t levels s
  | .fltholdExpiry n p levels => Sys2Proof.Machine.execFltholdExpiry n p levels s
  | .drvcfgWrite ini n val => Sys2Proof.Machine.execDrvcfgWrite ini n val s
  | .rxcfgWrite ini n val => Sys2Proof.Machine.execRxcfgWrite ini n val s
  | .stuck n ini => Sys2Proof.Machine.execStuck n ini s
  | .guardWrite n h => Sys2Proof.Machine.execGuardWrite n h s
  | .passComplete n h => Sys2Proof.Machine.execPassComplete n h s
  | .trackRequest n => Sys2Proof.Machine.execTrackRequest n s
  | .aged n => Sys2Proof.Machine.execAged n s
  | .retrain ini n => Sys2Proof.Machine.execRetrain ini n s
  | .echoClear ini n => Sys2Proof.Machine.execEchoClear ini n s
  | .ectlEnWrite ini n val => Sys2Proof.Machine.execEctlEnWrite ini n val s
  | .mdataRead ini n => Sys2Proof.Machine.execMdataRead ini n s
  | .mdataWrite ini n val => Sys2Proof.Machine.execMdataWrite ini n val s
  | .mcmdFlip ini n => Sys2Proof.Machine.execMcmdFlip ini n s
  | .fdokChange n => Sys2Proof.Machine.execFdokChange n s
  | .calcmd ini n inputs => Sys2Proof.Machine.execCalcmd ini n inputs s
  | .calibrationDone n pass => Sys2Proof.Machine.execCalibrationDone n pass s
  | .agcWindow n t levels => Sys2Proof.Machine.execAgcWindow n t levels s
  | .agcAttack n t ini h => Sys2Proof.Machine.execAgcAttack n t ini h s
  | .agcRelease n t h => Sys2Proof.Machine.execAgcRelease n t h s
  | .stdataRead ini n => Sys2Proof.Machine.execStdataRead ini n s
  | .stdataWrite ini n val => Sys2Proof.Machine.execStdataWrite ini n val s
  | .taovr ini n slot ta => Sys2Proof.Machine.execTaovr ini n slot ta s
  | .arm ini n => Sys2Proof.Machine.execArm ini n s
  | .stop ini n => Sys2Proof.Machine.execStop ini n s
  | .trigger n h => Sys2Proof.Machine.execTrigger n h s
  | .record n t h => Sys2Proof.Machine.execRecord n t h s
  | .selfTest n => Sys2Proof.Machine.execSelfTest n s
  | .selfTestDone n mismatch => Sys2Proof.Machine.execSelfTestDone n mismatch s
  | .engovr ini n mask => Sys2Proof.Machine.execEngovr ini n mask s
  | .slipAge n => Sys2Proof.Machine.execSlipAge n s
  | .flush ini n => Sys2Proof.Machine.execFlush ini n s
  | .flushslot ini n slot => Sys2Proof.Machine.execFlushslot ini n slot s
  | .load ini n => Sys2Proof.Machine.execLoad ini n s
  | .unhold ini n index => Sys2Proof.Machine.execUnhold ini n index s
  | .build ini n slot => Sys2Proof.Machine.execBuild ini n slot s
  | .refresh n slot => Sys2Proof.Machine.execRefresh n slot s
  | .buildComplete n => Sys2Proof.Machine.execBuildComplete n s
  | .req ini n slot => Sys2Proof.Machine.execReq ini n slot s
  | .revoke ini n slot => Sys2Proof.Machine.execRevoke ini n slot s
  | .tmxRetry n slot => Sys2Proof.Machine.execTmxRetry n slot s
  | .tmx => Sys2Proof.Machine.execTmx s
  | .tmreq => Sys2Proof.Machine.execTmreq s
  | .mitRead ini n => Sys2Proof.Machine.execMitRead ini n s
  | .mitWrite ini n send => Sys2Proof.Machine.execMitWrite ini n send s
  | .ndataRead ini n => Sys2Proof.Machine.execNdataRead ini n s
  | .dmRead ini => Sys2Proof.Machine.execDmRead ini s
  | .dmWrite ini => Sys2Proof.Machine.execDmWrite ini s
  | .assign ini => Sys2Proof.Machine.execAssign ini s
  | .release ini => Sys2Proof.Machine.execRelease ini s
  | .seqrst ini => Sys2Proof.Machine.execSeqrst ini s
  | .setcpl ini => Sys2Proof.Machine.execSetcpl ini s
  | .setfd ini => Sys2Proof.Machine.execSetfd ini s
  | .quarantineEnd slot => Sys2Proof.Machine.execQuarantineEnd slot s
  | .qforce ini slot => Sys2Proof.Machine.execQforce ini slot s
  | .lrdataRead ini => Sys2Proof.Machine.execLrdataRead ini s
  | .fadataRead ini => Sys2Proof.Machine.execFadataRead ini s
  | .fadataWrite ini val => Sys2Proof.Machine.execFadataWrite ini val s
  | .farst ini => Sys2Proof.Machine.execFarst ini s
  | .joinreq eui => Sys2Proof.Machine.execJoinreq eui s
  | .leave => Sys2Proof.Machine.execLeave s
  | .sleepreq => Sys2Proof.Machine.execSleepreq s
  | .relay => Sys2Proof.Machine.execRelay s
  | .ringdb ini ring ptr => Sys2Proof.Machine.execRingdb ini ring ptr s
  | .rselWrite ini val => Sys2Proof.Machine.execRselWrite ini val s
  | .enable ini => Sys2Proof.Machine.execEnable ini s
  | .disable ini => Sys2Proof.Machine.execDisable ini s
  | .reset ini => Sys2Proof.Machine.execReset ini s
  | .descriptorFetch rxbuf => Sys2Proof.Machine.execDescriptorFetch rxbuf s
  | .queueFlush ini => Sys2Proof.Machine.execQueueFlush ini s
  | .hold ini => Sys2Proof.Machine.execHold ini s
  | .queueRelease ini => Sys2Proof.Machine.execQueueRelease ini s
  | .lifeExpiry q => Sys2Proof.Machine.execLifeExpiry q s
  | .moderationTimer cq => Sys2Proof.Machine.execModerationTimer cq s
  | .dmaError what => Sys2Proof.Machine.execDmaError what s
  | .go ini n len => Sys2Proof.Machine.execGo ini n len s
  | .mailboxCheck => Sys2Proof.Machine.execMailboxCheck s
  | .info tag => Sys2Proof.Machine.execInfo tag s
  | .cfgsave tag flash => Sys2Proof.Machine.execCfgsave tag flash s
  | .routeset tag => Sys2Proof.Machine.execRouteset tag s
  | .routeget tag => Sys2Proof.Machine.execRouteget tag s
  | .joinacc tag => Sys2Proof.Machine.execJoinacc tag s
  | .nbrdump tag => Sys2Proof.Machine.execNbrdump tag s
  | .serviceTimeout tag => Sys2Proof.Machine.execServiceTimeout tag s
  | .d2hPost n => Sys2Proof.Machine.execD2hPost n s
  | .d2hfullClear ini mask => Sys2Proof.Machine.execD2hfullClear ini mask s
  | .h2dDoorbellSet ini high mask => Sys2Proof.Machine.execH2dDoorbellSet ini high mask s
  | .h2dDoorbellServe b again => Sys2Proof.Machine.execH2dDoorbellServe b again s
  | .d2hDoorbellSet b => Sys2Proof.Machine.execD2hDoorbellSet b s
  | .d2hDoorbellClear ini high mask => Sys2Proof.Machine.execD2hDoorbellClear ini high mask s
  | .keyLoad ini cls size idx => Sys2Proof.Machine.execKeyLoad ini cls size idx s
  | .roll ini cls idx => Sys2Proof.Machine.execRoll ini cls idx s
  | .keyDrop ini cls idx => Sys2Proof.Machine.execKeyDrop ini cls idx s
  | .erase ini cls idx => Sys2Proof.Machine.execErase ini cls idx s
  | .lock ini cls idx => Sys2Proof.Machine.execLock ini cls idx s
  | .keycmdComplete => Sys2Proof.Machine.execKeycmdComplete s
  | .start ini => Sys2Proof.Machine.execStart ini s
  | .jobdone mis => Sys2Proof.Machine.execJobdone mis s
  | .hash ini => Sys2Proof.Machine.execHash ini s
  | .hashdone => Sys2Proof.Machine.execHashdone s
  | .verifySignature ini => Sys2Proof.Machine.execVerifySignature ini s
  | .rngfail => Sys2Proof.Machine.execRngfail s
  | .pipeovr ini mask => Sys2Proof.Machine.execPipeovr ini mask s
  | .ppsEdge t falling => Sys2Proof.Machine.execPpsEdge t falling s
  | .ppsmiss => Sys2Proof.Machine.execPpsmiss s
  | .steer ini => Sys2Proof.Machine.execSteer ini s
  | .timeSet ini => Sys2Proof.Machine.execTimeSet ini s
  | .steerto => Sys2Proof.Machine.execSteerto s
  | .driftUpdate f => Sys2Proof.Machine.execDriftUpdate f s
  | .step => Sys2Proof.Machine.execStep s
  | .slewEnd => Sys2Proof.Machine.execSlewEnd s
  | .holdlim => Sys2Proof.Machine.execHoldlim s
  | .srcWrite ini val => Sys2Proof.Machine.execSrcWrite ini val s
  | .tpulse k => Sys2Proof.Machine.execTpulse k s
  | .timeEvt t falling ns => Sys2Proof.Machine.execTimeEvt t falling ns s
  | .evtticklRead ini => Sys2Proof.Machine.execEvtticklRead ini s
  | .tickRead ini => Sys2Proof.Machine.execTickRead ini s
  | .zcloss n => Sys2Proof.Machine.execZcloss n s
  | .blankPin n high => Sys2Proof.Machine.execBlankPin n high s
  | .blankEnd n => Sys2Proof.Machine.execBlankEnd n s
  | .primeEnd n bisque => Sys2Proof.Machine.execPrimeEnd n bisque s
  | .gstageWrite ini n val => Sys2Proof.Machine.execGstageWrite ini n val s
  | .dietempSample n temp => Sys2Proof.Machine.execDietempSample n temp s
  | .cdataRead ini n => Sys2Proof.Machine.execCdataRead ini n s
  | .porstNFall => Sys2Proof.Machine.execPorstNFall s
  | .porstNRise => Sys2Proof.Machine.execPorstNRise s
  | .brownOut => Sys2Proof.Machine.execBrownOut s
  | .laneRailLow n => Sys2Proof.Machine.execLaneRailLow n s
  | .romBoot size clk octal => Sys2Proof.Machine.execRomBoot size clk octal s
  | .copyDone => Sys2Proof.Machine.execCopyDone s
  | .checkDone readError ms => Sys2Proof.Machine.execCheckDone readError ms s
  | .recoveryGo ini => Sys2Proof.Machine.execRecoveryGo ini s
  | .laneLoad n => Sys2Proof.Machine.execLaneLoad n s
  | .laneLoadComplete n ok => Sys2Proof.Machine.execLaneLoadComplete n ok s
  | .imgwrite tag flash => Sys2Proof.Machine.execImgwrite tag flash s
  | .imgcheck tag => Sys2Proof.Machine.execImgcheck tag s
  | .activate tag => Sys2Proof.Machine.execActivate tag s
  | .confirm ini key => Sys2Proof.Machine.execConfirm ini key s
  | .greenwareExpiry sitter => Sys2Proof.Machine.execGreenwareExpiry sitter s
  | .aonRestart => Sys2Proof.Machine.execAonRestart s
  | .correctableError die unit => Sys2Proof.Machine.execCorrectableError die unit s
  | .uncorrectableError die unit addr r => Sys2Proof.Machine.execUncorrectableError die unit addr r s
  | .scrubdone => Sys2Proof.Machine.execScrubdone s
  | .leak cls => Sys2Proof.Machine.execLeak cls s
  | .transformCheck n e w => Sys2Proof.Machine.execTransformCheck n e w s
  | .inject ini cls die unit => Sys2Proof.Machine.execInject ini cls die unit s
  | .seqhang n q dur => Sys2Proof.Machine.execSeqhang n q dur s
  | .coreHeartbeatMiss k serving => Sys2Proof.Machine.execCoreHeartbeatMiss k serving s
  | .coreRestartTimeout k => Sys2Proof.Machine.execCoreRestartTimeout k s
  | .reloadRequest n => Sys2Proof.Machine.execReloadRequest n s
  | .ksbeat ini => Sys2Proof.Machine.execKsbeat ini s
  | .hbto => Sys2Proof.Machine.execHbto s
  | .warmTimeout => Sys2Proof.Machine.execWarmTimeout s
  | .ksrstReset => Sys2Proof.Machine.execKsrstReset s
  | .coastEnd n => Sys2Proof.Machine.execCoastEnd n s
  | .lcmdReload ini lanes => Sys2Proof.Machine.execLcmdReload ini lanes s
  | .reverify ini => Sys2Proof.Machine.execReverify ini s
  | .revdone => Sys2Proof.Machine.execRevdone s
  | .fdataRead ini => Sys2Proof.Machine.execFdataRead ini s
  | .pcieReset linkDown => Sys2Proof.Machine.execPcieReset linkDown s
  | .msixMessage enable fmask v => Sys2Proof.Machine.execMsixMessage enable fmask v s
  | .rtdataRead ini => Sys2Proof.Machine.execRtdataRead ini s
  | .rtdataWrite ini val => Sys2Proof.Machine.execRtdataWrite ini val s
  | .qspiWrite addr words short => Sys2Proof.Machine.execQspiWrite addr words short s
  | .qspiWordPost => Sys2Proof.Machine.execQspiWordPost s
  | .qspiRead addr late => Sys2Proof.Machine.execQspiRead addr late s
  | .qspiStatus => Sys2Proof.Machine.execQspiStatus s
  | .txdataWrite ini u val => Sys2Proof.Machine.execTxdataWrite ini u val s
  | .characterReceived u b fe pe => Sys2Proof.Machine.execCharacterReceived u b fe pe s
  | .rxdataRead ini u => Sys2Proof.Machine.execRxdataRead ini u s
  | .receiveTimeout u => Sys2Proof.Machine.execReceiveTimeout u s
  | .lineBreak u len => Sys2Proof.Machine.execLineBreak u len s
  | .sendbrk ini u => Sys2Proof.Machine.execSendbrk ini u s
  | .rxflush ini u => Sys2Proof.Machine.execRxflush ini u s
  | .txflush ini u => Sys2Proof.Machine.execTxflush ini u s
  | .uartCntclr ini u => Sys2Proof.Machine.execUartCntclr ini u s
  | .dmaenWrite ini u val => Sys2Proof.Machine.execDmaenWrite ini u val s
  | .uartWake u => Sys2Proof.Machine.execUartWake u s
  | .twiStart ini u sdaLow => Sys2Proof.Machine.execTwiStart ini u sdaLow s
  | .twiDone u addrAck acked stretched data => Sys2Proof.Machine.execTwiDone u addrAck acked stretched data s
  | .busRecovery u freed => Sys2Proof.Machine.execBusRecovery u freed s
  | .recoveryRetry u freed => Sys2Proof.Machine.execRecoveryRetry u freed s
  | .tdataRead ini u => Sys2Proof.Machine.execTdataRead ini u s
  | .tdataWrite ini u val => Sys2Proof.Machine.execTdataWrite ini u val s
  | .gpioEdge g rising => Sys2Proof.Machine.execGpioEdge g rising s
  | .dset ini mask => Sys2Proof.Machine.execDset ini mask s
  | .dclr ini mask => Sys2Proof.Machine.execDclr ini mask s
  | .refusedRead ini addr size => Sys2Proof.Machine.execRefusedRead ini addr size s
  | .windowWrite ini addr bytes => Sys2Proof.Machine.execWindowWrite ini addr bytes s
  | .glostSample n ch mods => Sys2Proof.Machine.execGlostSample n ch mods s
  | .candidateFallback n => Sys2Proof.Machine.execCandidateFallback n s
  | .rngok => Sys2Proof.Machine.execRngok s
  | .pcieLinkUp speed width recovery => Sys2Proof.Machine.execPcieLinkUp speed width recovery s
  | .pcieError uncorrectable => Sys2Proof.Machine.execPcieError uncorrectable s
  | .dstateChange d3 pmeEn substate => Sys2Proof.Machine.execDstateChange d3 pmeEn substate s
  | .characterSent u cts => Sys2Proof.Machine.execCharacterSent u cts s
  | .badop op => Sys2Proof.Machine.execBadop op s
  | .jtagInstruction r => Sys2Proof.Machine.execJtagInstruction r s
  | .wakeWindowOpen slot => Sys2Proof.Machine.execWakeWindowOpen slot s
  | .pllLock link => Sys2Proof.Machine.execPllLock link s
  | .supplyReturn n => Sys2Proof.Machine.execSupplyReturn n s

end Sys2Proof.Machine
end

