-- ==== Sys2Proof/Safety.lean ====
section
/-!
DEFINITION. The terms in which claims about the machine are stated: how a command completes, which register accesses are
served, and what a command leaves as it was.
-/
namespace Sys2Proof.Machine

/-- `d` has the register fields of `c`, but for those of `fs` (and those that share a place with one of them). -/
def Chip.SameBut (c d : Chip) (fs : List Fld) : Prop := ∀ g : Fld, (∀ f ∈ fs, g.key ≠ f.key) → d.get g = c.get g

/-- Command `i` answers a next state that has the queue of `s` and satisfies `P`. -/
def Answers (i : Instr) (s : State) (P : State → Prop) : Prop :=
  ∃ t : State, exec i s = .next t ∧ t.pending = s.pending ∧ P t

/-- Command `i` answers a next state with the queue and every byte of memory of `s`, whose chip satisfies `P`. -/
def Completes (i : Instr) (s : State) (P : Chip → Prop) : Prop :=
  Answers i s fun t => (∀ sp a, t.mem.read sp a = s.mem.read sp a) ∧ P t.chip

/-- What lane `n` receives now. -/
def Chip.rxNow (c : Chip) (n : Lane) : Option Rx := (c.lane n).rx.rx

/-- A 32-bit write by `i` at offset `off` of page `p` is served and not refused (R48, R406, R408). -/
def Chip.TakesWrite (c : Chip) (i : Init) (p : Page) (off : Nat) : Prop :=
  c.servesTo i (.page p off) = true ∧ c.pageRefusal i p off 4 true = none

/-- A 32-bit read by `i` at offset `off` of page `p` is served and not refused (R48, R406, R408). -/
def Chip.TakesRead (c : Chip) (i : Init) (p : Page) (off : Nat) : Prop :=
  c.servesTo i (.page p off) = true ∧ c.pageRefusal i p off 4 false = none

/-- What an event of page `p` may change: its PEVT, and through the router VECSTAT and the EVT page's PEVT
(R10, R412). -/
def evtFlds (p : Page) : List Fld := [pevt p, pevt .evt, F.EVT_VECSTAT_SIG]

/-- What a fault of page `p` may change: its PFAULT and PFCNT (R10, R448). -/
def faultFlds (p : Page) : List Fld := [pfault p, pfcntCount p, pfcntLast p]

/-- What the record of a refused access at BAR0 offset `addr` may change (R408): ACCCNT, SYS.PFAULT, its counter and SYS.PEVT,
and, where ACCESS was 0, the captured access. -/
def Chip.refuseFlds (c : Chip) : List Fld :=
  F.SYS_ACCCNT_COUNT :: (faultFlds .sys ++ evtFlds .sys) ++ (if c.bitAt (pfault .sys) 0 then [] else
    [F.SYS_ACCADDR_ADDR, F.SYS_ACCINFO_CAUSE, F.SYS_ACCINFO_INIT, F.SYS_ACCINFO_WRITE, F.SYS_ACCINFO_SIZE])

/-- `d` is `c` with one more access of `size` bytes by `i` at BAR0 offset `addr` refused with `cause` (R408): counted, ACCESS set,
captured if ACCESS was 0, and no other register changed. -/
def Chip.RefusedAs (c d : Chip) (i : Init) (addr cause size : Nat) (w : Bool) : Prop :=
  d.get F.SYS_ACCCNT_COUNT = min (c.get F.SYS_ACCCNT_COUNT + 1) (2 ^ F.SYS_ACCCNT_COUNT.width - 1)
    ∧ d.bitAt (pfault .sys) 0 = true
    ∧ (c.bitAt (pfault .sys) 0 = false → d.get F.SYS_ACCADDR_ADDR = addr ∧ d.get F.SYS_ACCINFO_CAUSE = cause
        ∧ d.get F.SYS_ACCINFO_INIT = i.code ∧ d.get F.SYS_ACCINFO_WRITE = bit w
        ∧ d.get F.SYS_ACCINFO_SIZE = if size = 1 then 0 else if size = 2 then 1 else 2)
    ∧ c.SameBut d c.refuseFlds

/-- A safe step: it goes on to a next state, and canonical memories stay canonical. -/
def SafeStep (s : State) : Prop := ∃ t, step s = .next t ∧ (s.mem.wf = true → t.mem.wf = true)

end Sys2Proof.Machine
end

