-- ==== Sys2Proof/Certificates/Slice0/Obligations.lean ====
section
/-!
DEFINITION. The statements for the provers: the step, and for every family of commands what its commands leave, where each
completes and what it leaves alone.  Values the spec leaves open are named in the log entries that the docstrings cite.
-/
open Sys2Proof Sys2Proof.Machine

/-- A step runs the front command. -/
def Obligations.StepRunsFrontCommand : Prop :=
  ∀ (i : Instr) (rest : List Instr) (s : State),
    step { s with pending := i :: rest } = exec i { s with pending := rest }

/-- No command stops the block, and none reads or changes the queue.  What a step does on an empty queue is the model's choice
(log entry 1). -/
def Obligations.EveryCommandAnswers : Prop :=
  (∀ (i : Instr) (s : State), ∃ t, exec i s = .next t ∧ t.pending = s.pending ∧ (s.mem.wf = true → t.mem.wf = true))
  ∧ (∀ s : State, s.pending = [] → ∃ t, step s = .next t ∧ t.pending = [] ∧ t.mem = s.mem
      ∧ (s.chip.power ≠ .reset → t.chip.tick = s.chip.tick + 1))

/-- The canonical form of the byte memories is an invariant of the step, from every state. -/
def Obligations.StepsKeepMemoriesCanonical : Prop :=
  ∀ s t : State, s.mem.wf = true → step s = .next t → t.mem.wf = true

/-- What reset leaves. -/
def Obligations.ResetLeavesTheStatedValues : Prop :=
  State.reset.mem.wf = true ∧ State.reset.pending = [] ∧ State.reset.chip.tick = 0
    ∧ State.reset.chip.get F.TIME_TSTAT_STATE = 0 ∧ State.reset.chip.power = .boot
    ∧ (∀ f : Fld, State.reset.chip.get f = f.reset)
    ∧ ∀ p : Page, State.reset.chip.flag (pctlEnable p) = true ∧ State.reset.chip.flag (pctlSoftreset p) = false
      ∧ State.reset.chip.unlocked p = false ∧ State.reset.chip.get (pevt p) = 0 ∧ State.reset.chip.get (pevten p) = 0
      ∧ State.reset.chip.get (pfault p) = 0 ∧ State.reset.chip.get (pfcntCount p) = 0

/-- A 32-bit write to one of the common registers of Table 0-4 is the command named after it (R8, R10, R11, R412, R447; page
bases of R404). -/
def Obligations.CommonRegisterWritesAreNamedCommands : Prop :=
  ∀ (i : Init) (p : Page) (v : Nat) (s : State), v < 2 ^ 32 →
    exec (.registerWrite i (p.base + 0x008) 4 0) s = exec (.stopBlock i p) s
      ∧ exec (.registerWrite i (p.base + 0x008) 4 1) s = exec (.runBlock i p) s
      ∧ exec (.registerWrite i (p.base + 0x008) 4 2) s = exec (.softreset i p false) s
      ∧ exec (.registerWrite i (p.base + 0x008) 4 3) s = exec (.softreset i p true) s
      ∧ exec (.registerWrite i (p.base + 0x010) 4 v) s = exec (.pevtClear i p v 0) s
      ∧ exec (.registerWrite i (p.base + 0x014) 4 v) s = exec (.pevtenWrite i p v) s
      ∧ exec (.registerWrite i (p.base + 0x018) 4 v) s = exec (.pfaultClear i p v 0) s
      ∧ exec (.registerWrite i (p.base + 0x020) 4 v) s = exec (.plockWrite i p v) s

/-- Soft reset with ENABLE carried (R9), its end (R9), W1C clears with and without a recurrence (R10, R448), PEVTEN (R412), PLOCK
(R11), stopping and running (R447, Table 0-9), on every page.  Completion of SOFTRESET, SOFT_RESET_COMPLETE, STOP_BLOCK, RUN_BLOCK,
PEVT_CLEAR, PFAULT_CLEAR, PEVTEN_WRITE and PLOCK_WRITE.  PEVTEN bits beyond the page's event range stay 0: log entry 13. -/
def Obligations.CommonRegisterCommandsComplete : Prop :=
  ∀ (i : Init) (p : Page) (s : State),
    (∀ en, s.chip.TakesWrite i p 0x008 → Completes (.softreset i p en) s fun d =>
      d.flag (pctlSoftreset p) = true
        ∧ d.flag (pctlCarried p) = (if s.chip.flag (pctlSoftreset p) then s.chip.flag (pctlCarried p) else en)
        ∧ s.chip.SameBut d [pctlSoftreset p, pctlCarried p])
    ∧ (s.chip.flag (pctlSoftreset p) = true → s.chip.pageBusy p = false → s.chip.stopped = false →
      s.chip.power ≠ .reset →
      Answers (.softResetComplete p) s fun t =>
        t.chip.flag (pctlSoftreset p) = false ∧ t.chip.unlocked p = false ∧ t.chip.get (pevten p) = 0
          ∧ (stoppable p = true → t.chip.flag (pctlEnable p) = s.chip.flag (pctlCarried p))
          ∧ (stoppable p = false → t.chip.get (pevt p) = 0)
          ∧ (p = .sys → t.chip.get F.SYS_SCRATCH_DATA = 0 ∧ t.mem = s.mem ∧ s.chip.SameBut t.chip
              [F.SYS_SCRATCH_DATA, pevten .sys, pevt .sys, plock .sys, pctlSoftreset .sys, pctlCarried .sys])
          ∧ (p = .qspit → t.chip.get F.QSPIT_QCFG_DUMMY = F.QSPIT_QCFG_DUMMY.reset ∧ t.mem = s.mem)
          ∧ (∀ n, p = .rxp n → t.chip.get (F.RXP_RXDLY_DELAY n) = (F.RXP_RXDLY_DELAY n).reset)
          ∧ (∀ u, p = .uart u → t.chip.get (F.UART_BRKLEN_BITS u) = (F.UART_BRKLEN_BITS u).reset))
    ∧ (s.chip.TakesWrite i p 0x008 → ∀ b : Bool,
      Completes (if b then .runBlock i p else .stopBlock i p) s fun d =>
        (stoppable p = true → d.flag (pctlEnable p) = b)
          ∧ (stoppable p = false ∨ s.chip.flag (pctlEnable p) = b → s.chip.SameBut d [])
          ∧ (∀ u, p = .uart u ∨ p = .twi u → s.chip.SameBut d [pctlEnable p])
          ∧ (∀ n, p = .tmap n → s.chip.SameBut d [pctlEnable p])
          ∧ (b = false → s.chip.flag (pctlEnable p) = true →
            (∀ n, p = .rxp n → d.rxNow n = none)
            ∧ (∀ n, p = .txp n → ∀ k ∈ [1, 2, 3], d.portCause n k ≠ 0)
            ∧ (∀ n, p = .echo n → d.get (F.ECHO_ESTAT_STATE n) = 0)
            ∧ (∀ n, p = .slip n → (s.chip.lane n).rx.dec.busy = [] → d.slipEntries n = [])
            ∧ (∀ n, p = .spy n → (d.lane n).rx.spy.armed = false ∧ (d.lane n).rx.spy.running = false)))
    ∧ (∀ mask again, s.chip.TakesWrite i p 0x010 → mask < 2 ^ 32 →
      Completes (.pevtClear i p mask again) s fun d =>
        (∀ b < 32, s.chip.bitAt (pevt p) b = true → (mask.testBit b = false ∨ again.testBit b = true) →
          d.bitAt (pevt p) b = true)
        ∧ (p ≠ .evt ∨ again = 0 → d.get (pevt p)
            = (clearMask (s.chip.get (pevt p)) mask ||| (mask &&& again &&& s.chip.get (pevt p))) % 2 ^ 32)
        ∧ s.chip.SameBut d (evtFlds p)
        ∧ (again = 0 → s.chip.SameBut d [pevt p]))
    ∧ (∀ mask again, s.chip.TakesWrite i p 0x018 → mask < 2 ^ 32 →
      Completes (.pfaultClear i p mask again) s fun d =>
        d.get (pfault p)
            = (clearMask (s.chip.get (pfault p)) mask ||| (mask &&& again &&& s.chip.get (pfault p))) % 2 ^ 32
          ∧ (let k := ((List.range 32).filter fun b => (mask &&& again &&& s.chip.get (pfault p)).testBit b).length
             d.get (pfcntCount p)
              = if k = 0 then s.chip.get (pfcntCount p) else min (s.chip.get (pfcntCount p) + k) 0xFFFF)
          ∧ s.chip.SameBut d (faultFlds p))
    ∧ (∀ v, s.chip.TakesWrite i p 0x014 → v < 2 ^ 32 →
      Completes (.pevtenWrite i p v) s fun d => d.get (pevten p) = v &&& p.eventMask
        ∧ s.chip.SameBut d [pevten p, pevt .evt, F.EVT_VECSTAT_SIG])
    ∧ (∀ v, s.chip.TakesWrite i p 0x020 → v < 2 ^ 32 →
      Completes (.plockWrite i p v) s fun d =>
        (d.unlocked p = true ↔ v = 0x4B31 ∧ s.chip.unlocked p = true
          ∨ v = 0xB4CE ∧ (s.chip.unlocked p = true ∨ s.chip.get (plock p) = 1))
        ∧ s.chip.SameBut d [plock p])

/-- REGISTER_WRITE to plain RW registers: a whole word, one byte of a BW register (Table 16-3), and a field with reserved encodings
(R15); and the halves of a paired register (R407), on TIME.TSETTICK and QM.RBASE.  Completion of REGISTER_WRITE, PR_READ and
PR_WRITE. -/
def Obligations.RegisterWritesStoreTheirFields : Prop :=
  (∀ (i : Init) (v : Nat) (s : State), v < 2 ^ 32 →
      (s.chip.TakesWrite i .sys 0x04C →
        Completes (.registerWrite i 0x4C 4 v) s fun d =>
          d.get F.SYS_SCRATCH_DATA = v ∧ s.chip.SameBut d [F.SYS_SCRATCH_DATA])
      ∧ (∀ k < 4, s.chip.servesTo i (.page .sys (0x04C + k)) = true → s.chip.pageRefusal i .sys (0x04C + k) 1 true = none →
        Completes (.registerWrite i (0x4C + k) 1 (v % 256)) s fun d =>
          (∀ j < 4, bitField (d.get F.SYS_SCRATCH_DATA) (8 * j) 8
            = if j = k then v % 256 else bitField (s.chip.get F.SYS_SCRATCH_DATA) (8 * j) 8)
          ∧ s.chip.SameBut d [F.SYS_SCRATCH_DATA])
      ∧ (s.chip.TakesWrite i .skejo 0x404 →
        Completes (.registerWrite i 0x16404 4 v) s fun d =>
          d.get F.SKEJO_RETLIM_LIMIT = (if 2 ≤ v % 16 then v % 16 else s.chip.get F.SKEJO_RETLIM_LIMIT)
            ∧ s.chip.SameBut d [F.SKEJO_RETLIM_LIMIT]))
  ∧ (∀ (i : Init) (s : State) (v : Nat), v < 2 ^ 32 →
      ∀ x ∈ [(Page.time, 0x080, F.TIME_TSETTICK_TICK), (Page.qm, 0x050, F.QM_RBASE_BASE)],
        (s.chip.TakesWrite i x.1 x.2.1 →
          Completes (.prWrite i x.1 x.2.1 v) s fun d =>
            d.latch i x.1 = .write x.2.1 v ∧ s.chip.SameBut d [])
        ∧ (s.chip.TakesWrite i x.1 (x.2.1 + 4) →
          Completes (.prWrite i x.1 (x.2.1 + 4) v) s fun d =>
            (∀ l, s.chip.latch i x.1 = .write x.2.1 l → l < 2 ^ 32 → d.get x.2.2 = l + 2 ^ 32 * v)
            ∧ ((∀ l, s.chip.latch i x.1 ≠ .write x.2.1 l) → d.get x.2.2 = s.chip.get x.2.2 % 2 ^ 32 + 2 ^ 32 * v)
            ∧ d.latch i x.1 = .none ∧ s.chip.SameBut d [x.2.2])
        ∧ (s.chip.TakesRead i x.1 x.2.1 →
          Completes (.prRead i x.1 x.2.1) s fun d =>
            d.rdata = s.chip.get x.2.2 % 2 ^ 32
              ∧ d.latch i x.1 = .read x.2.1 (s.chip.get x.2.2 / 2 ^ 32 % 2 ^ 32) ∧ s.chip.SameBut d [])
        ∧ (s.chip.TakesRead i x.1 (x.2.1 + 4) →
          Completes (.prRead i x.1 (x.2.1 + 4)) s fun d =>
            (∀ h, s.chip.latch i x.1 = .read x.2.1 h → d.rdata = h)
            ∧ ((∀ h, s.chip.latch i x.1 ≠ .read x.2.1 h) → d.rdata = s.chip.get x.2.2 / 2 ^ 32 % 2 ^ 32) ∧ s.chip.SameBut d []))

/-- What a refused access does (R408): for reads (REFUSED_READ) and for 32-bit writes (REGISTER_WRITE).  Completion of REFUSED_READ. -/
def Obligations.RefusedAccessesAreRecorded : Prop :=
  ∀ (i : Init) (p : Page) (off cause : Nat) (s : State), off < 0x1000 → s.chip.servesTo i (.page p off) = true →
    (s.chip.pageRefusal i p off 4 false = some cause →
      Completes (.refusedRead i (p.base + off) 4) s fun d =>
        d.rdata = 0xFFFFFFFF ∧ s.chip.RefusedAs d i (p.base + off) cause 4 false)
    ∧ (∀ v, v < 2 ^ 32 → s.chip.pageRefusal i p off 4 true = some cause →
      Completes (.registerWrite i (p.base + off) 4 v) s fun d => s.chip.RefusedAs d i (p.base + off) cause 4 true)

/-- The expert lock (R12). -/
def Obligations.LockedPagesRefuseExpertWrites : Prop :=
  ∀ (i : Init) (p : Page) (off : Nat) (s : State),
    0x400 ≤ off → off < 0x1000 → isReg p (off / 4 * 4) = true → s.chip.servesTo i (.page p off) = true →
    (s.chip.unlocked p = false → ∀ size ∈ [1, 2, 4], ∀ v < 2 ^ 32,
      Completes (.registerWrite i (p.base + off) size v) s fun d => ∃ cause,
        (size = 4 → off % 4 = 0 → (∀ n, p.lane? = some n → s.chip.laneReach n = true) →
          s.chip.writerBarred i p off true = false → cause = 4)
        ∧ s.chip.RefusedAs d i (p.base + off) cause size true)
    ∧ (∀ k size, (s.chip.set (plock p) k).pageRefusal i p off size false = s.chip.pageRefusal i p off size false)
    ∧ (s.chip.pageRefusal i p off 4 false = none → Completes (.refusedRead i (p.base + off) 4) s fun d =>
        d = let r := (s.chip.touch i p).readReg i (s.chip.latch i p) p off; r.2.setRdata r.1)

/-- The lanes that the part does not have (R5). -/
def Obligations.UnfittedLanesRefuseEveryAccess : Prop :=
  ∀ (i : Init) (n : Lane) (s : State), s.chip.fitted n = false →
    (∀ p off, p.lane? = some n → off < 0x1000 → s.chip.servesTo i (.page p off) = true → ∀ size ∈ [1, 2, 4],
      (Completes (.refusedRead i (p.base + off) size) s fun d =>
        d.rdata = 2 ^ (8 * size) - 1 ∧ s.chip.RefusedAs d i (p.base + off) 6 size false)
      ∧ ∀ v < 2 ^ 32, Completes (.registerWrite i (p.base + off) size v) s fun d =>
        s.chip.RefusedAs d i (p.base + off) 6 size true)
    ∧ (∀ off, off < 0x00200000 → s.chip.servesTo i (.laneWindow n off) = true →
      (∀ size ∈ [1, 2, 4], Completes (.refusedRead i (n.window + off) size) s fun d =>
        d.rdata = 2 ^ (8 * size) - 1 ∧ s.chip.RefusedAs d i (n.window + off) 6 size false)
      ∧ ∀ bs : List Byte, bs ≠ [] → Completes (.windowWrite i (n.window + off) bs) s fun d =>
        s.chip.RefusedAs d i (n.window + off) 6 bs.length true)
    ∧ ∀ p b, p.lane? = some n → s.chip.raise p b = s.chip

/-- Command registers name alternative commands (R452).  That SEND without WRITE is refused with the same cause: log entry 10. -/
def Obligations.SeveralCommandsInOneWriteAreRefused : Prop :=
  ∀ (i : Init) (v : Nat) (s : State), v < 2 ^ 32 →
    (∀ n : Lane, ∀ x ∈ ([(.wheel, 0x058, [0, 1]), (.wheel, 0x06C, [0, 1]), (.nbr, 0x080, [0, 1]), (.qm, 0x060, [0, 1, 2]),
        (.qm, 0x088, [0, 1, 2]), (.saggar, 0x098, [0, 1]), (.time, 0x088, [0, 1]), (.txp n, 0x408, [4, 5]),
        (.txp n, 0x418, [8, 9]), (.echo n, 0x04C, [0, 1]), (.slip n, 0x060, [0, 1]), (.tmap n, 0x054, [16, 17, 18]),
        (.tmap n, 0x404, [0, 1]), (.tmap n, 0x41C, [0, 1]), (.spy n, 0x050, [0, 1])] : List (Page × Nat × List Nat)),
      let bare : Bool := x.1 == .tmap n && x.2.1 == 0x41C && v.testBit 2 && !v.testBit 1
      s.chip.TakesWrite i x.1 x.2.1 → s.chip.pageBusy x.1 = false → (x.1 = .saggar → s.chip.keys.hash = none) →
      (2 ≤ (x.2.2.filter v.testBit).length ∨ bare = true →
        Completes (.registerWrite i (x.1.base + x.2.1) 4 v) s fun d =>
          s.chip.RefusedAs d i (x.1.base + x.2.1) 9 4 true)
      ∧ (x.2.2.filter v.testBit = [] → bare = false →
        Completes (.registerWrite i (x.1.base + x.2.1) 4 v) s fun d => d = s.chip.touch i x.1))
    ∧ (∀ u : Dual, s.chip.TakesWrite i (.uart u) 0x078 →
      ∃ t1 t2 t3 t4, exec (.registerWrite i ((Page.uart u).base + 0x078) 4 (v &&& 1)) s = .next t1
        ∧ exec (.registerWrite i ((Page.uart u).base + 0x078) 4 (v &&& 2)) t1 = .next t2
        ∧ exec (.registerWrite i ((Page.uart u).base + 0x078) 4 (v &&& 4)) t2 = .next t3
        ∧ exec (.registerWrite i ((Page.uart u).base + 0x078) 4 (v &&& 8)) t3 = .next t4
        ∧ exec (.registerWrite i ((Page.uart u).base + 0x078) 4 v) s = .next t4)

/-- Writes to the hub SRAM window and to a lane table window (R32, R33), and CNTCLR on three pages of different form.  Completion of
WINDOW_WRITE and CNTCLR. -/
def Obligations.WindowWritesAndCounterClears : Prop :=
  (∀ (i : Init) (off : Nat) (bs : List Byte) (s : State),
      (bs ≠ [] → off + bs.length ≤ 0x01000000 → s.chip.servesTo i (.sram off) = true →
        (∀ k < bs.length, sramWritable i (off + k) = true) →
        Answers (.windowWrite i (0x02000000 + off) bs) s fun t =>
          t.chip = s.chip.noteWrote off bs.length ∧ t.chip.regs = s.chip.regs
          ∧ (∀ k (h : k < bs.length), t.mem.read .sram (off + k) = bs[k])
          ∧ (∀ a, (a < off ∨ off + bs.length ≤ a) → t.mem.read .sram a = s.mem.read .sram a)
          ∧ (∀ a, t.mem.read .host a = s.mem.read .host a ∧ t.mem.read .flash a = s.mem.read .flash a))
      ∧ (∀ n : Lane, bs ≠ [] → off < 0x00200000 → s.chip.servesTo i (.laneWindow n off) = true →
        Completes (.windowWrite i (n.window + off) bs) s fun d =>
          d.get F.SYS_ACCCNT_COUNT = min (s.chip.get F.SYS_ACCCNT_COUNT + 1) (2 ^ F.SYS_ACCCNT_COUNT.width - 1)
            ∧ d.bitAt (pfault .sys) 0 = true))
  ∧ (∀ (i : Init) (v : Nat) (s : State),
      (s.chip.TakesWrite i .sys 0x050 → v % 2 = 1 → Completes (.cntclr i .sys v) s fun d =>
        d.get F.SYS_ACCCNT_COUNT = 0 ∧ s.chip.SameBut d [F.SYS_ACCCNT_COUNT])
      ∧ (s.chip.TakesWrite i .qm 0x0B0 → v % 2 = 1 → Completes (.cntclr i .qm v) s fun d =>
        d.get F.QM_CELLSTAT_LOW = s.chip.get F.QM_CELLSTAT_FREE % 2 ^ F.QM_CELLSTAT_LOW.width)
      ∧ (s.chip.TakesWrite i .skejo 0x120 → Completes (.cntclr i .skejo v) s fun d =>
        ∀ n : Lane, ∀ f ∈ [F.SKEJO_CRCERR_HUBRX n, F.SKEJO_CRCERR_LANERX n, F.SKEJO_RETRY_REPLAYS n,
          F.SKEJO_RETRY_RETRAINS n, F.SKEJO_SPYDROP_COUNT n],
          d.get f = if v.testBit n.idx then 0 else s.chip.get f))

/-- One direction of a Skejo link (R24 to R27).  Completion of PACKET_SEND, SKEJO_PACKET, NAK, SKEJO_ACK and CREDIT_RETURN.  How the header
lays its fields out and which CRC-32C is meant: log entry 171; SPYCAP packet by packet: log entry 172. -/
def Obligations.SkejoPacketsKeepOrderAndCredit : Prop :=
  ∀ (n : Lane) (d : Dir) (s : State), s.chip.laneReach n = true →
    let x := s.chip.linkDir n d
    (∀ p : SkejoPkt, p.vc ≤ 3 → p.kind < 256 → p.payload.length ≤ 256 → p.payload.length % 32 = 0 →
      ((p.vc = 3 → s.chip.spyMayGo n d p = true) → Completes (.packetSend n d p.vc p.kind p.payload) s fun e =>
        e.linkDir n d = ({ x with waiting := x.waiting ++ [p] } : SkejoDir).drain (x.waiting.length + 1)
          ∧ (x.waiting = [] → x.canSend p = true → (e.linkDir n d).waiting = []
              ∧ (e.linkDir n d).replay = x.replay ++ [(x.nextSeq, p)]
              ∧ (e.linkDir n d).nextSeq = (x.nextSeq + 1) % 1024
              ∧ ∀ v ≤ 3, (e.linkDir n d).credit v = if v = p.vc then x.credit v - p.units else x.credit v)
          ∧ e.regs = s.chip.regs)
      ∧ (p.vc = 3 → s.chip.spyMayGo n d p = false → Completes (.packetSend n d 3 p.kind p.payload) s fun e =>
        e.linkDir n d = x ∧ (e.lane n).rx.spy.gap = true
          ∧ e.get (F.SKEJO_SPYDROP_COUNT n) = min (s.chip.get (F.SKEJO_SPYDROP_COUNT n) + 1) (2 ^ 32 - 1)))
    ∧ (∀ p flips, x.replay.find? (fun e => e.1 == x.expect) = some (x.expect, p) → x.expect < 1024 →
      wireOk (flipBits flips (p.wire x.expect)) = true → Completes (.skejoPacket n d x.expect flips) s fun e =>
        e.linkDir n d = { x with delivered := p :: x.delivered, expect := (x.expect + 1) % 1024, discarding := false,
                                 nakSent := false }
          ∧ e.regs = s.chip.regs)
    ∧ (∀ seq p flips, x.replay.find? (fun e => e.1 == seq) = some (seq, p) → seq < 1024 →
      wireOk (flipBits flips (p.wire seq)) = false → Completes (.skejoPacket n d seq flips) s fun e =>
        e.linkDir n d = { x with discarding := true, nakSent := true }
          ∧ s.chip.SameBut e [F.SKEJO_CRCERR_HUBRX n, F.SKEJO_CRCERR_LANERX n])
    ∧ (x.nakSent = true → Completes (.nak n d) s fun e =>
        (e.linkDir n d).replay = x.replay ∧ (e.linkDir n d).delivered = x.delivered
          ∧ (e.linkDir n d).waiting = x.waiting ∧ (e.linkDir n d).nakSent = false
          ∧ e.get (F.SKEJO_RETRY_REPLAYS n) = min (s.chip.get (F.SKEJO_RETRY_REPLAYS n) + 1) 0xFFFF
          ∧ (let k := if x.failSeq = x.expect then x.fails + 1 else 1
             (k < s.chip.get F.SKEJO_RETLIM_LIMIT → (e.linkDir n d).fails = k
                ∧ e.get (F.SKEJO_LINKSTAT_STATE n) = s.chip.get (F.SKEJO_LINKSTAT_STATE n))
             ∧ (s.chip.get F.SKEJO_RETLIM_LIMIT ≤ k → e.get (F.SKEJO_LINKSTAT_STATE n) = 1)))
    ∧ (∀ seq, Completes (.skejoAck n d seq) s fun e =>
        e.linkDir n d = (x.acked (seq % 1024)).drain x.waiting.length ∧ e.regs = s.chip.regs
          ∧ (∀ k, x.waiting = [] → x.taken.findIdx? (fun j => j == seq % 1024) = some k →
              (e.linkDir n d).replay = x.replay.drop (k + 1)))
    ∧ (∀ vc units, vc ≤ 3 → Completes (.creditReturn n d vc units) s fun e =>
        e.linkDir n d = (x.setCredit vc (min (vcCredits vc) (x.credit vc + units))).drain x.waiting.length
          ∧ e.regs = s.chip.regs)

/-- How a link's state follows training and its retired physical lanes (R27, R28).  Completion of RETRAIN_COMPLETE and FORCE_RETRAIN. -/
def Obligations.LinkTrainingSettlesByWorkingLanes : Prop :=
  ∀ (n : Lane) (s : State),
    (∀ (i : Init) (mask : Nat), s.chip.TakesWrite i .skejo 0x400 → Completes (.forceRetrain i mask) s fun e =>
      e.get (F.SKEJO_LINKSTAT_STATE n)
        = if mask.testBit n.idx ∧ s.chip.fitted n = true then 1 else s.chip.get (F.SKEJO_LINKSTAT_STATE n))
    ∧ (s.chip.fitted n = true → s.chip.get (F.SKEJO_LINKSTAT_STATE n) = 1 →
      Completes (.retrainComplete n false) s fun e => e.get (F.SKEJO_LINKSTAT_STATE n) = 0)
    ∧ (s.chip.fitted n = true → s.chip.get (F.SKEJO_LINKSTAT_STATE n) = 1 →
      Completes (.retrainComplete n true) s fun e =>
        let tx := workingLanes (s.chip.get (F.SKEJO_LANEMAP_TXRET n))
        let rx := workingLanes (s.chip.get (F.SKEJO_LANEMAP_RXRET n))
        e.get (F.SKEJO_LINKSTAT_STATE n) = (if min tx rx < 2 then 0 else if min tx rx < 4 then 3 else 2)
          ∧ e.get (F.SKEJO_LINKSTAT_TXLANES n) = min 4 tx ∧ e.get (F.SKEJO_LINKSTAT_RXLANES n) = min 4 rx)

/-- Requests for STANDBY, entry and exit (R46, R47).  Completion of STBY, STBY_WITHDRAW, STBY_REQ_RISE, STBY_REQ_FALL, STANDBY_ENTRY and
STANDBY_EXIT.  That a withdrawal by the host leaves a request of the pin alone: log entry 175. -/
def Obligations.StandbyRequestsAndWake : Prop :=
  ∀ (s : State) (i : Init) (val : Nat),
    (s.chip.TakesWrite i .clk 0x048 → s.chip.flag F.CLK_PWRSTAT_STBYPEND = false → s.chip.power ≠ .standby →
      Completes (.stby i val) s fun d =>
        d.flag F.CLK_PWRSTAT_STBYPEND = true ∧ d.flag F.CLK_PWRCTL_STBY = true ∧ d.pins.stbyPin = false)
    ∧ (s.chip.TakesWrite i .clk 0x048 → s.chip.flag F.CLK_PWRSTAT_STBYPEND = true → s.chip.pins.stbyPin = false →
      Completes (.stbyWithdraw i val) s fun d =>
        d.flag F.CLK_PWRSTAT_STBYPEND = false ∧ d.flag F.CLK_PWRCTL_STBY = false)
    ∧ (s.chip.flag F.CLK_PWRCTL_PINEN = true → s.chip.power ≠ .reset → s.chip.power ≠ .standby → s.chip.stopped = false →
      s.chip.flag F.CLK_PWRSTAT_STBYPEND = false →
      Completes .stbyReqRise s fun d =>
        d.flag F.CLK_PWRSTAT_STBYPEND = true ∧ d.pins.stbyPin = true ∧ d.pins.stbyReq = true)
    ∧ (s.chip.flag F.CLK_PWRSTAT_STBYPEND = true → s.chip.pins.stbyPin = true →
      Completes .stbyReqFall s fun d => d.flag F.CLK_PWRSTAT_STBYPEND = false ∧ d.pins.stbyReq = false)
    ∧ (s.chip.flag F.CLK_PWRCTL_PINEN = true → s.chip.power = .standby → s.chip.pins.wake = none →
      Completes .stbyReqFall s fun d => d.pins.wake = some 4)
    ∧ (s.chip.standbyOpen = true → Completes .standbyEntry s fun d =>
        d.power = .standby ∧ d.get F.CLK_PWRSTAT_STATE = 4 ∧ d.get F.CLK_PWRSTAT_LANEPWR = 0
          ∧ d.flag F.CLK_PWRSTAT_STBYPEND = false)
    ∧ (∀ k < 16, s.chip.pins.wake = some k → s.chip.power = .standby → s.chip.stopped = false →
      Answers .standbyExit s (fun t => t = (s.onWork fun w => (w.onChip fun c => c.wakeUp k).hubResumes)
          ∧ t.chip.power = .active ∧ t.chip.get F.CLK_PWRSTAT_STATE = 2 ∧ t.chip.get F.CLK_PWRSTAT_WAKECAUSE = k
          ∧ t.chip.flag F.CLK_PWRCTL_STBY = false ∧ t.chip.pins.wake = none ∧ t.chip.bitAt (pevt .clk) 2 = true)
        ∧ (s.chip.wakeUp k).power = .active ∧ (s.chip.wakeUp k).get F.CLK_PWRSTAT_WAKECAUSE = k
        ∧ (s.chip.wakeUp k).flag F.CLK_PWRCTL_STBY = false
        ∧ (s.chip.wakeUp k).bitAt (pevt .clk) 2 = true)

/-- Clock and mains events (R44, R49, R86).  Completion of REFCLK_LOSS, REFCLK_RESTART, PLL_UNLOCK, PLL_LOCK, MAINS_OK_LOW and MAINS_OK_HIGH.
That a loss of REFCLK alone raises no PLL unlock event: log entry 174. -/
def Obligations.ClockAndMainsEvents : Prop :=
  ∀ s : State,
    (s.chip.power ≠ .reset → s.chip.stopped = false → Completes .refclkLoss s fun d =>
      d.stopped = true ∧ d.pins.refFault = true ∧ d.flag F.CLK_CLKSTAT_REFOK = false
        ∧ d.flag F.CLK_CLKSTAT_HUBPLL = false ∧ d.flag F.CLK_CLKSTAT_LINKPLL = false
        ∧ d.flag F.CLK_CLKSTAT_AONRC = true
        ∧ d.get F.CLK_CLKSTAT_REFLOSS = min (s.chip.get F.CLK_CLKSTAT_REFLOSS + 1) 255)
    ∧ (s.chip.stopped = true → Completes .refclkRestart s fun d =>
      d.power = .boot ∧ d.get F.CLK_PWRSTAT_STATE = 1 ∧ d.boot.rom = .select ∧ d.get F.BOOT_BSTAT_STAGE = 0)
    ∧ (∀ link, s.chip.power ≠ .reset → Completes (.pllUnlock link) s fun d =>
      d.flag (if link then F.CLK_CLKSTAT_LINKPLL else F.CLK_CLKSTAT_HUBPLL) = false ∧ d.bitAt (pevt .clk) 1 = true)
    ∧ (∀ link, s.chip.power ≠ .reset → Completes (.pllLock link) s fun d =>
      d.flag (if link then F.CLK_CLKSTAT_LINKPLL else F.CLK_CLKSTAT_HUBPLL) = true)
    ∧ (s.chip.power ≠ .reset → s.chip.pins.mainsOk = true → Completes .mainsOkLow s fun d =>
      d.bitAt (pevt .clk) 3 = true ∧ d.pins.mainsOk = false
        ∧ ∀ n, d.lstate n = if s.chip.lstate n = 2 then 3 else s.chip.lstate n)
    ∧ Completes .mainsOkHigh s fun d => d.pins.mainsOk = true

/-- Resets and supply rails (R437, R438, R440).  Completion of PORST_N_FALL, PORST_N_RISE, BROWN_OUT, LANE_RAIL_LOW and
SUPPLY_RETURN. -/
def Obligations.ResetsAndRails : Prop :=
  ∀ s : State,
    (∀ i ∈ [Instr.porstNFall, Instr.brownOut], Answers i s fun t =>
      t.chip.power = .reset ∧ (∀ f, t.chip.get f = f.reset) ∧ t.chip.fuses.array = s.chip.fuses.array
        ∧ (∀ a < Space.sram.top, t.mem.read .sram a = Space.sram.unlisted)
        ∧ t.mem.flash = s.mem.flash ∧ t.mem.host = s.mem.host)
    ∧ (s.chip.power = .reset → s.chip.pins.hubLow = false → Completes .porstNRise s fun d =>
      d.power = .boot ∧ d.tick = 0 ∧ d.get F.CLK_PWRSTAT_STATE = 1 ∧ d.fuses.latched = s.chip.fuses.array)
    ∧ (s.chip.power = .reset → s.chip.pins.porstLow = false → Completes (.supplyReturn none) s fun d =>
      d.power = .boot ∧ d.tick = 0 ∧ d.get F.CLK_PWRSTAT_STATE = 1 ∧ d.fuses.latched = s.chip.fuses.array)
    ∧ (∀ n : Lane, s.chip.power ≠ .reset → n.num ∉ s.chip.pins.railsLow → s.chip.fitted n = true →
      s.chip.bitAt F.CLK_PWRSTAT_LANEPWR n.idx = true → Completes (.laneRailLow n) s fun d =>
        d.get (F.WARDEN_WSTAT_STATE n) = 3 ∧ d.get (F.WARDEN_WSTAT_CAUSE n) = 4
          ∧ d.get (F.LSYS_LSTAT_STATE n) = 1)
    ∧ (∀ n : Lane, s.chip.hubRuns = false → Completes (.supplyReturn (some n)) s fun d =>
      n.num ∉ d.pins.railsLow ∧ s.chip.SameBut d [])

/-- Buckets, faults and leaks (R28, R380, R382, R384).  Completion of CORRECTABLE_ERROR, LANE_CHECK_ERROR, TRANSFORM_CHECK, INJECT, LEAK
and SCRUBDONE.  That a receive mismatch counts its symbol in OVLEXCL: log entry 212. -/
def Obligations.FaultsFillBuckets : Prop :=
  (∀ (s : State) (i : Instr) (cls die unit : Nat) (fs : List Fld),
    (i = .correctableError die unit ∧ cls = 5 ∧ fs = [F.HEALTH_CORRCNT_COUNT])
      ∨ (∃ n : Lane, i = .laneCheckError n unit ∧ cls = 4 ∧ die = n.num ∧ fs = [])
      ∨ (∃ (n : Lane) (w : Nat), i = .transformCheck n unit w ∧ cls = 3 ∧ die = n.num ∧ (s.chip.lane n).ready = true
          ∧ fs = [F.RXP_LOSS_OVLEXCL n])
      ∨ (∃ j, i = .inject j cls die unit ∧ s.chip.TakesWrite j .health 0x420 ∧ fs = []) →
    unitOk cls die unit = true → s.chip.dieFitted die = true →
    s.chip.health.buckets.getD (bucketKey cls die unit) 0 + 1 < s.chip.get (F.HEALTH_THR_THR cls) →
    s.chip.health.buckets.getD (bucketKey cls die unit) 0 < 255 →
    Completes i s fun d =>
      (∀ k, d.health.buckets.getD k 0 =
        s.chip.health.buckets.getD k 0 + if k = bucketKey cls die unit then 1 else 0)
        ∧ d.health.retired = s.chip.health.retired
        ∧ s.chip.SameBut d (fs ++ evtFlds .health)
        ∧ (i = .correctableError die unit → d.get F.HEALTH_CORRCNT_COUNT
            = min (s.chip.get F.HEALTH_CORRCNT_COUNT + 1) (2 ^ F.HEALTH_CORRCNT_COUNT.width - 1))
        ∧ (∀ n w x, i = .transformCheck n unit w → s.chip.rxNow n = some x →
            (∀ k, s.chip.fftInput n unit = some k →
              d.rxNow n = some { x with bad := (k, w) :: x.bad }
                ∧ d.get (F.RXP_LOSS_OVLEXCL n)
                  = min (s.chip.get (F.RXP_LOSS_OVLEXCL n) + 1) (2 ^ (F.RXP_LOSS_OVLEXCL n).width - 1))
            ∧ (s.chip.fftInput n unit = none → d.rxNow n = some x)))
  ∧ (∀ (s : State) (cls : Nat), NatMap.sorted s.chip.health.buckets = true → Completes (.leak cls) s fun d =>
      (∀ k, d.health.buckets.getD k 0 = s.chip.health.buckets.getD k 0 - if k / 1024 = cls then 1 else 0)
        ∧ s.chip.SameBut d [])
  ∧ (∀ s : State, Completes .scrubdone s fun d =>
      d.bitAt (pevt .health) 7 = true ∧ s.chip.SameBut d (evtFlds .health))

/-- Uncorrectable errors by region, wardens, reload requests and lane commands (R380, R387 to R389, Table 15-1).  Completion of
UNCORRECTABLE_ERROR, SEQHANG, RELOAD_REQUEST and LCMD_RELOAD. -/
def Obligations.ErrorsAndWardensAct : Prop :=
  ∀ s : State,
    (∀ die unit addr r, s.chip.dieFitted die = true →
      ((r = .staging ∨ r = .twice false ∨ r = .cell .unused ∨ (∃ n, r = .microcode n) ∨ (∃ cls idx b, r = .key cls idx b)
          ∨ (∃ n o p, r = .slip n o p) ∨ (∃ n bs, r = .rxStaging n bs)) →
        Completes (.uncorrectableError die unit addr r) s fun d =>
          d.bitAt (pevt .health) 1 = true ∧ d.bitAt F.HEALTH_STICKY_KINDS 7 = true
            ∧ d.get F.HEALTH_RETCNT_UNCORR =
                min (s.chip.get F.HEALTH_RETCNT_UNCORR + 1) (2 ^ F.HEALTH_RETCNT_UNCORR.width - 1)
            ∧ (∀ n, r = .microcode n → d.get (F.WARDEN_WSTAT_STATE n) = 3 ∧ d.get (F.WARDEN_WSTAT_CAUSE n) = 3
                ∧ n.num ∈ d.health.reloadAsked)
            ∧ (∀ cls idx b, r = .key cls idx b → d.bitAt (pfault .saggar) 3 = true ∧ d.bitAt (pevt .saggar) 5 = true))
      ∧ (r = .code ∨ r = .twice true →
        Completes (.uncorrectableError die unit addr r) s fun d =>
          d.power = .coast ∧ d.boot.rom = .select ∧ d.health.backstop = 1))
    ∧ (∀ die unit addr r, s.chip.dieFitted die = false →
      Completes (.uncorrectableError die unit addr r) s fun d => d = s.chip)
    ∧ (∀ (n : Lane) q dur, (s.chip.lane n).ready = true → q < 2 → s.chip.fitted n = true →
      Completes (.seqhang n q dur) s fun d =>
        d.get (F.WARDEN_WSTAT_CAUSE n) = q + 1
          ∧ d.bitAt (pevt (.warden n)) 0 = true ∧ d.bitAt (pfault (.warden n)) 0 = true
          ∧ d.get (F.WARDEN_WCNT_HANGS n) = min (s.chip.get (F.WARDEN_WCNT_HANGS n) + 1)
              (2 ^ (F.WARDEN_WCNT_HANGS n).width - 1)
          ∧ (∀ f ∈ (d.lane n).tx.ready, f.t0 ≤ s.chip.tick + min dur 204800 → f.late = true)
          ∧ (s.chip.get (F.WARDEN_WCFG_RSTMAX n)
                < (((s.chip.health.seqRestarts.getD n.num []).filter fun t => s.chip.tick < t + 10 * tickHz).length + 1) →
              n.num ∈ d.health.reloadAsked ∧ d.get (F.WARDEN_WSTAT_STATE n) = 3))
    ∧ (∀ n : Lane, s.chip.hubRuns = true → s.chip.fitted n = true →
      s.chip.bitAt F.HEALTH_HSTAT_LANEFAIL n.idx = false → (n.num ∈ s.chip.health.reloadAsked ∨ s.chip.linkUp n = false) →
      Completes (.reloadRequest n) s fun d =>
        d.bitAt (pevt .health) 3 = true ∧ d.bitAt F.HEALTH_STICKY_KINDS 3 = true
          ∧ n.num ∉ d.health.reloadAsked ∧ (d.lane n).ready = false ∧ d.get (F.LSYS_LSTAT_STATE n) = 1
          ∧ (s.chip.get (F.SKEJO_LINKSTAT_STATE n) = 0 → d.get (F.SKEJO_LINKSTAT_STATE n) = 1))
    ∧ (∀ i lanes, s.chip.TakesWrite i .health 0x064 →
      Completes (.lcmdReload i lanes) s fun d =>
        (∀ n : Lane, s.chip.fitted n = true → lanes.testBit n.idx = true → s.chip.bitAt F.HEALTH_HSTAT_LANEFAIL n.idx = true →
          d.bitAt F.HEALTH_HSTAT_LANEFAIL n.idx = false ∧ (d.lane n).ready = false)
        ∧ (∀ n : Lane, lanes.testBit n.idx = false →
          d.bitAt F.HEALTH_HSTAT_LANEFAIL n.idx = s.chip.bitAt F.HEALTH_HSTAT_LANEFAIL n.idx)
        ∧ ((∀ n : Lane, lanes.testBit n.idx = true → s.chip.bitAt F.HEALTH_HSTAT_LANEFAIL n.idx = false) → s.chip.SameBut d []))

/-- Core restarts and the backstop (R388, R390, R392).  Completion of CORE_HEARTBEAT_MISS, CORE_RESTART_TIMEOUT, HBTO, KSRST_RESET,
WARM_TIMEOUT, KSBEAT and COAST_END. -/
def Obligations.CoreRestartsAndBackstop : Prop :=
  ∀ s : State,
    (∀ k serving, s.chip.hubRuns = true → k < 3 → s.chip.mbx.requests = [] →
      Completes (.coreHeartbeatMiss k serving) s fun d =>
        let times := ((k, s.chip.tick) :: s.chip.health.coreRestarts).filter fun e => s.chip.tick < e.2 + 600 * tickHz
        if 3 ≤ (times.filter fun e => e.1 == k).length then d.power = .coast ∧ d.health.backstop = 1
        else d.bitAt (pevt .health) 2 = true ∧ d.power = s.chip.power ∧ d.health.coreRestarts = times
          ∧ k ∈ d.health.coresDown)
    ∧ (∀ k t, s.chip.hubRuns = true → k ∈ s.chip.health.coresDown →
      s.chip.health.coreRestarts.find? (fun e => e.1 == k) = some (k, t) → s.chip.tick ≤ t + tickHz / 10 →
      Completes (.coreRestartTimeout k) s fun d => d.power = .coast ∧ d.health.backstop = 1)
    ∧ (s.chip.hubRuns = true → s.chip.health.backstop = 0 → s.chip.get F.HEALTH_HSTAT_KSRST < 3 →
      Completes .hbto s fun d =>
        d.get F.HEALTH_HSTAT_KSRST = s.chip.get F.HEALTH_HSTAT_KSRST + 1 ∧ d.bitAt (pevt .health) 2 = true
          ∧ d.power = s.chip.power)
    ∧ (s.chip.hubRuns = true → s.chip.health.backstop = 0 → 3 ≤ s.chip.get F.HEALTH_HSTAT_KSRST →
      Completes .hbto s fun d => d.power = .coast ∧ d.health.backstop = 1)
    ∧ (s.chip.hubRuns = true → s.chip.health.backstop = 0 →
      Completes .ksrstReset s fun d => d.get F.HEALTH_HSTAT_KSRST = 0 ∧ s.chip.SameBut d [F.HEALTH_HSTAT_KSRST])
    ∧ (s.chip.health.backstop = 1 → s.chip.stopped = false → s.chip.power ≠ .reset →
      Completes .warmTimeout s fun d =>
        if s.chip.health.secondWarm then d.health.backstop = 2 ∧ d.power = s.chip.power
        else d.health.secondWarm = true ∧ d.power = .coast)
    ∧ (∀ i, s.chip.TakesWrite i .health 0x060 → s.chip.health.backstop = 0 →
      Completes (.ksbeat i) s fun d => d.health.lastBeat = s.chip.tick ∧ s.chip.SameBut d [])
    ∧ (∀ i, s.chip.TakesWrite i .health 0x060 → s.chip.health.backstop = 1 →
      Answers (.ksbeat i) s fun t => t.chip.health.backstop = 0 ∧ t.chip.get F.HEALTH_HSTAT_KSRST = 0
        ∧ (s.chip.power = .coast → t.chip.power = .active))
    ∧ (∀ n : Lane, s.chip.coasting n = true → 8 ≤ (s.chip.lane n).coastTurns →
      Completes (.coastEnd n) s fun d => d.wheel.store.getD n.num [] = [] ∧ s.chip.SameBut d [])

/-- FRAME_COMMIT by form and facet role (R22, R93), and the frames that a training pass, a build and a WAKE call commit (R79, R104, R150,
R236).  Completion of FRAME_COMMIT. -/
def Obligations.FramesCommitByRule : Prop :=
  ∀ (s : State) (n : Lane) (t0 : Nat) (mis : List (Nat × Nat)),
    let c := s.chip;
    let f := c.facetAt n t0;
    let role := c.role n f;
    let gimin := entryGimin (c.entry n f);
    let giOk := fun gi : Nat => gi ≤ 3 ∧ gimin ≤ gi ∧ (role ≠ 7 ∨ 1 ≤ gi);
    let gives := fun (req : TxReq) (d : Chip) =>
      Completes (.frameCommit n t0 req mis) s fun e => e = d;
    let commits := fun (req : TxReq) (P : TxFrame → Prop) =>
      Completes (.frameCommit n t0 req mis) s fun d =>
        (∃ x, (d.lane n).tx.onWay = (c.lane n).tx.onWay ++ [x] ∧ x.t0 = t0 ∧ x.facet = f ∧ x.turn = c.turn n ∧ x.blocks = []
          ∧ x.recs = [] ∧ x.late = false ∧ P x) ∧ c.SameBut d [];
    (c.mayOpen n t0 = false → ∀ req, gives req c)
    ∧ (c.mayOpen n t0 = true →
      (role = 6 → (c.lane n).echo.req ≠ 0 → (c.lane n).echo.running = 0 → c.trainUnder n = false →
        let body := FcBody.sound gimin (c.trainSymbols n (c.lane n).echo.req) 1 0 false;
        c.fitsRun n f t0 (t0 + body.ticks) (t0 + body.ticks) = true →
        commits .training fun x => x.fc = ownFc (c.epochIn n) 0x3FFF body ∧ x.training = (c.lane n).echo.req ∧ x.coupling = .rotation)
      ∧ (∀ slot gi, role = 6 → giOk gi → c.trainDue n f = false → c.mayServe n slot = true → (c.nbr slot).proto = 0 →
        (∃ b ∈ (c.lane n).tmap.builds, b.slot = slot ∧ b.source = 0 ∧ b.tries < 3) →
        let single : Bool := (c.nbr slot).cpl == 0;
        let body := FcBody.sound gi (c.get (F.TMAP_TMCFG_NSND n)) (if single then 0 else 1) (if single then (c.nbr slot).port else 0) true;
        c.fitsRun n f t0 (t0 + body.ticks) (t0 + body.ticks + ackGap false + body.ticks) = true →
        commits (.sound slot gi) fun x => x.fc = ownFc (c.peerEpoch n slot) slot body ∧ x.slot = slot ∧ x.training = 0)
      ∧ (∀ slot wtrn wfac, role = 4 ∨ role = 8 → c.mayServe n slot = true → c.wheel.calls.get? slot = none →
        (c.nbr slot).sleep = true → wfac < 96 → 0 ≤ stampDist (c.turn n, f) (wtrn, wfac) →
        c.fitsRun n f t0 (t0 + (FcBody.wake false 0 wtrn wfac).ticks) (t0 + (FcBody.wake false 0 wtrn wfac).ticks) = true →
        commits (.wake slot wtrn wfac) fun x =>
          x.fc = ownFc (c.peerEpoch n slot) slot (.wake false 0 wtrn wfac) ∧ x.slot = slot ∧ x.training = 0)
      ∧ gives .training (if role = 6 then c.commitTraining n t0 f else c)
      ∧ (∀ slot gi, gives (.sound slot gi)
          (if role = 6 ∧ giOk gi ∧ c.trainDue n f = false then c.commitSound n t0 f slot gi else c))
      ∧ (∀ gi nsym bt gfac users,
          gives (.grant gi nsym bt gfac users) (if role = 4 then c.commitGrant n t0 f gi nsym bt gfac users else c))
      ∧ (∀ slot gi nsym mode gfac,
          gives (.fdGrant slot gi nsym mode gfac) (if role = 4 then c.commitFdGrant n t0 f slot gi nsym mode gfac else c))
      ∧ (∀ slot wtrn wfac,
          gives (.wake slot wtrn wfac) (if role = 4 ∨ role = 8 then c.commitWake n t0 f slot wtrn wfac else c))
      ∧ (∀ gi mode rate bt resends news,
          gives (.data 0 gi mode rate bt resends news)
            (if giOk gi ∧ bt ≤ 1 ∧ ((role = 4 ∧ c.quietIn n = false) ∨ (role = 7 ∧ c.g6Idle n t0 = true)) then
              c.commitBroadcast n t0 f gi mode bt news mis else c))
      ∧ (∀ slot gi mode rate bt resends news, slot ≠ 0 →
          gives (.data slot gi mode rate bt resends news)
            (if giOk gi ∧ bt ≤ 1 ∧ c.mayServe n slot = true
                ∧ ((role = 4 ∧ (c.nbr slot).proto = 0) ∨ (role = 7 ∧ (c.nbr slot).proto = 1 ∧ c.g6Idle n t0 = true)) then
              c.commitUnicast n slot t0 f gi mode rate bt resends news none mis else c))
      ∧ (∀ mode rate bt resends news (g : Granted) (u : GrantRec) (us : List GrantRec),
          (c.lane n).tx.grants.find? (fun g => g.fd && g.t0 == t0) = some g → g.users = u :: us →
          gives (.fdData mode rate bt resends news)
            (if c.mayServe n u.slot = true ∧ bt ≤ 1 then
              c.commitUnicast n u.slot t0 f g.gi mode rate bt resends news (some g.nsym) mis else c)))

/-- Commitments and what becomes of them (R131 to R133, R135, R174, R236, R387).  Completion of COMMITMISS, COMMITMENT_RECEIPT,
FRAME_TRANSMIT, ACKMISS and NOREPLY. -/
def Obligations.CommitmentsReachTheLine : Prop :=
  ∀ (s : State) (n : Lane),
    (∀ t0, s.chip.running n = true → Completes (.commitmiss n t0) s fun d =>
      d.bitAt (pevt .mac) 0 = true ∧ d.bitAt (pfault .mac) 0 = true
        ∧ d.get F.MAC_MISC_COMMITMISS =
            min (s.chip.get F.MAC_MISC_COMMITMISS + 1) (2 ^ F.MAC_MISC_COMMITMISS.width - 1))
    ∧ (∀ arrival f rest, (s.chip.lane n).tx.onWay = f :: rest → Completes (.commitmentReceipt n arrival) s fun d =>
      (d.lane n).tx.onWay = rest
        ∧ ∃ g, (d.lane n).tx.ready = (s.chip.lane n).tx.ready ++ [g] ∧ g.serial = f.serial ∧ g.t0 = f.t0 ∧ g.fc = f.fc
            ∧ g.blocks = f.blocks ∧ g.set.isSome = true
            ∧ g.late = (decide (f.t0 < arrival + 5888) || s.chip.seqDown n f.t0))
    ∧ (∀ f x h, nextReady (s.chip.lane n).tx.ready = some f → f.set = some x → s.chip.fitted n = true →
      let left := (s.chip.lane n).tx.ready.filter fun g => g.serial != f.serial;
      let c := (s.chip.onTx n fun t => { t with ready := left }).advanceTo f.t0;
      (s.chip.maySend n f = true → c.dropCauses n f x = [] → Completes (.frameTransmit n false h) s fun d =>
        (d.lane n).tx.ready = left ∧ (∃ m, Emission.frame n.num f m ∈ d.out)
          ∧ (∀ p ∈ c.framePorts n f x, p ∈ [1, 2, 3] → d.get (F.TXP_FRAMES_COUNT n (p - 1))
              = min (s.chip.get (F.TXP_FRAMES_COUNT n (p - 1)) + 1) (2 ^ (F.TXP_FRAMES_COUNT n (p - 1)).width - 1)))
      ∧ (s.chip.maySend n f = true → c.dropCauses n f x ≠ [] → Completes (.frameTransmit n false h) s fun d =>
        (d.lane n).tx.ready = left ∧ d.bitAt (pevt (.txp n)) 0 = true ∧ d.out = s.chip.out
          ∧ ∀ e ∈ c.dropCauses n f x, e.1 ∈ [1, 2, 3] → d.get (F.TXP_LASTDROP_CAUSE n (e.1 - 1))
              = e.2 % 2 ^ (F.TXP_LASTDROP_CAUSE n (e.1 - 1)).width)
      ∧ (s.chip.maySend n f = false → Completes (.frameTransmit n false h) s fun d =>
        (d.lane n).tx.ready = left ∧ d.bitAt (pevt (.txp n)) 0 = true ∧ d.out = s.chip.out))
    ∧ (∀ f, s.chip.overdue n false = some f → Completes (.ackmiss n) s fun d =>
      d.get (F.RXP_ERR3_ACKMISS n)
          = min (s.chip.get (F.RXP_ERR3_ACKMISS n) + 1) (2 ^ (F.RXP_ERR3_ACKMISS n).width - 1)
        ∧ (d.lane n).tx.await = (s.chip.lane n).tx.await.filter (fun g => g.serial != f.serial))
    ∧ (∀ f, s.chip.overdue n true = some f →
      (∀ b ∈ (s.chip.lane n).tmap.builds, b.slot = f.slot → b.tries < 2) →
      Completes (.noreply n) s fun d =>
        d.bitAt (pfault (.tmap n)) 1 = true
          ∧ d.get (F.TMAP_COUNTS2_NOREPLY n) =
              min (s.chip.get (F.TMAP_COUNTS2_NOREPLY n) + 1) (2 ^ (F.TMAP_COUNTS2_NOREPLY n).width - 1)
          ∧ ∀ g ∈ (d.lane n).tx.await, g.serial ≠ f.serial)

/-- Detection and frame control (R82, R163, R172, R173).  Completion of DETECTION and FC_DECODED.  What the inputs take in is told by the
command, as samples or as what the lane makes of them: log entry 188. -/
def Obligations.DetectionsAndFrameControl : Prop :=
  ∀ (s : State) (n : Lane),
    (∀ t h s11, s.chip.searches n t = true → s.chip.hearDetection n t h = some s11 → s.chip.rxNow n = none →
      let dly := s.chip.get (F.RXP_RXDLY_DELAY n);
      let tp := (s11 - dly - 10240 + 2) / 4 * 4;
      Completes (.detection n t h) s fun d =>
        d.get (F.RXP_DETECT_COUNT n) = min (s.chip.get (F.RXP_DETECT_COUNT n) + 1) (2 ^ (F.RXP_DETECT_COUNT n).width - 1)
          ∧ if 10 - ceilDiv (t - (tp + dly)) 1024 < 2 then
              d.rxNow n = none
                ∧ d.get (F.RXP_ERR3_LATEDET n) =
                    min (s.chip.get (F.RXP_ERR3_LATEDET n) + 1) (2 ^ (F.RXP_ERR3_LATEDET n).width - 1)
            else ∃ r, d.rxNow n = some r ∧ r.kind = .detected ∧ r.tp = tp ∧ (d.lane n).rx.agc.frozen = true)
    ∧ (∀ t h, s.chip.searches n t = false ∨ s.chip.hearDetection n t h = none → Completes (.detection n t h) s fun d => d = s.chip)
    ∧ (∀ tp h r, s.chip.rxNow n = some r → r.kind = .detected →
      let c := s.chip.advanceTo r.tend;
      let g := c.hearFc n r h;
      (g.crc ≠ crc24 (lsbFirst 128 g.w) → Completes (.fcDecoded n tp h) s fun d =>
        d.rxNow n = (s.chip.lane n).rx.found
          ∧ d.get (F.RXP_ERR1_FCERR n) =
              min (s.chip.get (F.RXP_ERR1_FCERR n) + 1) (2 ^ (F.RXP_ERR1_FCERR n).width - 1))
      ∧ (∀ fc, c.fcFate n (r.keep h.samples) none g.w g.crc = (.accept, some fc) → Completes (.fcDecoded n tp h) s fun d =>
        ∃ x, d.rxNow n = some x ∧ x.kind = .frame fc ∧ x.tp = r.tp ∧ x.tend = r.tp + fc.body.ticks))

/-- The ends of receptions (R79, R174, R183, R262, R268).  Completion of DATA_RECEIVED, G6_DATA_RECEIVED, ACK_RECEIVED, G6_ACK_RECEIVED,
SOUND_RECEIVED and MULTI_USER_UPLINK.  What the inputs take in is told by the command: log entry 188. -/
def Obligations.ReceptionsEndWithTheirFrame : Prop :=
  ∀ (s : State) (n : Lane) (lost : Bool) (h : Heard RxMeas),
    (∀ r fc, s.chip.rxNow n = some r → r.kind = .frame fc →
      let ends := fun (i : Instr) (P : Chip → Prop) => Completes i s fun d => d.rxNow n = (s.chip.lane n).rx.found ∧ P d;
      let shown := fun d : Chip => d.get (F.RXP_LASTID_STID n) = fc.stid % 2 ^ (F.RXP_LASTID_STID n).width;
      let answered := fun d : Chip => ∀ k, r.answers = some k → ∀ g ∈ (d.lane n).tx.await, g.serial ≠ k;
      (∀ a1 a2 a3 a4 a5 a6 a7 a8 a9 a10 a11 a12, fc.body = .data a1 a2 a3 a4 a5 a6 a7 a8 a9 a10 a11 a12 → s.chip.decoded n = true →
        ends (if fc.g6 then .g6DataReceived n lost h else .dataReceived n lost h) shown)
      ∧ (∀ a1 a2 a3 a4 a5 a6 a7, fc.body = .ack a1 a2 a3 a4 a5 a6 a7 →
          ends (.ackReceived n lost h) fun d => shown d ∧ answered d)
      ∧ (∀ a1 a2 a3, fc.body = .g6ack a1 a2 a3 → ends (.g6AckReceived n lost h) fun d => shown d ∧ answered d)
      ∧ (∀ a1 a2 a3 a4 a5, fc.body = .sound a1 a2 a3 a4 a5 → ends (.soundReceived n lost h) answered))
    ∧ (s.chip.rxNow n = none →
      ∀ i ∈ [Instr.dataReceived n lost h, .g6DataReceived n lost h, .ackReceived n lost h, .g6AckReceived n lost h,
          .soundReceived n lost h],
        Completes i s fun d => d = s.chip)
    ∧ (∀ up g, (s.chip.lane n).tx.grants.find? (fun g => !g.fd) = some g →
      turnBefore g.turn (s.chip.turn n) = true ∨ (g.turn = s.chip.turn n ∧ g.facet ≤ s.chip.facet n) →
      (∀ r, s.chip.rxNow n = some r → r.kind = .uplink → r.facet = g.facet → r.turn = g.turn → s.chip.decoded n = true →
        Completes (.multiUserUplink n lost up) s fun d =>
          d.rxNow n = (s.chip.lane n).rx.found ∧ (d.lane n).tx.grants = (s.chip.lane n).tx.grants.erase g)
      ∧ (s.chip.rxNow n = none → Completes (.multiUserUplink n lost up) s fun d =>
          d.rxNow n = none ∧ (d.lane n).tx.grants = (s.chip.lane n).tx.grants.erase g
            ∧ d.get (F.RXP_MU1_MUABS n)
              = min (s.chip.get (F.RXP_MU1_MUABS n) + g.users.length) (2 ^ (F.RXP_MU1_MUABS n).width - 1)))

/-- Queue commands and LIFE (R276).  Completion of QUEUE_FLUSH, HOLD, QUEUE_RELEASE and LIFE_EXPIRY. -/
def Obligations.QueueCommandsActOnTheSelectedQueue : Prop :=
  ∀ (s : State) (i : Init),
    (s.chip.TakesWrite i .qm 0x088 →
      let q := s.chip.get F.QM_QSEL_QUEUE;
      (Completes (.queueFlush i) s fun d =>
          (d.queue q).mpdus = (s.chip.queue q).mpdus.map (fun m =>
            if m.committed then { m with flushed := true } else m.finish Status.refused.code)
          ∧ d.get F.QM_QRES_STATUS = Status.ok.code ∧ s.chip.SameBut d [F.QM_QRES_STATUS])
      ∧ (Completes (.hold i) s fun d =>
          (d.queue q).held = true ∧ (d.queue q).mpdus = (s.chip.queue q).mpdus
          ∧ d.get F.QM_QRES_STATUS = Status.ok.code ∧ s.chip.SameBut d [F.QM_QRES_STATUS])
      ∧ (Completes (.queueRelease i) s fun d =>
          (d.queue q).held = false ∧ (d.queue q).mpdus = (s.chip.queue q).mpdus
          ∧ d.get F.QM_QRES_STATUS = Status.ok.code ∧ s.chip.SameBut d [F.QM_QRES_STATUS]))
    ∧ (∀ q, s.chip.get F.QM_QCFG_LIFE = 0 → Completes (.lifeExpiry q) s fun d => d = s.chip)
    ∧ (∀ q, s.chip.get F.QM_QCFG_LIFE ≠ 0 → Completes (.lifeExpiry q) s fun d =>
        (d.queue q).mpdus = (s.chip.queue q).mpdus.map (fun m =>
          if m.unsent ∧ (s.chip.get F.QM_QCFG_LIFE : Int) ≤ turnDist m.fetchTurn (s.chip.slotTurn (q / 2)) then
            m.finish Status.timeout.code else m)
        ∧ s.chip.SameBut d [])

/-- Ring commands and doorbells (R279, R280, R292).  Completion of RINGDB, RSEL_WRITE, ENABLE, DISABLE and RESET. -/
def Obligations.RingCommandsFollowTheSelection : Prop :=
  ∀ (s : State) (i : Init),
    (∀ val < 2 ^ 32, s.chip.TakesWrite i .qm 0x04C → Completes (.rselWrite i val) s fun d =>
      d.get F.QM_RBASE_BASE = (s.chip.ring (val % 256)).base % 2 ^ F.QM_RBASE_BASE.width
        ∧ d.get F.QM_RCFG_SIZE = (s.chip.ring (val % 256)).size % 2 ^ F.QM_RCFG_SIZE.width
        ∧ d.qm = s.chip.qm)
    ∧ (s.chip.TakesWrite i .qm 0x060 →
      let r := s.chip.get F.QM_RSEL_RING;
      let x := s.chip.ring r;
      (s.chip.enableCode r ≠ .ok → Completes (.enable i) s fun d =>
          d.get F.QM_RRES_STATUS = (s.chip.enableCode r).code ∧ d.qm = s.chip.qm)
      ∧ (s.chip.enableCode r = .ok → x.held = [] → Completes (.enable i) s fun d =>
          d.get F.QM_RRES_STATUS = Status.ok.code ∧ (d.ring r).st = 1 ∧ (d.ring r).base = s.chip.get F.QM_RBASE_BASE
            ∧ (d.ring r).size = s.chip.get F.QM_RCFG_SIZE ∧ (d.ring r).h = x.h ∧ (d.ring r).t = x.t)
      ∧ (Completes (.disable i) s fun d =>
          d.get F.QM_RRES_STATUS = Status.ok.code ∧ (d.ring r).st = 0 ∧ (d.ring r).err = 0 ∧ (d.ring r).h = x.h
            ∧ (d.ring r).t = x.t)
      ∧ (Completes (Instr.reset i) s fun d =>
          if x.st = 0 then d.get F.QM_RRES_STATUS = Status.ok.code ∧ (d.ring r).h = 0 ∧ (d.ring r).t = 0 ∧ (d.ring r).st = 0
          else d.get F.QM_RRES_STATUS = Status.refused.code ∧ d.qm = s.chip.qm))
    ∧ (∀ r p, s.chip.TakesWrite i .qm 0x048 → r < 128 → p < 2 ^ 17 →
      let x := s.chip.ring r;
      let m := 2 * x.slots;
      (s.chip.hubRuns = true → x.st ≠ 2 → Completes (.ringdb i r p) s fun d =>
          if p < m ∧ (p + m - x.h) % m ≤ x.slots then (d.ring r).t = p ∧ (d.ring r).st = x.st ∧ s.chip.SameBut d []
          else (d.ring r).st = 2 ∧ (d.ring r).err = 1 ∧ (d.ring r).t = x.t ∧ d.bitAt (pfault .qm) 0 = true
            ∧ d.bitAt (pevt .qm) 0 = true)
      ∧ (s.chip.hubRuns = false → Completes (.ringdb i r p) s fun d =>
          d.qm.latched = s.chip.qm.latched ++ [(r, p)] ∧ d.ring r = x ∧ s.chip.SameBut d []))

/-- The queue manager's own work (R261, R281 to R285).  Completion of DESCRIPTOR_FETCH, TX_COMPLETION, MPDU_DELIVERY, NOBUF, REASMTO,
MODERATION_TIMER and DMA_ERROR. -/
def Obligations.DeliveriesFetchesAndDmaErrors : Prop :=
  ∀ s : State,
    (s.chip.hubRuns = true → (⟨s.mem, s.chip, []⟩ : Work).pickRing = none →
      Completes (.descriptorFetch none) s fun d => d = s.chip)
    ∧ (∀ r left, s.chip.hubRuns = true → (⟨s.mem, s.chip, []⟩ : Work).pickRing = some (r, left) →
      Completes (.descriptorFetch none) s fun d =>
        (d.ring r).h = (s.chip.ring r).succ (s.chip.ring r).h ∧ d.qm.rrRing = r ∧ d.qm.rrLeft = left
          ∧ d.get F.QM_TXFETCH_COUNT = min (s.chip.get F.QM_TXFETCH_COUNT + 1) (2 ^ F.QM_TXFETCH_COUNT.width - 1))
    ∧ (∀ q m rest, s.chip.hubRuns = true → (s.chip.queue q).mpdus = m :: rest → m.status.isSome = true → m.committed = false →
      Answers (.txCompletion q) s fun t =>
        (t.chip.queue q).mpdus = rest
          ∧ (m.status = some 0 → t.chip.get F.MAC_TXMPDU_COUNT
              = min (s.chip.get F.MAC_TXMPDU_COUNT + 1) (2 ^ F.MAC_TXMPDU_COUNT.width - 1))
          ∧ (∀ r, m.ring = some r → (m.silent && m.status == some 0) = false → (s.chip.ring (128 + m.cq)).st ≠ 1 →
              (t.chip.ring (128 + m.cq)).held = (s.chip.ring (128 + m.cq)).held ++ [m.entry r])
          ∧ (∀ r, m.ring = some r → (m.silent && m.status == some 0) = false → (s.chip.ring (128 + m.cq)).st = 1 →
              (s.chip.ring (128 + m.cq)).full = false → (s.chip.ring (128 + m.cq)).held = [] →
              (t.chip.ring (128 + m.cq)).held = []
                ∧ (t.chip.ring (128 + m.cq)).t = (s.chip.ring (128 + m.cq)).succ (s.chip.ring (128 + m.cq)).t))
    ∧ (∀ q, s.chip.hubRuns = false ∨ (s.chip.queue q).mpdus = [] → Completes (.txCompletion q) s fun d => d = s.chip)
    ∧ (∀ cq m, s.chip.hubRuns = true → s.chip.qm.deliver.find? (fun m => m.ring == cq) = some m → s.chip.deliveryWaits m = false →
      ((s.chip.ring (128 + cq)).st = 0 ∨ s.chip.rxbufRing cq = none → Completes (.mpduDelivery cq) s fun d =>
          d.qm.deliver = s.chip.qm.deliver.erase m ∧ d.bitAt (pevt .qm) 5 = true
            ∧ d.get F.QM_DROPS2_RXDROP = min (s.chip.get F.QM_DROPS2_RXDROP + 1) (2 ^ F.QM_DROPS2_RXDROP.width - 1))
      ∧ (∀ r, (s.chip.ring (128 + cq)).st ≠ 0 → s.chip.rxbufRing cq = some r →
          (∀ k, bufsNeeded (s.chip.ring r).bufs m.bytes.length 0 = some k → Answers (.mpduDelivery cq) s fun t =>
            t.chip.qm.deliver = s.chip.qm.deliver.erase m ∧ (t.chip.ring r).bufs = (s.chip.ring r).bufs.drop k
              ∧ t.chip.get F.QM_RXDELIV_COUNT = min (s.chip.get F.QM_RXDELIV_COUNT + 1) (2 ^ F.QM_RXDELIV_COUNT.width - 1)
              ∧ t.chip.get F.MAC_RXMPDU_COUNT = min (s.chip.get F.MAC_RXMPDU_COUNT + 1) (2 ^ F.MAC_RXMPDU_COUNT.width - 1))
          ∧ (bufsNeeded (s.chip.ring r).bufs m.bytes.length 0 = none → (s.chip.ring r).h = (s.chip.ring r).t →
            Completes (.mpduDelivery cq) s fun d => d = s.chip)))
    ∧ (∀ cq m (n : Lane), s.chip.qm.deliver = [m] → m.ring = cq → Lane.ofNum m.lane = some n →
      (s.chip.get F.QM_QCFG_RXHOLD : Int) ≤ turnDist m.since (s.chip.turn n) → Completes (.nobuf cq) s fun d =>
        d.qm.deliver = [] ∧ d.bitAt (pevt .qm) 3 = true
          ∧ d.get F.QM_DROPS_NOBUF = min (s.chip.get F.QM_DROPS_NOBUF + 1) (2 ^ F.QM_DROPS_NOBUF.width - 1))
    ∧ (∀ (n : Lane) r, s.chip.qm.reasm = [r] → (r.slot = 0x3FFE ∨ (s.chip.nbr r.slot).group = n.num) →
      s.chip.get F.MAC_RSCFG_REASM ≤ (s.chip.turn n + 2 ^ 32 - r.firstTurn) % 2 ^ 32 →
      turnBefore (s.chip.turn n) r.firstTurn = false → Completes (.reasmto n) s fun d =>
        d.qm.reasm = [] ∧ d.bitAt (pevt .mac) 8 = true
          ∧ d.get F.MAC_LOSSES_REASMTO = min (s.chip.get F.MAC_LOSSES_REASMTO + 1) (2 ^ F.MAC_LOSSES_REASMTO.width - 1))
    ∧ (∀ cq < 128, (s.chip.ring (128 + cq)).irqen = true → 0 < (s.chip.ring (128 + cq)).unsignalled →
      (s.chip.ring (128 + cq)).modTime ≠ 0 → Completes (.moderationTimer cq) s fun d =>
        (d.ring (128 + cq)).unsignalled = 0)
    ∧ (∀ what, Completes (.dmaError what) s fun d =>
        d.bitAt (pfault .qm) 1 = true ∧ d.bitAt (pevt .qm) 1 = true
          ∧ d.get F.QM_DROPS2_DMAERRS = min (s.chip.get F.QM_DROPS2_DMAERRS + 1) (2 ^ F.QM_DROPS2_DMAERRS.width - 1)
          ∧ match what with
            | .payload _ _ => True
            | .ring r => (d.ring (r % 256)).st = 2 ∧ (d.ring (r % 256)).err = 2
            | .mailbox => d.mbx.err = true ∧ d.bitAt (pfault .mbx) 0 = true ∧ d.bitAt (pevt .mbx) 3 = true)

/-- GPIO_EDGE, DSET, DCLR and JTAG_INSTRUCTION (R425, R426, R434).  Completion of GPIO_EDGE, DSET, DCLR and JTAG_INSTRUCTION. -/
def Obligations.PinEdgesAndTheTestPort : Prop :=
  ∀ (s : State),
    (∀ g rising, g < 32 → Completes (.gpioEdge g rising) s fun d =>
      d.gpioIn.testBit g = rising
        ∧ (if (s.chip.gpioMode g).testBit (if rising then 0 else 1) = true ∧ s.chip.power ≠ .standby ∧ s.chip.power ≠ .reset then
            d.bitAt F.GPIO_ISTAT_EDGE g = true ∧ d.bitAt (pevt .gpio) (g / 8) = true
          else s.chip.SameBut d []))
    ∧ (∀ i mask g, s.chip.TakesWrite i .gpio 0x048 → g < 32 → Completes (.dset i mask) s fun d =>
      d.bitAt F.GPIO_DOUT_LEVEL g = (s.chip.bitAt F.GPIO_DOUT_LEVEL g || mask.testBit g)
        ∧ s.chip.SameBut d [F.GPIO_DOUT_LEVEL])
    ∧ (∀ i mask g, s.chip.TakesWrite i .gpio 0x04C → g < 32 → Completes (.dclr i mask) s fun d =>
      d.bitAt F.GPIO_DOUT_LEVEL g = (s.chip.bitAt F.GPIO_DOUT_LEVEL g && !mask.testBit g)
        ∧ s.chip.SameBut d [F.GPIO_DOUT_LEVEL])
    ∧ (∀ r, Completes (.jtagInstruction r) s fun d =>
      (r = .boundaryScan → d.jtag = .boundary)
        ∧ (r = .debugAccess → d.jtag = if s.chip.debugLocked then .bypass else .debug)
        ∧ (r = .other → d.jtag = .bypass)
        ∧ s.chip.SameBut d [])

/-- The two-wire commands (R423, R424, R433).  Completion of TWI_START, TWI_DONE, BUS_RECOVERY, RECOVERY_RETRY, TDATA_READ and
TDATA_WRITE. -/
def Obligations.TwoWireTransfersAndRecovery : Prop :=
  ∀ (s : State) (u : Dual),
    let c := s.chip;
    (∀ i low, c.TakesWrite i (.twi u) 0x050 → c.get (F.TWI_TSTAT_BUS u) ≠ 1 → (c.twi u).startWaits = false →
      c.flag (pctlEnable (.twi u)) = true →
      Completes (.twiStart i u low) s fun d =>
        let turned := fun st : Status =>
          d.get (F.TWI_TRES_STATUS u) = st.code ∧ d.bitAt (pevt (.twi u)) 0 = true
            ∧ d.get (F.TWI_TSTAT_BUS u) = c.get (F.TWI_TSTAT_BUS u);
        if c.get (F.TWI_TSTAT_BUS u) = 3 then turned .retired
        else if 32 < c.get (F.TWI_TLEN_WLEN u) ∨ 32 < c.get (F.TWI_TLEN_RLEN u) then turned .length
        else if (c.twi u).wfifo.length < c.get (F.TWI_TLEN_WLEN u) then turned .format
        else d.get (F.TWI_TRES_STATUS u) = Status.busy.code ∧ d.get (F.TWI_TSTAT_BUS u) = (if low then 2 else 1)
          ∧ (d.twi u).startWaits = low)
    ∧ (∀ addrAck acked stretched data, c.get (F.TWI_TSTAT_BUS u) = 1 →
      Completes (.twiDone u addrAck acked stretched data) s fun d =>
        d.get (F.TWI_TSTAT_BUS u) = 0 ∧ d.bitAt (pevt (.twi u)) 0 = true
          ∧ (addrAck = false → d.get (F.TWI_TRES_STATUS u) = Status.noRoute.code ∧ d.get (F.TWI_TRES_ACKED u) = 0)
          ∧ (addrAck = true → acked < c.get (F.TWI_TLEN_WLEN u) → stretched = false →
              d.get (F.TWI_TRES_STATUS u) = Status.refused.code ∧ d.get (F.TWI_TRES_ACKED u) = acked % 64)
          ∧ (addrAck = true → stretched = true → d.get (F.TWI_TRES_STATUS u) = Status.timeout.code)
          ∧ (addrAck = true → c.get (F.TWI_TLEN_WLEN u) ≤ acked → stretched = false →
              d.get (F.TWI_TRES_STATUS u) = Status.ok.code
                ∧ (d.twi u).rfifo = ((c.twi u).rfifo ++ data.take (c.get (F.TWI_TLEN_RLEN u))).take 32)
          ∧ (d.twi u).wfifo = (c.twi u).wfifo.drop (c.get (F.TWI_TLEN_WLEN u)))
    ∧ (∀ freed, c.get (F.TWI_TSTAT_BUS u) = 2 → c.flag (pctlEnable (.twi u)) = true →
      ∀ cmd ∈ (if c.get (F.TWI_TSTAT_TRIES u) = 0 then [Instr.busRecovery u freed]
          else if (c.twi u).sdaStuck then [.recoveryRetry u freed] else []),
      Completes cmd s fun d =>
        d.get (F.TWI_TCNT_RECOV u) = min (c.get (F.TWI_TCNT_RECOV u) + 1) (2 ^ (F.TWI_TCNT_RECOV u).width - 1)
          ∧ (freed = true → d.get (F.TWI_TSTAT_TRIES u) = 0 ∧ (d.twi u).sdaStuck = false
              ∧ d.get (F.TWI_TSTAT_BUS u) = if (c.twi u).startWaits then 1 else 0)
          ∧ (freed = false →
              let tries := min (c.get (F.TWI_TSTAT_TRIES u) + 1) (2 ^ (F.TWI_TSTAT_TRIES u).width - 1);
              d.get (F.TWI_TSTAT_TRIES u) = tries ∧ d.bitAt (pfault (.twi u)) 0 = true
                ∧ d.bitAt (pevt (.twi u)) 1 = true
                ∧ d.get (F.TWI_TSTAT_BUS u) = (if c.get (F.TWI_TCFG_RETRY u) ≤ tries then 3 else 2)
                ∧ (c.get (F.TWI_TCFG_RETRY u) ≤ tries → d.bitAt (pfault (.twi u)) 1 = true)))
    ∧ (∀ i b rest, c.TakesRead i (.twi u) 0x04C → (c.twi u).rfifo = b :: rest →
      Completes (.tdataRead i u) s fun d => (d.twi u).rfifo = rest ∧ d.rdata = b.toNat)
    ∧ (∀ i v, c.TakesWrite i (.twi u) 0x04C →
      Completes (.tdataWrite i u v) s fun d =>
        (d.twi u).wfifo = if 32 ≤ (c.twi u).wfifo.length then (c.twi u).wfifo else (c.twi u).wfifo ++ [BitVec.ofNat 8 v])

/-- The frames of the QSPI target (R414 to R416).  Completion of QSPI_WRITE, QSPI_WORD_POST, QSPI_READ, QSPI_STATUS and BADOP. -/
def Obligations.QuadTargetFramesByOpcode : Prop :=
  ∀ (s : State), s.chip.power ≠ .reset →
    let c := s.chip;
    (∀ addr words short, c.qspi.buffer.length + words.length ≤ 64 →
      Completes (.qspiWrite addr words short) s fun d =>
        d.qspi.buffer = c.qspi.buffer ++ words.zipIdx.map (fun e => ((addr + 4 * e.2) % 2 ^ 32, e.1 % 2 ^ 32))
          ∧ (short = false → c.SameBut d [])
          ∧ (short = true → d.bitAt (pfault .qspit) 0 = true
              ∧ d.get F.QSPIT_QCNT_SHORTS = min (c.get F.QSPIT_QCNT_SHORTS + 1) (2 ^ F.QSPIT_QCNT_SHORTS.width - 1)))
    ∧ (∀ addr v, 64 ≤ c.qspi.buffer.length →
      Completes (.qspiWrite addr [v] false) s fun d =>
        d.qspi = c.qspi ∧ d.bitAt (pfault .qspit) 1 = true ∧ d.bitAt (pevt .qspit) 1 = true)
    ∧ (∀ v rest, c.qspi.buffer = (0x4C, v) :: rest → v < 2 ^ 32 → c.TakesWrite .qspi .sys 0x04C →
      Completes .qspiWordPost s fun d =>
        d.qspi.buffer = rest ∧ d.get F.SYS_SCRATCH_DATA = v ∧ c.SameBut d [F.SYS_SCRATCH_DATA])
    ∧ (c.qspi.buffer = [] → Completes .qspiWordPost s fun d => d = c)
    ∧ (∀ addr v rest, c.qspi.buffer = (addr, v) :: rest →
      exec .qspiWordPost s = .next (s.onWork fun w =>
        (w.onChip fun c => { c with qspi := { c.qspi with buffer := rest } }).writeAt .qspi addr 4 v))
    ∧ (∀ addr late, c.qspi.buffer = [] → addr < 2 ^ 32 →
      let r := Work.readAt ⟨s.mem, { c with qspi := { buffer := [], sent := [] } }, []⟩ .qspi addr 4;
      ∃ t, exec (.qspiRead addr [late]) s = .next t
        ∧ t.chip.rdata = r.1
        ∧ t.chip.flag F.QSPIT_QSTAT_LATE = late
        ∧ (late = false → t.chip.qspi.sent = r.2.chip.qspi.sent ++ leBytes 1 0xA5 ++ leBytes 4 r.1)
        ∧ (late = true → t.chip.qspi.sent = r.2.chip.qspi.sent ++ leBytes 1 0x5A ++ leBytes 4 0xFFFFFFFF
            ∧ t.chip.get F.QSPIT_LATEDATA_DATA = r.1 % 2 ^ 32 ∧ t.chip.get F.QSPIT_LATEADDR_ADDR = addr % 2 ^ 26
            ∧ t.chip.bitAt (pevt .qspit) 0 = true))
    ∧ Completes .qspiStatus s (fun d =>
        c.SameBut d [] ∧ d.qspi.buffer = c.qspi.buffer
          ∧ d.qspi.sent = leBytes 1 (bit (c.get F.EVT_VECSTAT_SIG &&& c.get F.EVT_IRQMASK_EN != 0)
              + 2 * bit (!c.qspi.buffer.isEmpty) + 4 * c.get F.QSPIT_QSTAT_LATE
              + 8 * bit (c.power == .standby || c.power == .coast)))
    ∧ (∀ op, op ≠ 0x02 → op ≠ 0x05 → op ≠ 0x0B →
      Completes (.badop op) s fun d =>
        d.bitAt (pfault .qspit) 2 = true ∧ c.SameBut d (faultFlds .qspit) ∧ d.qspi = c.qspi)

/-- The transmit side of a UART (R418, R419, R421, R422).  Completion of TXDATA_WRITE, SENDBRK, TXFLUSH, UART_CNTCLR, UART_WAKE and
CHARACTER_SENT. -/
def Obligations.SerialTransmitterCommands : Prop :=
  ∀ (s : State) (u : Dual),
    let c := s.chip;
    (∀ i v, c.TakesWrite i (.uart u) 0x054 → Completes (.txdataWrite i u v) s fun d =>
      (128 ≤ (c.uart u).txFifo.length → d.uart u = c.uart u ∧ d.bitAt (pfault (.uart u)) 1 = true)
        ∧ ((c.uart u).txFifo.length < 128 → (c.uart u).tx ≠ .idle →
            (d.uart u).txFifo = (c.uart u).txFifo ++ [BitVec.ofNat 8 v] ∧ c.SameBut d [])
        ∧ ((c.uart u).txFifo = [] → (c.uart u).tx = .idle → (c.uart u).brkPending = false →
            c.uartOn u = true → c.flag (F.UART_UCFG_FLOW u) = false →
            (d.uart u).tx = .char (BitVec.ofNat 8 v) ∧ (d.uart u).txFifo = []))
    ∧ (∀ cts b, (c.uart u).tx = .char b → Completes (.characterSent u cts) s fun d =>
        (d.uart u).cts = cts
          ∧ d.out = .uartChar u.idx (if c.flag (F.UART_UCFG_D7 u) then b &&& 0x7F else b) :: c.out
          ∧ (c.uartOn u = true → (c.uart u).brkPending = true → (d.uart u).tx = .brk ∧ (d.uart u).txFifo = (c.uart u).txFifo)
          ∧ (c.uartOn u = true → (c.uart u).brkPending = false → ∀ b' rest, (c.uart u).txFifo = b' :: rest →
              if c.flag (F.UART_UCFG_FLOW u) = false ∨ cts = true then
                (d.uart u).tx = .char b' ∧ (d.uart u).txFifo = rest
              else (d.uart u).tx = .idle ∧ (d.uart u).txFifo = b' :: rest))
    ∧ (∀ cts, (c.uart u).tx = .brk → Completes (.characterSent u cts) s fun d =>
        d.out = .uartBreak u.idx (c.get (F.UART_BRKLEN_BITS u)) :: c.out ∧ (d.uart u).cts = cts)
    ∧ (∀ i, c.TakesWrite i (.uart u) 0x078 →
        Completes (.sendbrk i u) s (fun d =>
          ((c.uart u).tx = .brk → d.uart u = c.uart u)
            ∧ (∀ b, (c.uart u).tx = .char b → d.uart u = { c.uart u with brkPending := true })
            ∧ ((c.uart u).tx = .idle → c.uartOn u = true → (d.uart u).tx = .brk))
        ∧ Completes (.txflush i u) s (fun d => d.uart u = { c.uart u with txFifo := [] } ∧ c.SameBut d [])
        ∧ Completes (.uartCntclr i u) s (fun d => d.get (F.UART_UCNT_OVR u) = 0 ∧ d.get (F.UART_UCNT_ERR u) = 0
            ∧ d.uart u = c.uart u))
    ∧ Completes (.uartWake u) s (fun d =>
        if c.power = .standby ∧ c.uartWakes u = true then
          (d.uart u).onRc = true ∧ d.pins.wake = some (c.pins.wake.getD (2 + u.idx))
        else d = c)

/-- The receive side of a UART (R418 to R421).  Completion of CHARACTER_RECEIVED, RXDATA_READ, RECEIVE_TIMEOUT, BREAK, RXFLUSH and
DMAEN_WRITE. -/
def Obligations.SerialReceiverCommands : Prop :=
  ∀ (s : State) (u : Dual),
    let c := s.chip;
    let dma := c.flag (F.UART_RXRING_DMAEN u);
    (∀ b fe pe, c.uartHears u = true → 128 ≤ (c.uart u).rxFifo.length → Completes (.characterReceived u b fe pe) s fun d =>
        d.get (F.UART_UCNT_OVR u) = min (c.get (F.UART_UCNT_OVR u) + 1) (2 ^ (F.UART_UCNT_OVR u).width - 1)
          ∧ d.bitAt (pfault (.uart u)) 0 = true ∧ d.bitAt (pevt (.uart u)) 1 = true
          ∧ (d.uart u).rxFifo = (c.uart u).rxFifo)
    ∧ (∀ b fe pe, c.uartHears u = true → (c.uart u).rxFifo.length < 128 → dma = false →
        Completes (.characterReceived u b fe pe) s fun d =>
          let pe' := pe && c.get (F.UART_UCFG_PARITY u) != 0;
          (d.uart u).rxFifo = (c.uart u).rxFifo ++ [⟨if c.flag (F.UART_UCFG_D7 u) then b &&& 0x7F else b, fe, pe'⟩]
            ∧ d.bitAt (pevt (.uart u)) 0 = true
            ∧ d.get (F.UART_UCNT_ERR u) =
                (if fe || pe' then min (c.get (F.UART_UCNT_ERR u) + 1) (2 ^ (F.UART_UCNT_ERR u).width - 1)
                  else c.get (F.UART_UCNT_ERR u)))
    ∧ (∀ i, c.TakesRead i (.uart u) 0x058 → Completes (.rxdataRead i u) s fun d =>
        (∀ x rest, dma = false → (c.uart u).rxFifo = x :: rest →
            d.rdata = x.data.toNat + 2 ^ 8 * bit x.fe + 2 ^ 9 * bit x.pe + 2 ^ 15 ∧ (d.uart u).rxFifo = rest)
          ∧ (dma = true ∨ (c.uart u).rxFifo = [] → d.rdata = 0 ∧ d.uart u = c.uart u))
    ∧ (∀ i, c.TakesWrite i (.uart u) 0x078 → Completes (.rxflush i u) s fun d =>
        (d.uart u).rxFifo = [] ∧ c.SameBut d [])
    ∧ (∀ x, (c.uart u).slot = some x → dma = false →
        Answers (.receiveTimeout u) s fun t => (t.chip.uart u).slot = none ∧ t.chip.bitAt (pevt (.uart u)) 0 = true
          ∧ t.chip.get (F.UART_RXWPTR_PTR u) = (c.get (F.UART_RXWPTR_PTR u) + 1) % c.slotCount u % 2 ^ 12
          ∧ t.mem = (Work.write ⟨s.mem, c, []⟩ .sram
              (c.get (F.UART_RXRING_BASE u) * 256 + c.get (F.UART_RXWPTR_PTR u) * c.slotBytes u)
              (leBytes 4 (x.data.length + 2 ^ 8 + 2 ^ 10 * bit x.err + 2 ^ 11 * bit x.ovr) ++ x.data)).mem)
    ∧ ((c.uart u).slot = none → Completes (.receiveTimeout u) s fun d => d = c)
    ∧ (∀ len, c.uartHears u = true → dma = false → Completes (.lineBreak u len) s fun d =>
        d.get (F.UART_BRKRX_LEN u) = min 0xFFFF len ∧ d.bitAt (pevt (.uart u)) 1 = true)
    ∧ (∀ i v, c.TakesWrite i (.uart u) 0x068 → v.testBit 31 = true →
        (let y := (c.touch i (.uart u)).store (.uart u) 0x068 v;
          ringPlaced (y.get (F.UART_RXRING_BASE u) * 256) (y.get (F.UART_RXRING_SIZE u)) = false) →
        Completes (.dmaenWrite i u v) s fun d =>
          d.flag (F.UART_RXRING_DMAEN u) = false ∧ d.bitAt (pfault (.uart u)) 3 = true)

/-- BLOCK_READY and BLOCK_DECODE (R207, R208, R210, R211, R219).  Completion of BLOCK_READY and BLOCK_DECODE. -/
def Obligations.BlocksReachTheEngines : Prop :=
  ∀ (s : State) (n : Lane),
    let c := s.chip;
    (∀ user idx h, c.rxNow n = none → Completes (.blockReady n user idx h) s fun d => d = c)
    ∧ (∀ user idx h r u, c.rxNow n = some r → r.users[user]? = some u →
        (c.rxOn n = false ∨ u.nblk ≤ idx ∨ c.blockKnown n r user idx = true ∨ (idx ≠ 0 ∧ c.blockKnown n r user (idx - 1) = false) →
          Completes (.blockReady n user idx h) s fun d => d = c)
        ∧ (c.rxOn n = true → idx < u.nblk → c.blockKnown n r user idx = false →
            (idx = 0 ∨ c.blockKnown n r user (idx - 1) = true) →
          Completes (.blockReady n user idx h) s fun d =>
            if c.anyEngine n = false then d.rxNow n = some ((r.keep h.samples).result user idx .failed)
            else if 48 ≤ (c.lane n).rx.dec.queue.length then
              d.rxNow n = some ((r.keep h.samples).result user idx .failed) ∧ d.bitAt (pfault (.dec n)) 2 = true
                ∧ d.get (F.DEC_MISC_QOVF n) = min (c.get (F.DEC_MISC_QOVF n) + 1) (2 ^ (F.DEC_MISC_QOVF n).width - 1)
            else
              (c.idleEngine n = none → ∃ b : RxBlk, b.user = user ∧ b.idx = idx
                ∧ (d.lane n).rx.dec.queue = insertReady b (c.lane n).rx.dec.queue ∧ (d.lane n).rx.dec.busy = (c.lane n).rx.dec.busy)
              ∧ (∀ e, c.idleEngine n = some e → (c.lane n).rx.dec.queue = [] → (c.lane n).rx.slip.waiting = [] →
                ∃ b : RxBlk, b.user = user ∧ b.idx = idx ∧ (d.lane n).rx.dec.queue = []
                  ∧ (d.lane n).rx.dec.busy.get? e = some b)))
    ∧ (∀ (c : Chip) e b rest, c.idleEngine n = some e → (c.lane n).rx.dec.queue = b :: rest → (c.lane n).rx.slip.waiting = [] →
        ((c.dispatchOne n).lane n).rx.dec.queue = rest
          ∧ (∃ x, ((c.dispatchOne n).lane n).rx.dec.busy.get? e = some x ∧ x.user = b.user ∧ x.idx = b.idx ∧ x.metrics = b.metrics
              ∧ x.num = some (b.num.getD (c.lane n).rx.dec.count))
          ∧ c.engActive n e = true ∧ c.engBusy n e = false
          ∧ ∀ e' < e, c.engActive n e' = true → c.engBusy n e' = true)
    ∧ (∀ e t, (c.lane n).rx.dec.busy.get? e = none → Completes (.blockDecode n e t) s fun d => d = c)
    ∧ (∀ e t b, (c.lane n).rx.dec.busy.get? e = some b → Completes (.blockDecode n e t) s fun d =>
        d = (c.advanceTo t).engineEnds n e b)
    ∧ (∀ e t b r u, (c.lane n).rx.dec.busy = [(e, b)] → (c.lane n).rx.dec.ended = [] → (c.lane n).rx.dec.queue = [] →
        (c.lane n).rx.slip.waiting = [] → (c.lane n).rx.dec.swap = none → c.rxNow n = some r → r.users[b.user]? = some u →
        c.slipFind n r u b.idx b.metrics = none → (c.coasting n = true ∨ c.cellsUsed < 32768) →
        Completes (.blockDecode n e t) s fun d =>
          let late := decide (r.deadline < max c.tick t)
          (d.lane n).rx.dec.busy.get? e = none
            ∧ d.get (F.DEC_BLOCKS_COUNT n) = min (c.get (F.DEC_BLOCKS_COUNT n) + 1) (2 ^ (F.DEC_BLOCKS_COUNT n).width - 1)
            ∧ (late = true → d.get (F.DEC_ERRS_LATE n) = min (c.get (F.DEC_ERRS_LATE n) + 1) (2 ^ (F.DEC_ERRS_LATE n).width - 1))
            ∧ ∃ x, d.rxNow n = some x ∧ ∀ v, x.users[b.user]? = some v → v.results.get? b.idx =
                match checkBlock u.bt (decodeBlock u.bt u.rate b.metrics) with
                | some (w, bs) => if late then some .failed else some { pass := true, word := w, data := bs }
                | none => some .failed)
    ∧ (∀ (c : Chip) r u ms,
        let x := c.checked n r u ms;
        x.2.get (F.DEC_BLOCKS_COUNT n) = min (c.get (F.DEC_BLOCKS_COUNT n) + 1) (2 ^ (F.DEC_BLOCKS_COUNT n).width - 1)
          ∧ (checkBlock u.bt (decodeBlock u.bt u.rate ms) = none → x.1.pass = false
              ∧ x.2.get (F.DEC_CRCFAIL_COUNT n) =
                  min (c.get (F.DEC_CRCFAIL_COUNT n) + 1) (2 ^ (F.DEC_CRCFAIL_COUNT n).width - 1))
          ∧ (∀ w b, checkBlock u.bt (decodeBlock u.bt u.rate ms) = some (w, b) → x.1 = { pass := true, word := w, data := b }
              ∧ x.2.get (F.DEC_CRCFAIL_COUNT n) = c.get (F.DEC_CRCFAIL_COUNT n)))

/-- SELF_TEST, SELF_TEST_DONE, ENGOVR and VERIFY (R209, R223, R256, R259, R260, R295).  Completion of SELF_TEST, SELF_TEST_DONE, ENGOVR and
VERIFY. -/
def Obligations.EngineTestsAndVerification : Prop :=
  ∀ (s : State) (n : Lane),
    let c := s.chip;
    Completes (.selfTest n) s (fun d =>
      (c.flag (F.DEC_STCFG_STEN n) = false → d = c)
      ∧ (c.flag (F.DEC_STCFG_STEN n) = true → (c.lane n).rx.dec.testing = none → (c.lane n).rx.dec.swap = none →
        (c.idleEngine n ≠ none ∨ (c.lane n).rx.dec.queue = [] →
          (d.lane n).rx.dec.testing = (List.range 7).find? (c.engReserve n) ∧ (d.lane n).rx.dec.due = false)
        ∧ (c.idleEngine n = none → (c.lane n).rx.dec.queue ≠ [] →
          (d.lane n).rx.dec.testing = none ∧ (d.lane n).rx.dec.due = true)))
    ∧ (∀ mm, (c.lane n).rx.dec.testing = none → Completes (.selfTestDone n mm) s fun d => d = c)
    ∧ (∀ mm r, (c.lane n).rx.dec.testing = some r → (c.lane n).rx.dec.due = false →
        Completes (.selfTestDone n mm) s fun d =>
          (d.lane n).rx.dec.testing = none
            ∧ (mm = true → d.bitAt (pfault (.dec n)) 0 = true ∧ d.get (F.DEC_MISC_STFAIL n)
                = min (c.get (F.DEC_MISC_STFAIL n) + 1) (2 ^ (F.DEC_MISC_STFAIL n).width - 1))
            ∧ (mm = false → d.get (F.DEC_MISC_STFAIL n) = c.get (F.DEC_MISC_STFAIL n)
                ∧ ∀ a < 7, a ≠ r → r < 7 → (c.markTested n r).nextReserve n = some a →
                  if c.engBusy n a = true then (d.lane n).rx.dec.swap = some (r, a)
                  else d.engReserve n a = true ∧ d.engActive n a = false ∧ d.engReserve n r = false
                    ∧ d.engActive n r = c.engActive n a))
    ∧ (∀ i mask, c.TakesWrite i (.dec n) 0x408 → Completes (.engovr i n mask) s fun d =>
        d = (bitsOf 7 mask).foldl (fun c e => c.fault1 2 n.num e) (c.touch i (.dec n)))
    ∧ (∀ mis, c.hubRuns = false ∨ c.coasting n = true → Completes (.verify n mis) s fun d => d = c)
    ∧ (∀ mis, c.hubRuns = true → c.coasting n = false →
        (∀ x, c.qm.whole.find? (fun x => x.lane == n.num) = some x →
          (mpduBad x.bytes x.mseq x.cls = true → Completes (.verify n mis) s fun d =>
            d.qm.whole = c.qm.whole.erase x ∧ d.qm.deliver = c.qm.deliver
              ∧ d.get F.MAC_SECERR_FMTMPDU = min (c.get F.MAC_SECERR_FMTMPDU + 1) (2 ^ F.MAC_SECERR_FMTMPDU.width - 1))
          ∧ (mpduBad x.bytes x.mseq x.cls = false → mpduLevel x.bytes = 0 → x.slot ≠ 0x3FFE → (c.nbr x.slot).st = 1 →
            (c.nbr x.slot).gen = x.gen → ((c.nbr x.slot).windowSays x.mseq (mpduFcnt x.bytes) true).1 = none →
            (c.fa (64 + mpduType x.bytes)).testBit 5 = false → c.fa (64 + mpduType x.bytes) % 8 = 1 →
            Completes (.verify n mis) s fun d =>
              d.qm.whole = c.qm.whole.erase x
                ∧ ∃ m ∈ d.qm.deliver, m.slot = x.slot ∧ m.bytes = x.bytes ∧ m.cls = x.cls
                    ∧ m.ring = bitField (c.fa (64 + mpduType x.bytes)) 8 7))
        ∧ (c.qm.whole.find? (fun x => x.lane == n.num) = none → c.rxNow n = none →
            Completes (.verify n mis) s fun d => d = c)
        ∧ (∀ r, c.qm.whole.find? (fun x => x.lane == n.num) = none → c.rxNow n = some r →
            Completes (.verify n mis) s fun d => d = if c.verifiedLater r then c else c.verifyNext n r mis))
    ∧ (∀ (c : Chip) x mis, mpduBad x.bytes x.mseq x.cls = true →
        (c.judgeMpdu n x mis).1 = true ∧ (c.judgeMpdu n x mis).2.1 = none
          ∧ (c.judgeMpdu n x mis).2.2.get F.MAC_SECERR_FMTMPDU =
              min (c.get F.MAC_SECERR_FMTMPDU + 1) (2 ^ F.MAC_SECERR_FMTMPDU.width - 1))

/-- The key commands (R307, R308, R311, R312).  Completion of KEY_LOAD, ROLL, KEY_DROP, ERASE, LOCK and KEYCMD_COMPLETE. -/
def Obligations.KeyCommandsAreCheckedAndPerformed : Prop :=
  ∀ (s : State),
    let c := s.chip;
    (∀ i cls size idx, c.TakesWrite i .keys 0x060 →
      ∀ e ∈ [(Instr.keyLoad i cls size idx, 1, size % 2), (.roll i cls idx, 2, 0), (.keyDrop i cls idx, 3, 0),
          (.erase i cls idx, 4, 0), (.lock i cls idx, 5, 0)],
        Completes e.1 s fun d =>
          if c.flag F.KEYS_KRES_BUSY = true then d.bitAt (pfault .keys) 0 = true ∧ d.keys = c.keys
          else d.flag F.KEYS_KRES_BUSY = true ∧ d.keys = { c.keys with
            cmd := some { op := e.2.1, cls := cls % 4, size := e.2.2, idx := idx % 2 ^ 13, data := c.keyData } })
    ∧ (c.keys.cmd = none → Completes .keycmdComplete s fun d => d = c)
    ∧ (∀ k, c.keys.cmd = some k → Completes .keycmdComplete s fun d =>
        d.keys.cmd = none ∧ d.flag F.KEYS_KRES_BUSY = false ∧ d.bitAt (pevt .keys) 0 = true
          ∧ d.get F.KEYS_KDETAIL_REASON = c.keyReason k ∧ d.get F.KEYS_KDETAIL_OP = k.op % 16
          ∧ d.get F.KEYS_KRES_STATUS = (if c.keyReason k = 0 then Status.ok.code else Status.refused.code)
          ∧ (c.keyReason k = 0 → d.keys.slot k.cls k.idx = (c.keys.slot k.cls k.idx).operate k c.keys.nextLoad
              ∧ d.get F.KEYS_KCNT_ACCEPTS = min (c.get F.KEYS_KCNT_ACCEPTS + 1) (2 ^ F.KEYS_KCNT_ACCEPTS.width - 1))
          ∧ (c.keyReason k ≠ 0 → (∀ cls idx, d.keys.slot cls idx = c.keys.slot cls idx)
              ∧ d.get F.KEYS_KCNT_REFUSALS = min (c.get F.KEYS_KCNT_REFUSALS + 1) (2 ^ F.KEYS_KCNT_REFUSALS.width - 1))
          ∧ (∀ cls idx, (cls ≠ k.cls ∧ (cls < 2 ∨ k.cls < 2)) ∨ (cls = k.cls ∧ idx ≠ k.idx) →
              d.keys.slot cls idx = c.keys.slot cls idx))

/-- The saggar's host commands (R313 to R315, R317, R320).  Completion of START, JOBDONE, HASH, VERIFY_SIGNATURE, HASHDONE, RNGFAIL, RNGOK and
PIPEOVR. -/
def Obligations.SaggarJobsHashesAndTheRandomSource : Prop :=
  ∀ (s : State),
    let c := s.chip;
    (∀ i, c.TakesWrite i .saggar 0x080 → Completes (.start i) s fun d =>
        (∀ j, c.keys.job = some j → d.bitAt (pfault .saggar) 4 = true ∧ d.keys = c.keys)
          ∧ (c.keys.job = none → d.get F.SAGGAR_JOBRES_STATUS = Status.busy.code
              ∧ ∃ j, d.keys.job = some j ∧ j.mode = c.get F.SAGGAR_JOBCFG_MODE ∧ j.len = c.get F.SAGGAR_JOBLEN_LEN
                  ∧ j.src = c.get F.SAGGAR_JOBSRC_OFFS * 16 ∧ j.dst = c.get F.SAGGAR_JOBDST_OFFS * 16
                  ∧ j.aadlen = c.get F.SAGGAR_JOBCFG_AADLEN))
    ∧ (∀ mis, c.keys.job = none → Completes (.jobdone mis) s fun d => d = c)
    ∧ (∀ mis j st, c.keys.job = some j → j.refusal = some st → Completes (.jobdone mis) s fun d =>
        d.get F.SAGGAR_JOBRES_STATUS = st.code ∧ d.bitAt (pevt .saggar) 2 = true ∧ d.keys.job = none)
    ∧ (∀ b j key, c.keys.job = some j → j.refusal = none → j.key = some key → c.pairWorks (j.mode % 2) = true →
        (j.tag.length = 8 ∨ j.tag.length = 16) →
        let aad := s.mem.readBytes .sram j.src j.aadlen
        let body := s.mem.readBytes .sram (j.src + j.aadlen) j.len
        let sealed := if j.mode = 0 then gcmSeal key j.tag.length j.iv aad body else ccmSeal key j.tag.length j.iv aad body
        let plain := if j.mode = 1 then gcmOpen key j.iv aad body j.tag else ccmOpen key j.iv aad body j.tag
        let out := if j.mode % 2 = 0 then sealed.1 else plain.getD (List.replicate j.len 0)
        Answers (.jobdone (0, b)) s fun t =>
          t.chip.keys.job = none ∧ t.chip.bitAt (pevt .saggar) 2 = true
            ∧ t.chip.get F.SAGGAR_JOBRES_STATUS
              = (if j.mode % 2 = 1 ∧ plain = none then Status.authFail.code else Status.ok.code)
            ∧ (∀ k (h : k < out.length), t.mem.read .sram (j.dst + k) = out[k])
            ∧ (∀ a, a < j.dst ∨ j.dst + out.length ≤ a → t.mem.read .sram a = s.mem.read .sram a)
            ∧ (∀ a, t.mem.read .host a = s.mem.read .host a ∧ t.mem.read .flash a = s.mem.read .flash a)
            ∧ (∀ w < sealed.2.length / 4, j.mode % 2 = 0 →
                t.chip.get (F.SAGGAR_JOBTAG_TAG w) = leNat ((sealed.2.drop (4 * w)).take 4) % 2 ^ (F.SAGGAR_JOBTAG_TAG w).width))
    ∧ (∀ i, c.TakesWrite i .saggar 0x098 →
        (c.keys.hash = none →
          Completes (.hash i) s (fun d => d.get F.SAGGAR_HRES_STATUS = Status.busy.code
            ∧ d.keys.hash = some (.hash (c.get F.SAGGAR_HSRC_OFFS) (c.get F.SAGGAR_HLEN_LEN)))
          ∧ Completes (.verifySignature i) s (fun d => d.get F.SAGGAR_HRES_STATUS = Status.busy.code
            ∧ d.keys.hash = some (.verify (c.get F.SAGGAR_HSRC_OFFS))))
        ∧ (∀ j, c.keys.hash = some j → ∀ cmd ∈ [Instr.hash i, .verifySignature i],
          Completes cmd s fun d => d = (c.touch i .saggar).refuse i (Page.saggar.base + 0x098) 8 4 true))
    ∧ (c.keys.hash = none → Completes .hashdone s fun d => d = c)
    ∧ (∀ src len, c.keys.hash = some (.hash src len) → Completes .hashdone s fun d =>
        d.keys.hash = none ∧ d.bitAt (pevt .saggar) 3 = true
          ∧ d.get F.SAGGAR_HRES_STATUS = (if 2 ^ 24 < src + len then Status.format.code else Status.ok.code)
          ∧ (src + len ≤ 2 ^ 24 → ∀ w < 8, d.get (F.SAGGAR_HDIG_DIGEST w) =
              leNat (((sha256 (Work.readBytes ⟨s.mem, c, []⟩ .sram src len)).drop (4 * w)).take 4) % 2 ^ 32))
    ∧ (∀ src, c.keys.hash = some (.verify src) → Completes .hashdone s fun d =>
        d.keys.hash = none ∧ d.bitAt (pevt .saggar) 3 = true
          ∧ d.get F.SAGGAR_HRES_STATUS = (verifyBlock (c.fieldBytes F.SAGGAR_HDIG_DIGEST 8) (s.mem.readBytes .sram src 128)
              (inStaging src 128)).code)
    ∧ Completes .rngfail s (fun d => d.keys = { c.keys with rngOk := false } ∧ d.bitAt (pfault .saggar) 2 = true
        ∧ d.bitAt (pevt .saggar) 4 = true)
    ∧ Completes .rngok s (fun d => d.keys = { c.keys with rngOk := true } ∧ c.SameBut d [])
    ∧ (∀ i mask, c.TakesWrite i .saggar 0x404 → Completes (.pipeovr i mask) s fun d =>
        d = (bitsOf 2 mask).foldl (fun c p => c.fault1 6 0 p) (c.touch i .saggar))

/-- Epoch commands and the service pause (R105 to R107, R109, R110).  Completion of COMMIT, CANCEL, EPOCH_SWITCH, STRAGGLE_END,
PAUSE_START and PAUSE_END. -/
def Obligations.EpochsAndPausesProceed : Prop :=
  ∀ (s : State),
    let c := s.chip;
    let answers := fun (d : Chip) (st : Status) =>
      d.get F.WHEEL_EPRES_STATUS = st.code ∧ d.flag F.WHEEL_EPRES_PEND = false;
    let turned := fun (d : Chip) (st : Status) => answers d st ∧ d.wheel = c.wheel ∧ d.keys = c.keys;
    (∀ i, c.TakesWrite i .wheel 0x06C → Completes (.commit i) s fun d =>
        let sw := c.get F.WHEEL_EPSW_TURN;
        let pat := c.get F.WHEEL_EPNX_PAT;
        if turnBefore sw (turnAdd c.latestTurn (c.get F.WHEEL_EPCFG_EPLEAD))
            ∨ 2 ^ 30 < (sw + 2 ^ 32 - c.latestTurn) % 2 ^ 32 then turned d .refused
        else if c.wheel.next.isSome ∨ c.wheel.active.isSome then turned d .busy
        else match c.keys.commitGroup (c.get F.WHEEL_EPNX_GKEY) with
          | none => turned d .refused
          | some ks =>
            if (patternBad (c.patternWords pat)).isSome then turned d .format
            else answers d .ok ∧ d.keys.next = ks.next ∧ d.keys.inForce = ks.inForce
              ∧ (∃ x : Chip, d = x.syncWheel.touchBeacons ∧ x.keys = ks)
              ∧ d.wheel.next = some ⟨⟨(c.wheel.cur.num + 1) % 256, c.get F.WHEEL_EPNX_BP, pat, c.get F.WHEEL_EPNX_GLZ,
                  c.get F.WHEEL_EPNX_GKEY⟩, sw, c.get F.WHEEL_EPCFG_STRAG⟩
              ∧ ∀ slot, (d.nbr slot).epst = if slot ≠ 0 ∧ (c.nbr slot).st = 1 ∧ (c.nbr slot).epst ≠ 3 then 0
                  else (c.nbr slot).epst)
    ∧ (∀ i, c.TakesWrite i .wheel 0x06C → Completes (.cancel i) s fun d =>
        match c.wheel.next with
        | none => turned d .refused
        | some ch =>
          if c.beaconCommitted ch.s = true then turned d .refused
          else answers d .ok ∧ d.wheel.next = none ∧ (∃ x : Chip, d = x.syncWheel.touchBeacons ∧ x.keys = c.keys.cancelGroup)
            ∧ ∀ slot, (d.nbr slot).epst = if slot ≠ 0 ∧ (c.nbr slot).st = 1 ∧ (c.nbr slot).epst = 1 then 0
                else (c.nbr slot).epst)
    ∧ (∀ n, c.running n = false → Completes (.epochSwitch n) s fun d => d = c)
    ∧ (∀ n ch, c.running n = true → c.wheel.next = some ch →
        (turnBefore (c.turn n) ch.s = true → Completes (.epochSwitch n) s fun d => d = c)
        ∧ (turnBefore (c.turn n) ch.s = false → Completes (.epochSwitch n) s fun d =>
            d.wheel.cur = ch.dest ∧ d.wheel.next = none ∧ d.wheel.active = some ch
              ∧ d.wheel.prev = some { c.wheel.cur with gkey := c.keys.inForce }
              ∧ (d.group n).switched = true ∧ d.keys = c.keys.switchGroup ∧ d.bitAt (pevt .wheel) 4 = true))
    ∧ (∀ n ch, c.running n = true → c.wheel.next = none → c.wheel.active = some ch → Completes (.epochSwitch n) s fun d =>
        if turnBefore (c.turn n) ch.s = true ∨ (c.group n).switched = true then d = c
        else (d.group n).switched = true ∧ d.bitAt (pevt .wheel) 4 = true ∧ d.wheel.cur = c.wheel.cur ∧ d.keys = c.keys)
    ∧ (∀ n, c.wheel.next = none → c.wheel.active = none → Completes (.epochSwitch n) s fun d => d = c)
    ∧ (c.straggleDone = false → Completes .straggleEnd s fun d => d = c)
    ∧ (c.straggleDone = true → NatMap.sorted c.mac.nbr = true → Completes .straggleEnd s fun d =>
        d.wheel.active = none ∧ d.wheel.prev = none ∧ d.wheel.cur = c.wheel.cur ∧ d.keys = c.keys.releasePrevious
          ∧ d.bitAt (pevt .wheel) 5 = true ∧ d.flag F.WHEEL_WSTAT_STRAG = false
          ∧ ∀ slot, (d.nbr slot).epst = if slot ≠ 0 ∧ (c.nbr slot).st = 1 ∧ (c.nbr slot).epst = 0 then 3
              else (c.nbr slot).epst)
    ∧ (∀ n, Completes (.pauseStart n) s fun d =>
        if c.flag F.WHEEL_WSTAT_PPEND = true ∧ c.running n = true ∧ (c.group n).paused = false
            ∧ turnBefore (c.turn n) (c.get F.WHEEL_PTURN_TURN) = false then
          (d.group n).paused = true ∧ d.lstate n = 3 ∧ d.bitAt (pevt .wheel) 7 = true
        else d = c)
    ∧ (∀ n, Completes (.pauseEnd n) s fun d =>
        if (c.group n).paused = true ∧ c.wheel.activated = true ∧ c.facet n = 0 ∧ c.tick ≤ c.b n 0 then
          (d.group n).paused = false ∧ d.bitAt (pevt .wheel) 7 = true
            ∧ ((∀ m, m ≠ n → (c.group m).paused = false) →
                d.flag F.WHEEL_WSTAT_PPEND = false ∧ d.wheel.activated = false)
        else d = c)

/-- Wheel commands (R86, R90, R92, R102 to R104).  Completion of WHEEL_RUN, WHEEL_STOP, FORCE_HOLD, TBLDATA_READ, TBLDATA_WRITE, TBLCHK,
ANNOUNCE, WITHDRAW, QUIET_COMMIT and QUIET_END. -/
def Obligations.WheelPatternsHoldsAndQuietPeriods : Prop :=
  ∀ (s : State),
    let c := s.chip;
    (∀ i v, c.TakesWrite i .wheel 0x040 →
        (let x := (c.touch i .wheel).store .wheel 0x040 (setBit v 0);
          x.wheelRun = true → Completes (.wheelRun i v) s fun d =>
            d = (if c.wheelRun then x else Lane.all.foldl Chip.wheelStart x)
              ∧ ∀ n, c.wheelRun = false → c.fitted n = true → (c.lane n).ready = true → c.lstate n = 0 →
                  d.lstate n = 1 ∧ (d.group n).since = c.tick)
        ∧ (let x := (c.touch i .wheel).store .wheel 0x040 (clearMask v 1);
          x.wheelRun = false → Completes (.wheelStop i v) s fun d =>
            d = (if c.wheelRun then Lane.all.foldl Chip.wheelHalt x else x)
              ∧ (c.wheelRun = true → c.wheel.active = none → ∀ n, d.lstate n = 0)))
    ∧ (∀ (c : Chip) n,
        (c.wheelRun = true → c.lstate n = 0 → c.fitted n = true → (c.lane n).ready = true →
          (c.wheelStart n).lstate n = 1 ∧ ((c.wheelStart n).group n).since = c.tick)
        ∧ (2 ≤ c.lstate n → c.wheel.active = none →
          (c.wheelHalt n).lstate n = 0 ∧ ((c.wheelHalt n).group n).stopping = true ∧ (c.wheelHalt n).storedBeacons n = []))
    ∧ (∀ i groups, c.TakesWrite i .wheel 0x418 → Completes (.forceHold i groups) s fun d =>
        ∀ n, d.lstate n = if groups.testBit n.idx ∧ c.lstate n = 2 then 3 else c.lstate n)
    ∧ (∀ i, c.TakesRead i .wheel 0x404 → Completes (.tbldataRead i) s fun d =>
        d.rdata = c.entryWord (c.get F.WHEEL_TBLADDR_PAT) (c.get F.WHEEL_TBLADDR_ENTRY)
          ∧ d.get F.WHEEL_TBLADDR_ENTRY =
              (if 95 ≤ c.get F.WHEEL_TBLADDR_ENTRY then 0 else c.get F.WHEEL_TBLADDR_ENTRY + 1) ∧ d.wheel = c.wheel)
    ∧ (∀ i v, c.TakesWrite i .wheel 0x404 → Completes (.tbldataWrite i v) s fun d =>
        let pat := c.get F.WHEEL_TBLADDR_PAT;
        if c.patternHeld pat then d = (c.touch i .wheel).refuse i (Page.wheel.base + 0x404) 8 4 true
        else ∀ p e, p < 16 → e < 96 → c.get F.WHEEL_TBLADDR_ENTRY < 96 → d.entryWord p e =
          if p = pat ∧ e = c.get F.WHEEL_TBLADDR_ENTRY then clearMask (v % 2 ^ 23) 0x8080 else c.entryWord p e)
    ∧ (∀ i pat, c.TakesWrite i .wheel 0x408 → pat < 16 → Completes (.tblchk i pat) s fun d =>
        match patternBad (c.patternWords pat) with
        | none => d.get F.WHEEL_TBLRES_STATUS = Status.ok.code ∧ d.get F.WHEEL_TBLRES_ENTRY = 0
        | some e => d.get F.WHEEL_TBLRES_STATUS = Status.format.code ∧ d.get F.WHEEL_TBLRES_ENTRY = e)
    ∧ (∀ i, c.TakesWrite i .wheel 0x058 →
        let answered := fun (d : Chip) (st : Status) =>
          d.get F.WHEEL_QRES_STATUS = st.code ∧ d.flag F.WHEEL_QRES_PEND = false;
        Completes (.announce i) s (fun d =>
          let t := c.get F.WHEEL_QTURN_TURN;
          if turnBefore t (turnAdd c.latestTurn 3) ∨ 2 ^ 30 < (t + 2 ^ 32 - c.latestTurn) % 2 ^ 32 then
            answered d .refused ∧ d.wheel = c.wheel
          else if c.wheel.quiet.isSome then answered d .busy ∧ d.wheel = c.wheel
          else if c.get F.WHEEL_QCTL_QLEN = 0 then answered d .format ∧ d.wheel = c.wheel
          else answered d .ok ∧ d.wheel.quiet = some ⟨t, c.get F.WHEEL_QCTL_QLEN⟩)
        ∧ (c.wheel.quiet = none → Completes (.withdraw i) s fun d => answered d .refused ∧ d.wheel = c.wheel)
        ∧ (∀ q, c.wheel.quiet = some q → c.beaconCommitted (turnAdd q.t 1) = true →
            Completes (.withdraw i) s fun d => answered d .refused ∧ d.wheel = c.wheel)
        ∧ (∀ q, c.wheel.quiet = some q → c.beaconCommitted (turnAdd q.t 1) = false →
            (∀ n, c.running n = true → turnBefore (c.turn n) q.t = true) → Completes (.withdraw i) s fun d =>
              answered d .ok ∧ d.wheel.quiet = none ∧ d.bitAt (pevt .wheel) 3 = true
                ∧ d.get F.WHEEL_QCNT_QCANCEL = min (c.get F.WHEEL_QCNT_QCANCEL + 1) (2 ^ F.WHEEL_QCNT_QCANCEL.width - 1)))
    ∧ (∀ n, c.wheel.quiet = none → ∀ cmd ∈ [Instr.quietCommit n, .quietEnd n], Completes cmd s fun d => d = c)
    ∧ (∀ n q, c.wheel.quiet = some q → c.running n = true →
        ((c.group n).quiet = false → turnBefore (c.turn n) q.t = false → turnBefore (c.turn n) (turnAdd q.t q.k) = true →
          Completes (.quietCommit n) s fun d => (d.group n).quiet = true ∧ d.bitAt (pevt .wheel) 3 = true)
        ∧ ((c.group n).quiet = true → turnBefore (c.turn n) (turnAdd q.t q.k) = false →
          Completes (.quietEnd n) s fun d => (d.group n).quiet = false ∧ d.bitAt (pevt .wheel) 3 = true
            ∧ ((∀ m, m ≠ n → c.running m = false) → d.wheel.quiet = none)))

/-- The facet clock and the mains lock (R83 to R89).  Completion of CROSSING, MISS, ACQUIRE_TIMEOUT, FACET_START and TURN_START.  The
crossings kept for a turn that the loop has not yet set, and the rounding of the loop's quotients, are the model's choices (log entries
4, 128, 129 and 214). -/
def Obligations.CrossingsFacetsAndTurns : Prop :=
  ∀ (s : State) (n : Lane),
    let c := s.chip;
    let g := c.group n;
    ((c.meas.get n).zcHeard = [] → Completes (.crossing n) s fun d => d = c)
    ∧ (∀ t rest, (c.meas.get n).zcHeard = t :: rest →
        let x := (c.onMeas n fun m => { m with zcHeard := rest }).advanceTo t;
        (c.coasting n = true ∨ c.lstate n = 0 → Completes (.crossing n) s fun d => d = x)
        ∧ (c.coasting n = false → c.lstate n = 1 → g.found = none → Completes (.crossing n) s fun d =>
            d.lstate n = 1 ∧ (d.meas.get n).zcHeard = rest ∧ match acquired ((t :: g.xs).take 9) with
              | some p => (d.group n).found = some p ∧ (d.group n).xs = [t]
              | none => (d.group n).found = none ∧ (d.group n).xs = (t :: g.xs).take 9)
        ∧ (c.coasting n = false → c.lstate n = 2 → Completes (.crossing n) s fun d =>
            let k := (g.nearest (t * 256)).1
            let e := (g.nearest (t * 256)).2
            d.lstate n = 2 ∧ (d.meas.get n).zcHeard = rest
              ∧ (k = 4 → g.looped = false → d.group n = { g with early := some (g.early.getD (t * 256)) })
              ∧ (k = 4 → g.looped = true → d.group n =
                  if (((t * 256 : Nat) : Int) - g.nextTs).natAbs ≤ g.loop.acc then
                    { g with early := some (g.early.getD (t * 256)), consec := 0 }
                  else g)
              ∧ (k ≠ 4 → d.group n = if e.natAbs ≤ g.loop.acc then g.accept k e else g))
        ∧ (c.coasting n = false → c.lstate n = 3 → (c.pins.mainsOk = false ∨ g.paused = true) →
            Completes (.crossing n) s fun d => d = x)
        ∧ (c.coasting n = false → c.lstate n = 3 → c.pins.mainsOk = true → g.paused = false →
            (g.nearest (t * 256)).2.natAbs ≤ g.loop.acc → Completes (.crossing n) s fun d => d.lstate n = 2))
    ∧ (∀ k, c.coasting n = false → (c.lstate n = 2 ∨ c.lstate n = 3) →
        [0, 1, 2, 3].find? (fun k => !g.accepted.testBit k && !g.missed.testBit k) = some k →
        Completes (.miss n) s fun d =>
          d.get (F.WHEEL_GSTAT_MISSES n) =
              min (c.get (F.WHEEL_GSTAT_MISSES n) + 1) (2 ^ (F.WHEEL_GSTAT_MISSES n).width - 1)
            ∧ (d.group n).missed = setBit g.missed k
            ∧ d.lstate n = (if c.lstate n = 2 ∧ g.consec + 1 < 8 then 2 else 3)
            ∧ (c.lstate n = 2 → (d.group n).consec = if g.consec + 1 < 8 then g.consec + 1 else 0))
    ∧ Completes (.acquireTimeout n) s (fun d =>
        (c.lstate n ≠ 1 → d = c)
        ∧ (c.lstate n = 1 → c.flag F.WHEEL_WCTL_FREEOK = false → d = c.advanceTo (g.since + tickHz))
        ∧ (c.lstate n = 1 → c.flag F.WHEEL_WCTL_FREEOK = true → d.lstate n = 4))
    ∧ (∀ h, c.running n = false → g.stopping = false →
        ∀ cmd ∈ [Instr.facetStart n h, .turnStart n h], Completes cmd s fun d => d = c)
    ∧ (∀ h, c.running n = false → g.stopping = true → g.rephase = none →
        (c.facet n < 95 → Completes (.facetStart n h) s fun d => d.group n = .off)
        ∧ (c.facet n = 95 → Completes (.turnStart n h) s fun d => d.group n = .off))
    ∧ (∀ h f, g.rephase = none → f = c.facet n + 1 → f < 96 → c.running n = true →
        (∃ (x : Chip) (cand : Bool), x.tick = max c.tick (g.b f) ∧ x.wheel = c.wheel ∧
          Completes (.facetStart n h) s fun d =>
            let y := x.enterFacet n f cand;
            let z := if x.coasting n = false ∧ g.paused = false then y.startG6 n f else y;
            d = if f = 95 then z.closeTurn n else z)
        ∧ (f < 95 → c.grantAt n f = none → c.role n f ≠ 7 → Completes (.facetStart n h) s fun d =>
            d.facet n = f ∧ d.tick = max c.tick (g.b f)))
    ∧ (∀ (c : Chip) f cand, c.grantAt n f = none → f < 128 → (c.enterFacet n f cand).facet n = f)
    ∧ (∀ h, g.rephase = none → c.facet n = 95 → c.running n = true →
        let next := (c.closeTurn n).nextStart n;
        let turn := turnAdd ((c.closeTurn n).turn n) 1;
        (c.closeTurn n).running n = true →
        ((c.closeTurn n).group n).rephase = none →
        ∃ (x : Chip) (cand : Bool), x.turn n = turn ∧ x.get (F.WHEEL_PERIOD_P n) = next.2 % 2 ^ 32
          ∧ (x.group n).ts = next.1 ∧ (x.group n).p = next.2 ∧ (x.group n).accepted = bit ((c.closeTurn n).group n).early.isSome
          ∧ Completes (.turnStart n h) s fun d =>
            let y := (((((x.placeGrants n turn).quarantineTurn n turn).portenTurn n).echoTurn n).tmapTurn n).enterFacet n 0 cand;
            d.turn n = turn ∧ (y.coasting n = false →
              let z := if (y.lane n).echo.req ≠ 0 ∧ y.trainFits n = false then y.count (F.ECHO_COUNTS2_TRNSKIP n) 1 else y;
              d = if (z.group n).paused then z else z.startBeacons n))
    ∧ (∀ h, g.rephase = none → c.facet n ≠ 95 → Completes (.turnStart n h) s fun d => d = c)

/-- GLZDATA, GLZCMD, WSDATA and WSCMD (R119 to R123, R127, R128).  Completion of GLZDATA_READ, GLZDATA_WRITE, SEAL, GLAZE_CLEAR, WSDATA_READ,
WSDATA_WRITE, FLIP and WS_CLEAR. -/
def Obligations.GlazeTablesAndWeightSets : Prop :=
  ∀ (s : State) (i : Init) (n : Lane),
    let c := s.chip;
    let t := c.get (F.TXP_GLZADDR_TABLE n);
    let w := c.get (F.TXP_GLZADDR_WORD n);
    let set := c.get (F.TXP_WSADDR_SET n);
    let word := c.get (F.TXP_WSADDR_WORD n);
    (c.TakesRead i (.txp n) 0x404 → Completes (.glzdataRead i n) s fun d =>
        d.rdata = c.glazeWord n t w ∧ d.get (F.TXP_GLZADDR_WORD n) = (if 824 ≤ w then 0 else w + 1) % 2 ^ 10)
    ∧ (∀ v, c.TakesWrite i (.txp n) 0x404 → Completes (.glzdataWrite i n v) s fun d =>
        if t = 0 ∨ c.glazeInUse n t = true then d = (c.touch i (.txp n)).refuse i ((Page.txp n).base + 0x404) 8 4 true
        else d.glazeRaw n t w = (if w = 0 then v % 2 ^ 31 else v % 2 ^ 32)
          ∧ (t < 16 → d.glazeValid n t = false)
          ∧ d.get (F.TXP_GLZADDR_WORD n) = (if 824 ≤ w then 0 else w + 1) % 2 ^ 10)
    ∧ (∀ table, table < 16 → c.TakesWrite i (.txp n) 0x408 →
        Completes (.seal i n table) s (fun d =>
          if table = 0 ∨ c.glazeInUse n table = true then
            d.get (F.TXP_GLZRES_STATUS n) = Status.refused.code ∧ d.glazeValid n table = c.glazeValid n table
          else d.glazeValid n table = c.glazeSealOk n table
            ∧ d.get (F.TXP_GLZRES_STATUS n) = (if c.glazeSealOk n table then Status.ok.code else Status.format.code))
        ∧ Completes (.glazeClear i n table) s (fun d =>
          if table = 0 ∨ c.glazeInUse n table = true then
            d.get (F.TXP_GLZRES_STATUS n) = Status.refused.code ∧ d.glazeValid n table = c.glazeValid n table
          else d.glazeValid n table = false ∧ d.get (F.TXP_GLZRES_STATUS n) = Status.ok.code))
    ∧ (c.TakesRead i (.txp n) 0x414 → Completes (.wsdataRead i n) s fun d =>
        d.rdata = (c.lane n).tx.wshadow.getD (512 * set + word) 0
          ∧ d.get (F.TXP_WSADDR_WORD n) = (if 297 ≤ word then 0 else word + 1) % 2 ^ 9)
    ∧ (∀ v, c.TakesWrite i (.txp n) 0x414 → Completes (.wsdataWrite i n v) s fun d =>
        (d.lane n).tx.wshadow.getD (512 * set + word) 0 = v % (if word = 0 then 2 ^ 14 else 2 ^ 32)
          ∧ (∀ k, k ≠ 512 * set + word → (d.lane n).tx.wshadow.getD k 0 = (c.lane n).tx.wshadow.getD k 0)
          ∧ (d.lane n).tx.wlive = (c.lane n).tx.wlive)
    ∧ (∀ x, x < 256 → c.TakesWrite i (.txp n) 0x418 →
        Completes (.flip i n x) s (fun d =>
          d.get (F.TXP_WSRES_STATUS n) = Status.ok.code ∧ (d.lane n).tx = (c.lane n).tx.flipSet x
            ∧ ((d.lane n).tx.wvalid.get? x).isSome = true
            ∧ (NatMap.sorted (c.lane n).tx.wlive = true → NatMap.sorted (c.lane n).tx.wshadow = true → ∀ k,
                (d.lane n).tx.wlive.getD k 0 = (if k / 512 = x then (c.lane n).tx.wshadow.getD k 0 else (c.lane n).tx.wlive.getD k 0)
                ∧ (d.lane n).tx.wshadow.getD k 0
                  = if k / 512 = x then (c.lane n).tx.wlive.getD k 0 else (c.lane n).tx.wshadow.getD k 0))
        ∧ Completes (.wsClear i n x) s (fun d =>
          d.get (F.TXP_WSRES_STATUS n) = Status.ok.code ∧ (d.lane n).tx = (c.lane n).tx.clearSet x
            ∧ (d.lane n).tx.wvalid.get? x = none
            ∧ ∀ k, (d.lane n).tx.wlive.getD k 0 = (if k / 512 = x then 0 else (c.lane n).tx.wlive.getD k 0)
                ∧ (d.lane n).tx.wshadow.getD k 0 = if k / 512 = x then 0 else (c.lane n).tx.wshadow.getD k 0))
    ∧ (∀ (l : LaneTx) x k, k / 512 ≠ x →
        (l.flipSet x).wlive.getD k 0 = l.wlive.getD k 0 ∧ (l.flipSet x).wshadow.getD k 0 = l.wshadow.getD k 0)

/-- Ports, drivers, inputs and calibration (R116, R129, R132, R140, R143, R144, R149, R159).  Completion of WEIGHT_UPDATE, PORTEN_WRITE,
TXDLY_WRITE, RXCFG_WRITE, DRVCFG_WRITE, GAIN_WRITE, DRVFLT, FLTHOLD_EXPIRY, STUCK, CALCMD and CALIBRATION_DONE.  The rounding of the weights
and the moment at which a set is assigned are the model's choices (log entries 64 and 205). -/
def Obligations.PortsDriversInputsAndCalibration : Prop :=
  ∀ (s : State) (n : Lane),
    let c := s.chip;
    (∀ slot, (c.lane n).tmap.est.get? slot = none ∨ c.peerOf n slot = false
        ∨ (c.lane n).tmap.wturn.get? slot = some (c.turn n)
        ∨ ((c.nbr slot).cpl ≠ 2 ∧ ((c.nbr slot).cpl ≠ 1 ∨ (c.nbr slot).hostCpl = true ∨ (c.nbr slot).proto ≠ 0)) →
      Completes (.weightUpdate n slot) s fun d => d = c)
    ∧ (∀ slot chan, (c.lane n).tmap.est.get? slot = some chan → c.peerOf n slot = true →
        (c.lane n).tmap.wturn.get? slot ≠ some (c.turn n) →
        ((c.nbr slot).cpl = 1 → (c.nbr slot).hostCpl = false → (c.nbr slot).proto = 0 →
            (∃ k < 256, (c.lane n).tx.wowner.get? k = none) →
          Completes (.weightUpdate n slot) s fun d =>
            (d.nbr slot).cpl = 2 ∧ (d.lane n).tx.wowner.get? (d.nbr slot).wset = some slot
              ∧ (d.lane n).tx.wvalid.get? (d.nbr slot).wset = some 1)
        ∧ ((c.nbr slot).cpl = 2 → Completes (.weightUpdate n slot) s fun d =>
            let set := (c.nbr slot).wset
            (d.lane n).tx.wvalid.get? set = some 1 ∧ (d.lane n).tx.wowner.get? set = some slot
              ∧ (d.lane n).tx.wlive.getD (512 * set) 0 = slot
              ∧ (∃ up, ∀ e ∈ weightWords chan up, (d.lane n).tx.wlive.getD (512 * set + e.1) 0 = e.2)
              ∧ ∀ k, k / 512 ≠ set → (d.lane n).tx.wlive.getD k 0 = (c.lane n).tx.wlive.getD k 0
                  ∧ (d.lane n).tx.wshadow.getD k 0 = (c.lane n).tx.wshadow.getD k 0))
    ∧ (∀ i v, c.TakesWrite i (.txp n) 0x040 → Completes (.portenWrite i n v) s fun d =>
        let x := (c.touch i (.txp n)).store (.txp n) 0x040 v;
        x.SameBut d [] ∧ (d.lane n).afe.written = (c.lane n).afe.written ||| x.get (F.AFE_DRVSTAT_HELD n)
          ∧ (x.get (F.TXP_TXCTL_PORTEN n) ≠ c.get (F.TXP_TXCTL_PORTEN n) → (c.lane n).echo.running ≠ 0 →
              (d.lane n).echo.void = true))
    ∧ (∀ i v, c.TakesWrite i (.txp n) 0x04C → Completes (.txdlyWrite i n v) s fun d =>
        d = ((c.touch i (.txp n)).store (.txp n) 0x04C v).echoChange n)
    ∧ (∀ i v, c.TakesWrite i (.afe n) 0x04C → Completes (.rxcfgWrite i n v) s fun d =>
        d = (((c.touch i (.afe n)).store (.afe n) 0x04C v).echoChange n).settleInputs n)
    ∧ (∀ i v, c.TakesWrite i (.afe n) 0x040 → Completes (.drvcfgWrite i n v) s fun d =>
        let x := (c.touch i (.afe n)).store (.afe n) 0x040 v;
        d = if [0, 1, 2].map (fun k => x.get (F.AFE_DRVCFG_MODE n k)) = [0, 1, 2].map (fun k => c.get (F.AFE_DRVCFG_MODE n k))
          then x else x.echoChange n)
    ∧ (∀ (c : Chip), (c.lane n).echo.before ≠ 0 →
        ((c.echoChange n).lane n).echo.before = 1 ∧ ((c.echoChange n).lane n).echo.req = 1)
    ∧ (∀ i v (p : Option Port), c.TakesWrite i (.txp n) (p.elim 0x044 fun p => 0x050 + 4 * p.idx) →
        Completes (.gainWrite i n p v) s fun d =>
          let x := (c.touch i (.txp n)).store (.txp n) (p.elim 0x044 fun p => 0x050 + 4 * p.idx) v;
          d.get (F.TXP_CEIL_PSD n) = x.get (F.TXP_CEIL_PSD n)
            ∧ ∀ q < 3,
                let lim := (1560 - 10 * (x.get (F.TXP_CEIL_PSD n) : Int) - 2 * x.getInt (F.TXP_PGAIN_DRVGAIN n q)) / 5
                d.get (F.TXP_PGAIN_GAIN n q) = x.get (F.TXP_PGAIN_GAIN n q)
                  ∧ d.get (F.TXP_PGAIN_DRVGAIN n q) = x.get (F.TXP_PGAIN_DRVGAIN n q)
                  ∧ d.getInt (F.TXP_PGAIN_EFF n q) = min (if lim < -96 then max lim (-128) else lim) (x.getInt (F.TXP_PGAIN_GAIN n q))
                  ∧ d.ceilOff n q = decide (lim < -96)
                  ∧ (p.map Port.idx = some q → x.get (F.TXP_PGAIN_DRVGAIN n q) ≠ c.get (F.TXP_PGAIN_DRVGAIN n q) →
                      (c.lane n).echo.before ≠ 0 → (d.lane n).echo.before = 1 ∧ (d.lane n).echo.req = 1))
    ∧ (∀ (p : Port) t levels, (levels % 8).testBit p.idx ≠ c.flag (F.AFE_DRVCFG_FLTPOL n) →
        Completes (.drvflt n p t levels) s fun d => d = (c.advanceTo t).onAfe n fun a => { a with fltPins := levels % 8 })
    ∧ (∀ (p : Port) t levels, (levels % 8).testBit p.idx = c.flag (F.AFE_DRVCFG_FLTPOL n) →
        Completes (.drvflt n p t levels) s fun d => ∃ x : Chip,
          d = ((x.fault1 0 n.num p.num).pfaultSet (.afe n) 0).raise (.afe n) 0
            ∧ x.tick = max c.tick t ∧ (x.lane n).afe.fltPins = levels % 8
            ∧ x.bitAt (F.AFE_DRVSTAT_HELD n) p.idx = true ∧ x.bitAt (F.TXP_TXCTL_PORTEN n) p.idx = false
            ∧ (x.lane n).tx.busy.get? p.num = none
            ∧ (∀ a ∈ (x.lane n).tx.air, p.num ∈ a.ports → (a.cuts.get? p.num).isSome ∨ a.frame.tend + rampTicks ≤ x.tick)
            ∧ x.get (F.AFE_FLTCNT_PORT n p.idx) =
                min (c.get (F.AFE_FLTCNT_PORT n p.idx) + 1) (2 ^ (F.AFE_FLTCNT_PORT n p.idx).width - 1))
    ∧ (∀ (p : Port) levels, Completes (.fltholdExpiry n p levels) s fun d =>
        let b := p.idx
        if c.bitAt (F.AFE_DRVSTAT_HELD n) b = false ∨ (levels % 8).testBit b = c.flag (F.AFE_DRVCFG_FLTPOL n) then
          d = c.onAfe n fun a => { a with fltPins := levels % 8 }
        else d.bitAt (F.AFE_DRVSTAT_HELD n) b = false
          ∧ (c.retired 0 n.num p.num = false → (c.lane n).afe.written.testBit b = false →
              d.bitAt (F.TXP_TXCTL_PORTEN n) b = true)
          ∧ (c.retired 0 n.num p.num = true ∨ (c.lane n).afe.written.testBit b = true →
              d.get (F.TXP_TXCTL_PORTEN n) = c.get (F.TXP_TXCTL_PORTEN n)))
    ∧ (∀ i : Input, Completes (.stuck n i) s fun d =>
        d = if (c.lane n).rx.agc.codes.getD i.idx 0 = 96 then
            ((c.count (F.AFE_OVLSTK_STUCK n i.idx) 1).pfaultSet (.afe n) 2).fault1 1 n.num (i.idx + 1)
          else c)
    ∧ (∀ i v, c.TakesWrite i (.afe n) 0x400 → Completes (.calcmd i n v) s fun d =>
        if c.get (F.AFE_CALRES_STATUS n) = Status.busy.code then
          d = (c.touch i (.afe n)).refuse i ((Page.afe n).base + 0x400) 8 4 true
        else if c.lstate n ≠ 0 then d.get (F.AFE_CALRES_STATUS n) = Status.refused.code ∧ (d.lane n).afe = (c.lane n).afe
        else d.get (F.AFE_CALRES_STATUS n) = Status.busy.code ∧ (d.lane n).afe.cal = some (v % 16))
    ∧ (∀ pass, Completes (.calibrationDone n pass) s fun d =>
        ((c.lane n).afe.cal = none → d = c)
          ∧ (∀ mask, (c.lane n).afe.cal = some mask → ∃ x, x = (c.onAfe n fun a => { a with cal := none }).calibrated n mask pass
              ∧ d = if x.get (F.AFE_CALRES_STATUS n) = Status.busy.code then x.set (F.AFE_CALRES_STATUS n) Status.ok.code else x))

/-- The gain loops and the stored codes (R167 to R171, R197).  Completion of AGC_WINDOW, AGC_ATTACK, AGC_RELEASE, CANDIDATE_FALLBACK,
STDATA_READ and STDATA_WRITE.  That fractions of a code add up is the model's reading (log entry 65). -/
def Obligations.GainLoopsMoveHoldAndLearn : Prop :=
  ∀ (s : State) (n : Lane),
    let c := s.chip;
    let code := fun (d : Chip) (i : Nat) => (d.lane n).rx.agc.codes.getD i 0;
    let f := c.get (F.AGC_STADDR_FACET n);
    (∀ t h,
      let x := (c.advanceTo t).settled n;
      let look := x.hearWindow n t h;
      (x.loopsRun n = false → Completes (.agcWindow n t h) s fun d => d = x.noteCandidate n look.cand)
      ∧ (x.loopsRun n = true → Completes (.agcWindow n t h) s fun d => ∀ i < 4,
          let ovr := look.levels.getD i 0 + (x.get (F.AGC_AGCCFG_TARGET n) : Int);
          code d i = d.get (F.AFE_PGA_CODE n i)
            ∧ (0 < ovr → code d i = min 96 (code x i - min ovr.toNat (2 * x.get (F.AGC_LOOPK_ATTACK n))))
            ∧ (ovr = 0 → code d i = min 96 (code x i))
            ∧ (ovr < 0 → (x.lane n).rx.agc.mode = 3 → code d i = min 96 (code x i))
            ∧ (ovr < 0 → (x.lane n).rx.agc.mode = 0 → code d i = min 96 (code x i +
                ((x.lane n).rx.agc.frac.getD i 0 + min (512 * (-ovr).toNat)
                  (x.get (F.AGC_LOOPK_DECAY n) * 2 ^ x.get (F.AGC_LOOPK_WIN n))) / 512))))
    ∧ (∀ t (i : Input) h,
      let x := (c.advanceTo t).settled n;
      (x.loopsRun n = false ∨ hearAttack t i.idx h < 4 → Completes (.agcAttack n t i h) s fun d => d = x)
      ∧ (x.loopsRun n = true → 4 ≤ hearAttack t i.idx h → (x.lane n).rx.agc.codes.length = 4 →
          Completes (.agcAttack n t i h) s fun d => ∀ k < 4,
          code d k = d.get (F.AFE_PGA_CODE n k)
            ∧ code d k = min 96 (if k = i.idx then code x k - 2 * x.get (F.AGC_LOOPK_ATTACK n) else code x k)))
    ∧ (∀ t h,
      let x := (c.advanceTo t).settled n;
      let a := (x.lane n).rx.agc;
      (a.frozen = false ∨ a.holdTo = none ∨ (∃ k, a.holdTo = some k ∧ x.tick < k) → Completes (.agcRelease n t h) s fun d => d = x)
      ∧ (∀ k, a.frozen = true → a.holdTo = some k → k ≤ x.tick → Completes (.agcRelease n t h) s fun d =>
          (d.lane n).rx.agc.frozen = false ∧ (d.lane n).rx.agc.holdTo = none ∧ (∀ i < 4, code d i = code x i)
            ∧ (∀ g used, a.learn = some (g, used) → d.stored n g = (x.agcLearn n g used (hearSpan h)).stored n g)))
    ∧ Completes (.candidateFallback n) s (fun d =>
        (d.lane n).rx.agc.cand = false ∧ (d.lane n).rx.agc.deferred = none
          ∧ ((c.lane n).rx.agc.deferred = none → c.SameBut d [])
          ∧ (∀ g, (c.lane n).rx.agc.deferred = some g → c.flag (F.AGC_AGCCFG_LOOPEN n) = true →
              ∀ i < 4, d.get (F.AFE_PGA_CODE n i) = min 96 (bitField (c.stored n g) (7 * i) 7)))
    ∧ (∀ i, c.TakesRead i (.agc n) 0x408 → Completes (.stdataRead i n) s fun d =>
        d.rdata = c.stored n f ∧ d.get (F.AGC_STADDR_FACET n) = (if 95 ≤ f then 0 else f + 1) % 2 ^ 7)
    ∧ (∀ i v, c.TakesWrite i (.agc n) 0x408 → Completes (.stdataWrite i n v) s fun d =>
        (∀ k < 4, bitField (d.stored n f) (7 * k) 7 =
            if bitField v (7 * k) 7 ≤ 96 then bitField v (7 * k) 7 else bitField (c.stored n f) (7 * k) 7)
          ∧ (d.stored n f).testBit 28 = v.testBit 28 ∧ (d.stored n f).testBit 29 = true
          ∧ (∀ g, g ≠ f → d.stored n g = c.stored n g)
          ∧ d.get (F.AGC_STADDR_FACET n) = (if 95 ≤ f then 0 else f + 1) % 2 ^ 7)

/-- TAOVR and the spyhole (R194 to R196, R198).  Completion of TAOVR, ARM, STOP, TRIGGER and RECORD.  What a lost record leaves, and that
SPYCAP is met packet by packet, are the model's choices (log entries 122 and 172). -/
def Obligations.TimingAdvanceAndSpyhole : Prop :=
  ∀ (s : State) (n : Lane),
    let c := s.chip;
    let sp := (c.lane n).rx.spy;
    let size := 2 ^ c.get (F.SPY_SPDEST_SIZE n);
    let base := 4096 * c.get (F.SPY_SPDEST_BASE n);
    let sound := 12 ≤ c.get (F.SPY_SPDEST_SIZE n) ∧ c.get (F.SPY_SPDEST_SIZE n) ≤ 20 ∧ base % size = 0 ∧ 0x00EC0000 ≤ base
      ∧ base + size ≤ 0x01000000;
    let wp := c.get (F.SPY_SPWPTR_PTR n);
    let next := (wp + 1) % (size / 256);
    let trig := c.get (F.SPY_SPTRIG_TRIG n);
    (∀ i slot ta, slot < 2 ^ 14 → -2048 ≤ ta → ta ≤ 2047 → c.TakesWrite i (.rxp n) 0x40C →
      Completes (.taovr i n slot ta) s fun d =>
        if c.peerOf n slot = true then
          (d.laneRec n slot).tac = ta ∧ (d.laneRec n slot).prev = ta ∧ (d.laneRec n slot).aest = 16 * ta
            ∧ (d.laneRec n slot).tast = 1 ∧ (∀ k, k ≠ slot → d.laneRec n k = c.laneRec n k)
        else d = c.touch i (.rxp n))
    ∧ (∀ i, c.TakesWrite i (.spy n) 0x050 → c.flag (pctlEnable (.spy n)) = true → Completes (.arm i n) s fun d =>
        let x := (d.lane n).rx.spy;
        (sound → x.armed = (trig != 0) ∧ x.running = (trig == 0) ∧ x.done = false ∧ x.gap = false ∧ x.seq = 0
            ∧ x.trigAt = (if trig = 0 then some c.tick else none) ∧ x.event = none
            ∧ d.get (F.SPY_SPWPTR_PTR n) = 0 ∧ d.get (F.SPY_SPCOUNT_COUNT n) = 0)
          ∧ (¬ sound → x = sp ∧ d.bitAt (pfault (.spy n)) 0 = true))
    ∧ (∀ i, c.TakesWrite i (.spy n) 0x050 → c.flag (pctlEnable (.spy n)) = false → Completes (.arm i n) s fun d =>
        d = c.touch i (.spy n))
    ∧ (∀ i, c.TakesWrite i (.spy n) 0x050 → Completes (.stop i n) s fun d =>
        (sp.armed = true ∨ sp.running = true →
            (d.lane n).rx.spy = { sp with armed := false, running := false, done := true } ∧ d.bitAt (pevt (.spy n)) 0 = true)
          ∧ (sp.armed = false → sp.running = false → d = c.touch i (.spy n)))
    ∧ (∀ h t, sp.armed = true → (if trig = 1 then c.spyFacet n = true ∧ t = c.tick else sp.event = some t) →
        Completes (.trigger n h) s fun d =>
          let x := (d.lane n).rx.spy;
          x.armed = false ∧ x.running = true ∧ x.trigAt = some t
            ∧ x.next = t - (if c.get (F.SPY_SPCFG_SRC n) ≤ 1 then 256 * c.get (F.SPY_SPCFG_PRETRIG n) else 0) * c.spyStep n
            ∧ x.hist = c.spyHistory n sp.hist h.samples ∧ c.SameBut d [])
    ∧ (∀ h, (sp.armed = false ∨ if trig = 1 then c.spyFacet n = false else sp.event = none) →
        Completes (.trigger n h) s fun d => d = c)
    ∧ (∀ t h,
        let t' := c.spyStart n t;
        let es := c.hearSpy n t' h;
        let x := c.advanceTo (t' + c.spySpan n);
        let full := c.flag (F.SPY_SPCFG_WRAP n) = false ∧ next = c.get (F.SPY_SPRPTR_PTR n);
        let sent := x.spyMayGo n .toHub ⟨3, 0, List.replicate 256 0⟩;
        (sp.running = false ∨ es = [] → exec (.record n t h) s = .next s)
        ∧ (sp.running = true → es ≠ [] → sent = false ∨ full → Completes (.record n t h) s fun d =>
            (d.lane n).rx.spy.gap = true ∧ (d.lane n).rx.spy.seq = sp.seq ∧ d.bitAt (pfault (.spy n)) 1 = true
              ∧ d.get (F.SPY_SPWPTR_PTR n) = wp
              ∧ d.get (F.SKEJO_SPYDROP_COUNT n) =
                  (if sent = false then min (c.get (F.SKEJO_SPYDROP_COUNT n) + 1) (2 ^ (F.SKEJO_SPYDROP_COUNT n).width - 1)
                    else c.get (F.SKEJO_SPYDROP_COUNT n)))
        ∧ (sp.running = true → es ≠ [] → sent = true → ¬ full →
          Answers (.record n t h) s fun u =>
            u.chip.get (F.SPY_SPWPTR_PTR n) = next % 2 ^ 12
              ∧ u.chip.get (F.SPY_SPCOUNT_COUNT n) = min (c.get (F.SPY_SPCOUNT_COUNT n) + 1) (2 ^ 32 - 1)
              ∧ (base + 256 * wp + 256 ≤ 0x01000000 → es.length ≤ 240 →
                  ∀ k < 256, u.mem.read .sram (base + 256 * wp + k) = (x.spyRecord n t' es).getD k 0)
              ∧ (∀ a, a < base + 256 * wp ∨ base + 256 * wp + 256 ≤ a → es.length ≤ 240 → u.mem.read .sram a = s.mem.read .sram a)
              ∧ (u.chip.lane n).rx.spy.gap = false ∧ (u.chip.lane n).rx.spy.seq = sp.seq + 1
              ∧ (let lim := c.get (F.SPY_SPLEN_RECORDS n);
                if lim ≠ 0 ∧ lim ≤ sp.seq + 1 then
                  (u.chip.lane n).rx.spy.running = false ∧ (u.chip.lane n).rx.spy.done = true ∧ u.chip.bitAt (pevt (.spy n)) 0 = true
                else (u.chip.lane n).rx.spy.running = true)))

/-- Training passes (R150 to R153, R156, R157, Table 5-7).  Completion of PASS_COMPLETE, GUARD_WRITE, TRACK_REQUEST, AGED and
FDOK_CHANGE.  Requests made while a pass runs, and the word of a coefficient, are the model's choices (log entries 120 and 192). -/
def Obligations.EchoPassesEndByTheTable : Prop :=
  ∀ (s : State) (n : Lane),
    let c := s.chip;
    let e := (c.lane n).echo;
    let hold := c.flag (F.ECHO_EOVR_HOLD n);
    (∀ h, e.kind = 0 ∨ c.trainingFrame n = none → Completes (.passComplete n h) s fun d => d = c)
    ∧ (∀ h a, e.kind ≠ 0 → c.trainingFrame n = some a →
      let l := c.hearPass n a e.kind e.kept h;
      let clip := l.clip = true ∧ e.kind = 1;
      (e.void = true ∨ clip → Completes (.passComplete n h) s fun d =>
        let x := (d.lane n).echo;
        x.running = 0 ∧ x.before = e.before ∧ x.req = (if e.req = 0 then e.kind else e.req)
          ∧ x.digShadow = e.digLive ∧ x.repShadow = e.repLive ∧ x.flip = 0
          ∧ d.get (F.ECHO_COUNTS_TRNFAIL n) = min (c.get (F.ECHO_COUNTS_TRNFAIL n) + 1) (2 ^ 16 - 1)
          ∧ d.bitAt (pfault (.echo n)) 2 = true
          ∧ d.get (F.ECHO_TGAIN_TGEFF n) = (if clip then c.get (F.ECHO_TGAIN_TGEFF n) - 12 else c.get (F.ECHO_TGAIN_TGEFF n)) % 2 ^ 7)
      ∧ (e.void = false → ¬ clip → Completes (.passComplete n h) s fun d =>
        let x := (d.lane n).echo;
        let ok := ([1, 2, 3, 4].all fun i => !c.inputUsed n i || d.inputPasses n (i - 1))
          && [1, 2, 3].all fun p => c.portCause n p != 0 || a.sounded.testBit (p - 1);
        x.running = 0
          ∧ d.get (F.ECHO_ESTAT_PASS n) = e.kind % 2 ^ (F.ECHO_ESTAT_PASS n).width
          ∧ (∀ i < 4, c.inputUsed n (i + 1) = true → d.get (F.ECHO_ERL_DIG n i) = min 255 (l.ins.getD i ⟨0, 0, 0, none, 0⟩).dig
              ∧ (e.kind = 1 → d.get (F.ECHO_ERL_HYB n i) = min 255 (l.ins.getD i ⟨0, 0, 0, none, 0⟩).hyb
                  ∧ d.get (F.ECHO_ERL_REP n i) = min 255 (l.ins.getD i ⟨0, 0, 0, none, 0⟩).rep)
              ∧ (e.kind = 2 → d.get (F.ECHO_ERL_HYB n i) = c.get (F.ECHO_ERL_HYB n i)
                  ∧ d.get (F.ECHO_ERL_REP n i) = c.get (F.ECHO_ERL_REP n i)))
          ∧ d.get (F.ECHO_COUNTS_PASSES n) = min (c.get (F.ECHO_COUNTS_PASSES n) + 1) (2 ^ 16 - 1)
          ∧ x.flip = (if hold then e.flip else if e.kind = 1 then 3 else 1)
          ∧ x.digShadow = (if hold then e.digShadow else bankOf 47520 l.dig)
          ∧ (e.req ≠ 0 ∨ e.before = 0 → x.before = e.before ∧ x.req = e.req)
          ∧ (e.req = 0 → e.before ≠ 0 →
              (ok = true → x.before = 3 ∧ x.req = 0 ∧ d.get (F.ECHO_ESTAT_AGE n) = 0)
                ∧ (ok = false → x.before = 4
                    ∧ (e.kind = 2 → e.before = 3 → x.req = 1)
                    ∧ (e.kind = 1 ∨ e.before ≠ 3 → x.req = 0 ∧ x.delay = some (c.get (F.ECHO_ECFG_TRAINIV n)))))))
    ∧ (∀ h, e.running ≠ 1 ∨ c.trainingFrame n = none → Completes (.guardWrite n h) s fun d => d = c)
    ∧ (∀ h a, e.running = 1 → c.trainingFrame n = some a → Completes (.guardWrite n h) s fun d =>
        let g := c.hearGuard n a h
        (∀ i < 4, d.get (F.ECHO_RDLY_D n i) = g.delays.getD i 0 % 2 ^ 8)
          ∧ (d.lane n).echo.running = 3
          ∧ d.flag (F.ECHO_ESTAT_REPON n) = !c.flag (F.ECHO_EOVR_NOREP n)
          ∧ (hold = true → (d.lane n).echo.repShadow = e.repShadow)
          ∧ (hold = false → ∀ pre k v post, g.words = pre ++ (k, v) :: post → (∀ w ∈ post, w.1 ≠ k) → k < 1188 →
              (d.lane n).echo.repShadow.getD k 0 = v % 2 ^ 32))
    ∧ Completes (.trackRequest n) s (fun d =>
        if e.before = 3 ∧ e.running = 0 ∧ e.req = 0 ∧ c.get (F.ECHO_ECFG_TRAINIV n) ≤ e.since then
          (d.lane n).echo.req = 2 ∧ c.SameBut d []
        else d = c)
    ∧ Completes (.aged n) s (fun d =>
        if e.before = 3 ∧ e.running = 0 ∧ c.get (F.ECHO_ECFG_AGEMAX n) ≤ c.get (F.ECHO_ESTAT_AGE n) then
          (d.lane n).echo.before = 6 ∧ (d.lane n).echo.req = 1 ∧ d.get (F.ECHO_ESTAT_STATE n) = 6
        else d = c)
    ∧ Completes (.fdokChange n) s (fun d =>
        d.mac.fdok.testBit n.num = c.flag (F.ECHO_ESTAT_FDOK n)
          ∧ (∀ b, b ≠ n.num → d.mac.fdok.testBit b = c.mac.fdok.testBit b) ∧ c.SameBut d [])

/-- The commands of the echo page (R149, R156, R162, R447, Tables 5-7 and 5-11).  Completion of RETRAIN, ECHO_CLEAR, ECTL_EN_WRITE,
MCMD_FLIP, MDATA_READ and MDATA_WRITE.  What CLEAR and FLIP do while the canceller is OFF is the model's reading (log entries 63 and
177). -/
def Obligations.EchoCommandsAndBanks : Prop :=
  ∀ (s : State) (i : Init) (n : Lane),
    let c := s.chip;
    let e := (c.lane n).echo;
    let mat := c.flag (F.ECHO_MADDR_MAT n);
    let w := c.get (F.ECHO_MADDR_WORD n);
    let on := c.get (F.ECHO_MADDR_WORD n) + 1;
    (c.TakesWrite i (.echo n) 0x04C →
      Completes (.retrain i n) s (fun d =>
        (e.before = 0 → d = c.touch i (.echo n))
          ∧ (e.before ≠ 0 → (d.lane n).echo.before = 1 ∧ (d.lane n).echo.req = 1
              ∧ d.get (F.ECHO_ESTAT_STATE n) = (if e.running = 0 then 1 else 2)))
      ∧ Completes (.echoClear i n) s (fun d =>
        let x := (d.lane n).echo;
        x.repLive = [] ∧ x.repShadow = [] ∧ x.digLive = [] ∧ x.digShadow = []
          ∧ (c.flag (F.ECHO_ECTL_EN n) = true → c.flag (pctlEnable (.echo n)) = true → x.before = 1 ∧ x.req = 1
              ∧ d.get (F.ECHO_ESTAT_STATE n) = (if e.running = 0 then 1 else 2))
          ∧ (c.flag (F.ECHO_ECTL_EN n) = false ∨ c.flag (pctlEnable (.echo n)) = false →
              x.before = e.before ∧ x.req = e.req ∧ c.SameBut d [])))
    ∧ (∀ v, c.TakesWrite i (.echo n) 0x040 → Completes (.ectlEnWrite i n v) s fun d =>
        d.flag (F.ECHO_ECTL_EN n) = v.testBit 0 ∧ d.flag (F.ECHO_ECTL_FDEN n) = v.testBit 1
          ∧ (v.testBit 0 = false ∨ c.flag (pctlEnable (.echo n)) = false →
              (d.lane n).echo.before = 0 ∧ (d.lane n).echo.req = 0 ∧ d.get (F.ECHO_ESTAT_STATE n) = 0)
          ∧ (v.testBit 0 = true → c.flag (pctlEnable (.echo n)) = true →
              (e.before = 0 → (d.lane n).echo.before = 1 ∧ (d.lane n).echo.req = 1)
                ∧ (e.before ≠ 0 → (d.lane n).echo = e)))
    ∧ (c.TakesWrite i (.echo n) 0x418 → Completes (.mcmdFlip i n) s fun d =>
        (d.lane n).echo.flip = 3
          ∧ (e.before = 0 → (d.lane n).echo.before = 0)
          ∧ (e.before ≠ 0 → (d.lane n).echo.before = 4 ∧ (d.lane n).echo.req = 2))
    ∧ (c.TakesRead i (.echo n) 0x414 → Completes (.mdataRead i n) s fun d =>
        d.rdata = (e.bank mat (c.flag (F.ECHO_MADDR_BANK n))).getD w 0
          ∧ d.get (F.ECHO_MADDR_WORD n) = (if (if mat then 1188 else 47520) ≤ on then 0 else on) % 2 ^ 16)
    ∧ (∀ v, c.TakesWrite i (.echo n) 0x414 → Completes (.mdataWrite i n v) s fun d =>
        let x := (d.lane n).echo;
        if c.flag (F.ECHO_EOVR_HOLD n) = false ∨ c.flag (F.ECHO_MADDR_BANK n) = false then
          d = (c.touch i (.echo n)).refuse i ((Page.echo n).base + 0x414) 8 4 true
        else (x.bank mat true).getD w 0 = v % 2 ^ 32
          ∧ (∀ k, k ≠ w → (x.bank mat true).getD k 0 = (e.bank mat true).getD k 0)
          ∧ (∀ k, (x.bank (!mat) true).getD k 0 = (e.bank (!mat) true).getD k 0)
          ∧ x.digLive = e.digLive ∧ x.repLive = e.repLive
          ∧ d.get (F.ECHO_MADDR_WORD n) = (if (if mat then 1188 else 47520) ≤ on then 0 else on) % 2 ^ 16)

/-- MITCMD, LDCMD and NDATA (R226, R227, R230, R242, R248).  Completion of LOAD, UNHOLD, MIT_READ, MIT_WRITE and NDATA_READ. -/
def Obligations.MapSetAndLibraryCommands : Prop :=
  ∀ (s : State) (i : Init) (n : Lane),
    let c := s.chip;
    let slot := c.get (F.TMAP_MITSEL_SLOT n);
    let b := c.flag (F.TMAP_MITSEL_BANK n);
    let k := c.get (F.TMAP_NADDR_CARR n);
    (c.TakesWrite i (.tmap n) 0x41C → Completes (.mitRead i n) s fun d =>
        if c.peerOf n slot = true then
          d.get (F.TMAP_MITRES_STATUS n) = Status.ok.code
            ∧ d.get (F.TMAP_MITW_DATA n 0) = (c.ulBank n slot b).w0 % 2 ^ 32
            ∧ d.get (F.TMAP_MITW_DATA n 1) = (c.ulBank n slot b).w1 % 2 ^ 32
            ∧ d.get (F.TMAP_MITW_DATA n 2) = (c.ulBank n slot b).w2 % 2 ^ 32
        else d.get (F.TMAP_MITRES_STATUS n) = Status.stale.code ∧ c.SameBut d [F.TMAP_MITRES_STATUS n])
    ∧ (∀ send, c.TakesWrite i (.tmap n) 0x41C → Completes (.mitWrite i n send) s fun d =>
        if c.peerOf n slot = false then d.get (F.TMAP_MITRES_STATUS n) = Status.stale.code ∧ d.lanes = c.lanes ∧ d.qm = c.qm
        else if c.setOk n slot (c.mitw n) = false then
          d.get (F.TMAP_MITRES_STATUS n) = Status.format.code ∧ d.lanes = c.lanes ∧ d.qm = c.qm
        else d.get (F.TMAP_MITRES_STATUS n) = Status.ok.code ∧ d.ulBank n slot b = c.mitw n
          ∧ d.ulBank n slot (!b) = c.ulBank n slot (!b)
          ∧ (∀ x ∈ (d.lane n).tmap.builds, x.slot ≠ slot)
          ∧ (send = true → (c.mitw n).valid = true →
              ⟨slot, (c.mitw n).tmv, 0, 1, b⟩ ∈ (d.lane n).tmap.tmx
                ∧ ∃ m, (d.queue (2 * slot)).mpdus = (c.queue (2 * slot)).mpdus ++ [m] ∧ m.mtype = 0x20)
          ∧ (send = false ∨ (c.mitw n).valid = false → d.qm = c.qm))
    ∧ (c.TakesWrite i (.tmap n) 0x404 → NatMap.sorted (c.lib n) = true → Completes (.load i n) s fun d =>
        match imageMap (s.mem.readBytes .sram (c.get (F.TMAP_LDSRC_OFFS n) * 2048) 2048) with
        | .error st => d.get (F.TMAP_LDRES_STATUS n) = st.code ∧ d.lanes = c.lanes
        | .ok m =>
          if (c.installMap n m).1 = none then
            d.get (F.TMAP_LDRES_STATUS n) = Status.refused.code
              ∧ d.get (F.TMAP_COUNTS2_LIBFULL n) = min (c.get (F.TMAP_COUNTS2_LIBFULL n) + 1) (2 ^ 16 - 1)
          else d.get (F.TMAP_LDRES_STATUS n) = Status.ok.code
            ∧ ∃ x e, x % 2 ^ 10 = d.get (F.TMAP_LDRES_INDEX n) ∧ (d.lib n).get? x = some e ∧ e.map = m ∧ e.hold = true)
    ∧ (∀ x e, x < 2 ^ 10 → c.TakesWrite i (.tmap n) 0x404 → (c.lib n).get? x = some e → e.hold = true →
        Completes (.unhold i n x) s fun d =>
          d.get (F.TMAP_LDRES_STATUS n) = Status.ok.code
            ∧ ∃ e', (d.lib n).get? x = some e' ∧ e'.hold = false ∧ e'.map = e.map ∧ e'.refs = e.refs)
    ∧ (∀ x, x < 2 ^ 10 → c.TakesWrite i (.tmap n) 0x404 → (c.lib n).get? x = none →
        Completes (.unhold i n x) s fun d => d.lanes = c.lanes)
    ∧ (c.TakesRead i (.tmap n) 0x438 → Completes (.ndataRead i n) s fun d =>
        (∀ x < 4, bitField d.rdata (8 * x) 8 =
            (c.lane n).tmap.mean.getD (meanKey x (c.get (F.TMAP_NADDR_PHASE n)) k) 0 % 2 ^ 8)
          ∧ d.get (F.TMAP_NADDR_CARR n) = (if 3999 ≤ k then 40 else k + 1) % 2 ^ 12)

/-- BCMD, REFRESH, BUILD_COMPLETE and TMX_RETRY (R240 to R242, R244, R451).  Completion of BUILD, REFRESH, BUILD_COMPLETE, REQ,
REVOKE and TMX_RETRY. -/
def Obligations.BuildCommandsAnswerAndSend : Prop :=
  ∀ (s : State) (n : Lane) (slot : Nat),
    let c := s.chip;
    let busy := c.get (F.TMAP_BRES_STATUS n) = Status.busy.code;
    let sent := fun (d : Chip) (mtype : Nat) =>
      ∃ m, (d.queue (2 * slot)).mpdus = (c.queue (2 * slot)).mpdus ++ [m] ∧ m.mtype = mtype;
    (∀ i, slot < 2 ^ 14 → c.TakesWrite i (.tmap n) 0x054 → busy →
      ∀ cmd ∈ [Instr.build i n slot, .req i n slot, .revoke i n slot],
        Completes cmd s fun d => d = (c.touch i (.tmap n)).refuse i ((Page.tmap n).base + 0x054) 8 4 true)
    ∧ (∀ i, slot < 2 ^ 14 → c.TakesWrite i (.tmap n) 0x054 → ¬ busy →
      Completes (.build i n slot) s (fun d =>
        d.get (F.TMAP_BRES_SLOT n) = slot
          ∧ (if c.flag (pctlEnable (.tmap n)) = false ∨ c.flag (F.TMAP_TMCFG_AUTOUL n) = false then
              d.get (F.TMAP_BRES_STATUS n) = Status.refused.code ∧ d.lanes = c.lanes
            else if slot = 0 ∨ 0x2000 ≤ slot then d.get (F.TMAP_BRES_STATUS n) = Status.format.code ∧ d.lanes = c.lanes
            else if c.peerOf n slot = false then d.get (F.TMAP_BRES_STATUS n) = Status.stale.code ∧ d.lanes = c.lanes
            else d.get (F.TMAP_BRES_STATUS n) = Status.busy.code
              ∧ ∃ b ∈ (d.lane n).tmap.builds, b.slot = slot ∧ b.byCmd = true))
      ∧ Completes (.req i n slot) s (fun d =>
        d.get (F.TMAP_BRES_SLOT n) = slot
          ∧ (if slot = 0 ∨ 0x2000 ≤ slot then d.get (F.TMAP_BRES_STATUS n) = Status.format.code ∧ d.qm = c.qm
            else if c.peerOf n slot = false then d.get (F.TMAP_BRES_STATUS n) = Status.stale.code ∧ d.qm = c.qm
            else d.get (F.TMAP_BRES_STATUS n) = Status.ok.code ∧ sent d 0x21 ∧ d.lanes = c.lanes))
      ∧ Completes (.revoke i n slot) s (fun d =>
        d.get (F.TMAP_BRES_SLOT n) = slot
          ∧ (if slot = 0 ∨ 0x2000 ≤ slot then d.get (F.TMAP_BRES_STATUS n) = Status.format.code ∧ d.qm = c.qm
            else if c.peerOf n slot = false then d.get (F.TMAP_BRES_STATUS n) = Status.stale.code ∧ d.qm = c.qm
            else d.get (F.TMAP_BRES_STATUS n) = Status.ok.code ∧ sent d 0x20
              ∧ (∀ b, d.ulBank n slot b = (c.ulBank n slot b).invalid)
              ∧ (∀ t ∈ (d.lane n).tmap.tmx, t.slot ≠ slot))))
    ∧ Completes (.refresh n slot) s (fun d =>
        if c.flag (F.TMAP_TMCFG_AUTOUL n) = true ∧ c.peerOf n slot = true
            ∧ c.get (F.TMAP_TMCFG_REFRESH n) ≤ (c.lane n).tmap.since.getD slot 0 then
          d = c.startBuild n slot false
            ∧ (c.flag (pctlEnable (.tmap n)) = true → ∃ b ∈ (d.lane n).tmap.builds, b.slot = slot)
        else d = c)
    ∧ Completes (.buildComplete n) s (fun d =>
        match (c.lane n).tmap.builds.findSome? fun b => (c.buildChannel n b).map fun h => (b, h) with
        | none => d = c
        | some (b, chan) =>
          let g6 := (c.nbr b.slot).proto == 1
          let bp := if g6 then c.g6bp else (c.epochIn n).bp
          let rows := (List.range 24).map fun ph => (List.range (dataCarriersOf bp)).map fun d =>
            c.buildSnr n chan ph (dataCarrier d)
          if c.get (F.TMAP_NOISESTAT_PHASES n) = 0 ∨ c.peerOf n b.slot = false then d = c
          else (∀ x ∈ (d.lane n).tmap.builds, x.slot ≠ b.slot) ∧ (d.lane n).tmap.since.getD b.slot 1 = 0
            ∧ ∃ ok : Bool,
              (ok = true ↔ ∃ rate codes, c.bestRate n g6 b.add (c.openCarriers n bp) rows = some (rate, codes)
                ∧ c.buildClusters n g6 codes ≠ []
                ∧ (c.placeClusters n bp rate (((c.lane n).tmap.version.get? b.slot).getD 0 % 15 + 1) g6 24
                    (c.buildClusters n g6 codes)).1 ≠ none)
              ∧ d.get (F.TMAP_COUNTS1_BUILDS n) = (if ok then min (c.get (F.TMAP_COUNTS1_BUILDS n) + 1) (2 ^ 16 - 1)
                else c.get (F.TMAP_COUNTS1_BUILDS n))
              ∧ (b.byCmd = true → d.get (F.TMAP_BRES_STATUS n) = if ok then Status.ok.code else Status.refused.code)
              ∧ (ok = true → ∃ t ∈ (d.lane n).tmap.tmx, t.slot = b.slot ∧ t.turns = 0 ∧ t.sent = 1
                  ∧ t.tmv = ((c.lane n).tmap.version.get? b.slot).getD 0 % 15 + 1))
    ∧ (∀ (c : Chip) (b : Build), c.buildChannel n b = none ↔
        b.source = 0 ∧ ((c.nbr b.slot).proto ≠ 1 ∨ c.recentChannel n b.slot = none))
    ∧ Completes (.tmxRetry n slot) s (fun d =>
        match (c.lane n).tmap.tmx.find? fun x => x.slot == slot with
        | none => d = c
        | some x =>
          if x.turns < c.get (F.TMAP_TMCFG_REFRESH n) then d = c
          else if x.sent < 3 then
            sent d 0x20 ∧ ∃ t ∈ (d.lane n).tmap.tmx, t.slot = slot ∧ t.turns = 0 ∧ t.sent = x.sent + 1 ∧ t.bankB = x.bankB
          else d.ulBank n slot x.bankB = (c.ulBank n slot x.bankB).invalid ∧ d.qm = c.qm
            ∧ d.get (F.TMAP_COUNTS2_NOREPLY n) = min (c.get (F.TMAP_COUNTS2_NOREPLY n) + 1) (2 ^ 16 - 1)
            ∧ (∀ t ∈ (d.lane n).tmap.tmx, t.slot ≠ slot))

/-- MPDUs handed to device firmware (R100, R227, R242, R244, R257, R271).  Completion of TMX, TMREQ, JOINREQ, LEAVE, SLEEPREQ and
RELAY. -/
def Obligations.FirmwareHandlesPeersRequests : Prop :=
  ∀ (s : State),
    let c := s.chip;
    let first := fun (t : Nat) => c.mac.fw.find? fun m => m.mtype == t;
    (∀ eui, first 0x10 = none → Completes (.joinreq eui) s fun d => d = c)
    ∧ (first 0x12 = none → Completes .leave s fun d => d = c)
    ∧ (first 0x13 = none → Completes .sleepreq s fun d => d = c)
    ∧ (first 0x01 = none → Completes .relay s fun d => d = c)
    ∧ (first 0x20 = none → Completes .tmx s fun d => d = c)
    ∧ (first 0x21 = none → Completes .tmreq s fun d => d = c)
    ∧ (∀ eui m, eui < 2 ^ 64 → first 0x10 = some m → Completes (.joinreq eui) s fun d =>
        d.mac.fw = c.mac.fw.erase m ∧ (eui, m.lane) ∈ d.mac.joins
          ∧ ((c.mbx.waiting.filter fun p => p.tag == 0xFFFF).length < 64 →
              ∃ p, d.mbx.waiting = c.mbx.waiting ++ [p] ∧ p.type = 0x80))
    ∧ (∀ m, first 0x12 = some m → Completes .leave s fun d =>
        d.mac.fw = c.mac.fw.erase m
          ∧ ((c.mbx.waiting.filter fun p => p.tag == 0xFFFF).length < 64 →
              ∃ p, d.mbx.waiting = c.mbx.waiting ++ [p] ∧ p.type = 0x81)
          ∧ (64 ≤ (c.mbx.waiting.filter fun p => p.tag == 0xFFFF).length →
              d.get F.MBX_MBCNT_LOST = min (c.get F.MBX_MBCNT_LOST + 1) (2 ^ F.MBX_MBCNT_LOST.width - 1)))
    ∧ (∀ m n, first 0x13 = some m → Lane.ofNum m.lane = some n → c.peerOf n m.slot = true → Completes .sleepreq s fun d =>
        let e := d.nbr m.slot;
        let turns := leAt m.body 0 2;
        let st := if (c.nbr m.slot).proto = 1 then Status.refused
          else if m.body.length < 3 ∨ 95 < leAt m.body 2 1 then Status.format else Status.ok;
        d.mac.fw = c.mac.fw.erase m
          ∧ (∃ x, (d.queue (2 * m.slot)).mpdus = (c.queue (2 * m.slot)).mpdus ++ [x] ∧ x.mtype = 0x14
              ∧ x.payload = [BitVec.ofNat 8 st.code])
          ∧ (st ≠ .ok → e = c.nbr m.slot)
          ∧ (st = .ok → turns = 0 → e.sleep = false)
          ∧ (st = .ok → turns ≠ 0 → e.sleep = true ∧ e.n = turns ∧ e.f = leAt m.body 2 1 ∧ e.drift = 0
              ∧ e.unc = c.get F.WHEEL_WAKEUNC_UNCINIT))
    ∧ (∀ m slot gen x, first 0x01 = some m → c.mac.routes.get? (leAt m.head 10 2 % 2 ^ 14) = some (slot, gen, x) →
        slot ≠ 0 → c.assigned slot = true → (c.nbr slot).gen = gen → Completes .relay s fun d =>
          d.mac.fw = c.mac.fw.erase m
            ∧ ∃ y, y ∈ (d.queue (2 * slot)).mpdus ∧ y.mtype = 0x01 ∧ y.payload = m.body ∧ y.final = leAt m.head 10 2 % 2 ^ 14
              ∧ y.orig = leAt m.head 8 2 % 2 ^ 14)
    ∧ (∀ m, first 0x01 = some m → c.mac.routes.get? (leAt m.head 10 2 % 2 ^ 14) = none → m.slot ≠ 0x3FFE →
        c.assigned m.slot = true → Completes .relay s fun d =>
          d.mac.fw = c.mac.fw.erase m
            ∧ ∃ y, (d.queue (2 * m.slot)).mpdus = (c.queue (2 * m.slot)).mpdus ++ [y]
              ∧ y.payload.head? = some (BitVec.ofNat 8 Status.noRoute.code))
    ∧ (∀ m n, first 0x20 = some m → Lane.ofNum m.lane = some n → c.peerOf n m.slot = true → Completes .tmx s fun d =>
        d.mac.fw = c.mac.fw.erase m
          ∧ match parseTmx ((c.nbr m.slot).proto == 1) m.body with
            | none => ∀ k, d.dlBank m.slot k = c.dlBank m.slot k
            | some .revoke => d.dlBank m.slot 0 = (c.dlBank m.slot 0).invalid ∧ d.dlBank m.slot 1 = .zero
            | some (.set _ sels tmv bp) =>
              (∃ is, d.dlBank m.slot 1 = .make is sels tmv bp
                ∧ d.get (F.TMAP_COUNTS1_SETSIN n) = min (c.get (F.TMAP_COUNTS1_SETSIN n) + 1) (2 ^ 16 - 1))
              ∨ ∀ k, d.dlBank m.slot k = c.dlBank m.slot k)
    ∧ (∀ m n, first 0x21 = some m → Lane.ofNum m.lane = some n → c.peerOf n m.slot = true → m.body.length = 4 →
        m.body.getD 0 0 = 0x08 → c.flag (pctlEnable (.tmap n)) = true → Completes .tmreq s fun d =>
          d.mac.fw = c.mac.fw.erase m
            ∧ ∃ b ∈ (d.lane n).tmap.builds, b.slot = m.slot ∧ b.add = (m.body.getD 1 0).toNat)

/-- NCMD (R250 to R255, R273, Table 9-2).  Completion of ASSIGN, RELEASE, SEQRST, SETCPL and SETFD. -/
def Obligations.SlotCommandsAnswerInOrder : Prop :=
  ∀ (s : State) (i : Init),
    let c := s.chip;
    let slot := c.get F.NBR_NARG_SLOT;
    let e := c.nbr slot;
    let grp := c.get F.NBR_NARG_GROUP;
    let answers := fun (d : Chip) (st : Status) (k : Nat) =>
      d.get F.NBR_NRES_STATUS = st.code ∧ d.get F.NBR_NRES_SLOT = k % 2 ^ 14 ∧ d.get F.NBR_NRES_PEND = 0
        ∧ d.get F.NBR_NRES_GEN = (d.nbr k).gen % 2 ^ 4 ∧ d.bitAt (pevt .nbr) 0 = true;
    let others := fun (d : Chip) (k : Nat) => ∀ j, j ≠ k → d.nbr j = c.nbr j;
    c.TakesWrite i .nbr 0x058 →
    (8191 < slot → ∀ cmd ∈ [Instr.assign i, .release i, .seqrst i, .setcpl i, .setfd i],
      Completes cmd s fun d => answers d .format slot ∧ d.mac = c.mac)
    ∧ (slot = 0 → ∀ cmd ∈ [Instr.release i, .seqrst i, .setcpl i, .setfd i],
      Completes cmd s fun d => answers d .format slot ∧ d.mac = c.mac)
    ∧ (1 ≤ slot → slot ≤ 8191 → e.st ≠ 1 ∨ e.gen ≠ c.get F.NBR_NARG_GEN →
      ∀ cmd ∈ [Instr.release i, .seqrst i, .setfd i] ++ (if cplBad (c.get F.NBR_NCPL_CPL) then [] else [.setcpl i]),
        Completes cmd s fun d => answers d .stale slot ∧ d.mac = c.mac)
    ∧ (cplBad (c.get F.NBR_NCPL_CPL) = true → Completes (.setcpl i) s fun d => answers d .format slot ∧ d.mac = c.mac)
    ∧ (1 ≤ slot → slot ≤ 8191 → e.st = 1 → e.gen = c.get F.NBR_NARG_GEN →
      Completes (.release i) s (fun d => answers d .ok slot ∧ (d.nbr slot).st = 2 ∧ (d.nbr slot).gen = (e.gen + 1) % 16
        ∧ d.get F.NBR_NSTATS_RELEASES = min (c.get F.NBR_NSTATS_RELEASES + 1) (2 ^ 16 - 1))
      ∧ Completes (.seqrst i) s (fun d =>
        answers d .ok slot ∧ others d slot ∧ d.nbr slot = { e with seqvalid := false, txseq := 0 })
      ∧ Completes (.setfd i) s (fun d =>
        answers d .ok slot ∧ others d slot ∧ d.nbr slot = { e with fdel := c.flag F.NBR_NARG_FD })
      ∧ (cplBad (c.get F.NBR_NCPL_CPL) = false → Completes (.setcpl i) s fun d =>
        let v := c.get F.NBR_NCPL_CPL;
        answers d .ok slot ∧ others d slot
          ∧ d.nbr slot = { e with cpl := bitField v 0 2, port := bitField v 2 2, wset := bitField v 4 8, hostCpl := true }))
    ∧ Completes (.assign i) s (fun d =>
        (c.neui = 0 ∨ c.neui = 2 ^ 64 - 1 ∨ grp = 0 → answers d .format slot ∧ d.mac = c.mac)
          ∧ (slot ≤ 8191 → c.neui ≠ 0 → c.neui ≠ 2 ^ 64 - 1 → grp ≠ 0 → slot ≠ 0 → e.st = 1 →
              answers d .refused slot ∧ d.mac = c.mac)
          ∧ (∀ st, slot ≤ 8191 → c.assignBar = some st → answers d st slot ∧ d.mac = c.mac)
          ∧ (slot ≤ 8191 → c.assignBar = none → ∃ k, (if slot = 0 then c.lowestFree = some k else k = slot)
              ∧ answers d .ok k ∧ others d k ∧ (d.nbr k).st = 1 ∧ (d.nbr k).eui = c.neui ∧ (d.nbr k).group = grp
              ∧ (d.nbr k).proto = c.get F.NBR_NARG_PROTO ∧ (d.nbr k).gen = (c.nbr k).gen
              ∧ d.get F.NBR_NSTATS_ASSIGNS = min (c.get F.NBR_NSTATS_ASSIGNS + 1) (2 ^ 16 - 1)))

/-- QUARANTINE_END, QFORCE, DMCMD, LRDATA, FADATA and FARST (R30, R230, R252, R269, R272, R273).  Completion of DM_READ, DM_WRITE,
QUARANTINE_END, QFORCE, LRDATA_READ, FADATA_READ, FADATA_WRITE and FARST. -/
def Obligations.NeighbourTablesAreReadAndWritten : Prop :=
  ∀ (s : State) (i : Init),
    let c := s.chip;
    let slot := c.get F.NBR_DMSEL_SLOT;
    let k := c.get F.NBR_DMSEL_BANK;
    let m := MapSet.ofNum (c.get (F.NBR_DMW_DATA 0) + 2 ^ 32 * c.get (F.NBR_DMW_DATA 1) + 2 ^ 64 * c.get (F.NBR_DMW_DATA 2));
    let f := c.get F.MAC_FAADDR_INDEX;
    let freed := fun (d : Chip) (x : Nat) =>
      d.nbr x = { c.nbr x with st := 0 } ∧ d.bitAt (pevt .nbr) 1 = true ∧ ∀ j, j ≠ x → d.nbr j = c.nbr j;
    (∀ x, Completes (.quarantineEnd x) s fun d =>
        ((c.nbr x).st = 2 → 17 ≤ (c.nbr x).qturns → freed d x)
          ∧ ((c.nbr x).st ≠ 2 ∨ (c.nbr x).qturns < 17 → d = c))
    ∧ (∀ x, x < 2 ^ 14 → c.TakesWrite i .nbr 0x400 → Completes (.qforce i x) s fun d =>
        ((c.nbr x).st = 2 → freed d x) ∧ ((c.nbr x).st ≠ 2 → d = c.touch i .nbr))
    ∧ (c.TakesWrite i .nbr 0x080 → Completes (.dmRead i) s fun d =>
        if (c.nbr slot).st = 1 then
          d.get F.NBR_DMRES_STATUS = Status.ok.code ∧ d.get (F.NBR_DMW_DATA 0) = (c.dlBank slot k).w0 % 2 ^ 32
            ∧ d.get (F.NBR_DMW_DATA 1) = (c.dlBank slot k).w1 % 2 ^ 32 ∧ d.get (F.NBR_DMW_DATA 2) = (c.dlBank slot k).w2 % 2 ^ 32
        else d.get F.NBR_DMRES_STATUS = Status.stale.code ∧ c.SameBut d [F.NBR_DMRES_STATUS])
    ∧ (c.TakesWrite i .nbr 0x080 → Completes (.dmWrite i) s fun d =>
        ((c.nbr slot).st ≠ 1 ∨ c.slotLane slot = none → d.get F.NBR_DMRES_STATUS = Status.stale.code ∧ d.mac = c.mac)
          ∧ (∀ n, (c.nbr slot).st = 1 → c.slotLane slot = some n → c.setOk n slot m = false →
              d.get F.NBR_DMRES_STATUS = Status.format.code ∧ d.mac = c.mac)
          ∧ (∀ n, (c.nbr slot).st = 1 → c.slotLane slot = some n → c.setOk n slot m = true →
              d.get F.NBR_DMRES_STATUS = Status.ok.code ∧ d.dlBank slot k = m
                ∧ (∀ j, j ≠ slot → d.nbr j = c.nbr j)
                ∧ (k = 1 → m.valid = true → (d.lane n).tmap.pending.get? slot = some 0)))
    ∧ (c.TakesRead i .nbr 0x094 → Completes (.lrdataRead i) s fun d =>
        let x := c.get F.NBR_LRSEL_SLOT;
        let w := c.get F.NBR_LRSEL_WORD;
        d.get F.NBR_LRSEL_WORD = (w + 1) % 16
          ∧ (x = 0 ∨ 8191 < x ∨ (c.nbr x).st = 0 ∨ c.slotLane x = none → d.rdata = 0)
          ∧ (∀ n, 1 ≤ x → x ≤ 8191 → (c.nbr x).st ≠ 0 → c.slotLane x = some n →
              if c.laneReach n = true then d.rdata = (c.laneRec n x).word w
              else d.rdata = 0xFFFFFFFF ∧ d.bitAt (pfault .nbr) 0 = true))
    ∧ (c.TakesRead i .mac 0x404 → Completes (.fadataRead i) s fun d =>
        d.rdata = c.fa f ∧ d.get F.MAC_FAADDR_INDEX = (if 319 ≤ f then 0 else f + 1) % 2 ^ F.MAC_FAADDR_INDEX.width)
    ∧ (∀ v, c.TakesWrite i .mac 0x404 → Completes (.fadataWrite i v) s fun d =>
        d.fa f = v &&& 0x7F7F ∧ (∀ j, j ≠ f → d.fa j = c.fa j)
          ∧ d.get F.MAC_FAADDR_INDEX = (if 319 ≤ f then 0 else f + 1) % 2 ^ F.MAC_FAADDR_INDEX.width)
    ∧ (c.TakesWrite i .mac 0x408 → Completes (.farst i) s fun d =>
        (∀ j, d.fa j = faReset j) ∧ c.SameBut d [] ∧ d.mac.nbr = c.mac.nbr)

/-- H2D mailboxes and services (R287 to R289, Tables 10-5 and 10-7).  Completion of GO, MAILBOX_CHECK, INFO, CFGSAVE, ROUTESET,
ROUTEGET, JOINACC, NBRDUMP and SERVICE_TIMEOUT. -/
def Obligations.MailboxRequestsAreCheckedAndServed : Prop :=
  ∀ (s : State),
    let c := s.chip;
    let w : Work := ⟨s.mem, c, []⟩;
    let posts := fun (d : Chip) (q : Request) (sts : List Status) =>
      (∃ p, d.mbx.waiting = c.mbx.waiting ++ [p] ∧ p.tag = q.tag ∧ p.type = q.type ∧ ∃ st ∈ sts, p.status = st.code)
        ∧ (∀ x ∈ d.mbx.requests, x.tag = q.tag → x.answered = true);
    (∀ i n len, n < 32 → c.TakesWrite i .mbx (0x10C + 16 * n) → Completes (.go i n len) s fun d =>
        if c.bitAt F.MBX_MBSTAT_H2DBUSY n = true then c.SameBut d (faultFlds .mbx) ∧ d.bitAt (pfault .mbx) 1 = true
        else d.bitAt F.MBX_MBSTAT_H2DBUSY n = true ∧ d.flag (F.MBX_RES_PEND n) = true
          ∧ d.get (F.MBX_LENGO_LEN n) = len % 2 ^ 24)
    ∧ (∀ i n len, 32 ≤ n → Completes (.go i n len) s fun d => d = c)
    ∧ (c.hubRuns = false → exec .mailboxCheck s = .next s)
    ∧ (∀ n, n < 32 → c.hubRuns = true → (∀ m < 32, c.bitAt F.MBX_MBSTAT_H2DBUSY m = decide (m = n)) →
      Completes .mailboxCheck s fun d =>
        let tag := c.get (F.MBX_HDR_TAG n);
        let type := c.get (F.MBX_HDR_TYPE n);
        let tags := c.mbx.requests.map (·.tag);
        d.bitAt F.MBX_MBSTAT_H2DBUSY n = false ∧ d.flag (F.MBX_RES_PEND n) = false ∧ d.get (F.MBX_RES_TAG n) = tag % 2 ^ 16
          ∧ d.bitAt (pevt .mbx) 2 = true
          ∧ ∃ st : Status, d.get (F.MBX_RES_STATUS n) = st.code
            ∧ (typeLimit type = none ∨ tag = 0xFFFF → st = .format)
            ∧ (tag ∈ tags ∨ 256 ≤ tags.length → st ≠ .ok)
            ∧ (st = .ok → ∃ q, d.mbx.requests = c.mbx.requests ++ [q] ∧ q.tag = tag ∧ q.type = type ∧ q.answered = false)
            ∧ (st ≠ .ok → d.mbx.requests = c.mbx.requests
                ∧ d.get F.MBX_MBCNT_REFUSALS = min (c.get F.MBX_MBCNT_REFUSALS + 1) (2 ^ 16 - 1)))
    ∧ (∀ tag flash, (∀ type, c.hubRuns = false ∨ c.request tag type = none) →
      ∀ cmd ∈ [Instr.info tag, .cfgsave tag flash, .routeset tag, .routeget tag, .joinacc tag, .nbrdump tag],
        exec cmd s = .next s)
    ∧ (∀ tag q, c.hubRuns = true → c.request tag 0x01 = some q →
        Answers (.info tag) s fun t => posts t.chip q [.ok, .length])
    ∧ (∀ tag q, c.hubRuns = true → c.request tag 0x06 = some q →
        Answers (.nbrdump tag) s fun t => posts t.chip q [.ok, .length] ∧ t.chip.mac = c.mac)
    ∧ (∀ tag q, c.hubRuns = true → c.request tag 0x03 = some q → Completes (.routeset tag) s fun d =>
        let es := w.routeEntries q;
        let bad := es.any fun e => !(c.assigned e.2.1 && (c.nbr e.2.1).gen == e.2.2.1);
        (bad = true → posts d q [.stale] ∧ d.mac = c.mac)
          ∧ (bad = false → posts d q [.ok]
              ∧ ∀ pre e post, es = pre ++ e :: post → (∀ x ∈ post, x.1 ≠ e.1) → d.mac.routes.get? e.1 = some e.2))
    ∧ (∀ tag q, c.hubRuns = true → c.request tag 0x04 = some q →
        (c.mac.routes.get? (leNat (w.reqBytes q 16 2)) = none → Completes (.routeget tag) s fun d => posts d q [.noRoute])
        ∧ Answers (.routeget tag) s fun t => posts t.chip q [.noRoute, .ok, .length])
    ∧ (∀ tag q, c.hubRuns = true → c.request tag 0x05 = some q → Completes (.joinacc tag) s fun d =>
        let b := w.reqBytes q 16 12;
        let eui := leAt b 0 8;
        let slot := leAt b 8 2;
        let accept := (leAt b 11 1).testBit 0;
        let fits := decide (1 ≤ slot) && decide (slot < 8192) && c.assigned slot && (c.nbr slot).gen == leAt b 10 1;
        (accept = true → fits = false → posts d q [.stale] ∧ d.mac = c.mac)
          ∧ (accept = false ∨ fits = true → (∀ j ∈ c.mac.joins, j.1 ≠ eui) → posts d q [.refused] ∧ d.mac = c.mac)
          ∧ (accept = false ∨ fits = true → (∃ j ∈ c.mac.joins, j.1 = eui) →
              posts d q [.ok] ∧ (∀ j ∈ d.mac.joins, j.1 ≠ eui)
                ∧ (accept = true → ∃ m, (d.queue (2 * slot)).mpdus = (c.queue (2 * slot)).mpdus ++ [m] ∧ m.mtype = 0x11)
                ∧ (accept = false → d.qm = c.qm)))
    ∧ (∀ tag q flash, c.hubRuns = true → c.request tag 0x02 = some q → Answers (.cfgsave tag flash) s fun t =>
        let b := leNat (w.reqBytes q 16 4);
        (8 ≤ b → posts t.chip q [.format, .refused])
          ∧ (b < 8 → b ≠ 1 → flash = .done → posts t.chip q [.ok])
          ∧ (b < 8 → b ≠ 1 → flash = .busy → posts t.chip q [.busy])
          ∧ (b < 8 → b ≠ 1 → flash = .failed ∨ flash = .late → posts t.chip q [.timeout] ∧ t.chip.bitAt (pfault .xspi) 0 = true))
    ∧ (∀ tag, match c.mbx.requests.find? fun q => q.tag == tag && !q.answered with
        | some q => if c.hubRuns then Completes (.serviceTimeout tag) s fun d => posts d q [.timeout]
            else exec (.serviceTimeout tag) s = .next s
        | none => exec (.serviceTimeout tag) s = .next s)

/-- D2H mailboxes and doorbells (R289 to R291, Table 10-8).  Completion of D2H_POST, D2HFULL_CLEAR, H2D_DOORBELL_SET,
H2D_DOORBELL_SERVE, D2H_DOORBELL_SET and D2H_DOORBELL_CLEAR. -/
def Obligations.RepliesAndDoorbells : Prop :=
  ∀ (s : State),
    let c := s.chip;
    let base := c.get F.MBX_D2HBASE_BASE;
    let sp := locSpace (base.testBit 0);
    let at' := fun (n : Nat) => base / 1024 * 1024 + 32 * n;
    let open' := fun (n : Nat) => n < 32 ∧ c.bitAt F.MBX_D2HFULL_FULL n = false ∧ c.mbx.err = false ∧ c.mbx.stopped = false
      ∧ c.hubRuns = true;
    (∀ n, c.mbx.waiting = [] ∨ ¬ open' n → exec (.d2hPost n) s = .next s)
    ∧ (∀ n p rest, c.mbx.waiting = p :: rest → open' n → Answers (.d2hPost n) s fun t =>
        t.chip.mbx.waiting = rest ∧ t.chip.mbx.seq = c.mbx.seq + 1 ∧ t.chip.mbx.full.get? n = some p.tag
          ∧ t.chip.bitAt F.MBX_D2HFULL_FULL n = true ∧ t.chip.bitAt (pevt .mbx) 1 = true
          ∧ (at' n + 32 ≤ sp.top → t.mem.readBytes sp (at' n) 32 = p.image (c.mbx.seq + 1))
          ∧ (∀ sp' a, sp' ≠ sp ∨ a < at' n ∨ at' n + 32 ≤ a → t.mem.read sp' a = s.mem.read sp' a))
    ∧ (∀ i mask, c.TakesWrite i .mbx 0x06C → Completes (.d2hfullClear i mask) s fun d =>
        (∀ b < 32, d.bitAt F.MBX_D2HFULL_FULL b = (c.bitAt F.MBX_D2HFULL_FULL b && !mask.testBit b))
          ∧ (∀ q ∈ c.mbx.requests, q.answered = false → q ∈ d.mbx.requests)
          ∧ (∀ b < 32, mask.testBit b = true → c.bitAt F.MBX_D2HFULL_FULL b = true → ∀ tag, c.mbx.full.get? b = some tag →
              ∀ q ∈ d.mbx.requests, q.answered = true → q.tag ≠ tag)
          ∧ d.mbx.waiting = c.mbx.waiting)
    ∧ (∀ i high mask, c.TakesWrite i .mbx (if high then 0x044 else 0x040) → Completes (.h2dDoorbellSet i high mask) s fun d =>
        let f := if high then F.MBX_H2DPENDH_PEND else F.MBX_H2DPENDL_PEND;
        let wk := if high then F.MBX_H2DWAKEH_WAKE else F.MBX_H2DWAKEL_WAKE;
        (∀ b < 32, d.bitAt f b = (c.bitAt f b || mask.testBit b)) ∧ c.SameBut d [f]
          ∧ (c.power = .standby → (mask % 2 ^ 32) &&& c.get wk ≠ 0 → d.pins.wake = some (c.pins.wake.getD 1))
          ∧ (c.power ≠ .standby → d.pins = c.pins))
    ∧ (∀ b again, b < 64 → Completes (.h2dDoorbellServe b again) s fun d =>
        let f := if b < 32 then F.MBX_H2DPENDL_PEND else F.MBX_H2DPENDH_PEND;
        (c.hubRuns = false ∨ again = true → d = c)
          ∧ (c.hubRuns = true → again = false → d.bitAt f (b % 32) = false ∧ c.SameBut d [f]
              ∧ ∀ k < 32, k ≠ b % 32 → d.bitAt f k = c.bitAt f k))
    ∧ (∀ b, Completes (.d2hDoorbellSet b) s fun d =>
        let f := if b < 32 then F.MBX_D2HL_DB else F.MBX_D2HH_DB;
        (c.hubRuns = false ∨ 64 ≤ b → d = c)
          ∧ (c.hubRuns = true → b < 64 → d.bitAt f (b % 32) = true ∧ d.bitAt (pevt .mbx) 0 = true
              ∧ ∀ k < 32, k ≠ b % 32 → d.bitAt f k = c.bitAt f k))
    ∧ (∀ i high mask, c.TakesWrite i .mbx (if high then 0x054 else 0x050) → Completes (.d2hDoorbellClear i high mask) s fun d =>
        let f := if high then F.MBX_D2HH_DB else F.MBX_D2HL_DB;
        (∀ b < 32, d.bitAt f b = (c.bitAt f b && !mask.testBit b)) ∧ c.SameBut d [f])

/-- References and states of the time base (R325, R326, R328 to R331, Table 12-1).  Completion of PPS_EDGE, PPSMISS, STEER, SET,
STEERTO, SLEW_END, HOLDLIM and SRC_WRITE. -/
def Obligations.ReferencesMoveTheTimeBase : Prop :=
  ∀ (s : State),
    let c := s.chip;
    let st := c.get F.TIME_TSTAT_STATE;
    let src := c.get F.TIME_TCFG_SRC;
    let lost := fun (x d : Chip) =>
      d.flag F.TIME_TSTAT_REFOK = false ∧ d.time.quals = 0 ∧ d.time.misses = 0 ∧ d.time.lastEdge = none ∧ d.tick = x.tick
        ∧ (st = 1 → d.get F.TIME_TSTAT_STATE = 2 ∧ d.time.b0 = 50 ∧ d.time.slew = 0 ∧ d.time.holdFrom = x.tick)
        ∧ (st = 3 → d.get F.TIME_TSTAT_STATE = 2 ∧ d.time.b0 = ceilDiv x.time.slew.natAbs nsUnits ∧ d.time.slew = 0
            ∧ d.time.holdFrom = x.tick)
        ∧ (st ≠ 1 → st ≠ 3 → d.get F.TIME_TSTAT_STATE = st);
    let qualified := fun (d : Chip) (e : Int) =>
      d.flag F.TIME_TSTAT_REFOK = true
        ∧ (st = 0 → d.get F.TIME_TSTAT_STATE = 1 ∧ d.time.step = some (.atSecond e))
        ∧ (st = 2 → e.natAbs < 10 ^ 6 * nsUnits → d.get F.TIME_TSTAT_STATE = 3 ∧ d.time.slew = e)
        ∧ (st = 2 → 10 ^ 6 * nsUnits ≤ e.natAbs → d.get F.TIME_TSTAT_STATE = 1 ∧ d.time.step = some (.atSecond e));
    (∀ t falling, ∃ x : Chip, x = c.advanceTo t ∧ Completes (.ppsEdge t falling) s fun d =>
        let e := toWholeSecond x.edgeScale;
        let near := e.natAbs ≤ 100 * c.get F.TIME_LOOPCFG_PPSWIN * nsUnits;
        let rejected := d.time.quals = 0 ∧ d.bitAt (pevt .time) 3 = true ∧ d.get F.TIME_TSTAT_STATE = st
          ∧ d.get F.TIME_COUNTS_PPSREJ = min (c.get F.TIME_COUNTS_PPSREJ + 1) (2 ^ 16 - 1);
        (src ≠ 1 ∨ c.flag F.TIME_TCFG_PPSPOL ≠ falling → d = x)
          ∧ (src = 1 → c.flag F.TIME_TCFG_PPSPOL = falling →
              (st = 1 → near → d.time.slew = e ∧ d.time.lastEdge = some x.tick ∧ d.time.misses = 0
                  ∧ d.get F.TIME_TSTAT_STATE = 1)
                ∧ (st = 1 → ¬ near → rejected)
                ∧ (st ≠ 1 → x.edgeInWindow = false → rejected)
                ∧ (st ≠ 1 → x.edgeInWindow = true → x.time.quals + 1 ≠ c.get F.TIME_LOOPCFG_QUAL →
                    d.time.quals = x.time.quals + 1 ∧ d.time.lastEdge = some x.tick ∧ d.get F.TIME_TSTAT_STATE = st)
                ∧ (st ≠ 1 → x.edgeInWindow = true → x.time.quals + 1 = c.get F.TIME_LOOPCFG_QUAL → qualified d e)))
    ∧ (src ≠ 1 ∨ c.time.lastEdge = none → Completes .ppsmiss s fun d => d = c)
    ∧ (∀ t, src = 1 → c.time.lastEdge = some t → Completes .ppsmiss s fun d =>
        let x := c.advanceTo (t + (c.time.misses + 1) * tickHz + c.get F.TIME_LOOPCFG_PPSWIN * 1024 / 100 + 1)
        d.get F.TIME_COUNTS_PPSMISS = min (c.get F.TIME_COUNTS_PPSMISS + 1) (2 ^ 16 - 1)
          ∧ d.bitAt (pevt .time) 2 = true ∧ (1 ≤ c.time.misses → lost x d)
          ∧ (c.time.misses = 0 → d.time.misses = 1 ∧ d.time.lastEdge = some t ∧ d.tick = x.tick ∧ d.get F.TIME_TSTAT_STATE = st))
    ∧ (∀ i, c.TakesWrite i .time 0x088 → Completes (.steer i) s fun d =>
        let e : Int := c.getInt F.TIME_STEERPH_NS * (nsUnits : Int);
        (src ≠ 2 → d.get F.TIME_TRES_STATUS = Status.refused.code ∧ d.time = c.time)
          ∧ (src = 2 → d.get F.TIME_TRES_STATUS = Status.ok.code ∧ d.time.hostFr = c.getInt F.TIME_STEERFR_FR
              ∧ d.time.lastEdge = some c.tick
              ∧ (st = 1 ∨ st = 3 → d.time.slew = e ∧ d.get F.TIME_TSTAT_STATE = st) ∧ qualified d e))
    ∧ (∀ i, c.TakesWrite i .time 0x088 → Completes (.timeSet i) s fun d =>
        let at' := c.get F.TIME_TSETTICK_TICK;
        let bad := at' < c.tick + 1 ∨ c.tick + tickHz < at';
        (bad → d.get F.TIME_TRES_STATUS = Status.format.code ∧ d.time = c.time)
          ∧ (¬ bad → src = 1 → st = 1 ∨ st = 3 → d.get F.TIME_TRES_STATUS = Status.refused.code ∧ d.time = c.time)
          ∧ (¬ bad → src ≠ 1 ∨ (st ≠ 1 ∧ st ≠ 3) → d.get F.TIME_TRES_STATUS = Status.ok.code
              ∧ d.time.step = some (.atTick at' c.tsetValue) ∧ d.time.slew = 0
              ∧ d.get F.TIME_TSTAT_STATE = if src = 2 then 1 else 0))
    ∧ (src ≠ 2 ∨ c.time.lastEdge = none → Completes .steerto s fun d => d = c)
    ∧ (∀ t, src = 2 → c.time.lastEdge = some t → Completes .steerto s fun d =>
        d.bitAt (pevt .time) 7 = true ∧ lost (c.advanceTo (t + c.get F.TIME_HOSTCFG_TO * tickHz)) d)
    ∧ Completes .slewEnd s (fun d =>
        if st = 3 ∧ c.time.slew.natAbs ≤ 50 * nsUnits then
          d.get F.TIME_TSTAT_STATE = 1 ∧ d.time.slew = 0 ∧ d.flag F.TIME_TSTAT_SLEWING = false
        else d = c)
    ∧ Completes .holdlim s (fun d =>
        (st ≠ 2 → d = c)
          ∧ (st = 2 → d.get F.TIME_TSTAT_STATE = 0 ∧ d.bitAt (pevt .time) 6 = true ∧ d.get F.TIME_DRIFT_D = c.get F.TIME_DRIFT_D
              ∧ d.tick = max c.tick (c.time.holdFrom + c.get F.TIME_HOLDCFG_HOLDLIM * 3600 * tickHz)))
    ∧ (∀ i v, c.TakesWrite i .time 0x040 → Completes (.srcWrite i v) s fun d =>
        (v % 4 = 3 → d.get F.TIME_TCFG_SRC = src ∧ d.get F.TIME_TSTAT_STATE = st ∧ d.time = c.time)
          ∧ (v % 4 ≠ 3 → d.get F.TIME_TCFG_SRC = v % 4 ∧ d.get F.TIME_TSTAT_STATE = 0 ∧ d.time.slew = 0
              ∧ d.time.quals = 0 ∧ d.flag F.TIME_TSTAT_REFOK = false))

/-- Steps, drift, TPULSE and stamps (R322, R323, R326, R327, R330, R332, R333, R335).  Completion of DRIFT_UPDATE, STEP, TPULSE,
TIME_EVT, EVTTICKL_READ and TICK_READ. -/
def Obligations.StepsPulsesAndStamps : Prop :=
  ∀ (s : State),
    let c := s.chip;
    let stepped := fun (d : Chip) =>
      d.time.step = none ∧ d.flag F.TIME_TSTAT_TVALID = true ∧ d.bitAt (pevt .time) 1 = true
        ∧ d.get F.TIME_COUNTS2_STEPS = min (c.get F.TIME_COUNTS2_STEPS + 1) (2 ^ 16 - 1);
    (c.time.step = none → Completes .step s fun d => d = c)
    ∧ (∀ t v, c.time.step = some (.atTick t v) → Completes .step s fun d =>
        stepped d ∧ d.time.scale = v ∧ d.tick = max c.tick t ∧ d.get F.TIME_STEPSEC_SEC = v / secUnits % 2 ^ 32)
    ∧ (∀ e, c.time.step = some (.atSecond e) → Completes .step s fun d =>
        let next := (c.time.scale / secUnits + 1) * secUnits;
        let k := ticksFor c.drift c.time.hostFr c.time.slew c.slewMax ((next : Int) - c.time.scale);
        stepped d ∧ d.tick = c.tick + k ∧ d.time.scale = (((c.advance k).time.scale : Int) + e).toNat)
    ∧ (∀ f, Completes (.driftUpdate f) s fun d =>
        let dk := c.get F.TIME_LOOPCFG_DK;
        (c.get F.TIME_TSTAT_STATE ≠ 1 → d = c)
          ∧ (c.get F.TIME_TSTAT_STATE = 1 → d.get F.TIME_DRIFT_D = ofSigned 32 (c.drift + (f - c.drift) / 2 ^ dk)
              ∧ d.time.uncert = max (10 * c.get F.TIME_HOLDCFG_DUMIN) (d.time.dev / 2 ^ 16)
              ∧ d.time.scale = c.time.scale ∧ c.SameBut d [F.TIME_DRIFT_D]))
    ∧ (∀ k, Completes (.tpulse k) s fun d =>
        let x := if k = 0 then c.loadTpcfg else c;
        let due := c.flag F.TIME_TPCFG_EN = true ∧ k < x.time.tpFreq
          ∧ (c.get F.TIME_TSTAT_STATE ≠ 0 ∨ c.flag F.TIME_TCFG_FREEPULSE = true);
        let early := ∃ t, c.time.pulseStart = some t ∧ (d.tick - t) * 625 * 2 * x.time.tpFreq < 64 * 10 ^ 9;
        (¬ due → d = x)
          ∧ (due → c.tick ≤ d.tick)
          ∧ (due → early → d.get F.TIME_COUNTS2_TPSKIP = min (c.get F.TIME_COUNTS2_TPSKIP + 1) (2 ^ 16 - 1)
              ∧ d.time.pulseStart = c.time.pulseStart ∧ d.out = c.out)
          ∧ (due → ¬ early → d.time.pulseStart = some d.tick ∧ d.out = .tpulse :: c.out
              ∧ d.get F.TIME_COUNTS2_TPSKIP = c.get F.TIME_COUNTS2_TPSKIP))
    ∧ (∀ t falling ns, ∃ x : Chip, x = c.advanceTo t ∧ Completes (.timeEvt t falling ns) s fun d =>
        let taken := evtSelected (c.get F.TIME_TCFG_EVTEDGE) falling = true ∧ 100 ≤ ns;
        (¬ taken → d = x)
          ∧ (taken → 16 ≤ x.time.events.length → d.time.events = x.time.events ∧ d.bitAt (pfault .time) 0 = true
              ∧ d.bitAt (pevt .time) 5 = true
              ∧ d.get F.TIME_EVTSTAT_OVF = min (c.get F.TIME_EVTSTAT_OVF + 1) (2 ^ 16 - 1))
          ∧ (taken → x.time.events.length < 16 → d.bitAt (pevt .time) 4 = true
              ∧ d.time.events = x.time.events ++ [⟨x.tick, (x.taiAt x.tick).1, (x.taiAt x.tick).2, falling⟩]))
    ∧ (∀ i, c.TakesRead i .time 0x0B0 → Completes (.evtticklRead i) s fun d =>
        match c.time.events with
        | [] => d.rdata = 0 ∧ d.flag F.TIME_EVTNS_VALID = false ∧ d.time = c.time
        | e :: rest => d.rdata = e.tick % 2 ^ 32 ∧ d.time.events = rest ∧ d.flag F.TIME_EVTNS_VALID = true
            ∧ d.flag F.TIME_EVTNS_EDGE = e.falling ∧ d.get F.TIME_EVTTICKH_TICK = e.tick / 2 ^ 32 % 2 ^ 32
            ∧ d.get F.TIME_EVTSECL_SEC = e.sec % 2 ^ 32 ∧ d.get F.TIME_EVTSECH_SEC = e.sec / 2 ^ 32 % 2 ^ 16
            ∧ d.get F.TIME_EVTNS_NS = e.ns % 2 ^ 30)
    ∧ (∀ i, c.TakesRead i .time 0x048 → Completes (.tickRead i) s fun d =>
        let tai := taiOf c.time.scale;
        d.rdata = c.tick % 2 ^ 32 ∧ d.get F.TIME_SNAPSECL_SEC = tai.1 % 2 ^ 32 ∧ d.get F.TIME_SNAPSECH_SEC = tai.1 / 2 ^ 32 % 2 ^ 16
          ∧ d.get F.TIME_SNAPNS_NS = tai.2 % 2 ^ 30 ∧ d.time = c.time ∧ d.tick = c.tick)

/-- SLIP_AGE and SLCMD (R220, R222, R451, Tables 7-4 and 7-6).  Completion of SLIP_AGE, FLUSH and FLUSHSLOT. -/
def Obligations.SlipEntriesAgeAndAreFlushed : Prop :=
  ∀ (s : State) (n : Lane),
    let c := s.chip;
    let idle := (c.lane n).rx.dec.busy = [];
    let since := fun (e : SlipEntry) => match c.rxNow n with
      | some r => if e.slot ∈ r.users.map (·.slot) then r.turn else c.turn n
      | none => c.turn n;
    let old := fun (e : SlipEntry) => c.get (F.SLIP_SLCFG_AGE n) < (since e + 2 ^ 32 - e.uturn) % 2 ^ 32
      ∧ turnBefore (since e) e.uturn = false;
    Completes (.slipAge n) s (fun d =>
        (∀ e, e ∈ d.slipEntries n ↔ e ∈ c.slipEntries n ∧ ¬ old e)
          ∧ d.get (F.SLIP_DISC1_AGED n) =
              min (c.get (F.SLIP_DISC1_AGED n) + ((c.slipEntries n).length - (d.slipEntries n).length)) (2 ^ 16 - 1))
    ∧ (∀ i slot, slot < 2 ^ 14 → c.TakesWrite i (.slip n) 0x060 → c.get (F.SLIP_SLRES_STATUS n) = Status.busy.code →
        ∀ cmd ∈ [Instr.flush i n, .flushslot i n slot],
          Completes cmd s fun d => d = (c.touch i (.slip n)).refuse i ((Page.slip n).base + 0x060) 8 4 true)
    ∧ (∀ i slot, slot < 2 ^ 14 → c.TakesWrite i (.slip n) 0x060 → c.get (F.SLIP_SLRES_STATUS n) ≠ Status.busy.code →
        Completes (.flush i n) s (fun d =>
          (idle → d.slipEntries n = [] ∧ d.get (F.SLIP_SLRES_STATUS n) = Status.ok.code)
            ∧ (¬ idle → d.slipEntries n = c.slipEntries n ∧ d.get (F.SLIP_SLRES_STATUS n) = Status.busy.code
                ∧ ⟨none, false, true⟩ ∈ (d.lane n).rx.slip.waiting))
        ∧ (slot = 0 ∨ 0x2000 ≤ slot → Completes (.flushslot i n slot) s fun d =>
            d.get (F.SLIP_SLRES_STATUS n) = Status.format.code ∧ d.slipEntries n = c.slipEntries n)
        ∧ (1 ≤ slot → slot < 0x2000 → Completes (.flushslot i n slot) s fun d =>
            (idle → (∀ e, e ∈ d.slipEntries n ↔ e ∈ c.slipEntries n ∧ e.slot ≠ slot)
                ∧ d.get (F.SLIP_SLRES_STATUS n) = Status.ok.code)
              ∧ (¬ idle → d.slipEntries n = c.slipEntries n ∧ d.get (F.SLIP_SLRES_STATUS n) = Status.busy.code
                  ∧ ⟨some slot, false, true⟩ ∈ (d.lane n).rx.slip.waiting)))

/-- Wake windows (R100, R101, R104).  Completion of WAKE_REQUEST, WAKEMISS and WAKE_WINDOW_OPEN. -/
def Obligations.WakeWindowsAndRequests : Prop :=
  ∀ (s : State),
    let c := s.chip;
    let sleeps := fun (slot : Nat) => slot ≠ 0 ∧ (c.nbr slot).st = 1 ∧ (c.nbr slot).sleep = true;
    (∀ slot, Completes (.wakeWindowOpen slot) s fun d =>
        (¬ sleeps slot → d = c)
          ∧ (sleeps slot → slot ∈ d.wheel.windows ∧ d.tick = max c.tick (c.wakeWindow (c.nbr slot)).1.toNat
              ∧ c.SameBut d [] ∧ d.mac = c.mac))
    ∧ (∀ slot, Completes (.wakemiss slot) s fun d =>
        let e := c.nbr slot;
        let until' := (c.wakeWindow e).2 + 1;
        (¬ sleeps slot → d = c)
          ∧ (sleeps slot → d.nbr slot = { e with
                tref := (c.wakeExpected e).toNat % 2 ^ 64, unc := min (2 * e.unc) 65535, wmiss := e.wmiss + 1 }
              ∧ d.tick = max c.tick until'.toNat
              ∧ (∀ k, k ≠ slot → d.nbr k = c.nbr k) ∧ slot ∉ d.wheel.windows
              ∧ d.get F.WHEEL_COUNTS_WAKEMISS =
                  min (c.get F.WHEEL_COUNTS_WAKEMISS + 1) (2 ^ F.WHEEL_COUNTS_WAKEMISS.width - 1)
              ∧ (c.get F.WHEEL_WAKECFG_WMISS ≤ e.wmiss + 1 → d.bitAt (pevt .wheel) 6 = true)))
    ∧ (∀ n lost h wt wf, c.rxNow n = none → Completes (.wakeRequest n lost h wt wf) s fun d => d = c)
    ∧ (∀ n lost h wt wf r, c.rxNow n = some r → (∀ fc x y z w, r.kind = .frame fc → fc.body ≠ .wake x y z w) →
        Completes (.wakeRequest n lost h wt wf) s fun d => d = c)
    ∧ (∀ n lost h wt wf r fc x y z w, c.rxNow n = some r → r.kind = .frame fc → fc.body = .wake x y z w →
        Completes (.wakeRequest n lost h wt wf) s fun d =>
          d.rxNow n = (c.lane n).rx.found
            ∧ (fc.stid ∈ c.wheel.windows → (c.nbr fc.stid).sleep = true →
                (c.wakeWindow (c.nbr fc.stid)).1 ≤ r.tp → (r.tp : Int) ≤ (c.wakeWindow (c.nbr fc.stid)).2 →
                let t0 := r.tend + ackGap false
                (d.nbr fc.stid).tref = r.tp ∧ (d.nbr fc.stid).wmiss = 0 ∧ fc.stid ∉ d.wheel.windows
                  ∧ (d.wakeClash n t0 (t0 + headTicks + rampTicks) = false →
                      ∃ f, (d.lane n).tx.onWay = (c.lane n).tx.onWay ++ [f] ∧ f.t0 = t0 ∧ f.fc.dtid = fc.stid
                        ∧ ∃ turn facet, f.fc.body = .wake false 0 turn facet)))

/-- The measurement front end (R338 to R359, R444).  Completion of ZERO_CROSSING, ZCLOSS, BLANK_PIN, BLANK_END, PRIME_END,
GSTAGE_WRITE, DIETEMP_SAMPLE, CDATA_READ and GLOST_SAMPLE. -/
def Obligations.MeasurementSamplesAndMarks : Prop :=
  ∀ (s : State) (n : Lane),
    let c := s.chip;
    let runs := c.laneRuns n = true;
    let m := c.meas.get n;
    (¬ runs → ∀ p b ch mods tp,
      ∀ cmd ∈ [Instr.primeEnd n b, .zeroCrossing n p, .zcloss n, .glostSample n ch mods, .dietempSample n tp],
        Completes cmd s fun d => d = c)
    ∧ (¬ runs → ∀ high, Completes (.blankPin n high) s fun d =>
        d = { c with meas := c.meas.set n { m with blankPin := high, pinAt := c.tick } })
    ∧ (runs → ∀ high, Completes (.blankPin n high) s fun d =>
        let pin := high != c.flag (F.MEAS_MCFG_BLKPOL n);
        (d.meas.get n).blankPin = high
          ∧ (m.blanked = false → (pin = true ∧ c.flag (F.MEAS_MCFG_PINBLANK n) = true)
                ∨ (m.transmitting = true ∧ c.flag (F.MEAS_MCFG_TXBLANK n) = true) →
              (d.meas.get n).blanked = true ∧ d.bitAt (pevt (.meas n)) 0 = true)
          ∧ (m.blanked = true → (d.meas.get n).blanked = true))
    ∧ Completes (.blankEnd n) s (fun d =>
        if m.blanked = true ∧ (m.blankPin = c.flag (F.MEAS_MCFG_BLKPOL n) ∨ c.flag (F.MEAS_MCFG_PINBLANK n) = false) then
          (d.meas.get n).blanked = false ∧ d.tick = max c.tick (max m.pinAt m.txUntil + c.get (F.MEAS_BLEXT_EXT n) * 1024)
            ∧ (d.meas.get n).glostFrom = d.tick ∧ (d.meas.get n).bisqueFrom = d.tick ∧ d.bitAt (pevt (.meas n)) 0 = true
            ∧ ∀ k < 6, d.flag (F.MEAS_GLOST_PRIME n k) = true ∧ d.flag (F.MEAS_BISQUE_PRIME n k) = true
        else d = c)
    ∧ (runs → m.blanked = false → ∀ k < 6,
        let g := c.get (F.MEAS_MCFG_GSTAGE n)
        Completes (.primeEnd n true) s (fun d => d.flag (F.MEAS_BISQUE_PRIME n k) = false
          ∧ d.flag (F.MEAS_GLOST_PRIME n k) = c.flag (F.MEAS_GLOST_PRIME n k)
          ∧ d.tick = max c.tick (m.bisqueFrom + spanTicks true g))
        ∧ Completes (.primeEnd n false) s (fun d => d.flag (F.MEAS_GLOST_PRIME n k) = false
          ∧ d.flag (F.MEAS_BISQUE_PRIME n k) = c.flag (F.MEAS_BISQUE_PRIME n k)
          ∧ d.tick = max c.tick (m.glostFrom + spanTicks false g)))
    ∧ (∀ i v, c.TakesWrite i (.meas n) 0x040 → Completes (.gstageWrite i n v) s fun d =>
        d.get (F.MEAS_MCFG_GSTAGE n) = (if 2 ≤ v % 8 ∧ v % 8 ≤ 5 then v % 8 else c.get (F.MEAS_MCFG_GSTAGE n))
          ∧ (∀ k < 6, d.flag (F.MEAS_GLOST_PRIME n k) = true) ∧ d.get (F.LINEAR_LSTAT_PRIME n) = 63)
    ∧ (runs → ∀ ch < 6, ∀ mods, m.blanked = true ∨ c.blankCause n = true →
        Completes (.glostSample n ch mods) s fun d =>
          d.get (F.MEAS_GLOST_VALUE n ch) = c.get (F.MEAS_GLOST_VALUE n ch) ∧ d.flag (F.MEAS_GLOST_BLK n ch) = true
            ∧ d.flag (F.MEAS_BISQUE_BLK n ch) = true)
    ∧ (runs → ∀ ch < 6, ∀ mods, m.blanked = false → c.blankCause n = false →
        Completes (.glostSample n ch mods) s fun d =>
          let k := m.chan ch;
          let b := sincOut ((mods.reverse ++ k.mods).take 190);
          let g := (runStages (c.get (F.MEAS_MCFG_GSTAGE n)) (k.outs + 1) 1 b k.stages).2;
          let bad := (if b.2 then 1 else 0) + (if g.any Prod.snd then 1 else 0);
          d.flag (F.MEAS_BISQUE_BLK n ch) = false ∧ d.flag (F.MEAS_BISQUE_OVR n ch) = b.2
            ∧ (c.flag (F.MEAS_BISQUE_PRIME n ch) = true → d.get (F.MEAS_BISQUE_VALUE n ch) = c.get (F.MEAS_BISQUE_VALUE n ch))
            ∧ (c.flag (F.MEAS_BISQUE_PRIME n ch) = false → b.2 = false →
                d.get (F.MEAS_BISQUE_VALUE n ch) = ofSigned 16 (clampInt (-(2 ^ 15)) (2 ^ 15 - 1) (roundEven b.1 256)))
            ∧ (0 < bad → d.get (F.MEAS_OVRCNT_COUNT n) = min (c.get (F.MEAS_OVRCNT_COUNT n) + bad) (2 ^ 32 - 1)
                ∧ d.bitAt (pfault (.meas n)) 0 = true)
            ∧ (g = none → d.get (F.MEAS_GLOST_VALUE n ch) = c.get (F.MEAS_GLOST_VALUE n ch))
            ∧ (∀ y, g = some y →
                d.flag (F.MEAS_GLOST_BLK n ch) = false ∧ d.flag (F.MEAS_GLOST_OVR n ch) = y.2
                ∧ (c.flag (F.MEAS_GLOST_PRIME n ch) = true →
                    d.get (F.MEAS_GLOST_VALUE n ch) = c.get (F.MEAS_GLOST_VALUE n ch))
                ∧ (c.flag (F.MEAS_GLOST_PRIME n ch) = false → y.2 = false → c.get (F.MEAS_MCFG_DCCORN n) = 0 →
                    d.get (F.MEAS_GLOST_VALUE n ch) = ofSigned 24 (clamp24 y.1)
                      ∧ (ch < 4 → d.get (F.LINEAR_ENG_E n ch) =
                          let z := if c.bitAt (F.LINEAR_LINOVR_RAW n) ch then clamp24 y.1 else c.polyValue n ch (clamp24 y.1)
                          ofSigned 32 (clampInt (-(2 ^ 31)) (2 ^ 31 - 1)
                            (roundEven (z * c.getInt (F.LINEAR_UGAIN_GAIN n ch)) (2 ^ 24) + c.getInt (F.LINEAR_UOFS_OFS n ch)))))))
    ∧ (runs → ∀ p, (m.phase p).found = none → Completes (.zeroCrossing n p) s fun d => d = c)
    ∧ (runs → ∀ p t0 x0 x1 mk, (m.phase p).found = some (t0, x0, x1, mk) →
        Completes (.zeroCrossing n p) s fun d =>
          let t := (c.crossingTick n p x0 x1 t0).toNat;
          ((d.meas.get n).phase p).found = none
            ∧ (mk = true → d.get (F.MEAS_ZCCNT_DISC n) = min (c.get (F.MEAS_ZCCNT_DISC n) + 1) (2 ^ 16 - 1)
                ∧ d.get (F.MEAS_ZCTICK_TICK n p.idx) = c.get (F.MEAS_ZCTICK_TICK n p.idx))
            ∧ (mk = false → d.get (F.MEAS_ZCCNT_CROSS n) = min (c.get (F.MEAS_ZCCNT_CROSS n) + 1) (2 ^ 16 - 1)
                ∧ ((d.meas.get n).phase p).last = some t ∧ d.get (F.MEAS_ZCTICK_TICK n p.idx) = t % 2 ^ 64)
            ∧ (mk = true ∨ p ≠ c.refPhase n → (d.meas.get n).zcHeard = m.zcHeard
                ∧ d.get (F.LINEAR_RMSSTAT_CYCLE n) = c.get (F.LINEAR_RMSSTAT_CYCLE n))
            ∧ (mk = false → p = c.refPhase n → (d.meas.get n).zcHeard = m.zcHeard ++ [t]
                ∧ d.get (F.LINEAR_RMSSTAT_CYCLE n) = (c.get (F.LINEAR_RMSSTAT_CYCLE n) + 1) % 2 ^ 16))
    ∧ (runs → Completes (.zcloss n) s fun d => d.bitAt (pevt (.meas n)) 1 = true ∧ d.bitAt (pfault (.meas n)) 2 = true)
    ∧ (runs → ∀ tp, Completes (.dietempSample n tp) s fun d =>
        let t := tp + (c.tempTrim n).getD 0;
        d.get (F.MEAS_DIETEMP_TEMP n) = ofSigned 16 t ∧ d.flag (F.MEAS_DIETEMP_VALID n) = (c.tempTrim n).isSome
          ∧ (d.meas.get n).hot = (if 12500 < t then true else if t < 11500 then false else m.hot))
    ∧ (∀ i, c.TakesRead i (.linear n) 0x404 → Completes (.cdataRead i n) s fun d =>
        let k := c.get (F.LINEAR_CSEL_COEF n);
        d.rdata = (match c.polyCoef n (c.get (F.LINEAR_CSEL_CHAN n)) k with
            | some z => ofSigned 32 z
            | none => if k = 3 then 2 ^ 28 else 0)
          ∧ d.get (F.LINEAR_CSEL_COEF n) = (if 11 ≤ k then 0 else k + 1) % 2 ^ 4)

/-- The boot ROM and lane loads (R365, R366, R368, R369, R372, R389).  Completion of ROM_BOOT, COPY_DONE, CHECK_DONE, RECOVERY_GO,
LANE_LOAD and LANE_LOAD_COMPLETE. -/
def Obligations.RomBootsOrRecovers : Prop :=
  ∀ (s : State),
    let c := s.chip;
    let off := c.stopped = true ∨ c.power = .reset ∨ c.power = .standby;
    let cause := fun (slot : Nat) => if slot = 0 then F.BOOT_BCAUSE_CODEA else F.BOOT_BCAUSE_CODEB;
    (∀ size clk octal, off ∨ (c.boot.rom ≠ .select ∧ c.boot.romDue = false) → exec (.romBoot size clk octal) s = .next s)
    ∧ (∀ size clk octal slot rest, ¬ off → c.boot.rom = .select → c.boot.romDue = false →
        c.boot.queue = some (slot :: rest) → c.headerCode (s.mem.readBytes .flash (slotAt slot) 512) = none →
        Completes (.romBoot size clk octal) s fun d =>
          d.boot.rom = .copy ∧ d.boot.slot = slot ∧ d.boot.queue = some rest
            ∧ d.flag F.CLK_CLKSTAT_REFOK = true ∧ d.flag F.CLK_CLKSTAT_HUBPLL = true ∧ d.flag F.CLK_CLKSTAT_LINKPLL = true)
    ∧ (∀ size clk octal slot code, ¬ off → c.boot.rom = .select → c.boot.romDue = false → c.boot.activating = none →
        c.boot.queue = some [slot] → c.headerCode (s.mem.readBytes .flash (slotAt slot) 512) = some code →
        Answers (.romBoot size clk octal) s fun t =>
          t.chip.boot.rom = .recovery ∧ t.chip.get F.BOOT_BSTAT_STAGE = 1 ∧ t.chip.get (cause slot) = code % 16
            ∧ t.chip.pins.noBoot = true ∧ t.chip.bitAt (pfault .boot) 4 = true)
    ∧ (c.boot.rom ≠ .copy ∨ c.stopped = true → exec .copyDone s = .next s)
    ∧ (c.boot.rom = .copy → c.stopped = false → Answers .copyDone s fun t =>
        let len := leAt (s.mem.readBytes .flash (slotAt c.boot.slot) 512) 12 4;
        t.chip = { c with boot := { c.boot with
            rom := .check, trailer := s.mem.readBytes .flash (slotAt c.boot.slot + len - 256) 256 } }
          ∧ (∀ a, t.mem.read .flash a = s.mem.read .flash a))
    ∧ (∀ err ms, c.boot.rom ≠ .check ∨ c.stopped = true → exec (.checkDone err ms) s = .next s)
    ∧ (∀ ms, c.boot.rom = .check → c.stopped = false → c.signCode s.mem.digest c.boot.trailer = none →
        Answers (.checkDone false ms) s fun t =>
          t.chip.get F.BOOT_BSTAT_STAGE = 2 ∧ t.chip.get F.BOOT_BSTAT_ACTSLOT = c.boot.slot % 2 ∧ t.chip.boot.rom = .run
            ∧ t.chip.get F.BOOT_BTIME_MS = ms % 2 ^ 16)
    ∧ (∀ err ms k, c.boot.rom = .check → c.stopped = false →
        (if err then some 9 else c.signCode s.mem.digest c.boot.trailer) = some k →
        Answers (.checkDone err ms) s fun t =>
          t.chip.get (cause c.boot.slot) = k % 16 ∧ c.boot.slot ∈ t.chip.boot.refused
            ∧ (∀ x rest, c.boot.queue = some (x :: rest) → t.chip.boot.rom = .select)
            ∧ (c.boot.queue = some [] → c.boot.activating = none →
                t.chip.boot.rom = .recovery ∧ t.chip.get F.BOOT_BSTAT_STAGE = 1))
    ∧ (∀ i, c.TakesWrite i .boot 0x074 →
        (c.get F.BOOT_BSTAT_STAGE ≠ 1 → Completes (.recoveryGo i) s fun d => d = c.touch i .boot)
        ∧ (∀ k, c.get F.BOOT_BSTAT_STAGE = 1 → c.headerCode (s.mem.readBytes .sram 0x00400000 512) = some k →
            Completes (.recoveryGo i) s fun d =>
              d.get F.BOOT_RECRES_STATUS = (codeStatus k).code ∧ d.get F.BOOT_RECRES_CODE = k % 16
                ∧ d.get F.BOOT_BSTAT_STAGE = 1)
        ∧ (c.get F.BOOT_BSTAT_STAGE = 1 → c.headerCode (s.mem.readBytes .sram 0x00400000 512) = none →
            let len := leAt (s.mem.readBytes .sram 0x00400000 512) 12 4;
            c.signCode ((Work.copyImage ⟨s.mem, c, []⟩ .sram 0x00400000).now.digest)
                (s.mem.readBytes .sram (0x00400000 + len - 256) 256) = none →
            Answers (.recoveryGo i) s fun t =>
              t.chip.get F.BOOT_BSTAT_STAGE = 2 ∧ t.chip.boot.rom = .run ∧ t.chip.boot.fromRam = true
                ∧ t.chip.get F.BOOT_RECRES_STATUS = Status.ok.code ∧ t.chip.get F.BOOT_RECRES_CODE = 0))
    ∧ (∀ n, Completes (.laneLoad n) s fun d =>
        if c.hubRuns = true ∧ c.laneReach n = true ∧ c.bitAt F.HEALTH_HSTAT_LANEFAIL n.idx = false then
          d.get (F.LSYS_LSTAT_STATE n) = 1 ∧ d.lane n = .fresh
        else d = c)
    ∧ (∀ n ok, Completes (.laneLoadComplete n ok) s fun d =>
        let loading := c.hubRuns = true ∧ c.fitted n = true ∧ c.get (F.LSYS_LSTAT_STATE n) = 1;
        let recent := (c.health.reloadFails.getD n.num []).filter fun t => c.tick < t + 600 * tickHz;
        (¬ loading → d = c)
          ∧ (loading → ok = true → c.laneReach n = true → d.get (F.LSYS_LSTAT_STATE n) = 2
              ∧ d.get (F.LSYS_LCNT_LOADS n) =
                  min (c.get (F.LSYS_LCNT_LOADS n) + 1) (2 ^ (F.LSYS_LCNT_LOADS n).width - 1))
          ∧ (loading → ok = false → recent = [] → d.get (F.LSYS_LSTAT_STATE n) = 1
              ∧ d.health.reloadFails.getD n.num [] = [c.tick])
          ∧ (loading → ok = false → recent ≠ [] → d.bitAt F.HEALTH_HSTAT_LANEFAIL n.idx = true))

/-- The update services and greenware (R373 to R377, Table 14-6).  Completion of IMGWRITE, IMGCHECK, ACTIVATE, CONFIRM,
GREENWARE_EXPIRY and AON_RESTART. -/
def Obligations.UpdateServicesAndGreenware : Prop :=
  ∀ (s : State),
    let c := s.chip;
    let w : Work := ⟨s.mem, c, []⟩;
    let h := w.hdrNow;
    let posts := fun (d : Chip) (q : Request) (st : Status) =>
      ∃ p, d.mbx.waiting = c.mbx.waiting ++ [p] ∧ p.tag = q.tag ∧ p.type = q.type ∧ p.status = st.code;
    (∀ tag flash, (∀ type, c.hubRuns = false ∨ c.request tag type = none) →
      ∀ cmd ∈ [Instr.imgwrite tag flash, .imgcheck tag, .activate tag], exec cmd s = .next s)
    ∧ (∀ tag flash q, c.hubRuns = true → c.updateBusy q = true →
        (c.request tag 0x07 = some q → Completes (.imgwrite tag flash) s fun d => posts d q .busy)
        ∧ (c.request tag 0x08 = some q → Completes (.imgcheck tag) s fun d => posts d q .busy)
        ∧ (c.request tag 0x09 = some q → Completes (.activate tag) s fun d => posts d q .busy))
    ∧ (∀ tag q, c.hubRuns = true → c.updateBusy q = false → c.request tag 0x07 = some q →
        h.slotSt h.active ≠ 2 → h.active = 0 →
        let off := leAt (w.reqBytes q 16 8) 0 4;
        let len := leAt (w.reqBytes q 16 8) 4 4;
        (∀ flash, flash ≠ .busy → 0x600000 < off + len → Completes (.imgwrite tag flash) s fun d => posts d q .length)
        ∧ (off + len ≤ 0x600000 → off % 0x10000 = 0 → 1 ≤ len → len ≤ 1048512 → 64 + len ≤ q.len →
            Answers (.imgwrite tag .done) s fun t =>
              posts t.chip q .ok ∧ t.mem.readBytes .flash (slotAt 1 + off) len = w.reqBytes q 64 len))
    ∧ (∀ tag q, c.hubRuns = true → c.updateBusy q = false → c.request tag 0x08 = some q →
        leNat (w.reqBytes q 16 1) < 2 →
        (∀ k, c.headerCode (s.mem.readBytes .flash (slotAt (leNat (w.reqBytes q 16 1))) 512) = some k →
          Completes (.imgcheck tag) s fun d => posts d q (codeStatus k))
        ∧ Completes (.imgcheck tag) s fun d => ∃ st ∈ [Status.ok, .format, .refused, .authFail], posts d q st)
    ∧ (∀ tag q, c.hubRuns = true → c.updateBusy q = false → c.request tag 0x09 = some q →
        leNat (w.reqBytes q 16 1) < 2 →
        let slot := leNat (w.reqBytes q 16 1);
        let barred := slot = h.active ∨ h.slotSt slot = 0 ∨ h.slotSt slot = 4 ∨ h.slotSt h.active = 2;
        let epoch := c.wheel.next.isSome = true ∨ c.wheel.active.isSome = true;
        (barred → Completes (.activate tag) s fun d => posts d q .refused)
        ∧ (¬ barred → epoch → Completes (.activate tag) s fun d => posts d q .busy)
        ∧ (¬ barred → ¬ epoch → Answers (.activate tag) s fun t =>
            posts t.chip q .ok ∧ t.chip.boot.activating = some h.active ∧ t.chip.boot.romDue = true))
    ∧ (∀ i key, c.TakesWrite i .boot 0x060 →
        let takes := key % 2 ^ 32 = 0x0000F1ED ∧ c.flag F.BOOT_BSTAT_GREEN = true ∧ c.boot.greenExpired = false
          ∧ c.tick < c.boot.greenEnd ∧ (c.flag F.BOOT_GCFG_HOSTGATE = false ∨ c.flag F.BOOT_GCFG_HOSTOK = true);
        (¬ takes → Completes (.confirm i key) s fun d => d = c.touch i .boot)
        ∧ (takes → Answers (.confirm i key) s fun t =>
            t.chip.flag F.BOOT_BSTAT_GREEN = false ∧ t.chip.flag F.BOOT_BSTAT_FIRED = true
              ∧ t.chip.bitAt (pevt .boot) 3 = true))
    ∧ (∀ sitter, c.flag F.BOOT_BSTAT_GREEN = false ∨ c.boot.greenExpired = true ∨ c.power = .reset →
        exec (.greenwareExpiry sitter) s = .next s)
    ∧ (∀ sitter, c.flag F.BOOT_BSTAT_GREEN = true → c.boot.greenExpired = false → c.power ≠ .reset →
        Answers (.greenwareExpiry sitter) s fun t =>
          t.chip.boot.greenExpired = true ∧ t.chip.tick = max c.tick c.boot.greenEnd
            ∧ (sitter = true → c.hubRuns = true → t.chip.boot.fallbackBegun = true ∧ t.chip.boot.romDue = true
                ∧ t.chip.get F.BOOT_BOOTCNT_FALLBACKS = min (c.get F.BOOT_BOOTCNT_FALLBACKS + 1) (2 ^ 16 - 1)))
    ∧ Completes .aonRestart s (fun d =>
        if c.boot.greenExpired = true ∧ c.boot.fallbackBegun = false ∧ c.flag F.BOOT_BSTAT_GREEN = true
            ∧ (c.power = .boot ∨ c.power = .active) ∧ c.stopped = false then
          d.power = .coast ∧ d.boot.rom = .select ∧ d.tick = max c.tick (c.boot.greenEnd + tickHz)
        else d = c)

/-- Fuses, event router and PCIe (R397, R401, R409 to R412, R428, R429).  Completion of REVERIFY, REVDONE, FDATA_READ, PCIE_RESET,
MSIX_MESSAGE, RTDATA_READ, RTDATA_WRITE, PCIE_LINK_UP, PCIE_ERROR and DSTATE_CHANGE. -/
def Obligations.FusesRouterAndPcieEvents : Prop :=
  ∀ (s : State),
    let c := s.chip;
    let die := c.get F.FUSE_FSEL_DIE;
    let word := c.get F.FUSE_FSEL_WORD;
    let src := c.get F.EVT_RTSEL_SOURCE;
    (∀ i, c.TakesWrite i .fuse 0x050 → Completes (.reverify i) s fun d =>
        (c.fuses.running = none → d.fuses.running = some die ∧ d.get F.FUSE_FRES_STATUS = Status.busy.code)
          ∧ (c.fuses.running ≠ none → d = c.touch i .fuse))
    ∧ (c.fuses.running = none → Completes .revdone s fun d => d = c)
    ∧ (∀ d0, c.fuses.running = some d0 → Completes .revdone s fun d =>
        d.fuses.running = none ∧ d.get F.FUSE_FRES_STATUS = Status.ok.code ∧ d.bitAt (pevt .fuse) 1 = true
          ∧ d.fuses.latched = c.fuses.latched ∧ d.get F.FUSE_FCNT_MARGWORDS = d.fuses.margNow.length % 2 ^ 16)
    ∧ (∀ i, c.TakesRead i .fuse 0x048 → Completes (.fdataRead i) s fun d =>
        d.rdata = (c.fuseWord die word).normal ∧ d.get F.FUSE_FSEL_WORD = (word + 1) % 256
          ∧ d.flag F.FUSE_FWSTAT_MARGBOOT = (c.fuseWord die word).marginal
          ∧ d.get F.FUSE_FWSTAT_COPY = c.wordCopy die word % 4)
    ∧ (∀ i, c.TakesRead i .evt 0x044 → Completes (.rtdataRead i) s fun d =>
        d.rdata = c.routerEntry src ∧ d.get F.EVT_RTSEL_SOURCE = (if 287 ≤ src then 0 else src + 1) % 2 ^ 9
          ∧ d.router = c.router)
    ∧ (∀ i v, c.TakesWrite i .evt 0x044 → Completes (.rtdataWrite i v) s fun d =>
        d.routerEntry src = v &&& 0x31F ∧ (∀ k, k ≠ src → d.routerEntry k = c.routerEntry k)
          ∧ d.get F.EVT_RTSEL_SOURCE = (if 287 ≤ src then 0 else src + 1) % 2 ^ 9)
    ∧ (∀ linkDown, Completes (.pcieReset linkDown) s fun d =>
        d.pcie.msixEnable = false ∧ d.pcie.pmeEn = false ∧ d.pcie.table = [] ∧ d.mbx.stopped = true
          ∧ (∀ r ∈ c.qm.rings.map Prod.fst, (d.ring r).st = 0 ∧ (d.ring r).h = (c.ring r).h ∧ (d.ring r).t = (c.ring r).t)
          ∧ d.get F.PCIE_RSTCNT_RESETS = min (c.get F.PCIE_RSTCNT_RESETS + 1) (2 ^ 16 - 1)
          ∧ d.bitAt (pevt .pcie) 0 = true ∧ d.get F.PCIE_LNKSTAT_DSTATE = 0
          ∧ d.get F.PCIE_LNKSTAT_SPEED = if linkDown then 0 else c.get F.PCIE_LNKSTAT_SPEED)
    ∧ (∀ speed width recovery, Completes (.pcieLinkUp speed width recovery) s fun d =>
        if 1 ≤ speed ∧ speed ≤ 3 ∧ (width = 1 ∨ width = 2 ∨ width = 4) then
          d.get F.PCIE_LNKSTAT_SPEED = speed ∧ d.get F.PCIE_LNKSTAT_WIDTH = width ∧ d.get F.PCIE_LNKSTAT_PMSUB = 0
            ∧ d.pcie.wakeN = false ∧ d.bitAt (pevt .pcie) 0 = true
            ∧ d.get F.PCIE_RSTCNT_RECOV = (if recovery then min (c.get F.PCIE_RSTCNT_RECOV + 1) (2 ^ 16 - 1)
                else c.get F.PCIE_RSTCNT_RECOV)
        else d = c)
    ∧ (∀ unc, Completes (.pcieError unc) s fun d =>
        d.bitAt (pevt .pcie) (if unc then 2 else 1) = true
          ∧ d.get F.PCIE_ERRCNT_UNCORR =
              (if unc then min (c.get F.PCIE_ERRCNT_UNCORR + 1) (2 ^ 16 - 1) else c.get F.PCIE_ERRCNT_UNCORR)
          ∧ d.get F.PCIE_ERRCNT_CORR =
              (if unc then c.get F.PCIE_ERRCNT_CORR else min (c.get F.PCIE_ERRCNT_CORR + 1) (2 ^ 16 - 1)))
    ∧ (∀ d3 pme sub, Completes (.dstateChange d3 pme sub) s fun d =>
        d.get F.PCIE_LNKSTAT_DSTATE = (if d3 then 3 else 0) ∧ d.pcie.pmeEn = pme ∧ d.bitAt (pevt .pcie) 3 = true
          ∧ d.get F.PCIE_LNKSTAT_PMSUB = (if c.get F.PCIE_LNKSTAT_SPEED = 0 then 0 else sub) % 4)
    ∧ (∀ enable mask v, v < 32 → Completes (.msixMessage enable mask v) s fun d =>
        d.pcie.msixEnable = enable ∧ d.pcie.funcMask = mask
          ∧ (c.pcie.pending.testBit v = true → enable = true → mask = false → (c.msixControl v).testBit 0 = false →
              d.out = .msix v :: c.out ∧ d.pcie.pending.testBit v = false)
          ∧ (c.pcie.pending.testBit v = false ∨ enable = false ∨ mask = true ∨ (c.msixControl v).testBit 0 = true →
              d.out = c.out ∧ d.pcie.pending = c.pcie.pending))
end

