-- ==== Sys2Proof/Laws/Maps.lean ====
section
/-!
SUPPORT. Laws of finite maps and byte memories: what a read after a write gives, and that every operation keeps the
canonical form.
-/
namespace Sys2Proof

section NatMap
variable {α : Type} (m : NatMap α) (k j : Nat) (v d : α)

theorem NatMap.get?_insert_same : (m.insert k v).get? k = some v := by
  induction m with
  | nil => simp [NatMap.insert, NatMap.get?]
  | cons e rest ih =>
    obtain ⟨i, u⟩ := e
    by_cases h1 : k < i
    · simp [NatMap.insert, NatMap.get?, h1]
    · by_cases h2 : i = k
      · simp [NatMap.insert, NatMap.get?, h2]
      · simp [NatMap.insert, NatMap.get?, h1, h2, ih]

theorem NatMap.get?_insert_other (h : j ≠ k) : (m.insert k v).get? j = m.get? j := by
  induction m with
  | nil => simp [NatMap.insert, NatMap.get?, Ne.symm h]
  | cons e rest ih =>
    obtain ⟨i, u⟩ := e
    by_cases h1 : k < i
    · simp [NatMap.insert, NatMap.get?, h1, Ne.symm h]
    · by_cases h2 : i = k
      · subst h2
        simp [NatMap.insert, NatMap.get?, Ne.symm h]
      · simp [NatMap.insert, NatMap.get?, h1, h2, ih]

theorem NatMap.get?_erase_same : (m.erase k).get? k = none := by
  induction m with
  | nil => rfl
  | cons e rest ih =>
    obtain ⟨i, u⟩ := e
    by_cases h : i = k
    · simpa [NatMap.erase, h] using ih
    · simp only [NatMap.erase, List.filter_cons, bne_iff_ne, ne_eq, h, not_false_eq_true, ↓reduceIte, NatMap.get?]
      exact ih

theorem NatMap.get?_erase_other (h : j ≠ k) : (m.erase k).get? j = m.get? j := by
  induction m with
  | nil => rfl
  | cons e rest ih =>
    obtain ⟨i, u⟩ := e
    by_cases h1 : i = k
    · subst h1
      have e1 : NatMap.erase ((i, u) :: rest) i = NatMap.erase rest i := by simp [NatMap.erase]
      rw [e1, ih]
      simp [NatMap.get?, Ne.symm h]
    · have e1 : NatMap.erase ((i, u) :: rest) k = (i, u) :: NatMap.erase rest k := by simp [NatMap.erase, h1]
      rw [e1]
      by_cases h2 : i = j <;> simp [NatMap.get?, h2, ih]

@[simp] theorem NatMap.getD_insert_same : (m.insert k v).getD k d = v := by
  simp [NatMap.getD, NatMap.get?_insert_same]

theorem NatMap.getD_insert_other (h : j ≠ k) : (m.insert k v).getD j d = m.getD j d := by
  simp [NatMap.getD, NatMap.get?_insert_other, h]

@[simp] theorem NatMap.getD_erase_same : (m.erase k).getD k d = d := by
  simp [NatMap.getD, NatMap.get?_erase_same]

theorem NatMap.getD_erase_other (h : j ≠ k) : (m.erase k).getD j d = m.getD j d := by
  simp [NatMap.getD, NatMap.get?_erase_other, h]

@[simp] theorem NatMap.getD_modify_same (f : α → α) : (m.modify k d f).getD k d = f (m.getD k d) := by
  simp [NatMap.modify]

theorem NatMap.getD_modify_other (f : α → α) (h : j ≠ k) : (m.modify k d f).getD j d = m.getD j d := by
  simp [NatMap.modify, NatMap.getD_insert_other, h]

theorem NatMap.sorted_cons (a : Nat × α) (rest : NatMap α) :
    NatMap.sorted (a :: rest) = true ↔ (∀ e ∈ rest, a.1 < e.1) ∧ NatMap.sorted rest = true := by
  induction rest generalizing a with
  | nil => simp [NatMap.sorted]
  | cons b rest ih =>
    have hb := ih b
    simp only [NatMap.sorted, Bool.and_eq_true, decide_eq_true_eq, List.mem_cons, forall_eq_or_imp]
    constructor
    · rintro ⟨h1, h2⟩
      exact ⟨⟨h1, fun e he => Nat.lt_trans h1 ((hb.mp h2).1 e he)⟩, h2⟩
    · rintro ⟨⟨h1, -⟩, h2⟩
      exact ⟨h1, h2⟩

theorem NatMap.mem_insert {e : Nat × α} (h : e ∈ m.insert k v) : e = (k, v) ∨ e ∈ m := by
  induction m with
  | nil => simpa [NatMap.insert] using h
  | cons x rest ih =>
    obtain ⟨i, u⟩ := x
    by_cases h1 : k < i
    · simpa [NatMap.insert, h1] using h
    · by_cases h2 : i = k
      · rw [NatMap.insert, if_neg h1, if_pos h2] at h
        rcases List.mem_cons.mp h with h | h
        · exact .inl h
        · exact .inr (List.mem_cons_of_mem _ h)
      · rw [NatMap.insert, if_neg h1, if_neg h2] at h
        rcases List.mem_cons.mp h with h | h
        · exact .inr (h ▸ List.mem_cons_self)
        · rcases ih h with h | h
          · exact .inl h
          · exact .inr (List.mem_cons_of_mem _ h)

theorem NatMap.sorted_insert (h : m.sorted = true) : (m.insert k v).sorted = true := by
  induction m with
  | nil => rfl
  | cons x rest ih =>
    obtain ⟨i, u⟩ := x
    have hs := (NatMap.sorted_cons _ _).mp h
    by_cases h1 : k < i
    · rw [NatMap.insert, if_pos h1]
      refine (NatMap.sorted_cons _ _).mpr ⟨?_, h⟩
      intro e he
      rcases List.mem_cons.mp he with he | he
      · subst he; exact h1
      · exact Nat.lt_trans h1 (hs.1 e he)
    · by_cases h2 : i = k
      · subst h2
        rw [NatMap.insert, if_neg h1, if_pos rfl]
        exact (NatMap.sorted_cons _ _).mpr ⟨hs.1, hs.2⟩
      · rw [NatMap.insert, if_neg h1, if_neg h2]
        refine (NatMap.sorted_cons _ _).mpr ⟨?_, ih hs.2⟩
        intro e he
        rcases NatMap.mem_insert _ _ _ he with he | he
        · subst he; simp; omega
        · exact hs.1 e he

theorem NatMap.sorted_filter (p : Nat × α → Bool) (h : m.sorted = true) : NatMap.sorted (m.filter p) = true := by
  induction m with
  | nil => rfl
  | cons x rest ih =>
    have hs := (NatMap.sorted_cons _ _).mp h
    rw [List.filter_cons]
    split
    · exact (NatMap.sorted_cons _ _).mpr ⟨fun e he => hs.1 e (List.mem_filter.mp he).1, ih hs.2⟩
    · exact ih hs.2

end NatMap

section Mem
variable (d : Byte) (top : Nat) (m : Mem) (a : Nat)

theorem Mem.wf_iff : Mem.wf d top m = true ↔ NatMap.sorted m = true ∧ ∀ e ∈ m, e.2 ≠ d ∧ e.1 < top := by
  simp [Mem.wf, List.all_eq_true]

/-- A read after a write to the same address gives the byte written. -/
@[simp] theorem Mem.read_write_same (b : Byte) : (Mem.write d m a b).read d a = b := by
  by_cases h : b = d <;> simp [Mem.write, Mem.read, h]

/-- A write leaves every other address as it was. -/
theorem Mem.read_write_other (b : Byte) (x : Nat) (h : x ≠ a) : (Mem.write d m a b).read d x = m.read d x := by
  by_cases hb : b = d
  · simp [Mem.write, Mem.read, hb, NatMap.getD_erase_other, h]
  · simp [Mem.write, Mem.read, hb, NatMap.getD_insert_other, h]

theorem Mem.wf_write (b : Byte) (h : m.wf d top = true) (ha : a < top) : (Mem.write d m a b).wf d top = true := by
  rw [Mem.wf_iff] at h ⊢
  by_cases hb : b = d
  · rw [Mem.write, if_pos hb]
    exact ⟨NatMap.sorted_filter _ _ h.1, fun e he => h.2 e (List.mem_filter.mp he).1⟩
  · rw [Mem.write, if_neg hb]
    refine ⟨NatMap.sorted_insert _ _ _ h.1, fun e he => ?_⟩
    rcases NatMap.mem_insert _ _ _ he with he | he
    · subst he; exact ⟨hb, ha⟩
    · exact h.2 e he

theorem Mem.wf_writeBytes (bs : List Byte) (h : m.wf d top = true) (ha : a + bs.length ≤ top) :
    (Mem.writeBytes d m a bs).wf d top = true := by
  induction bs generalizing m a with
  | nil => exact h
  | cons b bs ih =>
    simp only [List.length_cons] at ha
    exact ih _ _ (Mem.wf_write d top m a b h (by omega)) (by omega)

theorem Mem.wf_clear (n : Nat) (h : m.wf d top = true) : (Mem.clear m a n).wf d top = true := by
  rw [Mem.wf_iff] at h ⊢
  exact ⟨NatMap.sorted_filter _ _ h.1, fun e he => h.2 e (List.mem_filter.mp he).1⟩

/-- A cleared byte reads as an unlisted one. -/
theorem Mem.read_clear_in (n x : Nat) (h1 : a ≤ x) (h2 : x < a + n) : (Mem.clear m a n).read d x = d := by
  unfold Mem.clear Mem.read NatMap.getD
  induction m with
  | nil => rfl
  | cons e rest ih =>
    rw [List.filter_cons]
    split
    · next h =>
      have : e.1 ≠ x := by simp at h; omega
      simpa [NatMap.get?, this] using ih
    · exact ih

/-- Clearing a range leaves the addresses outside it as they were. -/
theorem Mem.read_clear_other (n x : Nat) (h : x < a ∨ a + n ≤ x) : (Mem.clear m a n).read d x = m.read d x := by
  unfold Mem.clear Mem.read NatMap.getD
  induction m with
  | nil => rfl
  | cons e rest ih =>
    rw [List.filter_cons]
    split
    · simp only [NatMap.get?]
      split
      · rfl
      · exact ih
    · next hc =>
      have : e.1 ≠ x := by simp at hc; omega
      simpa [NatMap.get?, this] using ih

/-- A write of several bytes leaves the addresses outside them as they were. -/
theorem Mem.read_writeBytes_other (bs : List Byte) (x : Nat) (h : x < a ∨ a + bs.length ≤ x) :
    (Mem.writeBytes d m a bs).read d x = m.read d x := by
  induction bs generalizing m a with
  | nil => rfl
  | cons b bs ih =>
    simp only [List.length_cons] at h
    rw [Mem.writeBytes, ih _ _ (by omega), Mem.read_write_other _ _ _ _ _ (by omega)]

/-- Within the bytes written, a read gives them. -/
theorem Mem.read_writeBytes_at (bs : List Byte) (k : Nat) (hk : k < bs.length) :
    (Mem.writeBytes d m a bs).read d (a + k) = bs[k] := by
  induction bs generalizing m a k with
  | nil => simp at hk
  | cons b bs ih =>
    cases k with
    | zero => rw [Mem.writeBytes, Mem.read_writeBytes_other _ _ _ _ _ (by omega)]; simp
    | succ k =>
      have := ih (Mem.write d m a b) (a + 1) k (by simpa using hk)
      rw [Mem.writeBytes, show a + (k + 1) = a + 1 + k by omega, this]
      simp

/-- `readBytes` gives as many bytes as are asked for. -/
@[simp] theorem Mem.length_readBytes (n : Nat) : (Mem.readBytes d m a n).length = n := by
  induction n generalizing a with
  | zero => rfl
  | succ n ih => simp [Mem.readBytes, ih]

/-- Byte `k` of a run of bytes. -/
@[simp] theorem Mem.getElem_readBytes (n k : Nat) (h : k < (Mem.readBytes d m a n).length) :
    (Mem.readBytes d m a n)[k] = m.read d (a + k) := by
  induction n generalizing a k with
  | zero => simp at h
  | succ n ih =>
    cases k with
    | zero => rfl
    | succ k => simp only [Mem.readBytes, List.getElem_cons_succ]; rw [ih]; congr 1; omega

/-- A run of bytes inside a longer one. -/
theorem Mem.readBytes_sub (l k n : Nat) (h : k + n ≤ l) :
    Mem.readBytes d m (a + k) n = ((Mem.readBytes d m a l).drop k).take n := by
  apply List.ext_getElem
  · simp; omega
  · intro i _ _
    simp [Nat.add_assoc]

/-- The bytes written read back. -/
theorem Mem.readBytes_writeBytes_same (bs : List Byte) :
    Mem.readBytes d (Mem.writeBytes d m a bs) a bs.length = bs := by
  apply List.ext_getElem
  · simp
  · intro i _ h
    simp [Mem.read_writeBytes_at d m a bs i h]

/-- A run of bytes beside those written reads as before. -/
theorem Mem.readBytes_writeBytes_other (bs : List Byte) (x n : Nat) (h : x + n ≤ a ∨ a + bs.length ≤ x) :
    Mem.readBytes d (Mem.writeBytes d m a bs) x n = Mem.readBytes d m x n := by
  apply List.ext_getElem
  · simp
  · intro i hi _
    simp only [Mem.length_readBytes] at hi
    simp [Mem.read_writeBytes_other d m a bs (x + i) (by omega)]

end Mem

end Sys2Proof
end

