-- ==== Sys2Proof/Laws/State.lean ====
section
/-!
SUPPORT. What each update of the chip leaves as it was: every field but the ones it is for.
-/
namespace Sys2Proof.Machine

variable (s : State) (c : Chip)

@[simp] theorem State.onChip_fields (f : Chip → Chip) :
    (s.onChip f).pending = s.pending ∧ (s.onChip f).mem = s.mem ∧ (s.onChip f).chip = f s.chip := ⟨rfl, rfl, rfl⟩

@[simp] theorem State.onWork_pending (f : Work → Work) : (s.onWork f).pending = s.pending := rfl

theorem State.onWork_mem (f : Work → Work) :
    (s.onWork f).mem = s.mem.applyAll (f ⟨s.mem, s.chip, []⟩).writes := rfl

theorem State.onWork_chip (f : Work → Work) : (s.onWork f).chip = (f ⟨s.mem, s.chip, []⟩).chip := rfl

@[simp] theorem Work.onChip_fields (w : Work) (f : Chip → Chip) :
    (w.onChip f).mem = w.mem ∧ (w.onChip f).writes = w.writes ∧ (w.onChip f).chip = f w.chip := ⟨rfl, rfl, rfl⟩

@[simp] theorem Work.write_fields (w : Work) (sp : Space) (a : Nat) (bs : List Byte) :
    (w.write sp a bs).mem = w.mem ∧ (w.write sp a bs).chip = w.chip
      ∧ (w.write sp a bs).writes = w.writes ++ [.bytes sp a bs] := ⟨rfl, rfl, rfl⟩

@[simp] theorem Work.clear_fields (w : Work) (sp : Space) (a n : Nat) :
    (w.clear sp a n).mem = w.mem ∧ (w.clear sp a n).chip = w.chip
      ∧ (w.clear sp a n).writes = w.writes ++ [.clear sp a n] := ⟨rfl, rfl, rfl⟩

@[simp] theorem Chip.set_fields (f : Fld) (v : Nat) :
    (c.set f v).part = c.part ∧ (c.set f v).power = c.power ∧ (c.set f v).stopped = c.stopped ∧
      (c.set f v).tick = c.tick ∧ (c.set f v).free = c.free ∧ (c.set f v).rdata = c.rdata ∧
      (c.set f v).latches = c.latches ∧ (c.set f v).router = c.router ∧ (c.set f v).pcie = c.pcie ∧
      (c.set f v).qspi = c.qspi ∧ (c.set f v).uart0 = c.uart0 ∧ (c.set f v).uart1 = c.uart1 ∧
      (c.set f v).twi0 = c.twi0 ∧ (c.set f v).twi1 = c.twi1 ∧ (c.set f v).gpioIn = c.gpioIn ∧
      (c.set f v).links = c.links ∧ (c.set f v).time = c.time ∧ (c.set f v).meas = c.meas ∧
      (c.set f v).fuses = c.fuses ∧ (c.set f v).health = c.health ∧ (c.set f v).boot = c.boot ∧
      (c.set f v).pins = c.pins ∧ (c.set f v).keys = c.keys ∧ (c.set f v).qm = c.qm ∧ (c.set f v).mbx = c.mbx ∧
      (c.set f v).mac = c.mac ∧ (c.set f v).wheel = c.wheel ∧ (c.set f v).lanes = c.lanes ∧
      (c.set f v).frames = c.frames ∧ (c.set f v).jtag = c.jtag ∧ (c.set f v).out = c.out := by
  simp [Chip.set]

@[simp] theorem Chip.lane_set (f : Fld) (v : Nat) (m : Lane) : (c.set f v).lane m = c.lane m := by
  simp [Chip.lane]

@[simp] theorem Chip.nbr_set (f : Fld) (v : Nat) (j : Nat) : (c.set f v).nbr j = c.nbr j := by
  simp [Chip.nbr]

@[simp] theorem Chip.queue_set (f : Fld) (v : Nat) (j : Nat) : (c.set f v).queue j = c.queue j := by
  simp [Chip.queue]

@[simp] theorem Chip.ring_set (f : Fld) (v : Nat) (j : Nat) : (c.set f v).ring j = c.ring j := by
  simp [Chip.ring]

@[simp] theorem Chip.group_set (f : Fld) (v : Nat) (m : Lane) : (c.set f v).group m = c.group m := by
  simp [Chip.group]

@[simp] theorem Chip.setFlag_fields (f : Fld) (b : Bool) :
    (c.setFlag f b).part = c.part ∧ (c.setFlag f b).power = c.power ∧ (c.setFlag f b).stopped = c.stopped ∧
      (c.setFlag f b).tick = c.tick ∧ (c.setFlag f b).free = c.free ∧ (c.setFlag f b).rdata = c.rdata ∧
      (c.setFlag f b).latches = c.latches ∧ (c.setFlag f b).router = c.router ∧ (c.setFlag f b).pcie = c.pcie ∧
      (c.setFlag f b).qspi = c.qspi ∧ (c.setFlag f b).uart0 = c.uart0 ∧ (c.setFlag f b).uart1 = c.uart1 ∧
      (c.setFlag f b).twi0 = c.twi0 ∧ (c.setFlag f b).twi1 = c.twi1 ∧ (c.setFlag f b).gpioIn = c.gpioIn ∧
      (c.setFlag f b).links = c.links ∧ (c.setFlag f b).time = c.time ∧ (c.setFlag f b).meas = c.meas ∧
      (c.setFlag f b).fuses = c.fuses ∧ (c.setFlag f b).health = c.health ∧ (c.setFlag f b).boot = c.boot ∧
      (c.setFlag f b).pins = c.pins ∧ (c.setFlag f b).keys = c.keys ∧ (c.setFlag f b).qm = c.qm ∧
      (c.setFlag f b).mbx = c.mbx ∧ (c.setFlag f b).mac = c.mac ∧ (c.setFlag f b).wheel = c.wheel ∧
      (c.setFlag f b).lanes = c.lanes ∧ (c.setFlag f b).frames = c.frames ∧ (c.setFlag f b).jtag = c.jtag ∧
      (c.setFlag f b).out = c.out := by
  simp [Chip.setFlag]

@[simp] theorem Chip.lane_setFlag (f : Fld) (b : Bool) (m : Lane) : (c.setFlag f b).lane m = c.lane m := by
  simp [Chip.lane]

@[simp] theorem Chip.nbr_setFlag (f : Fld) (b : Bool) (j : Nat) : (c.setFlag f b).nbr j = c.nbr j := by
  simp [Chip.nbr]

@[simp] theorem Chip.queue_setFlag (f : Fld) (b : Bool) (j : Nat) : (c.setFlag f b).queue j = c.queue j := by
  simp [Chip.queue]

@[simp] theorem Chip.ring_setFlag (f : Fld) (b : Bool) (j : Nat) : (c.setFlag f b).ring j = c.ring j := by
  simp [Chip.ring]

@[simp] theorem Chip.group_setFlag (f : Fld) (b : Bool) (m : Lane) : (c.setFlag f b).group m = c.group m := by
  simp [Chip.group]

@[simp] theorem Chip.setInt_fields (f : Fld) (z : Int) :
    (c.setInt f z).part = c.part ∧ (c.setInt f z).power = c.power ∧ (c.setInt f z).stopped = c.stopped ∧
      (c.setInt f z).tick = c.tick ∧ (c.setInt f z).free = c.free ∧ (c.setInt f z).rdata = c.rdata ∧
      (c.setInt f z).latches = c.latches ∧ (c.setInt f z).router = c.router ∧ (c.setInt f z).pcie = c.pcie ∧
      (c.setInt f z).qspi = c.qspi ∧ (c.setInt f z).uart0 = c.uart0 ∧ (c.setInt f z).uart1 = c.uart1 ∧
      (c.setInt f z).twi0 = c.twi0 ∧ (c.setInt f z).twi1 = c.twi1 ∧ (c.setInt f z).gpioIn = c.gpioIn ∧
      (c.setInt f z).links = c.links ∧ (c.setInt f z).time = c.time ∧ (c.setInt f z).meas = c.meas ∧
      (c.setInt f z).fuses = c.fuses ∧ (c.setInt f z).health = c.health ∧ (c.setInt f z).boot = c.boot ∧
      (c.setInt f z).pins = c.pins ∧ (c.setInt f z).keys = c.keys ∧ (c.setInt f z).qm = c.qm ∧
      (c.setInt f z).mbx = c.mbx ∧ (c.setInt f z).mac = c.mac ∧ (c.setInt f z).wheel = c.wheel ∧
      (c.setInt f z).lanes = c.lanes ∧ (c.setInt f z).frames = c.frames ∧ (c.setInt f z).jtag = c.jtag ∧
      (c.setInt f z).out = c.out := by
  simp [Chip.setInt]

@[simp] theorem Chip.lane_setInt (f : Fld) (z : Int) (m : Lane) : (c.setInt f z).lane m = c.lane m := by
  simp [Chip.lane]

@[simp] theorem Chip.nbr_setInt (f : Fld) (z : Int) (j : Nat) : (c.setInt f z).nbr j = c.nbr j := by
  simp [Chip.nbr]

@[simp] theorem Chip.queue_setInt (f : Fld) (z : Int) (j : Nat) : (c.setInt f z).queue j = c.queue j := by
  simp [Chip.queue]

@[simp] theorem Chip.ring_setInt (f : Fld) (z : Int) (j : Nat) : (c.setInt f z).ring j = c.ring j := by
  simp [Chip.ring]

@[simp] theorem Chip.group_setInt (f : Fld) (z : Int) (m : Lane) : (c.setInt f z).group m = c.group m := by
  simp [Chip.group]

@[simp] theorem Chip.setBitAt_fields (f : Fld) (b : Nat) (v : Bool) :
    (c.setBitAt f b v).part = c.part ∧ (c.setBitAt f b v).power = c.power ∧
      (c.setBitAt f b v).stopped = c.stopped ∧ (c.setBitAt f b v).tick = c.tick ∧
      (c.setBitAt f b v).free = c.free ∧ (c.setBitAt f b v).rdata = c.rdata ∧
      (c.setBitAt f b v).latches = c.latches ∧ (c.setBitAt f b v).router = c.router ∧
      (c.setBitAt f b v).pcie = c.pcie ∧ (c.setBitAt f b v).qspi = c.qspi ∧ (c.setBitAt f b v).uart0 = c.uart0 ∧
      (c.setBitAt f b v).uart1 = c.uart1 ∧ (c.setBitAt f b v).twi0 = c.twi0 ∧ (c.setBitAt f b v).twi1 = c.twi1 ∧
      (c.setBitAt f b v).gpioIn = c.gpioIn ∧ (c.setBitAt f b v).links = c.links ∧
      (c.setBitAt f b v).time = c.time ∧ (c.setBitAt f b v).meas = c.meas ∧ (c.setBitAt f b v).fuses = c.fuses ∧
      (c.setBitAt f b v).health = c.health ∧ (c.setBitAt f b v).boot = c.boot ∧ (c.setBitAt f b v).pins = c.pins ∧
      (c.setBitAt f b v).keys = c.keys ∧ (c.setBitAt f b v).qm = c.qm ∧ (c.setBitAt f b v).mbx = c.mbx ∧
      (c.setBitAt f b v).mac = c.mac ∧ (c.setBitAt f b v).wheel = c.wheel ∧ (c.setBitAt f b v).lanes = c.lanes ∧
      (c.setBitAt f b v).frames = c.frames ∧ (c.setBitAt f b v).jtag = c.jtag ∧ (c.setBitAt f b v).out = c.out := by
  simp [Chip.setBitAt]

@[simp] theorem Chip.lane_setBitAt (f : Fld) (b : Nat) (v : Bool) (m : Lane) : (c.setBitAt f b v).lane m = c.lane m := by
  simp [Chip.lane]

@[simp] theorem Chip.nbr_setBitAt (f : Fld) (b : Nat) (v : Bool) (j : Nat) : (c.setBitAt f b v).nbr j = c.nbr j := by
  simp [Chip.nbr]

@[simp] theorem Chip.queue_setBitAt (f : Fld) (b : Nat) (v : Bool) (j : Nat) : (c.setBitAt f b v).queue j = c.queue j := by
  simp [Chip.queue]

@[simp] theorem Chip.ring_setBitAt (f : Fld) (b : Nat) (v : Bool) (j : Nat) : (c.setBitAt f b v).ring j = c.ring j := by
  simp [Chip.ring]

@[simp] theorem Chip.group_setBitAt (f : Fld) (b : Nat) (v : Bool) (m : Lane) : (c.setBitAt f b v).group m = c.group m := by
  simp [Chip.group]

@[simp] theorem Chip.count_fields (f : Fld) (k : Nat) :
    (c.count f k).part = c.part ∧ (c.count f k).power = c.power ∧ (c.count f k).stopped = c.stopped ∧
      (c.count f k).tick = c.tick ∧ (c.count f k).free = c.free ∧ (c.count f k).rdata = c.rdata ∧
      (c.count f k).latches = c.latches ∧ (c.count f k).router = c.router ∧ (c.count f k).pcie = c.pcie ∧
      (c.count f k).qspi = c.qspi ∧ (c.count f k).uart0 = c.uart0 ∧ (c.count f k).uart1 = c.uart1 ∧
      (c.count f k).twi0 = c.twi0 ∧ (c.count f k).twi1 = c.twi1 ∧ (c.count f k).gpioIn = c.gpioIn ∧
      (c.count f k).links = c.links ∧ (c.count f k).time = c.time ∧ (c.count f k).meas = c.meas ∧
      (c.count f k).fuses = c.fuses ∧ (c.count f k).health = c.health ∧ (c.count f k).boot = c.boot ∧
      (c.count f k).pins = c.pins ∧ (c.count f k).keys = c.keys ∧ (c.count f k).qm = c.qm ∧
      (c.count f k).mbx = c.mbx ∧ (c.count f k).mac = c.mac ∧ (c.count f k).wheel = c.wheel ∧
      (c.count f k).lanes = c.lanes ∧ (c.count f k).frames = c.frames ∧ (c.count f k).jtag = c.jtag ∧
      (c.count f k).out = c.out := by
  simp [Chip.count]

@[simp] theorem Chip.lane_count (f : Fld) (k : Nat) (m : Lane) : (c.count f k).lane m = c.lane m := by
  simp [Chip.lane]

@[simp] theorem Chip.nbr_count (f : Fld) (k : Nat) (j : Nat) : (c.count f k).nbr j = c.nbr j := by
  simp [Chip.nbr]

@[simp] theorem Chip.queue_count (f : Fld) (k : Nat) (j : Nat) : (c.count f k).queue j = c.queue j := by
  simp [Chip.queue]

@[simp] theorem Chip.ring_count (f : Fld) (k : Nat) (j : Nat) : (c.count f k).ring j = c.ring j := by
  simp [Chip.ring]

@[simp] theorem Chip.group_count (f : Fld) (k : Nat) (m : Lane) : (c.count f k).group m = c.group m := by
  simp [Chip.group]

@[simp] theorem Chip.resetFld_fields (f : Fld) :
    (c.resetFld f).part = c.part ∧ (c.resetFld f).power = c.power ∧ (c.resetFld f).stopped = c.stopped ∧
      (c.resetFld f).tick = c.tick ∧ (c.resetFld f).free = c.free ∧ (c.resetFld f).rdata = c.rdata ∧
      (c.resetFld f).latches = c.latches ∧ (c.resetFld f).router = c.router ∧ (c.resetFld f).pcie = c.pcie ∧
      (c.resetFld f).qspi = c.qspi ∧ (c.resetFld f).uart0 = c.uart0 ∧ (c.resetFld f).uart1 = c.uart1 ∧
      (c.resetFld f).twi0 = c.twi0 ∧ (c.resetFld f).twi1 = c.twi1 ∧ (c.resetFld f).gpioIn = c.gpioIn ∧
      (c.resetFld f).links = c.links ∧ (c.resetFld f).time = c.time ∧ (c.resetFld f).meas = c.meas ∧
      (c.resetFld f).fuses = c.fuses ∧ (c.resetFld f).health = c.health ∧ (c.resetFld f).boot = c.boot ∧
      (c.resetFld f).pins = c.pins ∧ (c.resetFld f).keys = c.keys ∧ (c.resetFld f).qm = c.qm ∧
      (c.resetFld f).mbx = c.mbx ∧ (c.resetFld f).mac = c.mac ∧ (c.resetFld f).wheel = c.wheel ∧
      (c.resetFld f).lanes = c.lanes ∧ (c.resetFld f).frames = c.frames ∧ (c.resetFld f).jtag = c.jtag ∧
      (c.resetFld f).out = c.out := by
  simp [Chip.resetFld]

@[simp] theorem Chip.lane_resetFld (f : Fld) (m : Lane) : (c.resetFld f).lane m = c.lane m := by
  simp [Chip.lane]

@[simp] theorem Chip.nbr_resetFld (f : Fld) (j : Nat) : (c.resetFld f).nbr j = c.nbr j := by
  simp [Chip.nbr]

@[simp] theorem Chip.queue_resetFld (f : Fld) (j : Nat) : (c.resetFld f).queue j = c.queue j := by
  simp [Chip.queue]

@[simp] theorem Chip.ring_resetFld (f : Fld) (j : Nat) : (c.resetFld f).ring j = c.ring j := by
  simp [Chip.ring]

@[simp] theorem Chip.group_resetFld (f : Fld) (m : Lane) : (c.resetFld f).group m = c.group m := by
  simp [Chip.group]

@[simp] theorem Chip.nextFree_fields :
    (c.nextFree).part = c.part ∧ (c.nextFree).power = c.power ∧ (c.nextFree).stopped = c.stopped ∧
      (c.nextFree).regs = c.regs ∧ (c.nextFree).tick = c.tick ∧ (c.nextFree).rdata = c.rdata ∧
      (c.nextFree).latches = c.latches ∧ (c.nextFree).router = c.router ∧ (c.nextFree).pcie = c.pcie ∧
      (c.nextFree).qspi = c.qspi ∧ (c.nextFree).uart0 = c.uart0 ∧ (c.nextFree).uart1 = c.uart1 ∧
      (c.nextFree).twi0 = c.twi0 ∧ (c.nextFree).twi1 = c.twi1 ∧ (c.nextFree).gpioIn = c.gpioIn ∧
      (c.nextFree).links = c.links ∧ (c.nextFree).time = c.time ∧ (c.nextFree).meas = c.meas ∧
      (c.nextFree).fuses = c.fuses ∧ (c.nextFree).health = c.health ∧ (c.nextFree).boot = c.boot ∧
      (c.nextFree).pins = c.pins ∧ (c.nextFree).keys = c.keys ∧ (c.nextFree).qm = c.qm ∧ (c.nextFree).mbx = c.mbx ∧
      (c.nextFree).mac = c.mac ∧ (c.nextFree).wheel = c.wheel ∧ (c.nextFree).lanes = c.lanes ∧
      (c.nextFree).frames = c.frames ∧ (c.nextFree).jtag = c.jtag ∧ (c.nextFree).out = c.out := by
  simp [Chip.nextFree]

@[simp] theorem Chip.lane_nextFree (m : Lane) : (c.nextFree).lane m = c.lane m := by
  simp [Chip.lane]

@[simp] theorem Chip.nbr_nextFree (j : Nat) : (c.nextFree).nbr j = c.nbr j := by
  simp [Chip.nbr]

@[simp] theorem Chip.queue_nextFree (j : Nat) : (c.nextFree).queue j = c.queue j := by
  simp [Chip.queue]

@[simp] theorem Chip.ring_nextFree (j : Nat) : (c.nextFree).ring j = c.ring j := by
  simp [Chip.ring]

@[simp] theorem Chip.group_nextFree (m : Lane) : (c.nextFree).group m = c.group m := by
  simp [Chip.group]

@[simp] theorem Chip.get_nextFree (g : Fld) : (c.nextFree).get g = c.get g := by
  simp [Chip.get]

@[simp] theorem Chip.setRdata_fields (v : Nat) :
    (c.setRdata v).part = c.part ∧ (c.setRdata v).power = c.power ∧ (c.setRdata v).stopped = c.stopped ∧
      (c.setRdata v).regs = c.regs ∧ (c.setRdata v).tick = c.tick ∧ (c.setRdata v).free = c.free ∧
      (c.setRdata v).latches = c.latches ∧ (c.setRdata v).router = c.router ∧ (c.setRdata v).pcie = c.pcie ∧
      (c.setRdata v).qspi = c.qspi ∧ (c.setRdata v).uart0 = c.uart0 ∧ (c.setRdata v).uart1 = c.uart1 ∧
      (c.setRdata v).twi0 = c.twi0 ∧ (c.setRdata v).twi1 = c.twi1 ∧ (c.setRdata v).gpioIn = c.gpioIn ∧
      (c.setRdata v).links = c.links ∧ (c.setRdata v).time = c.time ∧ (c.setRdata v).meas = c.meas ∧
      (c.setRdata v).fuses = c.fuses ∧ (c.setRdata v).health = c.health ∧ (c.setRdata v).boot = c.boot ∧
      (c.setRdata v).pins = c.pins ∧ (c.setRdata v).keys = c.keys ∧ (c.setRdata v).qm = c.qm ∧
      (c.setRdata v).mbx = c.mbx ∧ (c.setRdata v).mac = c.mac ∧ (c.setRdata v).wheel = c.wheel ∧
      (c.setRdata v).lanes = c.lanes ∧ (c.setRdata v).frames = c.frames ∧ (c.setRdata v).jtag = c.jtag ∧
      (c.setRdata v).out = c.out := by
  simp [Chip.setRdata]

@[simp] theorem Chip.lane_setRdata (v : Nat) (m : Lane) : (c.setRdata v).lane m = c.lane m := by
  simp [Chip.lane]

@[simp] theorem Chip.nbr_setRdata (v : Nat) (j : Nat) : (c.setRdata v).nbr j = c.nbr j := by
  simp [Chip.nbr]

@[simp] theorem Chip.queue_setRdata (v : Nat) (j : Nat) : (c.setRdata v).queue j = c.queue j := by
  simp [Chip.queue]

@[simp] theorem Chip.ring_setRdata (v : Nat) (j : Nat) : (c.setRdata v).ring j = c.ring j := by
  simp [Chip.ring]

@[simp] theorem Chip.group_setRdata (v : Nat) (m : Lane) : (c.setRdata v).group m = c.group m := by
  simp [Chip.group]

@[simp] theorem Chip.get_setRdata (v : Nat) (g : Fld) : (c.setRdata v).get g = c.get g := by
  simp [Chip.get]

@[simp] theorem Chip.emit_fields (e : Emission) :
    (c.emit e).part = c.part ∧ (c.emit e).power = c.power ∧ (c.emit e).stopped = c.stopped ∧
      (c.emit e).regs = c.regs ∧ (c.emit e).tick = c.tick ∧ (c.emit e).free = c.free ∧ (c.emit e).rdata = c.rdata ∧
      (c.emit e).latches = c.latches ∧ (c.emit e).router = c.router ∧ (c.emit e).pcie = c.pcie ∧
      (c.emit e).qspi = c.qspi ∧ (c.emit e).uart0 = c.uart0 ∧ (c.emit e).uart1 = c.uart1 ∧
      (c.emit e).twi0 = c.twi0 ∧ (c.emit e).twi1 = c.twi1 ∧ (c.emit e).gpioIn = c.gpioIn ∧
      (c.emit e).links = c.links ∧ (c.emit e).time = c.time ∧ (c.emit e).meas = c.meas ∧
      (c.emit e).fuses = c.fuses ∧ (c.emit e).health = c.health ∧ (c.emit e).boot = c.boot ∧
      (c.emit e).pins = c.pins ∧ (c.emit e).keys = c.keys ∧ (c.emit e).qm = c.qm ∧ (c.emit e).mbx = c.mbx ∧
      (c.emit e).mac = c.mac ∧ (c.emit e).wheel = c.wheel ∧ (c.emit e).lanes = c.lanes ∧
      (c.emit e).frames = c.frames ∧ (c.emit e).jtag = c.jtag := by
  simp [Chip.emit]

@[simp] theorem Chip.lane_emit (e : Emission) (m : Lane) : (c.emit e).lane m = c.lane m := by
  simp [Chip.lane]

@[simp] theorem Chip.nbr_emit (e : Emission) (j : Nat) : (c.emit e).nbr j = c.nbr j := by
  simp [Chip.nbr]

@[simp] theorem Chip.queue_emit (e : Emission) (j : Nat) : (c.emit e).queue j = c.queue j := by
  simp [Chip.queue]

@[simp] theorem Chip.ring_emit (e : Emission) (j : Nat) : (c.emit e).ring j = c.ring j := by
  simp [Chip.ring]

@[simp] theorem Chip.group_emit (e : Emission) (m : Lane) : (c.emit e).group m = c.group m := by
  simp [Chip.group]

@[simp] theorem Chip.get_emit (e : Emission) (g : Fld) : (c.emit e).get g = c.get g := by
  simp [Chip.get]

@[simp] theorem Chip.setPower_fields (p : Power) :
    (c.setPower p).part = c.part ∧ (c.setPower p).stopped = c.stopped ∧ (c.setPower p).tick = c.tick ∧
      (c.setPower p).free = c.free ∧ (c.setPower p).rdata = c.rdata ∧ (c.setPower p).latches = c.latches ∧
      (c.setPower p).router = c.router ∧ (c.setPower p).pcie = c.pcie ∧ (c.setPower p).qspi = c.qspi ∧
      (c.setPower p).uart0 = c.uart0 ∧ (c.setPower p).uart1 = c.uart1 ∧ (c.setPower p).twi0 = c.twi0 ∧
      (c.setPower p).twi1 = c.twi1 ∧ (c.setPower p).gpioIn = c.gpioIn ∧ (c.setPower p).links = c.links ∧
      (c.setPower p).time = c.time ∧ (c.setPower p).meas = c.meas ∧ (c.setPower p).fuses = c.fuses ∧
      (c.setPower p).health = c.health ∧ (c.setPower p).boot = c.boot ∧ (c.setPower p).pins = c.pins ∧
      (c.setPower p).keys = c.keys ∧ (c.setPower p).qm = c.qm ∧ (c.setPower p).mbx = c.mbx ∧
      (c.setPower p).mac = c.mac ∧ (c.setPower p).wheel = c.wheel ∧ (c.setPower p).lanes = c.lanes ∧
      (c.setPower p).frames = c.frames ∧ (c.setPower p).jtag = c.jtag ∧ (c.setPower p).out = c.out := by
  simp [Chip.setPower]

@[simp] theorem Chip.lane_setPower (p : Power) (m : Lane) : (c.setPower p).lane m = c.lane m := by
  simp [Chip.lane]

@[simp] theorem Chip.nbr_setPower (p : Power) (j : Nat) : (c.setPower p).nbr j = c.nbr j := by
  simp [Chip.nbr]

@[simp] theorem Chip.queue_setPower (p : Power) (j : Nat) : (c.setPower p).queue j = c.queue j := by
  simp [Chip.queue]

@[simp] theorem Chip.ring_setPower (p : Power) (j : Nat) : (c.setPower p).ring j = c.ring j := by
  simp [Chip.ring]

@[simp] theorem Chip.group_setPower (p : Power) (m : Lane) : (c.setPower p).group m = c.group m := by
  simp [Chip.group]

@[simp] theorem Chip.advance_fields (k : Nat) :
    (c.advance k).part = c.part ∧ (c.advance k).power = c.power ∧ (c.advance k).stopped = c.stopped ∧
      (c.advance k).regs = c.regs ∧ (c.advance k).free = c.free ∧ (c.advance k).rdata = c.rdata ∧
      (c.advance k).latches = c.latches ∧ (c.advance k).router = c.router ∧ (c.advance k).pcie = c.pcie ∧
      (c.advance k).qspi = c.qspi ∧ (c.advance k).uart0 = c.uart0 ∧ (c.advance k).uart1 = c.uart1 ∧
      (c.advance k).twi0 = c.twi0 ∧ (c.advance k).twi1 = c.twi1 ∧ (c.advance k).gpioIn = c.gpioIn ∧
      (c.advance k).links = c.links ∧ (c.advance k).meas = c.meas ∧ (c.advance k).fuses = c.fuses ∧
      (c.advance k).health = c.health ∧ (c.advance k).boot = c.boot ∧ (c.advance k).pins = c.pins ∧
      (c.advance k).keys = c.keys ∧ (c.advance k).qm = c.qm ∧ (c.advance k).mbx = c.mbx ∧
      (c.advance k).mac = c.mac ∧ (c.advance k).wheel = c.wheel ∧ (c.advance k).lanes = c.lanes ∧
      (c.advance k).frames = c.frames ∧ (c.advance k).jtag = c.jtag ∧ (c.advance k).out = c.out := by
  simp [Chip.advance]

@[simp] theorem Chip.lane_advance (k : Nat) (m : Lane) : (c.advance k).lane m = c.lane m := by
  simp [Chip.lane]

@[simp] theorem Chip.nbr_advance (k : Nat) (j : Nat) : (c.advance k).nbr j = c.nbr j := by
  simp [Chip.nbr]

@[simp] theorem Chip.queue_advance (k : Nat) (j : Nat) : (c.advance k).queue j = c.queue j := by
  simp [Chip.queue]

@[simp] theorem Chip.ring_advance (k : Nat) (j : Nat) : (c.advance k).ring j = c.ring j := by
  simp [Chip.ring]

@[simp] theorem Chip.group_advance (k : Nat) (m : Lane) : (c.advance k).group m = c.group m := by
  simp [Chip.group]

@[simp] theorem Chip.get_advance (k : Nat) (g : Fld) : (c.advance k).get g = c.get g := by
  simp [Chip.get]

@[simp] theorem Chip.advanceTo_fields (k : Nat) :
    (c.advanceTo k).part = c.part ∧ (c.advanceTo k).power = c.power ∧ (c.advanceTo k).stopped = c.stopped ∧
      (c.advanceTo k).regs = c.regs ∧ (c.advanceTo k).free = c.free ∧ (c.advanceTo k).rdata = c.rdata ∧
      (c.advanceTo k).latches = c.latches ∧ (c.advanceTo k).router = c.router ∧ (c.advanceTo k).pcie = c.pcie ∧
      (c.advanceTo k).qspi = c.qspi ∧ (c.advanceTo k).uart0 = c.uart0 ∧ (c.advanceTo k).uart1 = c.uart1 ∧
      (c.advanceTo k).twi0 = c.twi0 ∧ (c.advanceTo k).twi1 = c.twi1 ∧ (c.advanceTo k).gpioIn = c.gpioIn ∧
      (c.advanceTo k).links = c.links ∧ (c.advanceTo k).meas = c.meas ∧ (c.advanceTo k).fuses = c.fuses ∧
      (c.advanceTo k).health = c.health ∧ (c.advanceTo k).boot = c.boot ∧ (c.advanceTo k).pins = c.pins ∧
      (c.advanceTo k).keys = c.keys ∧ (c.advanceTo k).qm = c.qm ∧ (c.advanceTo k).mbx = c.mbx ∧
      (c.advanceTo k).mac = c.mac ∧ (c.advanceTo k).wheel = c.wheel ∧ (c.advanceTo k).lanes = c.lanes ∧
      (c.advanceTo k).frames = c.frames ∧ (c.advanceTo k).jtag = c.jtag ∧ (c.advanceTo k).out = c.out := by
  simp [Chip.advanceTo]

@[simp] theorem Chip.lane_advanceTo (k : Nat) (m : Lane) : (c.advanceTo k).lane m = c.lane m := by
  simp [Chip.lane]

@[simp] theorem Chip.nbr_advanceTo (k : Nat) (j : Nat) : (c.advanceTo k).nbr j = c.nbr j := by
  simp [Chip.nbr]

@[simp] theorem Chip.queue_advanceTo (k : Nat) (j : Nat) : (c.advanceTo k).queue j = c.queue j := by
  simp [Chip.queue]

@[simp] theorem Chip.ring_advanceTo (k : Nat) (j : Nat) : (c.advanceTo k).ring j = c.ring j := by
  simp [Chip.ring]

@[simp] theorem Chip.group_advanceTo (k : Nat) (m : Lane) : (c.advanceTo k).group m = c.group m := by
  simp [Chip.group]

@[simp] theorem Chip.get_advanceTo (k : Nat) (g : Fld) : (c.advanceTo k).get g = c.get g := by
  simp [Chip.get]

@[simp] theorem Chip.setLatch_fields (i : Init) (p : Page) (l : PrLatch) :
    (c.setLatch i p l).part = c.part ∧ (c.setLatch i p l).power = c.power ∧
      (c.setLatch i p l).stopped = c.stopped ∧ (c.setLatch i p l).regs = c.regs ∧
      (c.setLatch i p l).tick = c.tick ∧ (c.setLatch i p l).free = c.free ∧ (c.setLatch i p l).rdata = c.rdata ∧
      (c.setLatch i p l).router = c.router ∧ (c.setLatch i p l).pcie = c.pcie ∧ (c.setLatch i p l).qspi = c.qspi ∧
      (c.setLatch i p l).uart0 = c.uart0 ∧ (c.setLatch i p l).uart1 = c.uart1 ∧ (c.setLatch i p l).twi0 = c.twi0 ∧
      (c.setLatch i p l).twi1 = c.twi1 ∧ (c.setLatch i p l).gpioIn = c.gpioIn ∧
      (c.setLatch i p l).links = c.links ∧ (c.setLatch i p l).time = c.time ∧ (c.setLatch i p l).meas = c.meas ∧
      (c.setLatch i p l).fuses = c.fuses ∧ (c.setLatch i p l).health = c.health ∧
      (c.setLatch i p l).boot = c.boot ∧ (c.setLatch i p l).pins = c.pins ∧ (c.setLatch i p l).keys = c.keys ∧
      (c.setLatch i p l).qm = c.qm ∧ (c.setLatch i p l).mbx = c.mbx ∧ (c.setLatch i p l).mac = c.mac ∧
      (c.setLatch i p l).wheel = c.wheel ∧ (c.setLatch i p l).lanes = c.lanes ∧
      (c.setLatch i p l).frames = c.frames ∧ (c.setLatch i p l).jtag = c.jtag ∧ (c.setLatch i p l).out = c.out := by
  simp [Chip.setLatch]

@[simp] theorem Chip.lane_setLatch (i : Init) (p : Page) (l : PrLatch) (m : Lane) : (c.setLatch i p l).lane m = c.lane m := by
  simp [Chip.lane]

@[simp] theorem Chip.nbr_setLatch (i : Init) (p : Page) (l : PrLatch) (j : Nat) : (c.setLatch i p l).nbr j = c.nbr j := by
  simp [Chip.nbr]

@[simp] theorem Chip.queue_setLatch (i : Init) (p : Page) (l : PrLatch) (j : Nat) : (c.setLatch i p l).queue j = c.queue j := by
  simp [Chip.queue]

@[simp] theorem Chip.ring_setLatch (i : Init) (p : Page) (l : PrLatch) (j : Nat) : (c.setLatch i p l).ring j = c.ring j := by
  simp [Chip.ring]

@[simp] theorem Chip.group_setLatch (i : Init) (p : Page) (l : PrLatch) (m : Lane) : (c.setLatch i p l).group m = c.group m := by
  simp [Chip.group]

@[simp] theorem Chip.get_setLatch (i : Init) (p : Page) (l : PrLatch) (g : Fld) : (c.setLatch i p l).get g = c.get g := by
  simp [Chip.get]

@[simp] theorem Chip.touch_fields (i : Init) (p : Page) :
    (c.touch i p).part = c.part ∧ (c.touch i p).power = c.power ∧ (c.touch i p).stopped = c.stopped ∧
      (c.touch i p).regs = c.regs ∧ (c.touch i p).tick = c.tick ∧ (c.touch i p).free = c.free ∧
      (c.touch i p).rdata = c.rdata ∧ (c.touch i p).router = c.router ∧ (c.touch i p).pcie = c.pcie ∧
      (c.touch i p).qspi = c.qspi ∧ (c.touch i p).uart0 = c.uart0 ∧ (c.touch i p).uart1 = c.uart1 ∧
      (c.touch i p).twi0 = c.twi0 ∧ (c.touch i p).twi1 = c.twi1 ∧ (c.touch i p).gpioIn = c.gpioIn ∧
      (c.touch i p).links = c.links ∧ (c.touch i p).time = c.time ∧ (c.touch i p).meas = c.meas ∧
      (c.touch i p).fuses = c.fuses ∧ (c.touch i p).health = c.health ∧ (c.touch i p).boot = c.boot ∧
      (c.touch i p).pins = c.pins ∧ (c.touch i p).keys = c.keys ∧ (c.touch i p).qm = c.qm ∧
      (c.touch i p).mbx = c.mbx ∧ (c.touch i p).mac = c.mac ∧ (c.touch i p).wheel = c.wheel ∧
      (c.touch i p).lanes = c.lanes ∧ (c.touch i p).frames = c.frames ∧ (c.touch i p).jtag = c.jtag ∧
      (c.touch i p).out = c.out := by
  simp [Chip.touch]

@[simp] theorem Chip.lane_touch (i : Init) (p : Page) (m : Lane) : (c.touch i p).lane m = c.lane m := by
  simp [Chip.lane]

@[simp] theorem Chip.nbr_touch (i : Init) (p : Page) (j : Nat) : (c.touch i p).nbr j = c.nbr j := by
  simp [Chip.nbr]

@[simp] theorem Chip.queue_touch (i : Init) (p : Page) (j : Nat) : (c.touch i p).queue j = c.queue j := by
  simp [Chip.queue]

@[simp] theorem Chip.ring_touch (i : Init) (p : Page) (j : Nat) : (c.touch i p).ring j = c.ring j := by
  simp [Chip.ring]

@[simp] theorem Chip.group_touch (i : Init) (p : Page) (m : Lane) : (c.touch i p).group m = c.group m := by
  simp [Chip.group]

@[simp] theorem Chip.get_touch (i : Init) (p : Page) (g : Fld) : (c.touch i p).get g = c.get g := by
  simp [Chip.get]

@[simp] theorem Chip.onLane_fields (n : Lane) (f : LaneSt → LaneSt) :
    (c.onLane n f).part = c.part ∧ (c.onLane n f).power = c.power ∧ (c.onLane n f).stopped = c.stopped ∧
      (c.onLane n f).regs = c.regs ∧ (c.onLane n f).tick = c.tick ∧ (c.onLane n f).free = c.free ∧
      (c.onLane n f).rdata = c.rdata ∧ (c.onLane n f).latches = c.latches ∧ (c.onLane n f).router = c.router ∧
      (c.onLane n f).pcie = c.pcie ∧ (c.onLane n f).qspi = c.qspi ∧ (c.onLane n f).uart0 = c.uart0 ∧
      (c.onLane n f).uart1 = c.uart1 ∧ (c.onLane n f).twi0 = c.twi0 ∧ (c.onLane n f).twi1 = c.twi1 ∧
      (c.onLane n f).gpioIn = c.gpioIn ∧ (c.onLane n f).links = c.links ∧ (c.onLane n f).time = c.time ∧
      (c.onLane n f).meas = c.meas ∧ (c.onLane n f).fuses = c.fuses ∧ (c.onLane n f).health = c.health ∧
      (c.onLane n f).boot = c.boot ∧ (c.onLane n f).pins = c.pins ∧ (c.onLane n f).keys = c.keys ∧
      (c.onLane n f).qm = c.qm ∧ (c.onLane n f).mbx = c.mbx ∧ (c.onLane n f).mac = c.mac ∧
      (c.onLane n f).wheel = c.wheel ∧ (c.onLane n f).frames = c.frames ∧ (c.onLane n f).jtag = c.jtag ∧
      (c.onLane n f).out = c.out := by
  simp [Chip.onLane]

@[simp] theorem Chip.nbr_onLane (n : Lane) (f : LaneSt → LaneSt) (j : Nat) : (c.onLane n f).nbr j = c.nbr j := by
  simp [Chip.nbr]

@[simp] theorem Chip.queue_onLane (n : Lane) (f : LaneSt → LaneSt) (j : Nat) : (c.onLane n f).queue j = c.queue j := by
  simp [Chip.queue]

@[simp] theorem Chip.ring_onLane (n : Lane) (f : LaneSt → LaneSt) (j : Nat) : (c.onLane n f).ring j = c.ring j := by
  simp [Chip.ring]

@[simp] theorem Chip.group_onLane (n : Lane) (f : LaneSt → LaneSt) (m : Lane) : (c.onLane n f).group m = c.group m := by
  simp [Chip.group]

@[simp] theorem Chip.get_onLane (n : Lane) (f : LaneSt → LaneSt) (g : Fld) : (c.onLane n f).get g = c.get g := by
  simp [Chip.get]

@[simp] theorem Chip.onRx_fields (n : Lane) (f : LaneRx → LaneRx) :
    (c.onRx n f).part = c.part ∧ (c.onRx n f).power = c.power ∧ (c.onRx n f).stopped = c.stopped ∧
      (c.onRx n f).regs = c.regs ∧ (c.onRx n f).tick = c.tick ∧ (c.onRx n f).free = c.free ∧
      (c.onRx n f).rdata = c.rdata ∧ (c.onRx n f).latches = c.latches ∧ (c.onRx n f).router = c.router ∧
      (c.onRx n f).pcie = c.pcie ∧ (c.onRx n f).qspi = c.qspi ∧ (c.onRx n f).uart0 = c.uart0 ∧
      (c.onRx n f).uart1 = c.uart1 ∧ (c.onRx n f).twi0 = c.twi0 ∧ (c.onRx n f).twi1 = c.twi1 ∧
      (c.onRx n f).gpioIn = c.gpioIn ∧ (c.onRx n f).links = c.links ∧ (c.onRx n f).time = c.time ∧
      (c.onRx n f).meas = c.meas ∧ (c.onRx n f).fuses = c.fuses ∧ (c.onRx n f).health = c.health ∧
      (c.onRx n f).boot = c.boot ∧ (c.onRx n f).pins = c.pins ∧ (c.onRx n f).keys = c.keys ∧
      (c.onRx n f).qm = c.qm ∧ (c.onRx n f).mbx = c.mbx ∧ (c.onRx n f).mac = c.mac ∧ (c.onRx n f).wheel = c.wheel ∧
      (c.onRx n f).frames = c.frames ∧ (c.onRx n f).jtag = c.jtag ∧ (c.onRx n f).out = c.out := by
  simp [Chip.onRx]

@[simp] theorem Chip.nbr_onRx (n : Lane) (f : LaneRx → LaneRx) (j : Nat) : (c.onRx n f).nbr j = c.nbr j := by
  simp [Chip.nbr]

@[simp] theorem Chip.queue_onRx (n : Lane) (f : LaneRx → LaneRx) (j : Nat) : (c.onRx n f).queue j = c.queue j := by
  simp [Chip.queue]

@[simp] theorem Chip.ring_onRx (n : Lane) (f : LaneRx → LaneRx) (j : Nat) : (c.onRx n f).ring j = c.ring j := by
  simp [Chip.ring]

@[simp] theorem Chip.group_onRx (n : Lane) (f : LaneRx → LaneRx) (m : Lane) : (c.onRx n f).group m = c.group m := by
  simp [Chip.group]

@[simp] theorem Chip.get_onRx (n : Lane) (f : LaneRx → LaneRx) (g : Fld) : (c.onRx n f).get g = c.get g := by
  simp [Chip.get]

@[simp] theorem Chip.onTx_fields (n : Lane) (f : LaneTx → LaneTx) :
    (c.onTx n f).part = c.part ∧ (c.onTx n f).power = c.power ∧ (c.onTx n f).stopped = c.stopped ∧
      (c.onTx n f).regs = c.regs ∧ (c.onTx n f).tick = c.tick ∧ (c.onTx n f).free = c.free ∧
      (c.onTx n f).rdata = c.rdata ∧ (c.onTx n f).latches = c.latches ∧ (c.onTx n f).router = c.router ∧
      (c.onTx n f).pcie = c.pcie ∧ (c.onTx n f).qspi = c.qspi ∧ (c.onTx n f).uart0 = c.uart0 ∧
      (c.onTx n f).uart1 = c.uart1 ∧ (c.onTx n f).twi0 = c.twi0 ∧ (c.onTx n f).twi1 = c.twi1 ∧
      (c.onTx n f).gpioIn = c.gpioIn ∧ (c.onTx n f).links = c.links ∧ (c.onTx n f).time = c.time ∧
      (c.onTx n f).meas = c.meas ∧ (c.onTx n f).fuses = c.fuses ∧ (c.onTx n f).health = c.health ∧
      (c.onTx n f).boot = c.boot ∧ (c.onTx n f).pins = c.pins ∧ (c.onTx n f).keys = c.keys ∧
      (c.onTx n f).qm = c.qm ∧ (c.onTx n f).mbx = c.mbx ∧ (c.onTx n f).mac = c.mac ∧ (c.onTx n f).wheel = c.wheel ∧
      (c.onTx n f).frames = c.frames ∧ (c.onTx n f).jtag = c.jtag ∧ (c.onTx n f).out = c.out := by
  simp [Chip.onTx]

@[simp] theorem Chip.nbr_onTx (n : Lane) (f : LaneTx → LaneTx) (j : Nat) : (c.onTx n f).nbr j = c.nbr j := by
  simp [Chip.nbr]

@[simp] theorem Chip.queue_onTx (n : Lane) (f : LaneTx → LaneTx) (j : Nat) : (c.onTx n f).queue j = c.queue j := by
  simp [Chip.queue]

@[simp] theorem Chip.ring_onTx (n : Lane) (f : LaneTx → LaneTx) (j : Nat) : (c.onTx n f).ring j = c.ring j := by
  simp [Chip.ring]

@[simp] theorem Chip.group_onTx (n : Lane) (f : LaneTx → LaneTx) (m : Lane) : (c.onTx n f).group m = c.group m := by
  simp [Chip.group]

@[simp] theorem Chip.get_onTx (n : Lane) (f : LaneTx → LaneTx) (g : Fld) : (c.onTx n f).get g = c.get g := by
  simp [Chip.get]

@[simp] theorem Chip.onEcho_fields (n : Lane) (f : Echo → Echo) :
    (c.onEcho n f).part = c.part ∧ (c.onEcho n f).power = c.power ∧ (c.onEcho n f).stopped = c.stopped ∧
      (c.onEcho n f).regs = c.regs ∧ (c.onEcho n f).tick = c.tick ∧ (c.onEcho n f).free = c.free ∧
      (c.onEcho n f).rdata = c.rdata ∧ (c.onEcho n f).latches = c.latches ∧ (c.onEcho n f).router = c.router ∧
      (c.onEcho n f).pcie = c.pcie ∧ (c.onEcho n f).qspi = c.qspi ∧ (c.onEcho n f).uart0 = c.uart0 ∧
      (c.onEcho n f).uart1 = c.uart1 ∧ (c.onEcho n f).twi0 = c.twi0 ∧ (c.onEcho n f).twi1 = c.twi1 ∧
      (c.onEcho n f).gpioIn = c.gpioIn ∧ (c.onEcho n f).links = c.links ∧ (c.onEcho n f).time = c.time ∧
      (c.onEcho n f).meas = c.meas ∧ (c.onEcho n f).fuses = c.fuses ∧ (c.onEcho n f).health = c.health ∧
      (c.onEcho n f).boot = c.boot ∧ (c.onEcho n f).pins = c.pins ∧ (c.onEcho n f).keys = c.keys ∧
      (c.onEcho n f).qm = c.qm ∧ (c.onEcho n f).mbx = c.mbx ∧ (c.onEcho n f).mac = c.mac ∧
      (c.onEcho n f).wheel = c.wheel ∧ (c.onEcho n f).frames = c.frames ∧ (c.onEcho n f).jtag = c.jtag ∧
      (c.onEcho n f).out = c.out := by
  simp [Chip.onEcho]

@[simp] theorem Chip.nbr_onEcho (n : Lane) (f : Echo → Echo) (j : Nat) : (c.onEcho n f).nbr j = c.nbr j := by
  simp [Chip.nbr]

@[simp] theorem Chip.queue_onEcho (n : Lane) (f : Echo → Echo) (j : Nat) : (c.onEcho n f).queue j = c.queue j := by
  simp [Chip.queue]

@[simp] theorem Chip.ring_onEcho (n : Lane) (f : Echo → Echo) (j : Nat) : (c.onEcho n f).ring j = c.ring j := by
  simp [Chip.ring]

@[simp] theorem Chip.group_onEcho (n : Lane) (f : Echo → Echo) (m : Lane) : (c.onEcho n f).group m = c.group m := by
  simp [Chip.group]

@[simp] theorem Chip.get_onEcho (n : Lane) (f : Echo → Echo) (g : Fld) : (c.onEcho n f).get g = c.get g := by
  simp [Chip.get]

@[simp] theorem Chip.onAfe_fields (n : Lane) (f : Afe → Afe) :
    (c.onAfe n f).part = c.part ∧ (c.onAfe n f).power = c.power ∧ (c.onAfe n f).stopped = c.stopped ∧
      (c.onAfe n f).regs = c.regs ∧ (c.onAfe n f).tick = c.tick ∧ (c.onAfe n f).free = c.free ∧
      (c.onAfe n f).rdata = c.rdata ∧ (c.onAfe n f).latches = c.latches ∧ (c.onAfe n f).router = c.router ∧
      (c.onAfe n f).pcie = c.pcie ∧ (c.onAfe n f).qspi = c.qspi ∧ (c.onAfe n f).uart0 = c.uart0 ∧
      (c.onAfe n f).uart1 = c.uart1 ∧ (c.onAfe n f).twi0 = c.twi0 ∧ (c.onAfe n f).twi1 = c.twi1 ∧
      (c.onAfe n f).gpioIn = c.gpioIn ∧ (c.onAfe n f).links = c.links ∧ (c.onAfe n f).time = c.time ∧
      (c.onAfe n f).meas = c.meas ∧ (c.onAfe n f).fuses = c.fuses ∧ (c.onAfe n f).health = c.health ∧
      (c.onAfe n f).boot = c.boot ∧ (c.onAfe n f).pins = c.pins ∧ (c.onAfe n f).keys = c.keys ∧
      (c.onAfe n f).qm = c.qm ∧ (c.onAfe n f).mbx = c.mbx ∧ (c.onAfe n f).mac = c.mac ∧
      (c.onAfe n f).wheel = c.wheel ∧ (c.onAfe n f).frames = c.frames ∧ (c.onAfe n f).jtag = c.jtag ∧
      (c.onAfe n f).out = c.out := by
  simp [Chip.onAfe]

@[simp] theorem Chip.nbr_onAfe (n : Lane) (f : Afe → Afe) (j : Nat) : (c.onAfe n f).nbr j = c.nbr j := by
  simp [Chip.nbr]

@[simp] theorem Chip.queue_onAfe (n : Lane) (f : Afe → Afe) (j : Nat) : (c.onAfe n f).queue j = c.queue j := by
  simp [Chip.queue]

@[simp] theorem Chip.ring_onAfe (n : Lane) (f : Afe → Afe) (j : Nat) : (c.onAfe n f).ring j = c.ring j := by
  simp [Chip.ring]

@[simp] theorem Chip.group_onAfe (n : Lane) (f : Afe → Afe) (m : Lane) : (c.onAfe n f).group m = c.group m := by
  simp [Chip.group]

@[simp] theorem Chip.get_onAfe (n : Lane) (f : Afe → Afe) (g : Fld) : (c.onAfe n f).get g = c.get g := by
  simp [Chip.get]

@[simp] theorem Chip.onTmap_fields (n : Lane) (f : Tmap → Tmap) :
    (c.onTmap n f).part = c.part ∧ (c.onTmap n f).power = c.power ∧ (c.onTmap n f).stopped = c.stopped ∧
      (c.onTmap n f).regs = c.regs ∧ (c.onTmap n f).tick = c.tick ∧ (c.onTmap n f).free = c.free ∧
      (c.onTmap n f).rdata = c.rdata ∧ (c.onTmap n f).latches = c.latches ∧ (c.onTmap n f).router = c.router ∧
      (c.onTmap n f).pcie = c.pcie ∧ (c.onTmap n f).qspi = c.qspi ∧ (c.onTmap n f).uart0 = c.uart0 ∧
      (c.onTmap n f).uart1 = c.uart1 ∧ (c.onTmap n f).twi0 = c.twi0 ∧ (c.onTmap n f).twi1 = c.twi1 ∧
      (c.onTmap n f).gpioIn = c.gpioIn ∧ (c.onTmap n f).links = c.links ∧ (c.onTmap n f).time = c.time ∧
      (c.onTmap n f).meas = c.meas ∧ (c.onTmap n f).fuses = c.fuses ∧ (c.onTmap n f).health = c.health ∧
      (c.onTmap n f).boot = c.boot ∧ (c.onTmap n f).pins = c.pins ∧ (c.onTmap n f).keys = c.keys ∧
      (c.onTmap n f).qm = c.qm ∧ (c.onTmap n f).mbx = c.mbx ∧ (c.onTmap n f).mac = c.mac ∧
      (c.onTmap n f).wheel = c.wheel ∧ (c.onTmap n f).frames = c.frames ∧ (c.onTmap n f).jtag = c.jtag ∧
      (c.onTmap n f).out = c.out := by
  simp [Chip.onTmap]

@[simp] theorem Chip.nbr_onTmap (n : Lane) (f : Tmap → Tmap) (j : Nat) : (c.onTmap n f).nbr j = c.nbr j := by
  simp [Chip.nbr]

@[simp] theorem Chip.queue_onTmap (n : Lane) (f : Tmap → Tmap) (j : Nat) : (c.onTmap n f).queue j = c.queue j := by
  simp [Chip.queue]

@[simp] theorem Chip.ring_onTmap (n : Lane) (f : Tmap → Tmap) (j : Nat) : (c.onTmap n f).ring j = c.ring j := by
  simp [Chip.ring]

@[simp] theorem Chip.group_onTmap (n : Lane) (f : Tmap → Tmap) (m : Lane) : (c.onTmap n f).group m = c.group m := by
  simp [Chip.group]

@[simp] theorem Chip.get_onTmap (n : Lane) (f : Tmap → Tmap) (g : Fld) : (c.onTmap n f).get g = c.get g := by
  simp [Chip.get]

@[simp] theorem Chip.onSlip_fields (n : Lane) (f : Slip → Slip) :
    (c.onSlip n f).part = c.part ∧ (c.onSlip n f).power = c.power ∧ (c.onSlip n f).stopped = c.stopped ∧
      (c.onSlip n f).regs = c.regs ∧ (c.onSlip n f).tick = c.tick ∧ (c.onSlip n f).free = c.free ∧
      (c.onSlip n f).rdata = c.rdata ∧ (c.onSlip n f).latches = c.latches ∧ (c.onSlip n f).router = c.router ∧
      (c.onSlip n f).pcie = c.pcie ∧ (c.onSlip n f).qspi = c.qspi ∧ (c.onSlip n f).uart0 = c.uart0 ∧
      (c.onSlip n f).uart1 = c.uart1 ∧ (c.onSlip n f).twi0 = c.twi0 ∧ (c.onSlip n f).twi1 = c.twi1 ∧
      (c.onSlip n f).gpioIn = c.gpioIn ∧ (c.onSlip n f).links = c.links ∧ (c.onSlip n f).time = c.time ∧
      (c.onSlip n f).meas = c.meas ∧ (c.onSlip n f).fuses = c.fuses ∧ (c.onSlip n f).health = c.health ∧
      (c.onSlip n f).boot = c.boot ∧ (c.onSlip n f).pins = c.pins ∧ (c.onSlip n f).keys = c.keys ∧
      (c.onSlip n f).qm = c.qm ∧ (c.onSlip n f).mbx = c.mbx ∧ (c.onSlip n f).mac = c.mac ∧
      (c.onSlip n f).wheel = c.wheel ∧ (c.onSlip n f).frames = c.frames ∧ (c.onSlip n f).jtag = c.jtag ∧
      (c.onSlip n f).out = c.out := by
  simp [Chip.onSlip]

@[simp] theorem Chip.nbr_onSlip (n : Lane) (f : Slip → Slip) (j : Nat) : (c.onSlip n f).nbr j = c.nbr j := by
  simp [Chip.nbr]

@[simp] theorem Chip.queue_onSlip (n : Lane) (f : Slip → Slip) (j : Nat) : (c.onSlip n f).queue j = c.queue j := by
  simp [Chip.queue]

@[simp] theorem Chip.ring_onSlip (n : Lane) (f : Slip → Slip) (j : Nat) : (c.onSlip n f).ring j = c.ring j := by
  simp [Chip.ring]

@[simp] theorem Chip.group_onSlip (n : Lane) (f : Slip → Slip) (m : Lane) : (c.onSlip n f).group m = c.group m := by
  simp [Chip.group]

@[simp] theorem Chip.get_onSlip (n : Lane) (f : Slip → Slip) (g : Fld) : (c.onSlip n f).get g = c.get g := by
  simp [Chip.get]

@[simp] theorem Chip.onDec_fields (n : Lane) (f : Dec → Dec) :
    (c.onDec n f).part = c.part ∧ (c.onDec n f).power = c.power ∧ (c.onDec n f).stopped = c.stopped ∧
      (c.onDec n f).regs = c.regs ∧ (c.onDec n f).tick = c.tick ∧ (c.onDec n f).free = c.free ∧
      (c.onDec n f).rdata = c.rdata ∧ (c.onDec n f).latches = c.latches ∧ (c.onDec n f).router = c.router ∧
      (c.onDec n f).pcie = c.pcie ∧ (c.onDec n f).qspi = c.qspi ∧ (c.onDec n f).uart0 = c.uart0 ∧
      (c.onDec n f).uart1 = c.uart1 ∧ (c.onDec n f).twi0 = c.twi0 ∧ (c.onDec n f).twi1 = c.twi1 ∧
      (c.onDec n f).gpioIn = c.gpioIn ∧ (c.onDec n f).links = c.links ∧ (c.onDec n f).time = c.time ∧
      (c.onDec n f).meas = c.meas ∧ (c.onDec n f).fuses = c.fuses ∧ (c.onDec n f).health = c.health ∧
      (c.onDec n f).boot = c.boot ∧ (c.onDec n f).pins = c.pins ∧ (c.onDec n f).keys = c.keys ∧
      (c.onDec n f).qm = c.qm ∧ (c.onDec n f).mbx = c.mbx ∧ (c.onDec n f).mac = c.mac ∧
      (c.onDec n f).wheel = c.wheel ∧ (c.onDec n f).frames = c.frames ∧ (c.onDec n f).jtag = c.jtag ∧
      (c.onDec n f).out = c.out := by
  simp [Chip.onDec]

@[simp] theorem Chip.nbr_onDec (n : Lane) (f : Dec → Dec) (j : Nat) : (c.onDec n f).nbr j = c.nbr j := by
  simp [Chip.nbr]

@[simp] theorem Chip.queue_onDec (n : Lane) (f : Dec → Dec) (j : Nat) : (c.onDec n f).queue j = c.queue j := by
  simp [Chip.queue]

@[simp] theorem Chip.ring_onDec (n : Lane) (f : Dec → Dec) (j : Nat) : (c.onDec n f).ring j = c.ring j := by
  simp [Chip.ring]

@[simp] theorem Chip.group_onDec (n : Lane) (f : Dec → Dec) (m : Lane) : (c.onDec n f).group m = c.group m := by
  simp [Chip.group]

@[simp] theorem Chip.get_onDec (n : Lane) (f : Dec → Dec) (g : Fld) : (c.onDec n f).get g = c.get g := by
  simp [Chip.get]

@[simp] theorem Chip.onAgc_fields (n : Lane) (f : Agc → Agc) :
    (c.onAgc n f).part = c.part ∧ (c.onAgc n f).power = c.power ∧ (c.onAgc n f).stopped = c.stopped ∧
      (c.onAgc n f).regs = c.regs ∧ (c.onAgc n f).tick = c.tick ∧ (c.onAgc n f).free = c.free ∧
      (c.onAgc n f).rdata = c.rdata ∧ (c.onAgc n f).latches = c.latches ∧ (c.onAgc n f).router = c.router ∧
      (c.onAgc n f).pcie = c.pcie ∧ (c.onAgc n f).qspi = c.qspi ∧ (c.onAgc n f).uart0 = c.uart0 ∧
      (c.onAgc n f).uart1 = c.uart1 ∧ (c.onAgc n f).twi0 = c.twi0 ∧ (c.onAgc n f).twi1 = c.twi1 ∧
      (c.onAgc n f).gpioIn = c.gpioIn ∧ (c.onAgc n f).links = c.links ∧ (c.onAgc n f).time = c.time ∧
      (c.onAgc n f).meas = c.meas ∧ (c.onAgc n f).fuses = c.fuses ∧ (c.onAgc n f).health = c.health ∧
      (c.onAgc n f).boot = c.boot ∧ (c.onAgc n f).pins = c.pins ∧ (c.onAgc n f).keys = c.keys ∧
      (c.onAgc n f).qm = c.qm ∧ (c.onAgc n f).mbx = c.mbx ∧ (c.onAgc n f).mac = c.mac ∧
      (c.onAgc n f).wheel = c.wheel ∧ (c.onAgc n f).frames = c.frames ∧ (c.onAgc n f).jtag = c.jtag ∧
      (c.onAgc n f).out = c.out := by
  simp [Chip.onAgc]

@[simp] theorem Chip.nbr_onAgc (n : Lane) (f : Agc → Agc) (j : Nat) : (c.onAgc n f).nbr j = c.nbr j := by
  simp [Chip.nbr]

@[simp] theorem Chip.queue_onAgc (n : Lane) (f : Agc → Agc) (j : Nat) : (c.onAgc n f).queue j = c.queue j := by
  simp [Chip.queue]

@[simp] theorem Chip.ring_onAgc (n : Lane) (f : Agc → Agc) (j : Nat) : (c.onAgc n f).ring j = c.ring j := by
  simp [Chip.ring]

@[simp] theorem Chip.group_onAgc (n : Lane) (f : Agc → Agc) (m : Lane) : (c.onAgc n f).group m = c.group m := by
  simp [Chip.group]

@[simp] theorem Chip.get_onAgc (n : Lane) (f : Agc → Agc) (g : Fld) : (c.onAgc n f).get g = c.get g := by
  simp [Chip.get]

@[simp] theorem Chip.onRxn_fields (n : Lane) (f : Rx → Rx) :
    (c.onRxn n f).part = c.part ∧ (c.onRxn n f).power = c.power ∧ (c.onRxn n f).stopped = c.stopped ∧
      (c.onRxn n f).regs = c.regs ∧ (c.onRxn n f).tick = c.tick ∧ (c.onRxn n f).free = c.free ∧
      (c.onRxn n f).rdata = c.rdata ∧ (c.onRxn n f).latches = c.latches ∧ (c.onRxn n f).router = c.router ∧
      (c.onRxn n f).pcie = c.pcie ∧ (c.onRxn n f).qspi = c.qspi ∧ (c.onRxn n f).uart0 = c.uart0 ∧
      (c.onRxn n f).uart1 = c.uart1 ∧ (c.onRxn n f).twi0 = c.twi0 ∧ (c.onRxn n f).twi1 = c.twi1 ∧
      (c.onRxn n f).gpioIn = c.gpioIn ∧ (c.onRxn n f).links = c.links ∧ (c.onRxn n f).time = c.time ∧
      (c.onRxn n f).meas = c.meas ∧ (c.onRxn n f).fuses = c.fuses ∧ (c.onRxn n f).health = c.health ∧
      (c.onRxn n f).boot = c.boot ∧ (c.onRxn n f).pins = c.pins ∧ (c.onRxn n f).keys = c.keys ∧
      (c.onRxn n f).qm = c.qm ∧ (c.onRxn n f).mbx = c.mbx ∧ (c.onRxn n f).mac = c.mac ∧
      (c.onRxn n f).wheel = c.wheel ∧ (c.onRxn n f).frames = c.frames ∧ (c.onRxn n f).jtag = c.jtag ∧
      (c.onRxn n f).out = c.out := by
  simp [Chip.onRxn]

@[simp] theorem Chip.nbr_onRxn (n : Lane) (f : Rx → Rx) (j : Nat) : (c.onRxn n f).nbr j = c.nbr j := by
  simp [Chip.nbr]

@[simp] theorem Chip.queue_onRxn (n : Lane) (f : Rx → Rx) (j : Nat) : (c.onRxn n f).queue j = c.queue j := by
  simp [Chip.queue]

@[simp] theorem Chip.ring_onRxn (n : Lane) (f : Rx → Rx) (j : Nat) : (c.onRxn n f).ring j = c.ring j := by
  simp [Chip.ring]

@[simp] theorem Chip.group_onRxn (n : Lane) (f : Rx → Rx) (m : Lane) : (c.onRxn n f).group m = c.group m := by
  simp [Chip.group]

@[simp] theorem Chip.get_onRxn (n : Lane) (f : Rx → Rx) (g : Fld) : (c.onRxn n f).get g = c.get g := by
  simp [Chip.get]

@[simp] theorem Chip.onSpy_fields (n : Lane) (f : Spy → Spy) :
    (c.onSpy n f).part = c.part ∧ (c.onSpy n f).power = c.power ∧ (c.onSpy n f).stopped = c.stopped ∧
      (c.onSpy n f).regs = c.regs ∧ (c.onSpy n f).tick = c.tick ∧ (c.onSpy n f).free = c.free ∧
      (c.onSpy n f).rdata = c.rdata ∧ (c.onSpy n f).latches = c.latches ∧ (c.onSpy n f).router = c.router ∧
      (c.onSpy n f).pcie = c.pcie ∧ (c.onSpy n f).qspi = c.qspi ∧ (c.onSpy n f).uart0 = c.uart0 ∧
      (c.onSpy n f).uart1 = c.uart1 ∧ (c.onSpy n f).twi0 = c.twi0 ∧ (c.onSpy n f).twi1 = c.twi1 ∧
      (c.onSpy n f).gpioIn = c.gpioIn ∧ (c.onSpy n f).links = c.links ∧ (c.onSpy n f).time = c.time ∧
      (c.onSpy n f).meas = c.meas ∧ (c.onSpy n f).fuses = c.fuses ∧ (c.onSpy n f).health = c.health ∧
      (c.onSpy n f).boot = c.boot ∧ (c.onSpy n f).pins = c.pins ∧ (c.onSpy n f).keys = c.keys ∧
      (c.onSpy n f).qm = c.qm ∧ (c.onSpy n f).mbx = c.mbx ∧ (c.onSpy n f).mac = c.mac ∧
      (c.onSpy n f).wheel = c.wheel ∧ (c.onSpy n f).frames = c.frames ∧ (c.onSpy n f).jtag = c.jtag ∧
      (c.onSpy n f).out = c.out := by
  simp [Chip.onSpy]

@[simp] theorem Chip.nbr_onSpy (n : Lane) (f : Spy → Spy) (j : Nat) : (c.onSpy n f).nbr j = c.nbr j := by
  simp [Chip.nbr]

@[simp] theorem Chip.queue_onSpy (n : Lane) (f : Spy → Spy) (j : Nat) : (c.onSpy n f).queue j = c.queue j := by
  simp [Chip.queue]

@[simp] theorem Chip.ring_onSpy (n : Lane) (f : Spy → Spy) (j : Nat) : (c.onSpy n f).ring j = c.ring j := by
  simp [Chip.ring]

@[simp] theorem Chip.group_onSpy (n : Lane) (f : Spy → Spy) (m : Lane) : (c.onSpy n f).group m = c.group m := by
  simp [Chip.group]

@[simp] theorem Chip.get_onSpy (n : Lane) (f : Spy → Spy) (g : Fld) : (c.onSpy n f).get g = c.get g := by
  simp [Chip.get]

@[simp] theorem Chip.onRec_fields (n : Lane) (s : Nat) (f : LaneRec → LaneRec) :
    (c.onRec n s f).part = c.part ∧ (c.onRec n s f).power = c.power ∧ (c.onRec n s f).stopped = c.stopped ∧
      (c.onRec n s f).regs = c.regs ∧ (c.onRec n s f).tick = c.tick ∧ (c.onRec n s f).free = c.free ∧
      (c.onRec n s f).rdata = c.rdata ∧ (c.onRec n s f).latches = c.latches ∧ (c.onRec n s f).router = c.router ∧
      (c.onRec n s f).pcie = c.pcie ∧ (c.onRec n s f).qspi = c.qspi ∧ (c.onRec n s f).uart0 = c.uart0 ∧
      (c.onRec n s f).uart1 = c.uart1 ∧ (c.onRec n s f).twi0 = c.twi0 ∧ (c.onRec n s f).twi1 = c.twi1 ∧
      (c.onRec n s f).gpioIn = c.gpioIn ∧ (c.onRec n s f).links = c.links ∧ (c.onRec n s f).time = c.time ∧
      (c.onRec n s f).meas = c.meas ∧ (c.onRec n s f).fuses = c.fuses ∧ (c.onRec n s f).health = c.health ∧
      (c.onRec n s f).boot = c.boot ∧ (c.onRec n s f).pins = c.pins ∧ (c.onRec n s f).keys = c.keys ∧
      (c.onRec n s f).qm = c.qm ∧ (c.onRec n s f).mbx = c.mbx ∧ (c.onRec n s f).mac = c.mac ∧
      (c.onRec n s f).wheel = c.wheel ∧ (c.onRec n s f).frames = c.frames ∧ (c.onRec n s f).jtag = c.jtag ∧
      (c.onRec n s f).out = c.out := by
  simp [Chip.onRec]

@[simp] theorem Chip.nbr_onRec (n : Lane) (s : Nat) (f : LaneRec → LaneRec) (j : Nat) : (c.onRec n s f).nbr j = c.nbr j := by
  simp [Chip.nbr]

@[simp] theorem Chip.queue_onRec (n : Lane) (s : Nat) (f : LaneRec → LaneRec) (j : Nat) : (c.onRec n s f).queue j = c.queue j := by
  simp [Chip.queue]

@[simp] theorem Chip.ring_onRec (n : Lane) (s : Nat) (f : LaneRec → LaneRec) (j : Nat) : (c.onRec n s f).ring j = c.ring j := by
  simp [Chip.ring]

@[simp] theorem Chip.group_onRec (n : Lane) (s : Nat) (f : LaneRec → LaneRec) (m : Lane) : (c.onRec n s f).group m = c.group m := by
  simp [Chip.group]

@[simp] theorem Chip.get_onRec (n : Lane) (s : Nat) (f : LaneRec → LaneRec) (g : Fld) : (c.onRec n s f).get g = c.get g := by
  simp [Chip.get]

@[simp] theorem Chip.onGroup_fields (n : Lane) (f : WGroup → WGroup) :
    (c.onGroup n f).part = c.part ∧ (c.onGroup n f).power = c.power ∧ (c.onGroup n f).stopped = c.stopped ∧
      (c.onGroup n f).regs = c.regs ∧ (c.onGroup n f).tick = c.tick ∧ (c.onGroup n f).free = c.free ∧
      (c.onGroup n f).rdata = c.rdata ∧ (c.onGroup n f).latches = c.latches ∧ (c.onGroup n f).router = c.router ∧
      (c.onGroup n f).pcie = c.pcie ∧ (c.onGroup n f).qspi = c.qspi ∧ (c.onGroup n f).uart0 = c.uart0 ∧
      (c.onGroup n f).uart1 = c.uart1 ∧ (c.onGroup n f).twi0 = c.twi0 ∧ (c.onGroup n f).twi1 = c.twi1 ∧
      (c.onGroup n f).gpioIn = c.gpioIn ∧ (c.onGroup n f).links = c.links ∧ (c.onGroup n f).time = c.time ∧
      (c.onGroup n f).meas = c.meas ∧ (c.onGroup n f).fuses = c.fuses ∧ (c.onGroup n f).health = c.health ∧
      (c.onGroup n f).boot = c.boot ∧ (c.onGroup n f).pins = c.pins ∧ (c.onGroup n f).keys = c.keys ∧
      (c.onGroup n f).qm = c.qm ∧ (c.onGroup n f).mbx = c.mbx ∧ (c.onGroup n f).mac = c.mac ∧
      (c.onGroup n f).lanes = c.lanes ∧ (c.onGroup n f).frames = c.frames ∧ (c.onGroup n f).jtag = c.jtag ∧
      (c.onGroup n f).out = c.out := by
  simp [Chip.onGroup]

@[simp] theorem Chip.lane_onGroup (n : Lane) (f : WGroup → WGroup) (m : Lane) : (c.onGroup n f).lane m = c.lane m := by
  simp [Chip.lane]

@[simp] theorem Chip.nbr_onGroup (n : Lane) (f : WGroup → WGroup) (j : Nat) : (c.onGroup n f).nbr j = c.nbr j := by
  simp [Chip.nbr]

@[simp] theorem Chip.queue_onGroup (n : Lane) (f : WGroup → WGroup) (j : Nat) : (c.onGroup n f).queue j = c.queue j := by
  simp [Chip.queue]

@[simp] theorem Chip.ring_onGroup (n : Lane) (f : WGroup → WGroup) (j : Nat) : (c.onGroup n f).ring j = c.ring j := by
  simp [Chip.ring]

@[simp] theorem Chip.get_onGroup (n : Lane) (f : WGroup → WGroup) (g : Fld) : (c.onGroup n f).get g = c.get g := by
  simp [Chip.get]

@[simp] theorem Chip.onWheel_fields (f : Wheel → Wheel) :
    (c.onWheel f).part = c.part ∧ (c.onWheel f).power = c.power ∧ (c.onWheel f).stopped = c.stopped ∧
      (c.onWheel f).regs = c.regs ∧ (c.onWheel f).tick = c.tick ∧ (c.onWheel f).free = c.free ∧
      (c.onWheel f).rdata = c.rdata ∧ (c.onWheel f).latches = c.latches ∧ (c.onWheel f).router = c.router ∧
      (c.onWheel f).pcie = c.pcie ∧ (c.onWheel f).qspi = c.qspi ∧ (c.onWheel f).uart0 = c.uart0 ∧
      (c.onWheel f).uart1 = c.uart1 ∧ (c.onWheel f).twi0 = c.twi0 ∧ (c.onWheel f).twi1 = c.twi1 ∧
      (c.onWheel f).gpioIn = c.gpioIn ∧ (c.onWheel f).links = c.links ∧ (c.onWheel f).time = c.time ∧
      (c.onWheel f).meas = c.meas ∧ (c.onWheel f).fuses = c.fuses ∧ (c.onWheel f).health = c.health ∧
      (c.onWheel f).boot = c.boot ∧ (c.onWheel f).pins = c.pins ∧ (c.onWheel f).keys = c.keys ∧
      (c.onWheel f).qm = c.qm ∧ (c.onWheel f).mbx = c.mbx ∧ (c.onWheel f).mac = c.mac ∧
      (c.onWheel f).lanes = c.lanes ∧ (c.onWheel f).frames = c.frames ∧ (c.onWheel f).jtag = c.jtag ∧
      (c.onWheel f).out = c.out := by
  simp [Chip.onWheel]

@[simp] theorem Chip.lane_onWheel (f : Wheel → Wheel) (m : Lane) : (c.onWheel f).lane m = c.lane m := by
  simp [Chip.lane]

@[simp] theorem Chip.nbr_onWheel (f : Wheel → Wheel) (j : Nat) : (c.onWheel f).nbr j = c.nbr j := by
  simp [Chip.nbr]

@[simp] theorem Chip.queue_onWheel (f : Wheel → Wheel) (j : Nat) : (c.onWheel f).queue j = c.queue j := by
  simp [Chip.queue]

@[simp] theorem Chip.ring_onWheel (f : Wheel → Wheel) (j : Nat) : (c.onWheel f).ring j = c.ring j := by
  simp [Chip.ring]

@[simp] theorem Chip.get_onWheel (f : Wheel → Wheel) (g : Fld) : (c.onWheel f).get g = c.get g := by
  simp [Chip.get]

@[simp] theorem Chip.onNbr_fields (s : Nat) (f : Nbr → Nbr) :
    (c.onNbr s f).part = c.part ∧ (c.onNbr s f).power = c.power ∧ (c.onNbr s f).stopped = c.stopped ∧
      (c.onNbr s f).regs = c.regs ∧ (c.onNbr s f).tick = c.tick ∧ (c.onNbr s f).free = c.free ∧
      (c.onNbr s f).rdata = c.rdata ∧ (c.onNbr s f).latches = c.latches ∧ (c.onNbr s f).router = c.router ∧
      (c.onNbr s f).pcie = c.pcie ∧ (c.onNbr s f).qspi = c.qspi ∧ (c.onNbr s f).uart0 = c.uart0 ∧
      (c.onNbr s f).uart1 = c.uart1 ∧ (c.onNbr s f).twi0 = c.twi0 ∧ (c.onNbr s f).twi1 = c.twi1 ∧
      (c.onNbr s f).gpioIn = c.gpioIn ∧ (c.onNbr s f).links = c.links ∧ (c.onNbr s f).time = c.time ∧
      (c.onNbr s f).meas = c.meas ∧ (c.onNbr s f).fuses = c.fuses ∧ (c.onNbr s f).health = c.health ∧
      (c.onNbr s f).boot = c.boot ∧ (c.onNbr s f).pins = c.pins ∧ (c.onNbr s f).keys = c.keys ∧
      (c.onNbr s f).qm = c.qm ∧ (c.onNbr s f).mbx = c.mbx ∧ (c.onNbr s f).wheel = c.wheel ∧
      (c.onNbr s f).lanes = c.lanes ∧ (c.onNbr s f).frames = c.frames ∧ (c.onNbr s f).jtag = c.jtag ∧
      (c.onNbr s f).out = c.out := by
  simp [Chip.onNbr]

@[simp] theorem Chip.lane_onNbr (s : Nat) (f : Nbr → Nbr) (m : Lane) : (c.onNbr s f).lane m = c.lane m := by
  simp [Chip.lane]

@[simp] theorem Chip.queue_onNbr (s : Nat) (f : Nbr → Nbr) (j : Nat) : (c.onNbr s f).queue j = c.queue j := by
  simp [Chip.queue]

@[simp] theorem Chip.ring_onNbr (s : Nat) (f : Nbr → Nbr) (j : Nat) : (c.onNbr s f).ring j = c.ring j := by
  simp [Chip.ring]

@[simp] theorem Chip.group_onNbr (s : Nat) (f : Nbr → Nbr) (m : Lane) : (c.onNbr s f).group m = c.group m := by
  simp [Chip.group]

@[simp] theorem Chip.get_onNbr (s : Nat) (f : Nbr → Nbr) (g : Fld) : (c.onNbr s f).get g = c.get g := by
  simp [Chip.get]

@[simp] theorem Chip.onNbrs_fields (f : Nat → Nbr → Nbr) :
    (c.onNbrs f).part = c.part ∧ (c.onNbrs f).power = c.power ∧ (c.onNbrs f).stopped = c.stopped ∧
      (c.onNbrs f).regs = c.regs ∧ (c.onNbrs f).tick = c.tick ∧ (c.onNbrs f).free = c.free ∧
      (c.onNbrs f).rdata = c.rdata ∧ (c.onNbrs f).latches = c.latches ∧ (c.onNbrs f).router = c.router ∧
      (c.onNbrs f).pcie = c.pcie ∧ (c.onNbrs f).qspi = c.qspi ∧ (c.onNbrs f).uart0 = c.uart0 ∧
      (c.onNbrs f).uart1 = c.uart1 ∧ (c.onNbrs f).twi0 = c.twi0 ∧ (c.onNbrs f).twi1 = c.twi1 ∧
      (c.onNbrs f).gpioIn = c.gpioIn ∧ (c.onNbrs f).links = c.links ∧ (c.onNbrs f).time = c.time ∧
      (c.onNbrs f).meas = c.meas ∧ (c.onNbrs f).fuses = c.fuses ∧ (c.onNbrs f).health = c.health ∧
      (c.onNbrs f).boot = c.boot ∧ (c.onNbrs f).pins = c.pins ∧ (c.onNbrs f).keys = c.keys ∧
      (c.onNbrs f).qm = c.qm ∧ (c.onNbrs f).mbx = c.mbx ∧ (c.onNbrs f).wheel = c.wheel ∧
      (c.onNbrs f).lanes = c.lanes ∧ (c.onNbrs f).frames = c.frames ∧ (c.onNbrs f).jtag = c.jtag ∧
      (c.onNbrs f).out = c.out := by
  simp [Chip.onNbrs]

@[simp] theorem Chip.lane_onNbrs (f : Nat → Nbr → Nbr) (m : Lane) : (c.onNbrs f).lane m = c.lane m := by
  simp [Chip.lane]

@[simp] theorem Chip.queue_onNbrs (f : Nat → Nbr → Nbr) (j : Nat) : (c.onNbrs f).queue j = c.queue j := by
  simp [Chip.queue]

@[simp] theorem Chip.ring_onNbrs (f : Nat → Nbr → Nbr) (j : Nat) : (c.onNbrs f).ring j = c.ring j := by
  simp [Chip.ring]

@[simp] theorem Chip.group_onNbrs (f : Nat → Nbr → Nbr) (m : Lane) : (c.onNbrs f).group m = c.group m := by
  simp [Chip.group]

@[simp] theorem Chip.get_onNbrs (f : Nat → Nbr → Nbr) (g : Fld) : (c.onNbrs f).get g = c.get g := by
  simp [Chip.get]

@[simp] theorem Chip.onMac_fields (f : Mac → Mac) :
    (c.onMac f).part = c.part ∧ (c.onMac f).power = c.power ∧ (c.onMac f).stopped = c.stopped ∧
      (c.onMac f).regs = c.regs ∧ (c.onMac f).tick = c.tick ∧ (c.onMac f).free = c.free ∧
      (c.onMac f).rdata = c.rdata ∧ (c.onMac f).latches = c.latches ∧ (c.onMac f).router = c.router ∧
      (c.onMac f).pcie = c.pcie ∧ (c.onMac f).qspi = c.qspi ∧ (c.onMac f).uart0 = c.uart0 ∧
      (c.onMac f).uart1 = c.uart1 ∧ (c.onMac f).twi0 = c.twi0 ∧ (c.onMac f).twi1 = c.twi1 ∧
      (c.onMac f).gpioIn = c.gpioIn ∧ (c.onMac f).links = c.links ∧ (c.onMac f).time = c.time ∧
      (c.onMac f).meas = c.meas ∧ (c.onMac f).fuses = c.fuses ∧ (c.onMac f).health = c.health ∧
      (c.onMac f).boot = c.boot ∧ (c.onMac f).pins = c.pins ∧ (c.onMac f).keys = c.keys ∧ (c.onMac f).qm = c.qm ∧
      (c.onMac f).mbx = c.mbx ∧ (c.onMac f).wheel = c.wheel ∧ (c.onMac f).lanes = c.lanes ∧
      (c.onMac f).frames = c.frames ∧ (c.onMac f).jtag = c.jtag ∧ (c.onMac f).out = c.out := by
  simp [Chip.onMac]

@[simp] theorem Chip.lane_onMac (f : Mac → Mac) (m : Lane) : (c.onMac f).lane m = c.lane m := by
  simp [Chip.lane]

@[simp] theorem Chip.queue_onMac (f : Mac → Mac) (j : Nat) : (c.onMac f).queue j = c.queue j := by
  simp [Chip.queue]

@[simp] theorem Chip.ring_onMac (f : Mac → Mac) (j : Nat) : (c.onMac f).ring j = c.ring j := by
  simp [Chip.ring]

@[simp] theorem Chip.group_onMac (f : Mac → Mac) (m : Lane) : (c.onMac f).group m = c.group m := by
  simp [Chip.group]

@[simp] theorem Chip.get_onMac (f : Mac → Mac) (g : Fld) : (c.onMac f).get g = c.get g := by
  simp [Chip.get]

@[simp] theorem Chip.onQm_fields (f : Qm → Qm) :
    (c.onQm f).part = c.part ∧ (c.onQm f).power = c.power ∧ (c.onQm f).stopped = c.stopped ∧
      (c.onQm f).regs = c.regs ∧ (c.onQm f).tick = c.tick ∧ (c.onQm f).free = c.free ∧ (c.onQm f).rdata = c.rdata ∧
      (c.onQm f).latches = c.latches ∧ (c.onQm f).router = c.router ∧ (c.onQm f).pcie = c.pcie ∧
      (c.onQm f).qspi = c.qspi ∧ (c.onQm f).uart0 = c.uart0 ∧ (c.onQm f).uart1 = c.uart1 ∧
      (c.onQm f).twi0 = c.twi0 ∧ (c.onQm f).twi1 = c.twi1 ∧ (c.onQm f).gpioIn = c.gpioIn ∧
      (c.onQm f).links = c.links ∧ (c.onQm f).time = c.time ∧ (c.onQm f).meas = c.meas ∧
      (c.onQm f).fuses = c.fuses ∧ (c.onQm f).health = c.health ∧ (c.onQm f).boot = c.boot ∧
      (c.onQm f).pins = c.pins ∧ (c.onQm f).keys = c.keys ∧ (c.onQm f).mbx = c.mbx ∧ (c.onQm f).mac = c.mac ∧
      (c.onQm f).wheel = c.wheel ∧ (c.onQm f).lanes = c.lanes ∧ (c.onQm f).frames = c.frames ∧
      (c.onQm f).jtag = c.jtag ∧ (c.onQm f).out = c.out := by
  simp [Chip.onQm]

@[simp] theorem Chip.lane_onQm (f : Qm → Qm) (m : Lane) : (c.onQm f).lane m = c.lane m := by
  simp [Chip.lane]

@[simp] theorem Chip.nbr_onQm (f : Qm → Qm) (j : Nat) : (c.onQm f).nbr j = c.nbr j := by
  simp [Chip.nbr]

@[simp] theorem Chip.group_onQm (f : Qm → Qm) (m : Lane) : (c.onQm f).group m = c.group m := by
  simp [Chip.group]

@[simp] theorem Chip.get_onQm (f : Qm → Qm) (g : Fld) : (c.onQm f).get g = c.get g := by
  simp [Chip.get]

@[simp] theorem Chip.onQueue_fields (q : Nat) (f : Queue → Queue) :
    (c.onQueue q f).part = c.part ∧ (c.onQueue q f).power = c.power ∧ (c.onQueue q f).stopped = c.stopped ∧
      (c.onQueue q f).regs = c.regs ∧ (c.onQueue q f).tick = c.tick ∧ (c.onQueue q f).free = c.free ∧
      (c.onQueue q f).rdata = c.rdata ∧ (c.onQueue q f).latches = c.latches ∧ (c.onQueue q f).router = c.router ∧
      (c.onQueue q f).pcie = c.pcie ∧ (c.onQueue q f).qspi = c.qspi ∧ (c.onQueue q f).uart0 = c.uart0 ∧
      (c.onQueue q f).uart1 = c.uart1 ∧ (c.onQueue q f).twi0 = c.twi0 ∧ (c.onQueue q f).twi1 = c.twi1 ∧
      (c.onQueue q f).gpioIn = c.gpioIn ∧ (c.onQueue q f).links = c.links ∧ (c.onQueue q f).time = c.time ∧
      (c.onQueue q f).meas = c.meas ∧ (c.onQueue q f).fuses = c.fuses ∧ (c.onQueue q f).health = c.health ∧
      (c.onQueue q f).boot = c.boot ∧ (c.onQueue q f).pins = c.pins ∧ (c.onQueue q f).keys = c.keys ∧
      (c.onQueue q f).mbx = c.mbx ∧ (c.onQueue q f).mac = c.mac ∧ (c.onQueue q f).wheel = c.wheel ∧
      (c.onQueue q f).lanes = c.lanes ∧ (c.onQueue q f).frames = c.frames ∧ (c.onQueue q f).jtag = c.jtag ∧
      (c.onQueue q f).out = c.out := by
  simp [Chip.onQueue]

@[simp] theorem Chip.lane_onQueue (q : Nat) (f : Queue → Queue) (m : Lane) : (c.onQueue q f).lane m = c.lane m := by
  simp [Chip.lane]

@[simp] theorem Chip.nbr_onQueue (q : Nat) (f : Queue → Queue) (j : Nat) : (c.onQueue q f).nbr j = c.nbr j := by
  simp [Chip.nbr]

@[simp] theorem Chip.group_onQueue (q : Nat) (f : Queue → Queue) (m : Lane) : (c.onQueue q f).group m = c.group m := by
  simp [Chip.group]

@[simp] theorem Chip.get_onQueue (q : Nat) (f : Queue → Queue) (g : Fld) : (c.onQueue q f).get g = c.get g := by
  simp [Chip.get]

@[simp] theorem Chip.onMpdu_fields (q id : Nat) (f : TxMpdu → TxMpdu) :
    (c.onMpdu q id f).part = c.part ∧ (c.onMpdu q id f).power = c.power ∧ (c.onMpdu q id f).stopped = c.stopped ∧
      (c.onMpdu q id f).regs = c.regs ∧ (c.onMpdu q id f).tick = c.tick ∧ (c.onMpdu q id f).free = c.free ∧
      (c.onMpdu q id f).rdata = c.rdata ∧ (c.onMpdu q id f).latches = c.latches ∧
      (c.onMpdu q id f).router = c.router ∧ (c.onMpdu q id f).pcie = c.pcie ∧ (c.onMpdu q id f).qspi = c.qspi ∧
      (c.onMpdu q id f).uart0 = c.uart0 ∧ (c.onMpdu q id f).uart1 = c.uart1 ∧ (c.onMpdu q id f).twi0 = c.twi0 ∧
      (c.onMpdu q id f).twi1 = c.twi1 ∧ (c.onMpdu q id f).gpioIn = c.gpioIn ∧ (c.onMpdu q id f).links = c.links ∧
      (c.onMpdu q id f).time = c.time ∧ (c.onMpdu q id f).meas = c.meas ∧ (c.onMpdu q id f).fuses = c.fuses ∧
      (c.onMpdu q id f).health = c.health ∧ (c.onMpdu q id f).boot = c.boot ∧ (c.onMpdu q id f).pins = c.pins ∧
      (c.onMpdu q id f).keys = c.keys ∧ (c.onMpdu q id f).mbx = c.mbx ∧ (c.onMpdu q id f).mac = c.mac ∧
      (c.onMpdu q id f).wheel = c.wheel ∧ (c.onMpdu q id f).lanes = c.lanes ∧ (c.onMpdu q id f).frames = c.frames ∧
      (c.onMpdu q id f).jtag = c.jtag ∧ (c.onMpdu q id f).out = c.out := by
  simp [Chip.onMpdu]

@[simp] theorem Chip.lane_onMpdu (q id : Nat) (f : TxMpdu → TxMpdu) (m : Lane) : (c.onMpdu q id f).lane m = c.lane m := by
  simp [Chip.lane]

@[simp] theorem Chip.nbr_onMpdu (q id : Nat) (f : TxMpdu → TxMpdu) (j : Nat) : (c.onMpdu q id f).nbr j = c.nbr j := by
  simp [Chip.nbr]

@[simp] theorem Chip.group_onMpdu (q id : Nat) (f : TxMpdu → TxMpdu) (m : Lane) : (c.onMpdu q id f).group m = c.group m := by
  simp [Chip.group]

@[simp] theorem Chip.get_onMpdu (q id : Nat) (f : TxMpdu → TxMpdu) (g : Fld) : (c.onMpdu q id f).get g = c.get g := by
  simp [Chip.get]

@[simp] theorem Chip.onRing_fields (r : Nat) (f : Ring → Ring) :
    (c.onRing r f).part = c.part ∧ (c.onRing r f).power = c.power ∧ (c.onRing r f).stopped = c.stopped ∧
      (c.onRing r f).regs = c.regs ∧ (c.onRing r f).tick = c.tick ∧ (c.onRing r f).free = c.free ∧
      (c.onRing r f).rdata = c.rdata ∧ (c.onRing r f).latches = c.latches ∧ (c.onRing r f).router = c.router ∧
      (c.onRing r f).pcie = c.pcie ∧ (c.onRing r f).qspi = c.qspi ∧ (c.onRing r f).uart0 = c.uart0 ∧
      (c.onRing r f).uart1 = c.uart1 ∧ (c.onRing r f).twi0 = c.twi0 ∧ (c.onRing r f).twi1 = c.twi1 ∧
      (c.onRing r f).gpioIn = c.gpioIn ∧ (c.onRing r f).links = c.links ∧ (c.onRing r f).time = c.time ∧
      (c.onRing r f).meas = c.meas ∧ (c.onRing r f).fuses = c.fuses ∧ (c.onRing r f).health = c.health ∧
      (c.onRing r f).boot = c.boot ∧ (c.onRing r f).pins = c.pins ∧ (c.onRing r f).keys = c.keys ∧
      (c.onRing r f).mbx = c.mbx ∧ (c.onRing r f).mac = c.mac ∧ (c.onRing r f).wheel = c.wheel ∧
      (c.onRing r f).lanes = c.lanes ∧ (c.onRing r f).frames = c.frames ∧ (c.onRing r f).jtag = c.jtag ∧
      (c.onRing r f).out = c.out := by
  simp [Chip.onRing]

@[simp] theorem Chip.lane_onRing (r : Nat) (f : Ring → Ring) (m : Lane) : (c.onRing r f).lane m = c.lane m := by
  simp [Chip.lane]

@[simp] theorem Chip.nbr_onRing (r : Nat) (f : Ring → Ring) (j : Nat) : (c.onRing r f).nbr j = c.nbr j := by
  simp [Chip.nbr]

@[simp] theorem Chip.group_onRing (r : Nat) (f : Ring → Ring) (m : Lane) : (c.onRing r f).group m = c.group m := by
  simp [Chip.group]

@[simp] theorem Chip.get_onRing (r : Nat) (f : Ring → Ring) (g : Fld) : (c.onRing r f).get g = c.get g := by
  simp [Chip.get]

@[simp] theorem Chip.onMbx_fields (f : Mbx → Mbx) :
    (c.onMbx f).part = c.part ∧ (c.onMbx f).power = c.power ∧ (c.onMbx f).stopped = c.stopped ∧
      (c.onMbx f).regs = c.regs ∧ (c.onMbx f).tick = c.tick ∧ (c.onMbx f).free = c.free ∧
      (c.onMbx f).rdata = c.rdata ∧ (c.onMbx f).latches = c.latches ∧ (c.onMbx f).router = c.router ∧
      (c.onMbx f).pcie = c.pcie ∧ (c.onMbx f).qspi = c.qspi ∧ (c.onMbx f).uart0 = c.uart0 ∧
      (c.onMbx f).uart1 = c.uart1 ∧ (c.onMbx f).twi0 = c.twi0 ∧ (c.onMbx f).twi1 = c.twi1 ∧
      (c.onMbx f).gpioIn = c.gpioIn ∧ (c.onMbx f).links = c.links ∧ (c.onMbx f).time = c.time ∧
      (c.onMbx f).meas = c.meas ∧ (c.onMbx f).fuses = c.fuses ∧ (c.onMbx f).health = c.health ∧
      (c.onMbx f).boot = c.boot ∧ (c.onMbx f).pins = c.pins ∧ (c.onMbx f).keys = c.keys ∧ (c.onMbx f).qm = c.qm ∧
      (c.onMbx f).mac = c.mac ∧ (c.onMbx f).wheel = c.wheel ∧ (c.onMbx f).lanes = c.lanes ∧
      (c.onMbx f).frames = c.frames ∧ (c.onMbx f).jtag = c.jtag ∧ (c.onMbx f).out = c.out := by
  simp [Chip.onMbx]

@[simp] theorem Chip.lane_onMbx (f : Mbx → Mbx) (m : Lane) : (c.onMbx f).lane m = c.lane m := by
  simp [Chip.lane]

@[simp] theorem Chip.nbr_onMbx (f : Mbx → Mbx) (j : Nat) : (c.onMbx f).nbr j = c.nbr j := by
  simp [Chip.nbr]

@[simp] theorem Chip.queue_onMbx (f : Mbx → Mbx) (j : Nat) : (c.onMbx f).queue j = c.queue j := by
  simp [Chip.queue]

@[simp] theorem Chip.ring_onMbx (f : Mbx → Mbx) (j : Nat) : (c.onMbx f).ring j = c.ring j := by
  simp [Chip.ring]

@[simp] theorem Chip.group_onMbx (f : Mbx → Mbx) (m : Lane) : (c.onMbx f).group m = c.group m := by
  simp [Chip.group]

@[simp] theorem Chip.get_onMbx (f : Mbx → Mbx) (g : Fld) : (c.onMbx f).get g = c.get g := by
  simp [Chip.get]

@[simp] theorem Chip.onKeys_fields (f : Keys → Keys) :
    (c.onKeys f).part = c.part ∧ (c.onKeys f).power = c.power ∧ (c.onKeys f).stopped = c.stopped ∧
      (c.onKeys f).regs = c.regs ∧ (c.onKeys f).tick = c.tick ∧ (c.onKeys f).free = c.free ∧
      (c.onKeys f).rdata = c.rdata ∧ (c.onKeys f).latches = c.latches ∧ (c.onKeys f).router = c.router ∧
      (c.onKeys f).pcie = c.pcie ∧ (c.onKeys f).qspi = c.qspi ∧ (c.onKeys f).uart0 = c.uart0 ∧
      (c.onKeys f).uart1 = c.uart1 ∧ (c.onKeys f).twi0 = c.twi0 ∧ (c.onKeys f).twi1 = c.twi1 ∧
      (c.onKeys f).gpioIn = c.gpioIn ∧ (c.onKeys f).links = c.links ∧ (c.onKeys f).time = c.time ∧
      (c.onKeys f).meas = c.meas ∧ (c.onKeys f).fuses = c.fuses ∧ (c.onKeys f).health = c.health ∧
      (c.onKeys f).boot = c.boot ∧ (c.onKeys f).pins = c.pins ∧ (c.onKeys f).qm = c.qm ∧ (c.onKeys f).mbx = c.mbx ∧
      (c.onKeys f).mac = c.mac ∧ (c.onKeys f).wheel = c.wheel ∧ (c.onKeys f).lanes = c.lanes ∧
      (c.onKeys f).frames = c.frames ∧ (c.onKeys f).jtag = c.jtag ∧ (c.onKeys f).out = c.out := by
  simp [Chip.onKeys]

@[simp] theorem Chip.lane_onKeys (f : Keys → Keys) (m : Lane) : (c.onKeys f).lane m = c.lane m := by
  simp [Chip.lane]

@[simp] theorem Chip.nbr_onKeys (f : Keys → Keys) (j : Nat) : (c.onKeys f).nbr j = c.nbr j := by
  simp [Chip.nbr]

@[simp] theorem Chip.queue_onKeys (f : Keys → Keys) (j : Nat) : (c.onKeys f).queue j = c.queue j := by
  simp [Chip.queue]

@[simp] theorem Chip.ring_onKeys (f : Keys → Keys) (j : Nat) : (c.onKeys f).ring j = c.ring j := by
  simp [Chip.ring]

@[simp] theorem Chip.group_onKeys (f : Keys → Keys) (m : Lane) : (c.onKeys f).group m = c.group m := by
  simp [Chip.group]

@[simp] theorem Chip.get_onKeys (f : Keys → Keys) (g : Fld) : (c.onKeys f).get g = c.get g := by
  simp [Chip.get]

@[simp] theorem Chip.onHealth_fields (f : Health → Health) :
    (c.onHealth f).part = c.part ∧ (c.onHealth f).power = c.power ∧ (c.onHealth f).stopped = c.stopped ∧
      (c.onHealth f).regs = c.regs ∧ (c.onHealth f).tick = c.tick ∧ (c.onHealth f).free = c.free ∧
      (c.onHealth f).rdata = c.rdata ∧ (c.onHealth f).latches = c.latches ∧ (c.onHealth f).router = c.router ∧
      (c.onHealth f).pcie = c.pcie ∧ (c.onHealth f).qspi = c.qspi ∧ (c.onHealth f).uart0 = c.uart0 ∧
      (c.onHealth f).uart1 = c.uart1 ∧ (c.onHealth f).twi0 = c.twi0 ∧ (c.onHealth f).twi1 = c.twi1 ∧
      (c.onHealth f).gpioIn = c.gpioIn ∧ (c.onHealth f).links = c.links ∧ (c.onHealth f).time = c.time ∧
      (c.onHealth f).meas = c.meas ∧ (c.onHealth f).fuses = c.fuses ∧ (c.onHealth f).boot = c.boot ∧
      (c.onHealth f).pins = c.pins ∧ (c.onHealth f).keys = c.keys ∧ (c.onHealth f).qm = c.qm ∧
      (c.onHealth f).mbx = c.mbx ∧ (c.onHealth f).mac = c.mac ∧ (c.onHealth f).wheel = c.wheel ∧
      (c.onHealth f).lanes = c.lanes ∧ (c.onHealth f).frames = c.frames ∧ (c.onHealth f).jtag = c.jtag ∧
      (c.onHealth f).out = c.out := by
  simp [Chip.onHealth]

@[simp] theorem Chip.lane_onHealth (f : Health → Health) (m : Lane) : (c.onHealth f).lane m = c.lane m := by
  simp [Chip.lane]

@[simp] theorem Chip.nbr_onHealth (f : Health → Health) (j : Nat) : (c.onHealth f).nbr j = c.nbr j := by
  simp [Chip.nbr]

@[simp] theorem Chip.queue_onHealth (f : Health → Health) (j : Nat) : (c.onHealth f).queue j = c.queue j := by
  simp [Chip.queue]

@[simp] theorem Chip.ring_onHealth (f : Health → Health) (j : Nat) : (c.onHealth f).ring j = c.ring j := by
  simp [Chip.ring]

@[simp] theorem Chip.group_onHealth (f : Health → Health) (m : Lane) : (c.onHealth f).group m = c.group m := by
  simp [Chip.group]

@[simp] theorem Chip.get_onHealth (f : Health → Health) (g : Fld) : (c.onHealth f).get g = c.get g := by
  simp [Chip.get]

@[simp] theorem Chip.onBoot_fields (f : Boot → Boot) :
    (c.onBoot f).part = c.part ∧ (c.onBoot f).power = c.power ∧ (c.onBoot f).stopped = c.stopped ∧
      (c.onBoot f).regs = c.regs ∧ (c.onBoot f).tick = c.tick ∧ (c.onBoot f).free = c.free ∧
      (c.onBoot f).rdata = c.rdata ∧ (c.onBoot f).latches = c.latches ∧ (c.onBoot f).router = c.router ∧
      (c.onBoot f).pcie = c.pcie ∧ (c.onBoot f).qspi = c.qspi ∧ (c.onBoot f).uart0 = c.uart0 ∧
      (c.onBoot f).uart1 = c.uart1 ∧ (c.onBoot f).twi0 = c.twi0 ∧ (c.onBoot f).twi1 = c.twi1 ∧
      (c.onBoot f).gpioIn = c.gpioIn ∧ (c.onBoot f).links = c.links ∧ (c.onBoot f).time = c.time ∧
      (c.onBoot f).meas = c.meas ∧ (c.onBoot f).fuses = c.fuses ∧ (c.onBoot f).health = c.health ∧
      (c.onBoot f).pins = c.pins ∧ (c.onBoot f).keys = c.keys ∧ (c.onBoot f).qm = c.qm ∧ (c.onBoot f).mbx = c.mbx ∧
      (c.onBoot f).mac = c.mac ∧ (c.onBoot f).wheel = c.wheel ∧ (c.onBoot f).lanes = c.lanes ∧
      (c.onBoot f).frames = c.frames ∧ (c.onBoot f).jtag = c.jtag ∧ (c.onBoot f).out = c.out := by
  simp [Chip.onBoot]

@[simp] theorem Chip.lane_onBoot (f : Boot → Boot) (m : Lane) : (c.onBoot f).lane m = c.lane m := by
  simp [Chip.lane]

@[simp] theorem Chip.nbr_onBoot (f : Boot → Boot) (j : Nat) : (c.onBoot f).nbr j = c.nbr j := by
  simp [Chip.nbr]

@[simp] theorem Chip.queue_onBoot (f : Boot → Boot) (j : Nat) : (c.onBoot f).queue j = c.queue j := by
  simp [Chip.queue]

@[simp] theorem Chip.ring_onBoot (f : Boot → Boot) (j : Nat) : (c.onBoot f).ring j = c.ring j := by
  simp [Chip.ring]

@[simp] theorem Chip.group_onBoot (f : Boot → Boot) (m : Lane) : (c.onBoot f).group m = c.group m := by
  simp [Chip.group]

@[simp] theorem Chip.get_onBoot (f : Boot → Boot) (g : Fld) : (c.onBoot f).get g = c.get g := by
  simp [Chip.get]

@[simp] theorem Chip.onPins_fields (f : Pins → Pins) :
    (c.onPins f).part = c.part ∧ (c.onPins f).power = c.power ∧ (c.onPins f).stopped = c.stopped ∧
      (c.onPins f).regs = c.regs ∧ (c.onPins f).tick = c.tick ∧ (c.onPins f).free = c.free ∧
      (c.onPins f).rdata = c.rdata ∧ (c.onPins f).latches = c.latches ∧ (c.onPins f).router = c.router ∧
      (c.onPins f).pcie = c.pcie ∧ (c.onPins f).qspi = c.qspi ∧ (c.onPins f).uart0 = c.uart0 ∧
      (c.onPins f).uart1 = c.uart1 ∧ (c.onPins f).twi0 = c.twi0 ∧ (c.onPins f).twi1 = c.twi1 ∧
      (c.onPins f).gpioIn = c.gpioIn ∧ (c.onPins f).links = c.links ∧ (c.onPins f).time = c.time ∧
      (c.onPins f).meas = c.meas ∧ (c.onPins f).fuses = c.fuses ∧ (c.onPins f).health = c.health ∧
      (c.onPins f).boot = c.boot ∧ (c.onPins f).keys = c.keys ∧ (c.onPins f).qm = c.qm ∧ (c.onPins f).mbx = c.mbx ∧
      (c.onPins f).mac = c.mac ∧ (c.onPins f).wheel = c.wheel ∧ (c.onPins f).lanes = c.lanes ∧
      (c.onPins f).frames = c.frames ∧ (c.onPins f).jtag = c.jtag ∧ (c.onPins f).out = c.out := by
  simp [Chip.onPins]

@[simp] theorem Chip.lane_onPins (f : Pins → Pins) (m : Lane) : (c.onPins f).lane m = c.lane m := by
  simp [Chip.lane]

@[simp] theorem Chip.nbr_onPins (f : Pins → Pins) (j : Nat) : (c.onPins f).nbr j = c.nbr j := by
  simp [Chip.nbr]

@[simp] theorem Chip.queue_onPins (f : Pins → Pins) (j : Nat) : (c.onPins f).queue j = c.queue j := by
  simp [Chip.queue]

@[simp] theorem Chip.ring_onPins (f : Pins → Pins) (j : Nat) : (c.onPins f).ring j = c.ring j := by
  simp [Chip.ring]

@[simp] theorem Chip.group_onPins (f : Pins → Pins) (m : Lane) : (c.onPins f).group m = c.group m := by
  simp [Chip.group]

@[simp] theorem Chip.get_onPins (f : Pins → Pins) (g : Fld) : (c.onPins f).get g = c.get g := by
  simp [Chip.get]

@[simp] theorem Chip.onFuses_fields (f : Fuses → Fuses) :
    (c.onFuses f).part = c.part ∧ (c.onFuses f).power = c.power ∧ (c.onFuses f).stopped = c.stopped ∧
      (c.onFuses f).regs = c.regs ∧ (c.onFuses f).tick = c.tick ∧ (c.onFuses f).free = c.free ∧
      (c.onFuses f).rdata = c.rdata ∧ (c.onFuses f).latches = c.latches ∧ (c.onFuses f).router = c.router ∧
      (c.onFuses f).pcie = c.pcie ∧ (c.onFuses f).qspi = c.qspi ∧ (c.onFuses f).uart0 = c.uart0 ∧
      (c.onFuses f).uart1 = c.uart1 ∧ (c.onFuses f).twi0 = c.twi0 ∧ (c.onFuses f).twi1 = c.twi1 ∧
      (c.onFuses f).gpioIn = c.gpioIn ∧ (c.onFuses f).links = c.links ∧ (c.onFuses f).time = c.time ∧
      (c.onFuses f).meas = c.meas ∧ (c.onFuses f).health = c.health ∧ (c.onFuses f).boot = c.boot ∧
      (c.onFuses f).pins = c.pins ∧ (c.onFuses f).keys = c.keys ∧ (c.onFuses f).qm = c.qm ∧
      (c.onFuses f).mbx = c.mbx ∧ (c.onFuses f).mac = c.mac ∧ (c.onFuses f).wheel = c.wheel ∧
      (c.onFuses f).lanes = c.lanes ∧ (c.onFuses f).frames = c.frames ∧ (c.onFuses f).jtag = c.jtag ∧
      (c.onFuses f).out = c.out := by
  simp [Chip.onFuses]

@[simp] theorem Chip.lane_onFuses (f : Fuses → Fuses) (m : Lane) : (c.onFuses f).lane m = c.lane m := by
  simp [Chip.lane]

@[simp] theorem Chip.nbr_onFuses (f : Fuses → Fuses) (j : Nat) : (c.onFuses f).nbr j = c.nbr j := by
  simp [Chip.nbr]

@[simp] theorem Chip.queue_onFuses (f : Fuses → Fuses) (j : Nat) : (c.onFuses f).queue j = c.queue j := by
  simp [Chip.queue]

@[simp] theorem Chip.ring_onFuses (f : Fuses → Fuses) (j : Nat) : (c.onFuses f).ring j = c.ring j := by
  simp [Chip.ring]

@[simp] theorem Chip.group_onFuses (f : Fuses → Fuses) (m : Lane) : (c.onFuses f).group m = c.group m := by
  simp [Chip.group]

@[simp] theorem Chip.get_onFuses (f : Fuses → Fuses) (g : Fld) : (c.onFuses f).get g = c.get g := by
  simp [Chip.get]

@[simp] theorem Chip.onTime_fields (f : TimeBase → TimeBase) :
    (c.onTime f).part = c.part ∧ (c.onTime f).power = c.power ∧ (c.onTime f).stopped = c.stopped ∧
      (c.onTime f).regs = c.regs ∧ (c.onTime f).tick = c.tick ∧ (c.onTime f).free = c.free ∧
      (c.onTime f).rdata = c.rdata ∧ (c.onTime f).latches = c.latches ∧ (c.onTime f).router = c.router ∧
      (c.onTime f).pcie = c.pcie ∧ (c.onTime f).qspi = c.qspi ∧ (c.onTime f).uart0 = c.uart0 ∧
      (c.onTime f).uart1 = c.uart1 ∧ (c.onTime f).twi0 = c.twi0 ∧ (c.onTime f).twi1 = c.twi1 ∧
      (c.onTime f).gpioIn = c.gpioIn ∧ (c.onTime f).links = c.links ∧ (c.onTime f).meas = c.meas ∧
      (c.onTime f).fuses = c.fuses ∧ (c.onTime f).health = c.health ∧ (c.onTime f).boot = c.boot ∧
      (c.onTime f).pins = c.pins ∧ (c.onTime f).keys = c.keys ∧ (c.onTime f).qm = c.qm ∧ (c.onTime f).mbx = c.mbx ∧
      (c.onTime f).mac = c.mac ∧ (c.onTime f).wheel = c.wheel ∧ (c.onTime f).lanes = c.lanes ∧
      (c.onTime f).frames = c.frames ∧ (c.onTime f).jtag = c.jtag ∧ (c.onTime f).out = c.out := by
  simp [Chip.onTime]

@[simp] theorem Chip.lane_onTime (f : TimeBase → TimeBase) (m : Lane) : (c.onTime f).lane m = c.lane m := by
  simp [Chip.lane]

@[simp] theorem Chip.nbr_onTime (f : TimeBase → TimeBase) (j : Nat) : (c.onTime f).nbr j = c.nbr j := by
  simp [Chip.nbr]

@[simp] theorem Chip.queue_onTime (f : TimeBase → TimeBase) (j : Nat) : (c.onTime f).queue j = c.queue j := by
  simp [Chip.queue]

@[simp] theorem Chip.ring_onTime (f : TimeBase → TimeBase) (j : Nat) : (c.onTime f).ring j = c.ring j := by
  simp [Chip.ring]

@[simp] theorem Chip.group_onTime (f : TimeBase → TimeBase) (m : Lane) : (c.onTime f).group m = c.group m := by
  simp [Chip.group]

@[simp] theorem Chip.get_onTime (f : TimeBase → TimeBase) (g : Fld) : (c.onTime f).get g = c.get g := by
  simp [Chip.get]

@[simp] theorem Chip.onPcie_fields (f : Pcie → Pcie) :
    (c.onPcie f).part = c.part ∧ (c.onPcie f).power = c.power ∧ (c.onPcie f).stopped = c.stopped ∧
      (c.onPcie f).regs = c.regs ∧ (c.onPcie f).tick = c.tick ∧ (c.onPcie f).free = c.free ∧
      (c.onPcie f).rdata = c.rdata ∧ (c.onPcie f).latches = c.latches ∧ (c.onPcie f).router = c.router ∧
      (c.onPcie f).qspi = c.qspi ∧ (c.onPcie f).uart0 = c.uart0 ∧ (c.onPcie f).uart1 = c.uart1 ∧
      (c.onPcie f).twi0 = c.twi0 ∧ (c.onPcie f).twi1 = c.twi1 ∧ (c.onPcie f).gpioIn = c.gpioIn ∧
      (c.onPcie f).links = c.links ∧ (c.onPcie f).time = c.time ∧ (c.onPcie f).meas = c.meas ∧
      (c.onPcie f).fuses = c.fuses ∧ (c.onPcie f).health = c.health ∧ (c.onPcie f).boot = c.boot ∧
      (c.onPcie f).pins = c.pins ∧ (c.onPcie f).keys = c.keys ∧ (c.onPcie f).qm = c.qm ∧ (c.onPcie f).mbx = c.mbx ∧
      (c.onPcie f).mac = c.mac ∧ (c.onPcie f).wheel = c.wheel ∧ (c.onPcie f).lanes = c.lanes ∧
      (c.onPcie f).frames = c.frames ∧ (c.onPcie f).jtag = c.jtag ∧ (c.onPcie f).out = c.out := by
  simp [Chip.onPcie]

@[simp] theorem Chip.lane_onPcie (f : Pcie → Pcie) (m : Lane) : (c.onPcie f).lane m = c.lane m := by
  simp [Chip.lane]

@[simp] theorem Chip.nbr_onPcie (f : Pcie → Pcie) (j : Nat) : (c.onPcie f).nbr j = c.nbr j := by
  simp [Chip.nbr]

@[simp] theorem Chip.queue_onPcie (f : Pcie → Pcie) (j : Nat) : (c.onPcie f).queue j = c.queue j := by
  simp [Chip.queue]

@[simp] theorem Chip.ring_onPcie (f : Pcie → Pcie) (j : Nat) : (c.onPcie f).ring j = c.ring j := by
  simp [Chip.ring]

@[simp] theorem Chip.group_onPcie (f : Pcie → Pcie) (m : Lane) : (c.onPcie f).group m = c.group m := by
  simp [Chip.group]

@[simp] theorem Chip.get_onPcie (f : Pcie → Pcie) (g : Fld) : (c.onPcie f).get g = c.get g := by
  simp [Chip.get]

@[simp] theorem Chip.onMeas_fields (n : Lane) (f : Meas → Meas) :
    (c.onMeas n f).part = c.part ∧ (c.onMeas n f).power = c.power ∧ (c.onMeas n f).stopped = c.stopped ∧
      (c.onMeas n f).regs = c.regs ∧ (c.onMeas n f).tick = c.tick ∧ (c.onMeas n f).free = c.free ∧
      (c.onMeas n f).rdata = c.rdata ∧ (c.onMeas n f).latches = c.latches ∧ (c.onMeas n f).router = c.router ∧
      (c.onMeas n f).pcie = c.pcie ∧ (c.onMeas n f).qspi = c.qspi ∧ (c.onMeas n f).uart0 = c.uart0 ∧
      (c.onMeas n f).uart1 = c.uart1 ∧ (c.onMeas n f).twi0 = c.twi0 ∧ (c.onMeas n f).twi1 = c.twi1 ∧
      (c.onMeas n f).gpioIn = c.gpioIn ∧ (c.onMeas n f).links = c.links ∧ (c.onMeas n f).time = c.time ∧
      (c.onMeas n f).fuses = c.fuses ∧ (c.onMeas n f).health = c.health ∧ (c.onMeas n f).boot = c.boot ∧
      (c.onMeas n f).pins = c.pins ∧ (c.onMeas n f).keys = c.keys ∧ (c.onMeas n f).qm = c.qm ∧
      (c.onMeas n f).mbx = c.mbx ∧ (c.onMeas n f).mac = c.mac ∧ (c.onMeas n f).wheel = c.wheel ∧
      (c.onMeas n f).lanes = c.lanes ∧ (c.onMeas n f).frames = c.frames ∧ (c.onMeas n f).jtag = c.jtag ∧
      (c.onMeas n f).out = c.out := by
  simp [Chip.onMeas]

@[simp] theorem Chip.lane_onMeas (n : Lane) (f : Meas → Meas) (m : Lane) : (c.onMeas n f).lane m = c.lane m := by
  simp [Chip.lane]

@[simp] theorem Chip.nbr_onMeas (n : Lane) (f : Meas → Meas) (j : Nat) : (c.onMeas n f).nbr j = c.nbr j := by
  simp [Chip.nbr]

@[simp] theorem Chip.queue_onMeas (n : Lane) (f : Meas → Meas) (j : Nat) : (c.onMeas n f).queue j = c.queue j := by
  simp [Chip.queue]

@[simp] theorem Chip.ring_onMeas (n : Lane) (f : Meas → Meas) (j : Nat) : (c.onMeas n f).ring j = c.ring j := by
  simp [Chip.ring]

@[simp] theorem Chip.group_onMeas (n : Lane) (f : Meas → Meas) (m : Lane) : (c.onMeas n f).group m = c.group m := by
  simp [Chip.group]

@[simp] theorem Chip.get_onMeas (n : Lane) (f : Meas → Meas) (g : Fld) : (c.onMeas n f).get g = c.get g := by
  simp [Chip.get]

@[simp] theorem Chip.onQspi_fields (f : Qspi → Qspi) :
    (c.onQspi f).part = c.part ∧ (c.onQspi f).power = c.power ∧ (c.onQspi f).stopped = c.stopped ∧
      (c.onQspi f).regs = c.regs ∧ (c.onQspi f).tick = c.tick ∧ (c.onQspi f).free = c.free ∧
      (c.onQspi f).rdata = c.rdata ∧ (c.onQspi f).latches = c.latches ∧ (c.onQspi f).router = c.router ∧
      (c.onQspi f).pcie = c.pcie ∧ (c.onQspi f).uart0 = c.uart0 ∧ (c.onQspi f).uart1 = c.uart1 ∧
      (c.onQspi f).twi0 = c.twi0 ∧ (c.onQspi f).twi1 = c.twi1 ∧ (c.onQspi f).gpioIn = c.gpioIn ∧
      (c.onQspi f).links = c.links ∧ (c.onQspi f).time = c.time ∧ (c.onQspi f).meas = c.meas ∧
      (c.onQspi f).fuses = c.fuses ∧ (c.onQspi f).health = c.health ∧ (c.onQspi f).boot = c.boot ∧
      (c.onQspi f).pins = c.pins ∧ (c.onQspi f).keys = c.keys ∧ (c.onQspi f).qm = c.qm ∧ (c.onQspi f).mbx = c.mbx ∧
      (c.onQspi f).mac = c.mac ∧ (c.onQspi f).wheel = c.wheel ∧ (c.onQspi f).lanes = c.lanes ∧
      (c.onQspi f).frames = c.frames ∧ (c.onQspi f).jtag = c.jtag ∧ (c.onQspi f).out = c.out := by
  simp [Chip.onQspi]

@[simp] theorem Chip.lane_onQspi (f : Qspi → Qspi) (m : Lane) : (c.onQspi f).lane m = c.lane m := by
  simp [Chip.lane]

@[simp] theorem Chip.nbr_onQspi (f : Qspi → Qspi) (j : Nat) : (c.onQspi f).nbr j = c.nbr j := by
  simp [Chip.nbr]

@[simp] theorem Chip.queue_onQspi (f : Qspi → Qspi) (j : Nat) : (c.onQspi f).queue j = c.queue j := by
  simp [Chip.queue]

@[simp] theorem Chip.ring_onQspi (f : Qspi → Qspi) (j : Nat) : (c.onQspi f).ring j = c.ring j := by
  simp [Chip.ring]

@[simp] theorem Chip.group_onQspi (f : Qspi → Qspi) (m : Lane) : (c.onQspi f).group m = c.group m := by
  simp [Chip.group]

@[simp] theorem Chip.get_onQspi (f : Qspi → Qspi) (g : Fld) : (c.onQspi f).get g = c.get g := by
  simp [Chip.get]

@[simp] theorem Chip.onLink_fields (n : Lane) (f : Link → Link) :
    (c.onLink n f).part = c.part ∧ (c.onLink n f).power = c.power ∧ (c.onLink n f).stopped = c.stopped ∧
      (c.onLink n f).regs = c.regs ∧ (c.onLink n f).tick = c.tick ∧ (c.onLink n f).free = c.free ∧
      (c.onLink n f).rdata = c.rdata ∧ (c.onLink n f).latches = c.latches ∧ (c.onLink n f).router = c.router ∧
      (c.onLink n f).pcie = c.pcie ∧ (c.onLink n f).qspi = c.qspi ∧ (c.onLink n f).uart0 = c.uart0 ∧
      (c.onLink n f).uart1 = c.uart1 ∧ (c.onLink n f).twi0 = c.twi0 ∧ (c.onLink n f).twi1 = c.twi1 ∧
      (c.onLink n f).gpioIn = c.gpioIn ∧ (c.onLink n f).time = c.time ∧ (c.onLink n f).meas = c.meas ∧
      (c.onLink n f).fuses = c.fuses ∧ (c.onLink n f).health = c.health ∧ (c.onLink n f).boot = c.boot ∧
      (c.onLink n f).pins = c.pins ∧ (c.onLink n f).keys = c.keys ∧ (c.onLink n f).qm = c.qm ∧
      (c.onLink n f).mbx = c.mbx ∧ (c.onLink n f).mac = c.mac ∧ (c.onLink n f).wheel = c.wheel ∧
      (c.onLink n f).lanes = c.lanes ∧ (c.onLink n f).frames = c.frames ∧ (c.onLink n f).jtag = c.jtag ∧
      (c.onLink n f).out = c.out := by
  simp [Chip.onLink]

@[simp] theorem Chip.lane_onLink (n : Lane) (f : Link → Link) (m : Lane) : (c.onLink n f).lane m = c.lane m := by
  simp [Chip.lane]

@[simp] theorem Chip.nbr_onLink (n : Lane) (f : Link → Link) (j : Nat) : (c.onLink n f).nbr j = c.nbr j := by
  simp [Chip.nbr]

@[simp] theorem Chip.queue_onLink (n : Lane) (f : Link → Link) (j : Nat) : (c.onLink n f).queue j = c.queue j := by
  simp [Chip.queue]

@[simp] theorem Chip.ring_onLink (n : Lane) (f : Link → Link) (j : Nat) : (c.onLink n f).ring j = c.ring j := by
  simp [Chip.ring]

@[simp] theorem Chip.group_onLink (n : Lane) (f : Link → Link) (m : Lane) : (c.onLink n f).group m = c.group m := by
  simp [Chip.group]

@[simp] theorem Chip.get_onLink (n : Lane) (f : Link → Link) (g : Fld) : (c.onLink n f).get g = c.get g := by
  simp [Chip.get]

@[simp] theorem Chip.onDir_fields (n : Lane) (d : Dir) (f : SkejoDir → SkejoDir) :
    (c.onDir n d f).part = c.part ∧ (c.onDir n d f).power = c.power ∧ (c.onDir n d f).stopped = c.stopped ∧
      (c.onDir n d f).regs = c.regs ∧ (c.onDir n d f).tick = c.tick ∧ (c.onDir n d f).free = c.free ∧
      (c.onDir n d f).rdata = c.rdata ∧ (c.onDir n d f).latches = c.latches ∧ (c.onDir n d f).router = c.router ∧
      (c.onDir n d f).pcie = c.pcie ∧ (c.onDir n d f).qspi = c.qspi ∧ (c.onDir n d f).uart0 = c.uart0 ∧
      (c.onDir n d f).uart1 = c.uart1 ∧ (c.onDir n d f).twi0 = c.twi0 ∧ (c.onDir n d f).twi1 = c.twi1 ∧
      (c.onDir n d f).gpioIn = c.gpioIn ∧ (c.onDir n d f).time = c.time ∧ (c.onDir n d f).meas = c.meas ∧
      (c.onDir n d f).fuses = c.fuses ∧ (c.onDir n d f).health = c.health ∧ (c.onDir n d f).boot = c.boot ∧
      (c.onDir n d f).pins = c.pins ∧ (c.onDir n d f).keys = c.keys ∧ (c.onDir n d f).qm = c.qm ∧
      (c.onDir n d f).mbx = c.mbx ∧ (c.onDir n d f).mac = c.mac ∧ (c.onDir n d f).wheel = c.wheel ∧
      (c.onDir n d f).lanes = c.lanes ∧ (c.onDir n d f).frames = c.frames ∧ (c.onDir n d f).jtag = c.jtag ∧
      (c.onDir n d f).out = c.out := by
  simp [Chip.onDir]

@[simp] theorem Chip.lane_onDir (n : Lane) (d : Dir) (f : SkejoDir → SkejoDir) (m : Lane) : (c.onDir n d f).lane m = c.lane m := by
  simp [Chip.lane]

@[simp] theorem Chip.nbr_onDir (n : Lane) (d : Dir) (f : SkejoDir → SkejoDir) (j : Nat) : (c.onDir n d f).nbr j = c.nbr j := by
  simp [Chip.nbr]

@[simp] theorem Chip.queue_onDir (n : Lane) (d : Dir) (f : SkejoDir → SkejoDir) (j : Nat) : (c.onDir n d f).queue j = c.queue j := by
  simp [Chip.queue]

@[simp] theorem Chip.ring_onDir (n : Lane) (d : Dir) (f : SkejoDir → SkejoDir) (j : Nat) : (c.onDir n d f).ring j = c.ring j := by
  simp [Chip.ring]

@[simp] theorem Chip.group_onDir (n : Lane) (d : Dir) (f : SkejoDir → SkejoDir) (m : Lane) : (c.onDir n d f).group m = c.group m := by
  simp [Chip.group]

@[simp] theorem Chip.get_onDir (n : Lane) (d : Dir) (f : SkejoDir → SkejoDir) (g : Fld) : (c.onDir n d f).get g = c.get g := by
  simp [Chip.get]

@[simp] theorem Chip.onUart_fields (u : Dual) (f : Uart → Uart) :
    (c.onUart u f).part = c.part ∧ (c.onUart u f).power = c.power ∧ (c.onUart u f).stopped = c.stopped ∧
      (c.onUart u f).regs = c.regs ∧ (c.onUart u f).tick = c.tick ∧ (c.onUart u f).free = c.free ∧
      (c.onUart u f).rdata = c.rdata ∧ (c.onUart u f).latches = c.latches ∧ (c.onUart u f).router = c.router ∧
      (c.onUart u f).pcie = c.pcie ∧ (c.onUart u f).qspi = c.qspi ∧ (c.onUart u f).twi0 = c.twi0 ∧
      (c.onUart u f).twi1 = c.twi1 ∧ (c.onUart u f).gpioIn = c.gpioIn ∧ (c.onUart u f).links = c.links ∧
      (c.onUart u f).time = c.time ∧ (c.onUart u f).meas = c.meas ∧ (c.onUart u f).fuses = c.fuses ∧
      (c.onUart u f).health = c.health ∧ (c.onUart u f).boot = c.boot ∧ (c.onUart u f).pins = c.pins ∧
      (c.onUart u f).keys = c.keys ∧ (c.onUart u f).qm = c.qm ∧ (c.onUart u f).mbx = c.mbx ∧
      (c.onUart u f).mac = c.mac ∧ (c.onUart u f).wheel = c.wheel ∧ (c.onUart u f).lanes = c.lanes ∧
      (c.onUart u f).frames = c.frames ∧ (c.onUart u f).jtag = c.jtag ∧ (c.onUart u f).out = c.out := by
  cases u <;> simp [Chip.onUart]

@[simp] theorem Chip.get_onUart (u : Dual) (f : Uart → Uart) (g : Fld) : (c.onUart u f).get g = c.get g := by
  simp [Chip.get]

@[simp] theorem Chip.onTwi_fields (u : Dual) (f : Twi → Twi) :
    (c.onTwi u f).part = c.part ∧ (c.onTwi u f).power = c.power ∧ (c.onTwi u f).stopped = c.stopped ∧
      (c.onTwi u f).regs = c.regs ∧ (c.onTwi u f).tick = c.tick ∧ (c.onTwi u f).free = c.free ∧
      (c.onTwi u f).rdata = c.rdata ∧ (c.onTwi u f).latches = c.latches ∧ (c.onTwi u f).router = c.router ∧
      (c.onTwi u f).pcie = c.pcie ∧ (c.onTwi u f).qspi = c.qspi ∧ (c.onTwi u f).uart0 = c.uart0 ∧
      (c.onTwi u f).uart1 = c.uart1 ∧ (c.onTwi u f).gpioIn = c.gpioIn ∧ (c.onTwi u f).links = c.links ∧
      (c.onTwi u f).time = c.time ∧ (c.onTwi u f).meas = c.meas ∧ (c.onTwi u f).fuses = c.fuses ∧
      (c.onTwi u f).health = c.health ∧ (c.onTwi u f).boot = c.boot ∧ (c.onTwi u f).pins = c.pins ∧
      (c.onTwi u f).keys = c.keys ∧ (c.onTwi u f).qm = c.qm ∧ (c.onTwi u f).mbx = c.mbx ∧
      (c.onTwi u f).mac = c.mac ∧ (c.onTwi u f).wheel = c.wheel ∧ (c.onTwi u f).lanes = c.lanes ∧
      (c.onTwi u f).frames = c.frames ∧ (c.onTwi u f).jtag = c.jtag ∧ (c.onTwi u f).out = c.out := by
  cases u <;> simp [Chip.onTwi]

@[simp] theorem Chip.get_onTwi (u : Dual) (f : Twi → Twi) (g : Fld) : (c.onTwi u f).get g = c.get g := by
  simp [Chip.get]

@[simp] theorem Chip.onMac_mac (f : Mac → Mac) : (c.onMac f).mac = f c.mac := rfl

@[simp] theorem Chip.onQm_qm (f : Qm → Qm) : (c.onQm f).qm = f c.qm := rfl

@[simp] theorem Chip.onMbx_mbx (f : Mbx → Mbx) : (c.onMbx f).mbx = f c.mbx := rfl

@[simp] theorem Chip.onKeys_keys (f : Keys → Keys) : (c.onKeys f).keys = f c.keys := rfl

@[simp] theorem Chip.onHealth_health (f : Health → Health) : (c.onHealth f).health = f c.health := rfl

@[simp] theorem Chip.onBoot_boot (f : Boot → Boot) : (c.onBoot f).boot = f c.boot := rfl

@[simp] theorem Chip.onPins_pins (f : Pins → Pins) : (c.onPins f).pins = f c.pins := rfl

@[simp] theorem Chip.onFuses_fuses (f : Fuses → Fuses) : (c.onFuses f).fuses = f c.fuses := rfl

@[simp] theorem Chip.onTime_time (f : TimeBase → TimeBase) : (c.onTime f).time = f c.time := rfl

@[simp] theorem Chip.onPcie_pcie (f : Pcie → Pcie) : (c.onPcie f).pcie = f c.pcie := rfl

@[simp] theorem Chip.onQspi_qspi (f : Qspi → Qspi) : (c.onQspi f).qspi = f c.qspi := rfl

@[simp] theorem Chip.onWheel_wheel (f : Wheel → Wheel) : (c.onWheel f).wheel = f c.wheel := rfl

@[simp] theorem Chip.setRdata_rdata (v : Nat) : (c.setRdata v).rdata = v := rfl

end Sys2Proof.Machine
end

