-- ==== Sys2Proof/Laws/Memory.lean ====
section
/-!
SUPPORT. The canonical form of the byte memories is kept by every memory operation, and by every command whose effect
goes through `State.onChip` or `State.onWork`.
-/
namespace Sys2Proof.Machine

theorem Mems.wf_iff (m : Mems) :
    m.wf = true ↔ ∀ sp : Space, Mem.wf sp.unlisted sp.top (m.of sp) = true := by
  constructor
  · intro h sp
    simp only [Mems.wf, Bool.and_eq_true] at h
    cases sp
    · exact h.1.1
    · exact h.1.2
    · exact h.2
  · intro h
    simp only [Mems.wf, Bool.and_eq_true]
    exact ⟨⟨h .sram, h .host⟩, h .flash⟩

@[simp] theorem Mems.of_put_same (m : Mems) (sp : Space) (x : Mem) : (m.put sp x).of sp = x := by cases sp <;> rfl

theorem Mems.of_put_other (m : Mems) (sp sp' : Space) (x : Mem) (h : sp' ≠ sp) : (m.put sp x).of sp' = m.of sp' := by
  cases sp <;> cases sp' <;> first | rfl | exact absurd rfl h

theorem Mems.wf_put (m : Mems) (sp : Space) (x : Mem) (h : m.wf = true)
    (hx : Mem.wf sp.unlisted sp.top x = true) : (m.put sp x).wf = true := by
  rw [Mems.wf_iff] at h ⊢
  intro sp'
  by_cases e : sp' = sp
  · subst e; simpa using hx
  · rw [Mems.of_put_other _ _ _ _ e]; exact h sp'

theorem Mem.writeBytes_take_wf (sp : Space) (x : Mem) (a : Nat) (bs : List Byte)
    (h : Mem.wf sp.unlisted sp.top x = true) :
    Mem.wf sp.unlisted sp.top (Mem.writeBytes sp.unlisted x a (bs.take (sp.top - a))) = true := by
  by_cases ha : a ≤ sp.top
  · exact Mem.wf_writeBytes _ _ _ _ _ h (by have := List.length_take_le (sp.top - a) bs; omega)
  · have : sp.top - a = 0 := by omega
    simpa [this, Mem.writeBytes] using h

/-- Every memory write keeps the canonical form. -/
theorem Mems.wf_apply (m : Mems) (w : MemWr) (h : m.wf = true) : (m.apply w).wf = true := by
  cases w with
  | bytes sp a bs => exact Mems.wf_put _ _ _ h (Mem.writeBytes_take_wf sp _ a bs ((Mems.wf_iff m).mp h sp))
  | clear sp a n => exact Mems.wf_put _ _ _ h (Mem.wf_clear _ _ _ a n ((Mems.wf_iff m).mp h sp))

theorem Mems.wf_applyAll (m : Mems) (ws : List MemWr) (h : m.wf = true) : (m.applyAll ws).wf = true := by
  induction ws generalizing m with
  | nil => exact h
  | cons w ws ih => exact ih _ (Mems.wf_apply m w h)

@[simp] theorem Mems.applyAll_nil (m : Mems) : m.applyAll [] = m := rfl

theorem Mems.applyAll_append (m : Mems) (ws vs : List MemWr) :
    m.applyAll (ws ++ vs) = (m.applyAll ws).applyAll vs := by simp [Mems.applyAll]

/-- Bytes written below the top of their space read back. -/
theorem Mems.readBytes_apply_same (m : Mems) (sp : Space) (a : Nat) (bs : List Byte) (h : a + bs.length ≤ sp.top) :
    (m.apply (.bytes sp a bs)).readBytes sp a bs.length = bs := by
  have : bs.take (sp.top - a) = bs := List.take_of_length_le (by omega)
  simp [Mems.apply, Mems.writeBytes, Mems.readBytes, this, Mem.readBytes_writeBytes_same]

/-- A run of bytes beside those written reads as before. -/
theorem Mems.readBytes_apply_other (m : Mems) (sp : Space) (a : Nat) (bs : List Byte) (x n : Nat)
    (h : x + n ≤ a ∨ a + bs.length ≤ x) :
    (m.apply (.bytes sp a bs)).readBytes sp x n = m.readBytes sp x n := by
  simp only [Mems.apply, Mems.writeBytes, Mems.readBytes, Mems.of_put_same]
  exact Mem.readBytes_writeBytes_other _ _ _ _ _ _ (by simp only [List.length_take]; omega)

theorem State.onChip_wf (s : State) (f : Chip → Chip) (h : s.mem.wf = true) : (s.onChip f).mem.wf = true := h

theorem State.onWork_wf (s : State) (f : Work → Work) (h : s.mem.wf = true) : (s.onWork f).mem.wf = true :=
  Mems.wf_applyAll _ _ h

/-- Reset's memories are canonical. -/
theorem State.reset_wf : State.reset.mem.wf = true := by decide

end Sys2Proof.Machine
end

