-- ==== Sys2Proof/Laws/Regs.lean ====
section
/-!
SUPPORT. Laws of register fields, of events and faults, and of the gate that every register access passes.
-/
namespace Sys2Proof.Machine

variable (c : Chip) (f g : Fld)

/-! A field after it has been written, and every other field. -/

@[simp] theorem Chip.get_set_same (v : Nat) : (c.set f v).get f = v % 2 ^ f.width := by
  by_cases h : v % 2 ^ f.width = f.reset <;> simp [Chip.get, Chip.set, h]

theorem Chip.get_set_of_key (v : Nat) (h : g.key = f.key) (hr : g.reset = f.reset) :
    (c.set f v).get g = v % 2 ^ f.width := by
  by_cases h' : v % 2 ^ f.width = f.reset <;> simp [Chip.get, Chip.set, h, hr, h']

theorem Chip.get_set_other (v : Nat) (h : g.key ≠ f.key) : (c.set f v).get g = c.get g := by
  by_cases h' : v % 2 ^ f.width = f.reset
  · simp [Chip.get, Chip.set, h', NatMap.getD_erase_other _ _ _ _ h]
  · simp [Chip.get, Chip.set, h', NatMap.getD_insert_other _ _ _ _ _ h]

@[simp] theorem Chip.get_resetFld_same : (c.resetFld f).get f = f.reset := by simp [Chip.get, Chip.resetFld]

theorem Chip.get_resetFld_other (h : g.key ≠ f.key) : (c.resetFld f).get g = c.get g := by
  simp [Chip.get, Chip.resetFld, NatMap.getD_erase_other _ _ _ _ h]

theorem Chip.get_setFlag_other (b : Bool) (h : g.key ≠ f.key) : (c.setFlag f b).get g = c.get g :=
  Chip.get_set_other c f g _ h

theorem Chip.get_setInt_other (z : Int) (h : g.key ≠ f.key) : (c.setInt f z).get g = c.get g :=
  Chip.get_set_other c f g _ h

theorem Chip.get_setBitAt_other (b : Nat) (v : Bool) (h : g.key ≠ f.key) : (c.setBitAt f b v).get g = c.get g :=
  Chip.get_set_other c f g _ h

theorem Chip.get_count_other (k : Nat) (h : g.key ≠ f.key) : (c.count f k).get g = c.get g :=
  Chip.get_set_other c f g _ h

theorem Chip.get_count_same (k : Nat) : (c.count f k).get f = min (c.get f + k) (2 ^ f.width - 1) := by
  rw [Chip.count, Chip.get_set_same, satAdd]
  have h : 0 < 2 ^ f.width := Nat.pow_pos (by decide)
  exact Nat.mod_eq_of_lt (by omega)

theorem Chip.flag_setFlag_same (b : Bool) (h : 0 < f.width) : (c.setFlag f b).flag f = b := by
  have h2 : 1 < 2 ^ f.width := Nat.one_lt_two_pow (by omega)
  cases b <;> simp [Chip.flag, Chip.setFlag, bit, Nat.mod_eq_of_lt h2]

theorem Chip.bitAt_setBitAt_same (b : Nat) (hb : b < f.width) : (c.setBitAt f b true).bitAt f b = true := by
  simp [Chip.bitAt, Chip.setBitAt, setBit, Nat.testBit_mod_two_pow, hb]

theorem Chip.flag_congr (c d : Chip) (h : d.get f = c.get f) : d.flag f = c.flag f := by simp [Chip.flag, h]

/-! Registers as a set of fields that may change. -/

theorem Chip.SameBut.refl (fs : List Fld) : c.SameBut c fs := fun _ _ => rfl

theorem Chip.SameBut.trans {c d e : Chip} {fs gs : List Fld} (h : c.SameBut d fs) (h' : d.SameBut e gs) :
    c.SameBut e (fs ++ gs) := fun g hg => by
  rw [h' g fun f hf => hg f (List.mem_append_right _ hf), h g fun f hf => hg f (List.mem_append_left _ hf)]

theorem Chip.SameBut.mono {c d : Chip} {fs gs : List Fld} (h : c.SameBut d fs) (hs : ∀ f ∈ fs, f ∈ gs) :
    c.SameBut d gs := fun g hg => h g fun f hf => hg f (hs f hf)

theorem Chip.SameBut.of_regs {c d : Chip} (fs : List Fld) (h : d.regs = c.regs) : c.SameBut d fs :=
  fun g _ => by simp [Chip.get, h]

theorem Chip.sameBut_set (v : Nat) : c.SameBut (c.set f v) [f] :=
  fun g hg => Chip.get_set_other c f g v (hg f List.mem_cons_self)

/-! Events and faults. -/

/-- Clearing the bits of `m` leaves the others of `v`. -/
theorem testBit_clearMask (v m b : Nat) : (clearMask v m).testBit b = (v.testBit b && !m.testBit b) := by
  unfold clearMask
  have a0 : ∀ v m : Nat, (v &&& m) % 2 = (v % 2) * (m % 2) := by
    intro v m
    have h : (v &&& m).testBit 0 = (v.testBit 0 && m.testBit 0) := by simp only [Nat.testBit_and]
    simp only [Nat.testBit_zero] at h
    rcases Nat.mod_two_eq_zero_or_one v with hv | hv <;> rcases Nat.mod_two_eq_zero_or_one m with hm | hm <;>
      rcases Nat.mod_two_eq_zero_or_one (v &&& m) with hk | hk <;> simp [hv, hm, hk] at h ⊢
  induction b generalizing v m with
  | zero =>
    have h1 := @Nat.and_le_left v m
    have h2 := a0 v m
    simp only [Nat.testBit_zero]
    generalize v &&& m = a at *
    rcases Nat.mod_two_eq_zero_or_one v with hv | hv <;> rcases Nat.mod_two_eq_zero_or_one m with hm | hm <;>
      rw [hv, hm] at h2
    · simp [hv, hm]; omega
    · simp [hv, hm]; omega
    · simp [hv, hm]; omega
    · simp [hv, hm]; omega
  | succ b ih =>
    have h1 := @Nat.and_le_left v m
    have h2 : (v &&& m) / 2 = v / 2 &&& m / 2 := Nat.and_div_two
    have h3 : (v &&& m) % 2 ≤ v % 2 := by
      rw [a0]; rcases Nat.mod_two_eq_zero_or_one m with hm | hm <;> simp [hm]
    have h4 : (v - (v &&& m)) / 2 = v / 2 - (v / 2 &&& m / 2) := by
      rw [← h2]; generalize v &&& m = a at *; omega
    simp only [Nat.testBit_succ, h4, ih]

@[simp] theorem pevt_width (p : Page) : (pevt p).width = 32 := rfl
@[simp] theorem pevten_width (p : Page) : (pevten p).width = 32 := rfl
@[simp] theorem pfault_width (p : Page) : (pfault p).width = 32 := rfl
@[simp] theorem pfcntCount_width (p : Page) : (pfcntCount p).width = 16 := rfl
@[simp] theorem pfcntLast_width (p : Page) : (pfcntLast p).width = 8 := rfl
@[simp] theorem plock_width (p : Page) : (plock p).width = 2 := rfl
@[simp] theorem pctlEnable_width (p : Page) : (pctlEnable p).width = 1 := rfl
@[simp] theorem pctlSoftreset_width (p : Page) : (pctlSoftreset p).width = 1 := rfl
@[simp] theorem pctlCarried_width (p : Page) : (pctlCarried p).width = 1 := rfl

theorem Chip.setVector_sameBut (v : Nat) : c.SameBut (c.setVector v) [F.EVT_VECSTAT_SIG] :=
  fun g hg => Chip.get_set_other c _ g _ (hg _ List.mem_cons_self)

theorem Chip.raiseEvt_sameBut (b : Nat) : c.SameBut (c.raiseEvt b) [pevt .evt, F.EVT_VECSTAT_SIG] := by
  unfold Chip.raiseEvt
  dsimp only
  split
  · exact (Chip.sameBut_set c _ _).trans (Chip.setVector_sameBut _ _)
  · exact (Chip.sameBut_set c _ _).mono (by simp)

theorem Chip.signalVec_sameBut (v : Nat) : c.SameBut (c.signalVec v) [pevt .evt, F.EVT_VECSTAT_SIG] := by
  unfold Chip.signalVec
  dsimp only
  split
  · exact (Chip.setVector_sameBut c v).mono (by simp)
  · exact ((Chip.setVector_sameBut c v).trans (Chip.raiseEvt_sameBut _ 1)).mono (by simp)

theorem Chip.fire_sameBut (src : Nat) : c.SameBut (c.fire src) [pevt .evt, F.EVT_VECSTAT_SIG] := by
  unfold Chip.fire
  have h : c.SameBut (if (c.routerEntry src).testBit 8 then c.signalVec (bitField (c.routerEntry src) 0 5) else c)
      [pevt .evt, F.EVT_VECSTAT_SIG] := by
    split
    · exact Chip.signalVec_sameBut c _
    · exact Chip.SameBut.refl c _
  dsimp only
  split
  · exact (h.trans (Chip.raiseEvt_sameBut _ 0)).mono (by simp)
  · exact h

/-- An event changes no register but PEVT of its page, PEVT of the EVT page and VECSTAT. -/
theorem Chip.raise_sameBut (p : Page) (b : Nat) : c.SameBut (c.raise p b) (evtFlds p) := by
  unfold Chip.raise evtFlds
  split
  · simp only []
    split
    · exact ((Chip.sameBut_set c _ _).trans (Chip.fire_sameBut _ _)).mono (by simp)
    · exact (Chip.sameBut_set c _ _).mono (by simp)
  · exact Chip.SameBut.refl c _

/-- A fault changes no register but PFAULT and PFCNT of its page. -/
theorem Chip.pfaultSet_sameBut (p : Page) (b : Nat) : c.SameBut (c.pfaultSet p b) (faultFlds p) := by
  unfold Chip.pfaultSet faultFlds Chip.countFault
  dsimp only
  split
  · exact (Chip.sameBut_set c _ _).mono (by simp)
  · exact (((Chip.sameBut_set c _ _).trans (Chip.sameBut_set _ _ _)).trans (Chip.sameBut_set _ _ _)).mono (by simp)

/-- `d` is `c` but for registers and the MSI-X pending bits. -/
def Chip.SignalsOnly (c d : Chip) : Prop := ∃ r m, d = { c with regs := r, pcie := { c.pcie with pending := m } }

theorem Chip.SignalsOnly.trans {c d e : Chip} (h : c.SignalsOnly d) (h' : d.SignalsOnly e) : c.SignalsOnly e := by
  obtain ⟨r, m, rfl⟩ := h
  obtain ⟨r', m', rfl⟩ := h'
  exact ⟨r', m', rfl⟩

theorem Chip.SignalsOnly.refl : c.SignalsOnly c := ⟨c.regs, c.pcie.pending, rfl⟩

theorem Chip.set_signalsOnly (v : Nat) : c.SignalsOnly (c.set f v) := ⟨_, c.pcie.pending, rfl⟩

theorem Chip.setVector_signalsOnly (v : Nat) : c.SignalsOnly (c.setVector v) := ⟨_, _, rfl⟩

theorem Chip.raiseEvt_signalsOnly (b : Nat) : c.SignalsOnly (c.raiseEvt b) := by
  unfold Chip.raiseEvt
  dsimp only
  split
  · exact (Chip.set_signalsOnly c _ _).trans (Chip.setVector_signalsOnly _ _)
  · exact Chip.set_signalsOnly c _ _

theorem Chip.signalVec_signalsOnly (v : Nat) : c.SignalsOnly (c.signalVec v) := by
  unfold Chip.signalVec
  dsimp only
  split
  · exact Chip.setVector_signalsOnly c _
  · exact (Chip.setVector_signalsOnly c _).trans (Chip.raiseEvt_signalsOnly _ _)

theorem Chip.fire_signalsOnly (src : Nat) : c.SignalsOnly (c.fire src) := by
  unfold Chip.fire
  have h : c.SignalsOnly
      (if (c.routerEntry src).testBit 8 then c.signalVec (bitField (c.routerEntry src) 0 5) else c) := by
    split
    · exact Chip.signalVec_signalsOnly c _
    · exact Chip.SignalsOnly.refl c
  dsimp only
  split
  · exact h.trans (Chip.raiseEvt_signalsOnly _ 0)
  · exact h

/-- An event changes nothing but registers and the MSI-X pending bits. -/
theorem Chip.raise_signalsOnly (p : Page) (b : Nat) : c.SignalsOnly (c.raise p b) := by
  unfold Chip.raise
  dsimp only
  repeat' split
  all_goals first
    | exact (Chip.set_signalsOnly c _ _).trans (Chip.fire_signalsOnly _ _)
    | exact Chip.set_signalsOnly c _ _
    | exact Chip.SignalsOnly.refl c

@[simp] theorem Chip.fire_fields (src : Nat) :
    (c.fire src).part = c.part ∧ (c.fire src).power = c.power ∧ (c.fire src).stopped = c.stopped ∧
      (c.fire src).tick = c.tick ∧ (c.fire src).free = c.free ∧ (c.fire src).rdata = c.rdata ∧
      (c.fire src).latches = c.latches ∧ (c.fire src).router = c.router ∧ (c.fire src).qspi = c.qspi ∧
      (c.fire src).uart0 = c.uart0 ∧ (c.fire src).uart1 = c.uart1 ∧ (c.fire src).twi0 = c.twi0 ∧
      (c.fire src).twi1 = c.twi1 ∧ (c.fire src).gpioIn = c.gpioIn ∧ (c.fire src).links = c.links ∧
      (c.fire src).time = c.time ∧ (c.fire src).meas = c.meas ∧ (c.fire src).fuses = c.fuses ∧
      (c.fire src).health = c.health ∧ (c.fire src).boot = c.boot ∧ (c.fire src).pins = c.pins ∧
      (c.fire src).keys = c.keys ∧ (c.fire src).qm = c.qm ∧ (c.fire src).mbx = c.mbx ∧ (c.fire src).mac = c.mac ∧
      (c.fire src).wheel = c.wheel ∧ (c.fire src).lanes = c.lanes ∧ (c.fire src).frames = c.frames ∧
      (c.fire src).jtag = c.jtag ∧ (c.fire src).out = c.out := by
  obtain ⟨r, m, h⟩ := Chip.fire_signalsOnly c src
  simp [h]

@[simp] theorem Chip.raise_fields (p : Page) (b : Nat) :
    (c.raise p b).part = c.part ∧ (c.raise p b).power = c.power ∧ (c.raise p b).stopped = c.stopped ∧
      (c.raise p b).tick = c.tick ∧ (c.raise p b).free = c.free ∧ (c.raise p b).rdata = c.rdata ∧
      (c.raise p b).latches = c.latches ∧ (c.raise p b).router = c.router ∧ (c.raise p b).qspi = c.qspi ∧
      (c.raise p b).uart0 = c.uart0 ∧ (c.raise p b).uart1 = c.uart1 ∧ (c.raise p b).twi0 = c.twi0 ∧
      (c.raise p b).twi1 = c.twi1 ∧ (c.raise p b).gpioIn = c.gpioIn ∧ (c.raise p b).links = c.links ∧
      (c.raise p b).time = c.time ∧ (c.raise p b).meas = c.meas ∧ (c.raise p b).fuses = c.fuses ∧
      (c.raise p b).health = c.health ∧ (c.raise p b).boot = c.boot ∧ (c.raise p b).pins = c.pins ∧
      (c.raise p b).keys = c.keys ∧ (c.raise p b).qm = c.qm ∧ (c.raise p b).mbx = c.mbx ∧
      (c.raise p b).mac = c.mac ∧ (c.raise p b).wheel = c.wheel ∧ (c.raise p b).lanes = c.lanes ∧
      (c.raise p b).frames = c.frames ∧ (c.raise p b).jtag = c.jtag ∧ (c.raise p b).out = c.out := by
  obtain ⟨r, m, h⟩ := Chip.raise_signalsOnly c p b
  simp [h]

@[simp] theorem Chip.pfaultSet_fields (p : Page) (b : Nat) :
    (c.pfaultSet p b).part = c.part ∧ (c.pfaultSet p b).power = c.power ∧ (c.pfaultSet p b).stopped = c.stopped ∧
      (c.pfaultSet p b).tick = c.tick ∧ (c.pfaultSet p b).free = c.free ∧ (c.pfaultSet p b).rdata = c.rdata ∧
      (c.pfaultSet p b).latches = c.latches ∧ (c.pfaultSet p b).router = c.router ∧
      (c.pfaultSet p b).pcie = c.pcie ∧ (c.pfaultSet p b).qspi = c.qspi ∧ (c.pfaultSet p b).uart0 = c.uart0 ∧ (c.pfaultSet p b).uart1 = c.uart1 ∧
      (c.pfaultSet p b).twi0 = c.twi0 ∧ (c.pfaultSet p b).twi1 = c.twi1 ∧ (c.pfaultSet p b).gpioIn = c.gpioIn ∧
      (c.pfaultSet p b).links = c.links ∧ (c.pfaultSet p b).time = c.time ∧ (c.pfaultSet p b).meas = c.meas ∧
      (c.pfaultSet p b).fuses = c.fuses ∧ (c.pfaultSet p b).health = c.health ∧ (c.pfaultSet p b).boot = c.boot ∧
      (c.pfaultSet p b).pins = c.pins ∧ (c.pfaultSet p b).keys = c.keys ∧ (c.pfaultSet p b).qm = c.qm ∧
      (c.pfaultSet p b).mbx = c.mbx ∧ (c.pfaultSet p b).mac = c.mac ∧ (c.pfaultSet p b).wheel = c.wheel ∧
      (c.pfaultSet p b).lanes = c.lanes ∧ (c.pfaultSet p b).frames = c.frames ∧ (c.pfaultSet p b).jtag = c.jtag ∧
      (c.pfaultSet p b).out = c.out := by
  unfold Chip.pfaultSet Chip.countFault
  dsimp only
  split <;> simp

@[simp] theorem Chip.lane_raise (p : Page) (b : Nat) (m : Lane) : (c.raise p b).lane m = c.lane m := by
  simp [Chip.lane]

@[simp] theorem Chip.lane_pfaultSet (p : Page) (b : Nat) (m : Lane) : (c.pfaultSet p b).lane m = c.lane m := by
  simp [Chip.lane]

@[simp] theorem Chip.nbr_raise (p : Page) (b : Nat) (k : Nat) : (c.raise p b).nbr k = c.nbr k := by
  simp [Chip.nbr]

@[simp] theorem Chip.nbr_pfaultSet (p : Page) (b : Nat) (k : Nat) : (c.pfaultSet p b).nbr k = c.nbr k := by
  simp [Chip.nbr]

@[simp] theorem Chip.queue_raise (p : Page) (b : Nat) (k : Nat) : (c.raise p b).queue k = c.queue k := by
  simp [Chip.queue]

@[simp] theorem Chip.queue_pfaultSet (p : Page) (b : Nat) (k : Nat) : (c.pfaultSet p b).queue k = c.queue k := by
  simp [Chip.queue]

@[simp] theorem Chip.ring_raise (p : Page) (b : Nat) (k : Nat) : (c.raise p b).ring k = c.ring k := by
  simp [Chip.ring]

@[simp] theorem Chip.ring_pfaultSet (p : Page) (b : Nat) (k : Nat) : (c.pfaultSet p b).ring k = c.ring k := by
  simp [Chip.ring]

@[simp] theorem Chip.group_raise (p : Page) (b : Nat) (m : Lane) : (c.raise p b).group m = c.group m := by
  simp [Chip.group]

@[simp] theorem Chip.group_pfaultSet (p : Page) (b : Nat) (m : Lane) : (c.pfaultSet p b).group m = c.group m := by
  simp [Chip.group]

theorem Chip.bitAt_setBitAt_keeps (b b' : Nat) (h : c.bitAt f b = true) (hb : b < f.width) :
    (c.setBitAt f b' true).bitAt f b = true := by
  simp only [Chip.bitAt] at h
  simp [Chip.bitAt, Chip.setBitAt, setBit, Nat.testBit_mod_two_pow, hb, h]

theorem Chip.bitAt_congr {c d : Chip} (b : Nat) (h : d.get f = c.get f) : d.bitAt f b = c.bitAt f b := by
  simp [Chip.bitAt, h]

theorem Chip.raiseEvt_keeps (b b' : Nat) (hb : b < 32) (h : c.bitAt (pevt .evt) b = true) :
    (c.raiseEvt b').bitAt (pevt .evt) b = true := by
  have h1 := Chip.bitAt_setBitAt_keeps c (pevt .evt) b b' h (by simpa [pevt] using hb)
  unfold Chip.raiseEvt
  dsimp only
  split
  · rw [Chip.bitAt_congr]
    · exact h1
    · exact Chip.setVector_sameBut _ _ _ (by simp [Fld.key, pevt, F.EVT_VECSTAT_SIG, Page.base])
  · exact h1

theorem Chip.setVector_keeps (v b : Nat) (h : c.bitAt (pevt .evt) b = true) :
    (c.setVector v).bitAt (pevt .evt) b = true := by
  rw [Chip.bitAt_congr]
  · exact h
  · exact Chip.setVector_sameBut _ _ _ (by simp [Fld.key, pevt, F.EVT_VECSTAT_SIG, Page.base])

theorem Chip.signalVec_keeps (v b : Nat) (hb : b < 32) (h : c.bitAt (pevt .evt) b = true) :
    (c.signalVec v).bitAt (pevt .evt) b = true := by
  unfold Chip.signalVec
  dsimp only
  split
  · exact Chip.setVector_keeps c v b h
  · exact Chip.raiseEvt_keeps _ _ _ hb (Chip.setVector_keeps c v b h)

theorem Chip.fire_keeps (src b : Nat) (hb : b < 32) (h : c.bitAt (pevt .evt) b = true) :
    (c.fire src).bitAt (pevt .evt) b = true := by
  unfold Chip.fire
  have h' : (if (c.routerEntry src).testBit 8 then c.signalVec (bitField (c.routerEntry src) 0 5) else c).bitAt
      (pevt .evt) b = true := by
    split
    · exact Chip.signalVec_keeps c _ b hb h
    · exact h
  dsimp only
  split
  · exact Chip.raiseEvt_keeps _ _ _ hb h'
  · exact h'

theorem Page.pevt_key_inj (p q : Page) (h : (pevt p).key = (pevt q).key) : p.base = q.base := by
  simp only [Fld.key, pevt] at h; omega

/-- Firing a source clears no event bit of any page. -/
theorem Chip.fire_keeps_page (p : Page) (src b : Nat) (hb : b < 32) (h : c.bitAt (pevt p) b = true) :
    (c.fire src).bitAt (pevt p) b = true := by
  by_cases e : p.base = Page.evt.base
  · have ek : pevt p = pevt .evt := by simp [pevt, e]
    rw [ek] at h ⊢
    exact Chip.fire_keeps _ _ _ hb h
  · rw [Chip.bitAt_congr]
    · exact h
    · refine Chip.fire_sameBut _ _ _ ?_
      intro f hf
      simp only [List.mem_cons, List.not_mem_nil, or_false] at hf
      rcases hf with rfl | rfl
      · exact fun hk => e (Page.pevt_key_inj _ _ hk)
      · have : p.base % 4 = 0 := by
          cases p <;> simp only [Page.base, Lane.base] <;> omega
        simp only [Fld.key, pevt, F.EVT_VECSTAT_SIG]
        have : p.base = 0x2000 ∨ p.base < 0x2000 ∨ 0x3000 ≤ p.base := by
          cases p <;> simp only [Page.base, Lane.base] <;> omega
        rcases this with h | h | h
        · exact absurd h e
        all_goals omega

/-- An event of a page leaves the page's latched bits latched. -/
theorem Chip.raise_keeps (p : Page) (b b' : Nat) (hb : b < 32) (h : c.bitAt (pevt p) b = true) :
    (c.raise p b').bitAt (pevt p) b = true := by
  have h1 := Chip.bitAt_setBitAt_keeps c (pevt p) b b' h (by simpa [pevt] using hb)
  unfold Chip.raise
  split
  · simp only []
    split
    · exact Chip.fire_keeps_page _ _ _ _ hb h1
    · exact h1
  · exact h

/-- An event of a page that can raise events latches its PEVT bit. -/
theorem Chip.raise_latches (p : Page) (b : Nat) (hp : c.pageLive p = true) (hb : b < 32) :
    (c.raise p b).bitAt (pevt p) b = true := by
  have h1 : (c.setBitAt (pevt p) b true).bitAt (pevt p) b = true :=
    Chip.bitAt_setBitAt_same c (pevt p) b (by simpa [pevt] using hb)
  unfold Chip.raise
  simp only [hp, ↓reduceIte]
  split
  · exact Chip.fire_keeps_page _ _ _ _ hb h1
  · exact h1

/-- A fault sets its PFAULT bit. -/
theorem Chip.pfaultSet_sets (p : Page) (b : Nat) (hb : b < 32) : (c.pfaultSet p b).bitAt (pfault p) b = true := by
  have h1 : (c.setBitAt (pfault p) b true).bitAt (pfault p) b = true :=
    Chip.bitAt_setBitAt_same c (pfault p) b (by simpa [pfault] using hb)
  unfold Chip.pfaultSet Chip.countFault
  dsimp only
  split
  · exact h1
  · rw [Chip.bitAt_congr]
    · exact h1
    · rw [Chip.get_set_other, Chip.get_count_other] <;> simp only [Fld.key, pfault, pfcntCount, pfcntLast] <;> omega

/-- A fault that is set stays set when another is. -/
theorem Chip.pfaultSet_keeps (p : Page) (b b' : Nat) (hb : b' < 32) (h : c.bitAt (pfault p) b' = true) :
    (c.pfaultSet p b).bitAt (pfault p) b' = true := by
  have h1 : (c.setBitAt (pfault p) b true).bitAt (pfault p) b' = true := Chip.bitAt_setBitAt_keeps _ _ _ _ h hb
  unfold Chip.pfaultSet Chip.countFault
  dsimp only
  split
  · exact h1
  · rw [Chip.bitAt_congr]
    · exact h1
    · rw [Chip.get_set_other, Chip.get_count_other] <;> simp only [Fld.key, pfault, pfcntCount, pfcntLast] <;> omega

/-! One field after an update that does not reach it. -/

theorem Chip.get_raise_other (p : Page) (b : Nat) (h : g.key ≠ (pevt p).key) (h1 : g.key ≠ (pevt .evt).key)
    (h2 : g.key ≠ F.EVT_VECSTAT_SIG.key) : (c.raise p b).get g = c.get g :=
  Chip.raise_sameBut c p b g (by simp [evtFlds, h, h1, h2])

theorem Chip.get_fire_other (src : Nat) (h1 : g.key ≠ (pevt .evt).key)
    (h2 : g.key ≠ F.EVT_VECSTAT_SIG.key) : (c.fire src).get g = c.get g :=
  Chip.fire_sameBut c src g (by simp [h1, h2])

theorem Chip.get_pfaultSet_other (p : Page) (b : Nat) (h : g.key ≠ (pfault p).key) (h1 : g.key ≠ (pfcntCount p).key)
    (h2 : g.key ≠ (pfcntLast p).key) : (c.pfaultSet p b).get g = c.get g :=
  Chip.pfaultSet_sameBut c p b g (by simp [faultFlds, h, h1, h2])

theorem Chip.get_iff (b : Bool) (u : Chip → Chip) : (c.iff b u).get g = if b then (u c).get g else c.get g := by
  unfold Chip.iff; split <;> rfl

theorem Chip.get_ite (q : Prop) [Decidable q] (a b : Chip) :
    (if q then a else b).get g = if q then a.get g else b.get g := by split <;> rfl

/-! The gate of register accesses. -/

theorem Chip.touch_sameBut (i : Init) (p : Page) (fs : List Fld) : c.SameBut (c.touch i p) fs :=
  Chip.SameBut.of_regs fs (by simp)

theorem Chip.SameBut.of_touch {c d : Chip} {i : Init} {p : Page} {fs : List Fld} (h : (c.touch i p).SameBut d fs) :
    c.SameBut d fs := fun g hg => by rw [h g hg]; simp

/-- Pages stand at multiples of 4 KiB. -/
theorem Page.base_mod (p : Page) : p.base % 0x1000 = 0 := by
  cases p
  case uart u => cases u <;> decide
  case twi u => cases u <;> decide
  all_goals (simp only [Page.base, Lane.base]; try omega)

/-- No other page stands where the EVT page does. -/
theorem Page.base_ne_evt (p : Page) (h : p ≠ .evt) : p.base < 0x2000 ∨ 0x3000 ≤ p.base := by
  cases p
  case uart u => cases u <;> decide
  case twi u => cases u <;> decide
  case evt => exact absurd rfl h
  all_goals (simp only [Page.base, Lane.base]; omega)

theorem Chip.gate_taken (i : Init) (p : Page) (off : Nat) (eff : Chip → Chip) (h : c.TakesWrite i p off) :
    c.gate i p off eff = eff (c.touch i p) := by simp [Chip.gate, h.1, h.2]

theorem Chip.gateRead_taken (i : Init) (p : Page) (off : Nat) (eff : Chip → Nat × Chip) (h : c.TakesRead i p off) :
    c.gateRead i p off eff = (eff (c.touch i p)).2.setRdata (eff (c.touch i p)).1 := by
  simp [Chip.gateRead, h.1, h.2]

theorem Work.gate_taken (w : Work) (i : Init) (p : Page) (off : Nat) (eff : Work → Work)
    (h : w.chip.TakesWrite i p off) : w.gate i p off eff = eff (w.onChip fun c => c.touch i p) := by
  simp [Work.gate, h.1, h.2]

/-! Stores by register type. -/

theorem Chip.storeSlice_onlyRegs (v : Nat) (x : Slice) : ∃ r, c.storeSlice v x = { c with regs := r } := by
  unfold Chip.storeSlice
  extract_lets w
  split
  · split
    · exact ⟨_, rfl⟩
    · exact ⟨c.regs, rfl⟩
  · exact ⟨_, rfl⟩
  · exact ⟨_, rfl⟩
  · exact ⟨c.regs, rfl⟩

/-- A store changes nothing but registers. -/
theorem Chip.store_onlyRegs (p : Page) (off v : Nat) : ∃ r, c.store p off v = { c with regs := r } := by
  unfold Chip.store
  split
  · next reg _ =>
    unfold Chip.storeReg
    have h : ∀ (l : List Slice) (d : Chip), (∃ r, d = { c with regs := r }) →
        ∃ r, l.foldl (fun c s => c.storeSlice v s) d = { c with regs := r } := by
      intro l
      induction l with
      | nil => exact fun d h => h
      | cons x l ih =>
        intro d hd
        refine ih _ ?_
        obtain ⟨r, rfl⟩ := hd
        obtain ⟨r', h'⟩ := Chip.storeSlice_onlyRegs { c with regs := r } v x
        exact ⟨r', h'⟩
    exact h _ _ ⟨c.regs, rfl⟩
  · exact ⟨c.regs, rfl⟩

@[simp] theorem Chip.store_fields (p : Page) (off v : Nat) :
    (c.store p off v).part = c.part ∧ (c.store p off v).power = c.power ∧ (c.store p off v).stopped = c.stopped ∧
      (c.store p off v).tick = c.tick ∧ (c.store p off v).free = c.free ∧ (c.store p off v).rdata = c.rdata ∧
      (c.store p off v).latches = c.latches ∧ (c.store p off v).router = c.router ∧
      (c.store p off v).pcie = c.pcie ∧ (c.store p off v).qspi = c.qspi ∧ (c.store p off v).uart0 = c.uart0 ∧
      (c.store p off v).uart1 = c.uart1 ∧ (c.store p off v).twi0 = c.twi0 ∧ (c.store p off v).twi1 = c.twi1 ∧
      (c.store p off v).gpioIn = c.gpioIn ∧ (c.store p off v).links = c.links ∧ (c.store p off v).time = c.time ∧
      (c.store p off v).meas = c.meas ∧ (c.store p off v).fuses = c.fuses ∧ (c.store p off v).health = c.health ∧
      (c.store p off v).boot = c.boot ∧ (c.store p off v).pins = c.pins ∧ (c.store p off v).keys = c.keys ∧
      (c.store p off v).qm = c.qm ∧ (c.store p off v).mbx = c.mbx ∧ (c.store p off v).mac = c.mac ∧
      (c.store p off v).wheel = c.wheel ∧ (c.store p off v).lanes = c.lanes ∧ (c.store p off v).frames = c.frames ∧
      (c.store p off v).jtag = c.jtag ∧ (c.store p off v).out = c.out := by
  obtain ⟨r, h⟩ := Chip.store_onlyRegs c p off v
  simp [h]

@[simp] theorem Chip.lane_store (p : Page) (off v : Nat) (m : Lane) : (c.store p off v).lane m = c.lane m := by
  simp [Chip.lane]

@[simp] theorem Chip.nbr_store (p : Page) (off v : Nat) (j : Nat) : (c.store p off v).nbr j = c.nbr j := by
  simp [Chip.nbr]

@[simp] theorem Chip.queue_store (p : Page) (off v : Nat) (j : Nat) : (c.store p off v).queue j = c.queue j := by
  simp [Chip.queue]

@[simp] theorem Chip.ring_store (p : Page) (off v : Nat) (j : Nat) : (c.store p off v).ring j = c.ring j := by
  simp [Chip.ring]

@[simp] theorem Chip.group_store (p : Page) (off v : Nat) (m : Lane) : (c.store p off v).group m = c.group m := by
  simp [Chip.group]

/-- A store writes no field but those of the register at that offset. -/
theorem Chip.get_store_other (p : Page) (off v : Nat) (r : Reg) (hr : findReg p off = some r)
    (h : ∀ x ∈ r.slices, g.key ≠ x.fld.key) : (c.store p off v).get g = c.get g := by
  unfold Chip.store
  rw [hr]
  unfold Chip.storeReg
  have k : ∀ (l : List Slice) (d : Chip), (∀ x ∈ l, g.key ≠ x.fld.key) →
      (l.foldl (fun c s => c.storeSlice v s) d).get g = d.get g := by
    intro l
    induction l with
    | nil => exact fun _ _ => rfl
    | cons x l ih =>
      intro d hl
      rw [List.foldl_cons, ih _ fun y hy => hl y (List.mem_cons_of_mem _ hy)]
      have hx := hl x (List.mem_cons_self ..)
      unfold Chip.storeSlice
      extract_lets w
      split
      · split
        · exact Chip.get_set_other _ _ _ _ hx
        · rfl
      · exact Chip.get_set_other _ _ _ _ hx
      · exact Chip.get_set_other _ _ _ _ hx
      · rfl
  exact k _ _ h

/-! How a command whose effect is on the chip alone completes. -/

theorem Answers.of_next {i : Instr} {s t : State} {P : State → Prop} (h : exec i s = .next t)
    (hp : t.pending = s.pending) (hP : P t) : Answers i s P := ⟨t, h, hp, hP⟩

theorem Completes.of_onChip {i : Instr} {s : State} {f : Chip → Chip} {P : Chip → Prop}
    (h : exec i s = .next (s.onChip f)) (hP : P (f s.chip)) : Completes i s P :=
  ⟨_, h, rfl, fun _ _ => rfl, hP⟩

theorem Completes.of_onWork {i : Instr} {s : State} {f : Work → Work} {P : Chip → Prop}
    (h : exec i s = .next (s.onWork f)) (hw : (f ⟨s.mem, s.chip, []⟩).writes = [])
    (hP : P (f ⟨s.mem, s.chip, []⟩).chip) : Completes i s P :=
  ⟨_, h, rfl, fun _ _ => by rw [State.onWork_mem, hw]; rfl, hP⟩

/-! How a served write completes: the command is its effect once the gate is passed. -/

theorem exec_of_gate {i : Instr} {s : State} {b : Init} {p : Page} {off : Nat} {eff : Chip → Chip}
    (he : exec i s = .next (s.onChip fun c => c.gate b p off eff)) (h : s.chip.TakesWrite b p off) :
    exec i s = .next (s.onChip fun c => eff (c.touch b p)) := by
  rw [he, State.onChip, Chip.gate_taken _ _ _ _ _ h]; rfl

theorem exec_of_gateRead {i : Instr} {s : State} {b : Init} {p : Page} {off : Nat} {eff : Chip → Nat × Chip}
    (he : exec i s = .next (s.onChip fun c => c.gateRead b p off eff)) (h : s.chip.TakesRead b p off) :
    exec i s = .next (s.onChip fun c => (eff (c.touch b p)).2.setRdata (eff (c.touch b p)).1) := by
  rw [he, State.onChip, Chip.gateRead_taken _ _ _ _ _ h]; rfl

theorem exec_of_gateWork {i : Instr} {s : State} {b : Init} {p : Page} {off : Nat} {eff : Work → Work}
    (he : exec i s = .next (s.onWork fun w => w.gate b p off eff)) (h : s.chip.TakesWrite b p off) :
    exec i s = .next (s.onWork fun w => eff (w.onChip fun c => c.touch b p)) := by
  rw [he, State.onWork, Work.gate_taken _ _ _ _ _ h]; rfl

theorem Completes.of_gate {i : Instr} {s : State} {b : Init} {p : Page} {off : Nat} {eff : Chip → Chip} {P : Chip → Prop}
    (he : exec i s = .next (s.onChip fun c => c.gate b p off eff)) (h : s.chip.TakesWrite b p off)
    (hP : P (eff (s.chip.touch b p))) : Completes i s P := Completes.of_onChip (exec_of_gate he h) hP

theorem Completes.of_gateRead {i : Instr} {s : State} {b : Init} {p : Page} {off : Nat} {eff : Chip → Nat × Chip}
    {P : Chip → Prop} (he : exec i s = .next (s.onChip fun c => c.gateRead b p off eff)) (h : s.chip.TakesRead b p off)
    (hP : P ((eff (s.chip.touch b p)).2.setRdata (eff (s.chip.touch b p)).1)) : Completes i s P :=
  Completes.of_onChip (exec_of_gateRead he h) hP

theorem Completes.of_gateWork {i : Instr} {s : State} {b : Init} {p : Page} {off : Nat} {eff : Work → Work}
    {P : Chip → Prop} (he : exec i s = .next (s.onWork fun w => w.gate b p off eff)) (h : s.chip.TakesWrite b p off)
    (hw : (eff ⟨s.mem, s.chip.touch b p, []⟩).writes = []) (hP : P (eff ⟨s.mem, s.chip.touch b p, []⟩).chip) :
    Completes i s P := Completes.of_onWork (exec_of_gateWork he h) hw hP

end Sys2Proof.Machine
end

