-- ==== Sys2Proof/Laws/Access.lean ====
section
/-!
SUPPORT. Laws of register and window accesses: where a page's registers stand in BAR0, and what a write through the
gate does.
-/
namespace Sys2Proof.Machine

theorem regionOf_hub (p : Page) (off k : Nat) (h : off < 0x1000) (hk : hubPage? k = some p) (hk' : k < 0x17)
    (hb : p.base = k * 0x1000) : regionOf (p.base + off) = .page p off := by
  have h1 : p.base + off < 0x17000 := by omega
  have h2 : (p.base + off) / 0x1000 = k := by omega
  have h3 : (p.base + off) % 0x1000 = off := by omega
  unfold regionOf
  rw [if_pos h1, h2, hk, h3]

theorem regionOf_of_lane (a : Nat) (h1 : ¬ a < 0x17000) (h2 : ¬ (0x00F00000 ≤ a ∧ a < 0x00F00200))
    (h3 : ¬ (0x00F01000 ≤ a ∧ a < 0x00F01008)) (h4 : 0x01000000 ≤ a ∧ a < 0x01000000 + 7 * 0x00200000) :
    regionOf a = laneRegion (a - 0x01000000) := by
  unfold regionOf
  rw [if_neg h1, if_neg h2, if_neg h3, if_pos h4]

theorem laneRegion_eq (d : Nat) (n : Lane) (p : Page) (hn : Lane.ofNum (d / 0x00200000 + 1) = some n)
    (hp : lanePage? n (d % 0x00200000 / 0x1000) = some p) : laneRegion d = .page p (d % 0x1000) := by
  simp only [laneRegion, hn, hp]

theorem regionOf_lane (p : Page) (n : Lane) (off k : Nat) (h : off < 0x1000) (hk : lanePage? n k = some p)
    (hk' : k < 0xD) (hb : p.base = n.base + k * 0x1000) : regionOf (p.base + off) = .page p off := by
  have hn : n.idx < 7 := by cases n <;> decide
  have ho : Lane.ofNum (n.idx + 1) = some n := by cases n <;> rfl
  have hb' : p.base = 0x01000000 + n.idx * 0x00200000 + k * 0x1000 := by rw [hb, Lane.base]
  have h1 : ¬ p.base + off < 0x17000 := by omega
  have h2 : ¬ (0x00F00000 ≤ p.base + off ∧ p.base + off < 0x00F00200) := by omega
  have h3 : ¬ (0x00F01000 ≤ p.base + off ∧ p.base + off < 0x00F01008) := by omega
  have h4 : 0x01000000 ≤ p.base + off ∧ p.base + off < 0x01000000 + 7 * 0x00200000 := by omega
  have d1 : (p.base + off - 0x01000000) / 0x00200000 = n.idx := by omega
  have d2 : (p.base + off - 0x01000000) % 0x00200000 / 0x1000 = k := by omega
  have d3 : (p.base + off - 0x01000000) % 0x1000 = off := by omega
  rw [regionOf_of_lane _ h1 h2 h3 h4, laneRegion_eq _ n p (by rw [d1, ho]) (by rw [d2, hk]), d3]

/-- Offset `off` of a page stands at the page's base plus `off` (Tables 16-1 and 16-2). -/
theorem regionOf_page (p : Page) (off : Nat) (h : off < 0x1000) : regionOf (p.base + off) = .page p off := by
  cases p
  case uart u =>
    cases u
    · exact regionOf_hub _ off 0x11 h rfl (by decide) (by decide)
    · exact regionOf_hub _ off 0x12 h rfl (by decide) (by decide)
  case twi u =>
    cases u
    · exact regionOf_hub _ off 0x13 h rfl (by decide) (by decide)
    · exact regionOf_hub _ off 0x14 h rfl (by decide) (by decide)
  case lsys n => exact regionOf_lane _ n off 0 h rfl (by decide) (by rw [Page.base]; omega)
  case afe n => exact regionOf_lane _ n off 1 h rfl (by decide) (by rw [Page.base])
  case agc n => exact regionOf_lane _ n off 2 h rfl (by decide) (by rw [Page.base])
  case echo n => exact regionOf_lane _ n off 3 h rfl (by decide) (by rw [Page.base])
  case txp n => exact regionOf_lane _ n off 4 h rfl (by decide) (by rw [Page.base])
  case rxp n => exact regionOf_lane _ n off 5 h rfl (by decide) (by rw [Page.base])
  case dec n => exact regionOf_lane _ n off 6 h rfl (by decide) (by rw [Page.base])
  case slip n => exact regionOf_lane _ n off 7 h rfl (by decide) (by rw [Page.base])
  case tmap n => exact regionOf_lane _ n off 8 h rfl (by decide) (by rw [Page.base])
  case meas n => exact regionOf_lane _ n off 9 h rfl (by decide) (by rw [Page.base])
  case linear n => exact regionOf_lane _ n off 10 h rfl (by decide) (by rw [Page.base])
  case warden n => exact regionOf_lane _ n off 11 h rfl (by decide) (by rw [Page.base])
  case spy n => exact regionOf_lane _ n off 12 h rfl (by decide) (by rw [Page.base])
  case sys => exact regionOf_hub _ off 0 h rfl (by decide) (by decide)
  case clk => exact regionOf_hub _ off 1 h rfl (by decide) (by decide)
  case evt => exact regionOf_hub _ off 2 h rfl (by decide) (by decide)
  case health => exact regionOf_hub _ off 3 h rfl (by decide) (by decide)
  case fuse => exact regionOf_hub _ off 4 h rfl (by decide) (by decide)
  case boot => exact regionOf_hub _ off 5 h rfl (by decide) (by decide)
  case time => exact regionOf_hub _ off 6 h rfl (by decide) (by decide)
  case mbx => exact regionOf_hub _ off 7 h rfl (by decide) (by decide)
  case qm => exact regionOf_hub _ off 8 h rfl (by decide) (by decide)
  case mac => exact regionOf_hub _ off 9 h rfl (by decide) (by decide)
  case wheel => exact regionOf_hub _ off 10 h rfl (by decide) (by decide)
  case nbr => exact regionOf_hub _ off 11 h rfl (by decide) (by decide)
  case saggar => exact regionOf_hub _ off 12 h rfl (by decide) (by decide)
  case keys => exact regionOf_hub _ off 13 h rfl (by decide) (by decide)
  case pcie => exact regionOf_hub _ off 14 h rfl (by decide) (by decide)
  case qspit => exact regionOf_hub _ off 15 h rfl (by decide) (by decide)
  case xspi => exact regionOf_hub _ off 16 h rfl (by decide) (by decide)
  case gpio => exact regionOf_hub _ off 21 h rfl (by decide) (by decide)
  case skejo => exact regionOf_hub _ off 22 h rfl (by decide) (by decide)

end Sys2Proof.Machine
end

