-- ==== Sys2Proof/Laws/Lanes.lean ====
section
/-!
SUPPORT. Reading a part of the chip after it has been changed: lanes, links, measurement chains, groups, neighbour slots,
queues, rings and the doubled service ports.
-/
namespace Sys2Proof

section PerLane
variable {α : Type} (v : PerLane α) (n m : Lane) (x : α) (f : α → α)

@[simp] theorem PerLane.get_set_same : (v.set n x).get n = x := by cases n <;> rfl

theorem PerLane.get_set_other (h : m ≠ n) : (v.set n x).get m = v.get m := by
  cases n <;> cases m <;> first | rfl | exact absurd rfl h

@[simp] theorem PerLane.get_modify_same : (v.modify n f).get n = f (v.get n) := by simp [PerLane.modify]

theorem PerLane.get_modify_other (h : m ≠ n) : (v.modify n f).get m = v.get m := by
  simp [PerLane.modify, PerLane.get_set_other, h]

@[simp] theorem PerLane.get_const : (PerLane.const x).get n = x := by cases n <;> rfl

end PerLane

namespace Machine
variable (c : Chip) (n m : Lane)

@[simp] theorem Chip.lane_onLane_same (f : LaneSt → LaneSt) : (c.onLane n f).lane n = f (c.lane n) := by
  simp [Chip.onLane, Chip.lane]

theorem Chip.lane_onLane_other (f : LaneSt → LaneSt) (h : m ≠ n) : (c.onLane n f).lane m = c.lane m := by
  simp [Chip.onLane, Chip.lane, PerLane.get_modify_other, h]

/-- A lane depends on nothing but the lanes. -/
theorem Chip.lane_congr {c d : Chip} (h : d.lanes = c.lanes) : d.lane n = c.lane n := by simp [Chip.lane, h]

@[simp] theorem Link.dir_setDir_same (l : Link) (d : Dir) (x : SkejoDir) : (l.setDir d x).dir d = x := by
  cases d <;> rfl

theorem Link.dir_setDir_other (l : Link) (d e : Dir) (x : SkejoDir) (h : e ≠ d) : (l.setDir d x).dir e = l.dir e := by
  cases d <;> cases e <;> first | rfl | exact absurd rfl h

@[simp] theorem Chip.linkDir_onDir_same (d : Dir) (f : SkejoDir → SkejoDir) :
    (c.onDir n d f).linkDir n d = f (c.linkDir n d) := by
  simp [Chip.onDir, Chip.onLink, Chip.linkDir]

theorem Chip.linkDir_congr {c d : Chip} (e : Dir) (h : d.links = c.links) : d.linkDir n e = c.linkDir n e := by
  simp [Chip.linkDir, h]

@[simp] theorem Chip.meas_onMeas_same (f : Meas → Meas) : (c.onMeas n f).meas.get n = f (c.meas.get n) := by
  simp [Chip.onMeas]

@[simp] theorem Chip.group_onGroup_same (f : WGroup → WGroup) : (c.onGroup n f).group n = f (c.group n) := by
  simp [Chip.onGroup, Chip.group]

theorem Chip.group_onGroup_other (f : WGroup → WGroup) (h : m ≠ n) : (c.onGroup n f).group m = c.group m := by
  have : m.num ≠ n.num := by cases n <;> cases m <;> first | exact absurd rfl h | decide
  simp [Chip.onGroup, Chip.group, NatMap.getD_modify_other _ _ _ _ _ this]

@[simp] theorem Chip.nbr_onNbr_same (s : Nat) (f : Nbr → Nbr) : (c.onNbr s f).nbr s = f (c.nbr s) := by
  simp [Chip.onNbr, Chip.nbr]

theorem Chip.nbr_onNbr_other (s t : Nat) (f : Nbr → Nbr) (h : t ≠ s) : (c.onNbr s f).nbr t = c.nbr t := by
  simp [Chip.onNbr, Chip.nbr, NatMap.getD_modify_other _ _ _ _ _ h]

theorem Chip.nbr_congr {c d : Chip} (s : Nat) (h : d.mac = c.mac) : d.nbr s = c.nbr s := by simp [Chip.nbr, h]

@[simp] theorem Chip.queue_onQueue_same (q : Nat) (f : Queue → Queue) : (c.onQueue q f).queue q = f (c.queue q) := by
  simp [Chip.onQueue, Chip.onQm, Chip.queue]

theorem Chip.queue_congr {c d : Chip} (q : Nat) (h : d.qm = c.qm) : d.queue q = c.queue q := by simp [Chip.queue, h]

@[simp] theorem Chip.ring_onRing_same (r : Nat) (f : Ring → Ring) : (c.onRing r f).ring r = f (c.ring r) := by
  simp [Chip.onRing, Chip.onQm, Chip.ring]

theorem Chip.ring_congr {c d : Chip} (r : Nat) (h : d.qm = c.qm) : d.ring r = c.ring r := by simp [Chip.ring, h]

@[simp] theorem Chip.uart_onUart_same (u : Dual) (f : Uart → Uart) : (c.onUart u f).uart u = f (c.uart u) := by
  cases u <;> rfl

@[simp] theorem Chip.twi_onTwi_same (u : Dual) (f : Twi → Twi) : (c.onTwi u f).twi u = f (c.twi u) := by
  cases u <;> rfl

@[simp] theorem Chip.laneRec_onRec_same (s : Nat) (f : LaneRec → LaneRec) :
    (c.onRec n s f).laneRec n s = f (c.laneRec n s) := by
  simp [Chip.onRec, Chip.onRx, Chip.laneRec]

end Machine
end Sys2Proof
end

