-- ==== Sys2Proof/Laws/Beacons.lean ====
section
/-!
SUPPORT. What preparing beacons may change: the beacon store, the counters of the group banks, the counts of beacons
protected and of beacons not prepared, and the event of a high counter.
-/
namespace Sys2Proof.Machine

/-- The register fields that preparing beacons may change. -/
def beaconFlds : List Fld := F.SAGGAR_SKIPS_BCNSKIP :: F.SAGGAR_PROT_COUNT :: evtFlds .keys

/-- `d` differs from `c` only by prepared beacons. -/
def Chip.BeaconsOnly (c d : Chip) : Prop :=
  c.SameBut d beaconFlds ∧ d.wheel = { c.wheel with store := d.wheel.store } ∧ d.lanes = c.lanes ∧ d.power = c.power
    ∧ d.mac = c.mac ∧ d.tick = c.tick ∧ d.pins = c.pins ∧ d.part = c.part ∧ d.qm = c.qm ∧ d.time = c.time
    ∧ d.keys.inForce = c.keys.inForce ∧ d.keys.next = c.keys.next ∧ d.keys.job = c.keys.job ∧ d.health = c.health

variable {c d e : Chip}

theorem Chip.BeaconsOnly.refl : c.BeaconsOnly c :=
  ⟨fun _ _ => rfl, rfl, rfl, rfl, rfl, rfl, rfl, rfl, rfl, rfl, rfl, rfl, rfl, rfl⟩

theorem Chip.BeaconsOnly.trans (h : c.BeaconsOnly d) (k : d.BeaconsOnly e) : c.BeaconsOnly e := by
  obtain ⟨h1, h2, h3, h4, h5, h6, h7, h8, h9, h10, h11, h12, h13, h14⟩ := h
  obtain ⟨k1, k2, k3, k4, k5, k6, k7, k8, k9, k10, k11, k12, k13, k14⟩ := k
  refine ⟨fun g hg => (k1 g hg).trans (h1 g hg), ?_, k3.trans h3, k4.trans h4, k5.trans h5, k6.trans h6, k7.trans h7,
    k8.trans h8, k9.trans h9, k10.trans h10, k11.trans h11, k12.trans h12, k13.trans h13, k14.trans h14⟩
  rw [k2, h2]

/-- A register field outside `beaconFlds` reads as before. -/
theorem Chip.BeaconsOnly.get (h : c.BeaconsOnly d) (g : Fld) (hg : ∀ f ∈ beaconFlds, g.key ≠ f.key) : d.get g = c.get g :=
  h.1 g hg

theorem Chip.BeaconsOnly.lane (h : c.BeaconsOnly d) (n : Lane) : d.lane n = c.lane n := Chip.lane_congr n h.2.2.1

theorem Chip.BeaconsOnly.group (h : c.BeaconsOnly d) (n : Lane) : d.group n = c.group n := by
  have : d.wheel.groups = c.wheel.groups := by rw [h.2.1]
  simp [Chip.group, this]

/-- The counter of a bank and the place of a bank do not name which slot is in force. -/
theorem Keys.putBank_rest (k : Keys) (r : BankRef) (b : Bank) :
    (k.putBank r b).inForce = k.inForce ∧ (k.putBank r b).next = k.next ∧ (k.putBank r b).job = k.job := by
  cases r <;> exact ⟨rfl, rfl, rfl⟩

theorem Chip.takeCounter_only (r : BankRef) : c.BeaconsOnly (c.takeCounter r).2 := by
  unfold Chip.takeCounter
  extract_lets b c'
  split
  · exact .refl
  · have h : c.BeaconsOnly c' := by
      obtain ⟨a1, a2, a3⟩ := Keys.putBank_rest c.keys r { b with ctr := b.ctr + 1 }
      exact ⟨fun _ _ => rfl, rfl, rfl, rfl, rfl, rfl, rfl, rfl, rfl, rfl, a1, a2, a3, rfl⟩
    dsimp only
    split
    · refine h.trans ⟨(Chip.raise_sameBut c' .keys 1).mono (fun f hf => List.mem_cons_of_mem _ (List.mem_cons_of_mem _ hf)), ?_⟩
      simp
    · exact h

theorem Chip.sealBeacon_only (b : Beacon) (which : Nat) : c.BeaconsOnly (c.sealBeacon b which).2 := by
  have key : ∀ x : Option (Nat × Bank) × Chip, c.BeaconsOnly x.2 →
      c.BeaconsOnly (match x with
        | (some (fcnt, k), c) =>
          ((some { b with body := b.body.take 116 ++ leBytes 4 fcnt
              ++ (ccmSeal k.key 8 (nonceOf c.selfEui fcnt 0x0D) (leBytes 16 b.fc ++ (b.body.take 116 ++ leBytes 4 fcnt)) []).2 },
            c.count F.SAGGAR_PROT_COUNT 1) : Option Beacon × Chip)
        | (none, c) => (none, c.count F.SAGGAR_SKIPS_BCNSKIP 1)).2 := by
    rintro ⟨_ | ⟨fcnt, k⟩, x⟩ h
    · refine h.trans ⟨fun g hg => Chip.get_count_other x _ _ _ (hg _ (by simp [beaconFlds])), ?_⟩
      simp
    · refine h.trans ⟨fun g hg => Chip.get_count_other x _ _ _ (hg _ (by simp [beaconFlds])), ?_⟩
      simp
  refine key _ ?_
  split
  · exact Chip.takeCounter_only _
  · exact .refl

theorem Chip.setStored_only (n : Lane) (bs : List Beacon) : c.BeaconsOnly (c.setStored n bs) :=
  ⟨fun _ _ => rfl, rfl, rfl, rfl, rfl, rfl, rfl, rfl, rfl, rfl, rfl, rfl, rfl, rfl⟩

/-- A fold of steps that each only prepare beacons. -/
theorem Chip.BeaconsOnly.foldl {α : Type} (f : Chip → α → Chip) (h : ∀ (x : Chip) (a : α), x.BeaconsOnly (f x a)) (l : List α) :
    ∀ c : Chip, c.BeaconsOnly (l.foldl f c) := by
  induction l with
  | nil => exact fun _ => .refl
  | cons a l ih => exact fun c => (h c a).trans (ih _)

theorem Chip.prepareTurn_only (n : Lane) (d : Nat) : c.BeaconsOnly (c.prepareTurn n d) := by
  unfold Chip.prepareTurn
  refine (Chip.setStored_only n _).trans (.foldl _ (fun x e => ?_) _ _)
  have h := Chip.sealBeacon_only (c := x) e.1 e.2
  split
  · next b y hy =>
    rw [hy] at h
    exact h.trans (Chip.setStored_only _ _)
  · next y hy =>
    rw [hy] at h
    exact h

theorem Chip.correctNext_only (n : Lane) : c.BeaconsOnly (c.correctNext n) := by
  unfold Chip.correctNext
  dsimp only
  split
  · exact .refl
  · exact Chip.prepareTurn_only n 1

theorem Chip.touchBeacons_only : c.BeaconsOnly c.touchBeacons :=
  .foldl _ (fun x n => by
    split
    · exact Chip.correctNext_only n
    · exact .refl) _ _

theorem Chip.fillStore_only (n : Lane) : c.BeaconsOnly (c.fillStore n) :=
  (Chip.setStored_only n []).trans (.foldl _ (fun _ d => Chip.prepareTurn_only n d) _ _)

theorem Chip.updateStore_only (n : Lane) : c.BeaconsOnly (c.updateStore n) :=
  ((Chip.setStored_only n _).trans (Chip.correctNext_only n)).trans (Chip.prepareTurn_only n 8)

end Sys2Proof.Machine
end

