-- ==== Sys2Proof/Laws/Power.lean ====
section
/-!
SUPPORT. Laws of the power states: what entering one writes, and which registers ending the hub's operations leaves alone.
-/
namespace Sys2Proof.Machine

variable (c : Chip)

@[simp] theorem Chip.setPower_power (p : Power) : (c.setPower p).power = p := rfl

@[simp] theorem Chip.get_setPower_same (p : Power) : (c.setPower p).get F.CLK_PWRSTAT_STATE = p.code := by
  show (c.set F.CLK_PWRSTAT_STATE p.code).get F.CLK_PWRSTAT_STATE = p.code
  rw [Chip.get_set_same]; cases p <;> rfl

theorem Chip.get_setPower_other (p : Power) (g : Fld) (h : g.key ≠ F.CLK_PWRSTAT_STATE.key) :
    (c.setPower p).get g = c.get g :=
  Chip.get_set_other c F.CLK_PWRSTAT_STATE g _ h

/-- A field of a choice between two chips, shown for each. -/
theorem Chip.get_choice {p : Prop} [Decidable p] {a b : Chip} {f : Fld} {v : Nat} (h1 : a.get f = v) (h2 : b.get f = v) :
    (if p then a else b).get f = v := by
  split
  · exact h1
  · exact h2

theorem Chip.get_twiAbort_other (u : Dual) (g : Fld) (h1 : g.key ≠ (F.TWI_TRES_STATUS u).key)
    (h2 : g.key ≠ (F.TWI_TSTAT_BUS u).key) : (c.twiAbort u).get g = c.get g := by
  unfold Chip.twiAbort
  have k : Chip.get (if (c.set (F.TWI_TRES_STATUS u) Status.timeout.code).get (F.TWI_TSTAT_BUS u) = 1 then
      (c.set (F.TWI_TRES_STATUS u) Status.timeout.code).set (F.TWI_TSTAT_BUS u) (if (c.twi u).midByte then 2 else 0)
      else c.set (F.TWI_TRES_STATUS u) Status.timeout.code) g = c.get g :=
    Chip.get_choice ((Chip.get_set_other _ _ _ _ h2).trans (Chip.get_set_other _ _ _ _ h1)) (Chip.get_set_other _ _ _ _ h1)
  refine Chip.get_choice ?_ rfl
  cases u <;> exact k

/-- Ending the hub's operations changes results only: every field that is none of them is kept. -/
theorem Chip.get_timeoutOps_other (g : Fld) (h : ∀ f ∈ [F.KEYS_KRES_STATUS, F.KEYS_KRES_BUSY, F.SAGGAR_JOBRES_STATUS,
      F.SAGGAR_HRES_STATUS, F.FUSE_FRES_STATUS, F.TWI_TRES_STATUS .u0, F.TWI_TSTAT_BUS .u0, F.TWI_TRES_STATUS .u1,
      F.TWI_TSTAT_BUS .u1], g.key ≠ Fld.key f) : c.timeoutOps.get g = c.get g := by
  have n := fun f hf => h f hf
  simp only [List.mem_cons, List.not_mem_nil, or_false, forall_eq_or_imp, forall_eq] at h
  obtain ⟨h1, h2, h3, h4, h5, h6, h7, h8, h9⟩ := h
  have k1 : ∀ c : Chip, Chip.get (if c.flag F.KEYS_KRES_BUSY then
      ((c.onKeys fun k => { k with cmd := none }).set F.KEYS_KRES_STATUS Status.timeout.code).setFlag F.KEYS_KRES_BUSY false
      else c) g = c.get g := fun c =>
    Chip.get_choice ((Chip.get_setFlag_other _ _ _ _ h2).trans (Chip.get_set_other _ _ _ _ h1)) rfl
  have k2 : ∀ c : Chip, Chip.get (if c.keys.job.isSome then
      (c.onKeys fun k => { k with job := none }).set F.SAGGAR_JOBRES_STATUS Status.timeout.code else c) g = c.get g := fun c =>
    Chip.get_choice (Chip.get_set_other _ _ _ _ h3) rfl
  have k3 : ∀ c : Chip, Chip.get (if c.keys.hash.isSome then
      (c.onKeys fun k => { k with hash := none }).set F.SAGGAR_HRES_STATUS Status.timeout.code else c) g = c.get g := fun c =>
    Chip.get_choice (Chip.get_set_other _ _ _ _ h4) rfl
  have k4 : ∀ c : Chip, Chip.get (if c.fuses.running.isSome then
      ({ c with fuses := { c.fuses with running := none } } : Chip).set F.FUSE_FRES_STATUS Status.timeout.code else c) g =
      c.get g := fun c =>
    Chip.get_choice (Chip.get_set_other _ _ _ _ h5) rfl
  show Chip.get (Chip.twiAbort (Chip.twiAbort _ .u0) .u1) g = c.get g
  rw [Chip.get_twiAbort_other _ _ _ h8 h9, Chip.get_twiAbort_other _ _ _ h6 h7]
  exact (k4 _).trans ((k3 _).trans ((k2 _).trans (k1 c)))

end Sys2Proof.Machine
end

