-- ==== Sys2Proof/Laws/Health.lean ====
section
/-!
SUPPORT. Laws of notices, trouble records and warm restarts.
-/
namespace Sys2Proof.Machine

variable (c : Chip)

/-- A notice changes no register but the count of lost ones. -/
theorem Chip.get_notice_other (type len : Nat) (body : List Byte) (g : Fld) (h : g.key ≠ F.MBX_MBCNT_LOST.key) :
    (c.notice type len body).get g = c.get g := by
  unfold Chip.notice
  split
  · exact Chip.get_count_other _ _ _ _ h
  · dsimp only; rw [Chip.get_onMbx, Chip.get_nextFree]

@[simp] theorem Chip.notice_fields (type len : Nat) (body : List Byte) :
    (c.notice type len body).part = c.part ∧ (c.notice type len body).power = c.power ∧
      (c.notice type len body).stopped = c.stopped ∧ (c.notice type len body).tick = c.tick ∧
      (c.notice type len body).health = c.health ∧ (c.notice type len body).boot = c.boot ∧
      (c.notice type len body).pins = c.pins ∧ (c.notice type len body).lanes = c.lanes ∧
      (c.notice type len body).wheel = c.wheel ∧ (c.notice type len body).mac = c.mac ∧
      (c.notice type len body).qm = c.qm ∧ (c.notice type len body).keys = c.keys ∧
      (c.notice type len body).time = c.time ∧ (c.notice type len body).links = c.links ∧
      (c.notice type len body).out = c.out := by
  unfold Chip.notice
  split <;> simp

/-- A trouble record changes no register but STICKY, TRSEQ and the count of lost notices. -/
theorem Chip.get_trouble_other (kind die cls unit level addr : Nat) (g : Fld) (h1 : g.key ≠ F.HEALTH_STICKY_KINDS.key)
    (h2 : g.key ≠ F.HEALTH_TRSEQ_SEQ.key) (h3 : g.key ≠ F.MBX_MBCNT_LOST.key) :
    (c.trouble kind die cls unit level addr).get g = c.get g := by
  unfold Chip.trouble
  dsimp only
  rw [Chip.get_notice_other _ _ _ _ _ h3, Chip.get_set_other _ _ _ _ h2, Chip.get_setBitAt_other _ _ _ _ _ h1]

@[simp] theorem Chip.trouble_fields (kind die cls unit level addr : Nat) :
    (c.trouble kind die cls unit level addr).part = c.part ∧ (c.trouble kind die cls unit level addr).power = c.power ∧
      (c.trouble kind die cls unit level addr).stopped = c.stopped ∧ (c.trouble kind die cls unit level addr).tick = c.tick ∧
      (c.trouble kind die cls unit level addr).health = c.health ∧ (c.trouble kind die cls unit level addr).boot = c.boot ∧
      (c.trouble kind die cls unit level addr).pins = c.pins ∧ (c.trouble kind die cls unit level addr).lanes = c.lanes ∧
      (c.trouble kind die cls unit level addr).wheel = c.wheel ∧ (c.trouble kind die cls unit level addr).mac = c.mac ∧
      (c.trouble kind die cls unit level addr).qm = c.qm ∧ (c.trouble kind die cls unit level addr).keys = c.keys ∧
      (c.trouble kind die cls unit level addr).time = c.time ∧ (c.trouble kind die cls unit level addr).links = c.links ∧
      (c.trouble kind die cls unit level addr).out = c.out := by
  simp [Chip.trouble]

theorem Chip.pageLive_of_parts (d : Chip) (p : Page) (h : d.part = c.part) : d.pageLive p = c.pageLive p := by
  unfold Chip.pageLive; split <;> simp [Chip.fitted, h]

/-- A hub warm restart leaves the hub in COAST with the ROM in SELECT and the backstop in WARM. -/
theorem Chip.warmRestart_state : c.warmRestart.power = .coast ∧ c.warmRestart.boot.rom = .select
    ∧ c.warmRestart.health.backstop = 1 := by
  unfold Chip.warmRestart
  simp [Chip.enterRom]

end Sys2Proof.Machine
end

