-- ==== Sys2Proof/Laws/Queues.lean ====
section
/-!
SUPPORT. Laws of the count of free packet buffer cells, which follows every change of what the cells hold.
-/
namespace Sys2Proof.Machine

variable (c : Chip)

@[simp] theorem Chip.takeCells_regs (b : Bool) : (c.takeCells b).regs = c.regs := rfl
@[simp] theorem Chip.get_takeCells (b : Bool) (f : Fld) : (c.takeCells b).get f = c.get f := rfl

/-- Taking cells forgets what was written through the window, and changes nothing else. -/
theorem Chip.takeCells_eq (b : Bool) : ∃ l, c.takeCells b = c.onQm fun q => { q with hostWrote := l } := ⟨_, rfl⟩

/-- Recounting the cells writes CELLSTAT, may raise CELLLOW, and may forget what was written through the window; nothing else. -/
theorem Chip.recount_sameBut :
    c.SameBut c.recount ([F.QM_CELLSTAT_FREE, F.QM_CELLSTAT_LOW] ++ evtFlds .qm) := by
  unfold Chip.recount
  extract_lets was now c1 c2
  have h : c.SameBut c2 [F.QM_CELLSTAT_FREE, F.QM_CELLSTAT_LOW] :=
    (((Chip.sameBut_set c _ _).trans (Chip.sameBut_set _ _ _)).trans
      (Chip.SameBut.of_regs [] (Chip.takeCells_regs c1 _))).mono (by simp)
  split
  · exact h.trans (Chip.raise_sameBut _ _ _)
  · exact h.mono (by simp +contextual)

@[simp] theorem Chip.recount_fields :
    c.recount.part = c.part ∧ c.recount.power = c.power ∧ c.recount.stopped = c.stopped ∧ c.recount.tick = c.tick ∧
      c.recount.links = c.links ∧ c.recount.time = c.time ∧ c.recount.health = c.health ∧ c.recount.boot = c.boot ∧
      c.recount.pins = c.pins ∧ c.recount.keys = c.keys ∧ c.recount.mbx = c.mbx ∧ c.recount.mac = c.mac ∧ c.recount.wheel = c.wheel ∧ c.recount.lanes = c.lanes ∧
      c.recount.out = c.out := by
  unfold Chip.recount
  extract_lets was now c1 c2
  split <;> simp [c2, c1, Chip.takeCells]

/-- The queue manager keeps all but what was written through the window. -/
theorem Chip.recount_qm : ∃ l, c.recount.qm = { c.qm with hostWrote := l } := by
  unfold Chip.recount
  extract_lets was now c1 c2
  split
  · exact ⟨_, (show (c2.raise .qm 4).qm = c2.qm by simp).trans rfl⟩
  · exact ⟨_, rfl⟩

@[simp] theorem Chip.queues_recount : c.recount.qm.queues = c.qm.queues := by
  obtain ⟨l, h⟩ := c.recount_qm; rw [h]

@[simp] theorem Chip.rings_recount : c.recount.qm.rings = c.qm.rings := by
  obtain ⟨l, h⟩ := c.recount_qm; rw [h]

@[simp] theorem Chip.lane_recount (m : Lane) : c.recount.lane m = c.lane m := by simp [Chip.lane]

@[simp] theorem Chip.nbr_recount (j : Nat) : c.recount.nbr j = c.nbr j := by simp [Chip.nbr]

@[simp] theorem Chip.queue_recount (j : Nat) : c.recount.queue j = c.queue j := by simp [Chip.queue]

@[simp] theorem Chip.ring_recount (j : Nat) : c.recount.ring j = c.ring j := by simp [Chip.ring]

@[simp] theorem Chip.group_recount (m : Lane) : c.recount.group m = c.group m := by simp [Chip.group]

@[simp] theorem Chip.ring_onQueue (q j : Nat) (f : Queue → Queue) : (c.onQueue q f).ring j = c.ring j := by
  simp [Chip.ring, Chip.onQueue, Chip.onQm]

@[simp] theorem Chip.queue_onRing (r j : Nat) (f : Ring → Ring) : (c.onRing r f).queue j = c.queue j := by
  simp [Chip.queue, Chip.onRing, Chip.onQm]

theorem Chip.get_recount_other (g : Fld) (h1 : g.key ≠ F.QM_CELLSTAT_FREE.key) (h2 : g.key ≠ F.QM_CELLSTAT_LOW.key)
    (h3 : g.key ≠ (pevt .qm).key) (h4 : g.key ≠ (pevt .evt).key) (h5 : g.key ≠ F.EVT_VECSTAT_SIG.key) :
    c.recount.get g = c.get g := by
  refine Chip.recount_sameBut c g ?_
  intro f hf
  simp only [evtFlds, List.cons_append, List.nil_append, List.mem_cons, List.not_mem_nil, or_false] at hf
  rcases hf with rfl | rfl | rfl | rfl | rfl <;> assumption

/-- It leaves latched events of the QM page latched. -/
theorem Chip.recount_keeps (b : Nat) (hb : b < 32) (h : c.bitAt (pevt .qm) b = true) :
    c.recount.bitAt (pevt .qm) b = true := by
  unfold Chip.recount
  extract_lets was now c1 c2
  have h1 : c2.bitAt (pevt .qm) b = true := by
    rw [← h]
    refine Chip.bitAt_congr (pevt .qm) b ?_
    exact (Chip.get_set_other _ _ _ _ (by decide)).trans (Chip.get_set_other _ _ _ _ (by decide))
  split
  · exact Chip.raise_keeps _ _ _ _ hb h1
  · exact h1

end Sys2Proof.Machine
end

