-- ==== Sys2Proof/Laws/Reception.lean ====
section
/-!
SUPPORT. Laws of the reception in progress: opening and closing it, and which steps leave it alone.
-/
namespace Sys2Proof.Machine

variable (c : Chip) (n : Lane)

theorem Chip.rxNow_congr {c d : Chip} (h : d.lanes = c.lanes) : d.rxNow n = c.rxNow n := by simp [Chip.rxNow, Chip.lane, h]

theorem Chip.rxNow_set {c : Chip} (f : Fld) (v : Nat) : (c.set f v).rxNow n = c.rxNow n := rfl

theorem Chip.rxNow_onSlip (f : Slip → Slip) : (c.onSlip n f).rxNow n = c.rxNow n := by
  simp [Chip.rxNow, Chip.onSlip, Chip.onRx]

theorem Chip.rxNow_slipFreeNow (x : SlipFree) : (c.slipFreeNow n x).rxNow n = c.rxNow n := by
  have h : ∀ p q, (c.slipFreeWhere n p q).rxNow n = c.rxNow n := by
    intro p q
    unfold Chip.slipFreeWhere
    dsimp only
    split
    · exact (Chip.rxNow_set n _ _).trans (Chip.rxNow_onSlip _ _ _)
    · exact Chip.rxNow_onSlip _ _ _
  unfold Chip.slipFreeNow
  dsimp only
  split
  · exact (Chip.rxNow_set n _ _).trans (h _ _)
  · exact h _ _

theorem Chip.rxNow_slipWaited : (c.slipWaited n).rxNow n = c.rxNow n := by
  unfold Chip.slipWaited
  have h : ∀ (l : List SlipFree) (c : Chip), (l.foldl (fun c x => c.slipFreeNow n x) c).rxNow n = c.rxNow n := by
    intro l
    induction l with
    | nil => intro c; rfl
    | cons x l ih => intro c; rw [List.foldl_cons, ih, Chip.rxNow_slipFreeNow]
  dsimp only
  split
  · rfl
  · exact (h _ _).trans (Chip.rxNow_onSlip _ _ _)

theorem Chip.rxNow_recount : c.recount.rxNow n = c.rxNow n := Chip.rxNow_congr _ (by simp)

/-- When a reception is over, the preamble that was detected meanwhile is the next one. -/
theorem Chip.rxNow_closeRx : (c.closeRx n).rxNow n = (c.lane n).rx.found := by
  unfold Chip.closeRx
  rw [Chip.rxNow_slipWaited]
  simp [Chip.rxNow, Chip.onRx]

theorem Chip.rxNow_endRx : (c.endRx n).rxNow n = (c.lane n).rx.found := by
  unfold Chip.endRx
  rw [Chip.rxNow_recount, Chip.rxNow_closeRx]

/-- Freeing slip entries writes AGED and the result of SLCMD only. -/
theorem Chip.get_slipFreeNow_other (x : SlipFree) (g : Fld) (h1 : g.key ≠ (F.SLIP_DISC1_AGED n).key)
    (h2 : g.key ≠ (F.SLIP_SLRES_STATUS n).key) : (c.slipFreeNow n x).get g = c.get g := by
  have h : ∀ p, (c.slipFreeWhere n p (if x.counted then some (F.SLIP_DISC1_AGED n) else none)).get g = c.get g := by
    intro p
    unfold Chip.slipFreeWhere
    dsimp only
    by_cases e : x.counted = true
    · simp only [e, ↓reduceIte]
      rw [Chip.get_count_other _ _ _ _ h1]; simp
    · simp only [e, Bool.false_eq_true, ↓reduceIte]; simp
  unfold Chip.slipFreeNow
  dsimp only
  split
  · rw [Chip.get_set_other _ _ _ _ h2]; exact h _
  · exact h _

/-- So does closing a reception. -/
theorem Chip.get_closeRx_other (g : Fld) (h1 : g.key ≠ (F.SLIP_DISC1_AGED n).key)
    (h2 : g.key ≠ (F.SLIP_SLRES_STATUS n).key) : (c.closeRx n).get g = c.get g := by
  unfold Chip.closeRx Chip.slipWaited
  have h : ∀ (l : List SlipFree) (c : Chip), (l.foldl (fun c x => c.slipFreeNow n x) c).get g = c.get g := by
    intro l
    induction l with
    | nil => intro c; rfl
    | cons x l ih => intro c; rw [List.foldl_cons, ih, Chip.get_slipFreeNow_other _ _ _ _ h1 h2]
  dsimp only
  split
  · simp
  · rw [h]; simp

end Sys2Proof.Machine
end

