-- ==== Sys2Proof/WellFormed.lean ====
section
/-!
DEFINITION. Well-formed commands: every operand fits the width or the range that the spec gives it.  The meanings do not ask for
this; operands that measurements supply, and operands a meaning itself judges, are not restricted.
-/
namespace Sys2Proof

/-- A value of `w` bits. -/
def fits (w v : Nat) : Bool := decide (v < 2 ^ w)

/-- One of `n` things numbered from 0. -/
def below (n v : Nat) : Bool := decide (v < n)

/-- The value of a 32-bit register (R406). -/
def isWord (v : Nat) : Bool := fits 32 v

/-- An address of the 32-bit hub address space. -/
def isAddr (a : Nat) : Bool := fits 32 a

/-- The offset of a 32-bit register in its 4 KiB page (R7). -/
def isOffset (o : Nat) : Bool := fits 12 o && o % 4 == 0

/-- The length of a transfer: 1 to 4,096 bytes. -/
def isTransfer (n : Nat) : Bool := decide (1 ≤ n ∧ n ≤ 4096)

/-- A neighbour slot, 0 to 8,191 (R250). -/
def isSlot (s : Nat) : Bool := fits 13 s

/-- One of the 16,384 transmit queues (Table 10-9, QSEL). -/
def isQueue (q : Nat) : Bool := fits 14 q

/-- Samples of the four inputs, as many of each, as 14-bit codes (R138). -/
def Machine.Capture.wf (x : Machine.Capture) : Bool :=
  x.inputs.length == 4 && (x.inputs.all fun l => l.length == (x.inputs.headD []).length && l.all fun a => decide (-8192 ≤ a ∧ a ≤ 8191))

/-- Anything that a lane may have made of samples. -/
def anyOf {α : Type} (_ : α) : Bool := true

/-- What reaches a lane: samples, or what it made of some, which satisfies `p`. -/
def Heard.wf {α : Type} (p : α → Bool) (h : Heard α) : Bool :=
  match h with
  | .adc x => x.wf
  | .made a => p a

/-- Codes of what the scheduler chooses (R56, Tables 2-2 to 2-7). -/
def TxReq.wf : TxReq → Bool
  | .data slot gi mode rate bt _ news => isSlot slot && fits 2 gi && below 3 mode && fits 4 rate && fits 2 bt && news.all (below 8)
  | .fdData mode rate bt _ news => below 3 mode && fits 4 rate && fits 2 bt && news.all (below 8)
  | .grant gi nsym bt gfac users =>
    fits 2 gi && fits 12 nsym && fits 2 bt && fits 8 gfac && users.all (fun u => isSlot u.slot && below 3 u.mode)
  | .fdGrant slot gi nsym mode gfac => isSlot slot && fits 2 gi && fits 12 nsym && below 3 mode && fits 8 gfac
  | .sound slot gi => isSlot slot && fits 2 gi
  | .training => true
  | .wake slot wtrn wfac => isSlot slot && isWord wtrn && fits 7 wfac

/-- Whether every operand of a command fits what the spec gives it. -/
def Instr.wf : Instr → Bool
  | .registerWrite _ addr size val => isAddr addr && isTransfer size && fits (8 * size) val
  | .softreset _ _ _ => true
  | .softResetComplete _ => true
  | .stopBlock _ _ => true
  | .runBlock _ _ => true
  | .pevtClear _ _ mask again => isWord mask && isWord again
  | .pfaultClear _ _ mask again => isWord mask && isWord again
  | .pevtenWrite _ _ val => isWord val
  | .plockWrite _ _ val => isWord val
  | .cntclr _ _ val => isWord val
  | .prRead _ _ off => isOffset off
  | .prWrite _ _ off val => isOffset off && isWord val
  | .packetSend _ _ vc kind payload => below 4 vc && fits 8 kind && below 257 payload.length && payload.length % 32 == 0
  | .skejoPacket _ _ seq _ => fits 10 seq
  | .nak _ _ => true
  | .skejoAck _ _ seq => fits 10 seq
  | .creditReturn _ _ vc _ => below 4 vc
  | .retrainComplete _ _ => true
  | .laneCheckError _ unit => below 10 unit
  | .forceRetrain _ mask => isWord mask
  | .frameCommit _ _ ask _ => ask.wf
  | .commitmiss _ _ => true
  | .commitmentReceipt _ _ => true
  | .frameTransmit _ _ h => h.wf fun l => decide (l.length ≤ 4)
  | .stby _ val => isWord val
  | .stbyWithdraw _ val => isWord val
  | .stbyReqRise => true
  | .stbyReqFall => true
  | .standbyEntry => true
  | .standbyExit => true
  | .refclkLoss => true
  | .refclkRestart => true
  | .pllUnlock _ => true
  | .mainsOkLow => true
  | .mainsOkHigh => true
  | .detection _ _ h => h.wf anyOf
  | .fcDecoded _ _ h => h.wf fun g => fits 128 g.w && fits 24 g.crc
  | .dataReceived _ _ h => h.wf anyOf
  | .ackReceived _ _ h => h.wf anyOf
  | .ackmiss _ => true
  | .soundReceived _ _ h => h.wf anyOf
  | .noreply _ => true
  | .g6DataReceived _ _ h => h.wf anyOf
  | .g6AckReceived _ _ h => h.wf anyOf
  | .multiUserUplink _ _ h => h.wf anyOf
  | .blockReady _ user _ h => below 16 user && h.wf anyOf
  | .blockDecode _ e _ => below 7 e
  | .verify _ _ => true
  | .mpduDelivery cq => fits 7 cq
  | .nobuf cq => fits 7 cq
  | .reasmto _ => true
  | .txCompletion q => isQueue q
  | .zeroCrossing _ _ => true
  | .crossing _ => true
  | .miss _ => true
  | .acquireTimeout _ => true
  | .facetStart _ h => h.wf anyOf
  | .turnStart _ h => h.wf anyOf
  | .wheelRun _ val => isWord val
  | .wheelStop _ val => isWord val
  | .forceHold _ groups => isWord groups
  | .tbldataRead _ => true
  | .tbldataWrite _ val => isWord val
  | .tblchk _ pat => isWord pat
  | .wakeRequest _ _ h wtrn wfac => h.wf anyOf && isWord wtrn && fits 7 wfac
  | .wakemiss slot => isSlot slot
  | .announce _ => true
  | .withdraw _ => true
  | .quietCommit _ => true
  | .quietEnd _ => true
  | .commit _ => true
  | .cancel _ => true
  | .epochSwitch _ => true
  | .straggleEnd => true
  | .pauseStart _ => true
  | .pauseEnd _ => true
  | .glzdataRead _ _ => true
  | .glzdataWrite _ _ val => isWord val
  | .seal _ _ table => fits 4 table
  | .glazeClear _ _ table => fits 4 table
  | .wsdataRead _ _ => true
  | .wsdataWrite _ _ val => isWord val
  | .flip _ _ set => fits 8 set
  | .wsClear _ _ set => fits 8 set
  | .weightUpdate _ slot => isSlot slot
  | .gainWrite _ _ _ val => isWord val
  | .portenWrite _ _ val => isWord val
  | .txdlyWrite _ _ val => isWord val
  | .drvflt _ _ _ levels => fits 3 levels
  | .fltholdExpiry _ _ levels => fits 3 levels
  | .drvcfgWrite _ _ val => isWord val
  | .rxcfgWrite _ _ val => isWord val
  | .stuck _ _ => true
  | .guardWrite _ h => h.wf anyOf
  | .passComplete _ h => h.wf anyOf
  | .trackRequest _ => true
  | .aged _ => true
  | .retrain _ _ => true
  | .echoClear _ _ => true
  | .ectlEnWrite _ _ val => isWord val
  | .mdataRead _ _ => true
  | .mdataWrite _ _ val => isWord val
  | .mcmdFlip _ _ => true
  | .fdokChange _ => true
  | .calcmd _ _ inputs => fits 4 inputs
  | .calibrationDone _ pass => fits 4 pass
  | .agcWindow _ _ h => h.wf fun l => decide (l.levels.length = 4)
  | .agcAttack _ _ _ h => h.wf anyOf
  | .agcRelease _ _ h => h.wf anyOf
  | .stdataRead _ _ => true
  | .stdataWrite _ _ val => isWord val
  | .taovr _ _ slot _ => isSlot slot
  | .arm _ _ => true
  | .stop _ _ => true
  | .trigger _ h => h.wf anyOf
  | .record _ _ h => h.wf anyOf
  | .selfTest _ => true
  | .selfTestDone _ _ => true
  | .engovr _ _ mask => fits 7 mask
  | .slipAge _ => true
  | .flush _ _ => true
  | .flushslot _ _ slot => isSlot slot
  | .load _ _ => true
  | .unhold _ _ index => fits 10 index
  | .build _ _ slot => isSlot slot
  | .refresh _ slot => isSlot slot
  | .buildComplete _ => true
  | .req _ _ slot => isSlot slot
  | .revoke _ _ slot => isSlot slot
  | .tmxRetry _ slot => isSlot slot
  | .tmx => true
  | .tmreq => true
  | .mitRead _ _ => true
  | .mitWrite _ _ _ => true
  | .ndataRead _ _ => true
  | .dmRead _ => true
  | .dmWrite _ => true
  | .assign _ => true
  | .release _ => true
  | .seqrst _ => true
  | .setcpl _ => true
  | .setfd _ => true
  | .quarantineEnd slot => isSlot slot
  | .qforce _ slot => isSlot slot
  | .lrdataRead _ => true
  | .fadataRead _ => true
  | .fadataWrite _ val => isWord val
  | .farst _ => true
  | .joinreq eui => fits 64 eui
  | .leave => true
  | .sleepreq => true
  | .relay => true
  | .ringdb _ ring ptr => fits 8 ring && fits 17 ptr
  | .rselWrite _ val => isWord val
  | .enable _ => true
  | .disable _ => true
  | .reset _ => true
  | .descriptorFetch _ => true
  | .queueFlush _ => true
  | .hold _ => true
  | .queueRelease _ => true
  | .lifeExpiry q => isQueue q
  | .moderationTimer cq => fits 7 cq
  | .dmaError _ => true
  | .go _ n len => below 32 n && fits 24 len
  | .mailboxCheck => true
  | .info tag => fits 16 tag
  | .cfgsave tag _ => fits 16 tag
  | .routeset tag => fits 16 tag
  | .routeget tag => fits 16 tag
  | .joinacc tag => fits 16 tag
  | .nbrdump tag => fits 16 tag
  | .serviceTimeout tag => fits 16 tag
  | .d2hPost n => below 32 n
  | .d2hfullClear _ mask => isWord mask
  | .h2dDoorbellSet _ _ mask => isWord mask
  | .h2dDoorbellServe b _ => below 64 b
  | .d2hDoorbellSet b => below 64 b
  | .d2hDoorbellClear _ _ mask => isWord mask
  | .keyLoad _ cls size idx => below 3 cls && below 2 size && fits 13 idx
  | .roll _ cls idx => below 3 cls && fits 13 idx
  | .keyDrop _ cls idx => below 3 cls && fits 13 idx
  | .erase _ cls idx => below 3 cls && fits 13 idx
  | .lock _ cls idx => below 3 cls && fits 13 idx
  | .keycmdComplete => true
  | .start _ => true
  | .jobdone _ => true
  | .hash _ => true
  | .hashdone => true
  | .verifySignature _ => true
  | .rngfail => true
  | .pipeovr _ mask => isWord mask
  | .ppsEdge _ _ => true
  | .ppsmiss => true
  | .steer _ => true
  | .timeSet _ => true
  | .steerto => true
  | .driftUpdate _ => true
  | .step => true
  | .slewEnd => true
  | .holdlim => true
  | .srcWrite _ val => isWord val
  | .tpulse _ => true
  | .timeEvt _ _ _ => true
  | .evtticklRead _ => true
  | .tickRead _ => true
  | .zcloss _ => true
  | .blankPin _ _ => true
  | .blankEnd _ => true
  | .primeEnd _ _ => true
  | .gstageWrite _ _ val => isWord val
  | .dietempSample _ _ => true
  | .cdataRead _ _ => true
  | .porstNFall => true
  | .porstNRise => true
  | .brownOut => true
  | .laneRailLow _ => true
  | .romBoot _ _ _ => true
  | .copyDone => true
  | .checkDone _ _ => true
  | .recoveryGo _ => true
  | .laneLoad _ => true
  | .laneLoadComplete _ _ => true
  | .imgwrite tag _ => fits 16 tag
  | .imgcheck tag => fits 16 tag
  | .activate tag => fits 16 tag
  | .confirm _ key => isWord key
  | .greenwareExpiry _ => true
  | .aonRestart => true
  | .correctableError die _ => below 8 die
  | .uncorrectableError die _ _ _ => below 8 die
  | .scrubdone => true
  | .leak cls => below 7 cls
  | .transformCheck _ e _ => below 8 e
  | .inject _ cls die unit => below 8 cls && below 8 die && below 128 unit
  | .seqhang _ q _ => below 2 q
  | .coreHeartbeatMiss k _ => below 3 k
  | .coreRestartTimeout k => below 3 k
  | .reloadRequest _ => true
  | .ksbeat _ => true
  | .hbto => true
  | .warmTimeout => true
  | .ksrstReset => true
  | .coastEnd _ => true
  | .lcmdReload _ lanes => isWord lanes
  | .reverify _ => true
  | .revdone => true
  | .fdataRead _ => true
  | .pcieReset _ => true
  | .msixMessage _ _ v => below 32 v
  | .rtdataRead _ => true
  | .rtdataWrite _ val => isWord val
  | .qspiWrite addr words _ => isAddr addr && words.all isWord
  | .qspiWordPost => true
  | .qspiRead addr _ => isAddr addr
  | .qspiStatus => true
  | .txdataWrite _ _ val => isWord val
  | .characterReceived _ _ _ _ => true
  | .rxdataRead _ _ => true
  | .receiveTimeout _ => true
  | .lineBreak _ _ => true
  | .sendbrk _ _ => true
  | .rxflush _ _ => true
  | .txflush _ _ => true
  | .uartCntclr _ _ => true
  | .dmaenWrite _ _ val => isWord val
  | .uartWake _ => true
  | .twiStart _ _ _ => true
  | .twiDone _ _ _ _ data => below 256 data.length
  | .busRecovery _ _ => true
  | .recoveryRetry _ _ => true
  | .tdataRead _ _ => true
  | .tdataWrite _ _ val => isWord val
  | .gpioEdge g _ => below 32 g
  | .dset _ mask => isWord mask
  | .dclr _ mask => isWord mask
  | .refusedRead _ addr size => isAddr addr && isTransfer size
  | .windowWrite _ addr bytes => isAddr addr && isTransfer bytes.length
  | .glostSample _ ch mods => below 6 ch && mods.length == 64
  | .candidateFallback _ => true
  | .rngok => true
  | .pcieLinkUp speed width _ => fits 4 speed && fits 6 width
  | .pcieError _ => true
  | .dstateChange _ _ substate => fits 2 substate
  | .characterSent _ _ => true
  | .badop op => fits 8 op
  | .jtagInstruction _ => true
  | .wakeWindowOpen slot => isSlot slot
  | .pllLock _ => true
  | .supplyReturn _ => true

end Sys2Proof
end

