-- ==== Sys2Proof/Tests/Slice0.lean ====
section
/-!
SUPPORT. Tests: ill-formed commands are refused by `wf`; small states that meet the hypotheses of the obligations, clause by
clause; and single steps with results worked out by hand from the spec.
-/
namespace Sys2Proof.Tests
open Sys2Proof Sys2Proof.Machine

set_option maxRecDepth 20000
set_option linter.unusedSimpArgs false

/-- A GX880 whose hub runs its image with every link up, the chip then changed by `f`. -/
def sys (f : Chip → Chip) : State :=
  { State.reset with chip := f (Lane.all.foldl (fun c n => c.set (F.SKEJO_LINKSTAT_STATE n) 2)
      (({ Chip.reset with power := .active }.set F.BOOT_BSTAT_STAGE 2).set F.CLK_PWRSTAT_STATE 2)) }

/-- That part with lane 1 loaded and its group in LOCKED at turn 0, a facet being 85,333 ticks. -/
def run1 (f : Chip → Chip) : State :=
  sys fun c => f <| (((c.set (F.LSYS_LSTAT_STATE .l1) 2).set (F.WHEEL_GSTAT_LSTATE .l1) 2).onLane .l1 fun l =>
    { l with ready := true }).onGroup .l1 fun g => { g with p := 524288000, nextTs := 2097152000, nextP := 524288000 }

/-- A value, address or offset too wide or misplaced is ill-formed. -/
theorem test_wf_refuses_wide_values_1 : ([
    .registerWrite .pcie 0x100000000 4 0, .qspiWrite 0x100000000 [] false, .qspiRead 0x100000000 [],
    .refusedRead .pcie 0x100000000 4, .windowWrite .pcie 0x100000000 [0], .registerWrite .pcie 0 1 256,
    .pevtClear .pcie .sys 0x100000000 0, .pevtClear .pcie .sys 0 0x100000000, .pfaultClear .pcie .sys 0x100000000 0,
    .pfaultClear .pcie .sys 0 0x100000000, .pevtenWrite .pcie .sys 0x100000000, .plockWrite .pcie .sys 0x100000000,
    .cntclr .pcie .sys 0x100000000, .prWrite .pcie .sys 0 0x100000000, .forceRetrain .pcie 0x100000000,
    .stby .pcie 0x100000000, .stbyWithdraw .pcie 0x100000000, .wheelRun .pcie 0x100000000, .wheelStop .pcie 0x100000000,
    .forceHold .pcie 0x100000000, .tbldataWrite .pcie 0x100000000, .tblchk .pcie 0x100000000,
    .glzdataWrite .pcie .l1 0x100000000, .wsdataWrite .pcie .l1 0x100000000, .gainWrite .pcie .l1 none 0x100000000,
    .portenWrite .pcie .l1 0x100000000, .txdlyWrite .pcie .l1 0x100000000, .drvcfgWrite .pcie .l1 0x100000000,
    .rxcfgWrite .pcie .l1 0x100000000, .ectlEnWrite .pcie .l1 0x100000000] : List Instr).all (fun i => !i.wf) = true := by decide

/-- A value, address or offset too wide or misplaced is ill-formed. -/
theorem test_wf_refuses_wide_values_2 : ([
    .mdataWrite .pcie .l1 0x100000000, .stdataWrite .pcie .l1 0x100000000, .fadataWrite .pcie 0x100000000,
    .rselWrite .pcie 0x100000000, .d2hfullClear .pcie 0x100000000, .h2dDoorbellSet .pcie false 0x100000000,
    .d2hDoorbellClear .pcie false 0x100000000, .pipeovr .pcie 0x100000000, .srcWrite .pcie 0x100000000,
    .gstageWrite .pcie .l1 0x100000000, .confirm .pcie 0x100000000, .lcmdReload .pcie 0x100000000,
    .rtdataWrite .pcie 0x100000000, .txdataWrite .pcie .u0 0x100000000, .dmaenWrite .pcie .u0 0x100000000,
    .tdataWrite .pcie .u0 0x100000000, .dset .pcie 0x100000000, .dclr .pcie 0x100000000, .prRead .pcie .sys 2,
    .prRead .pcie .sys 0x1000, .prWrite .pcie .sys 2 0, .prWrite .pcie .sys 0x1000 0] : List Instr).all (fun i => !i.wf) = true := by decide

/-- A number of a field beyond its range is ill-formed. -/
theorem test_wf_refuses_numbers_1 : ([
    .packetSend .l1 .toLane 4 0 [], .creditReturn .l1 .toLane 4 0, .packetSend .l1 .toLane 0 256 [], .packetSend .l1 .toLane 0 0 [0], .correctableError 8 0,
    .uncorrectableError 8 0 0 .staging, .skejoPacket .l1 .toLane 1024 [],
    .skejoAck .l1 .toLane 1024, .unhold .pcie .l1 1024, .laneCheckError .l1 10,
    .fcDecoded .l1 0 (.made ⟨2 ^ 128, 0, []⟩), .fcDecoded .l1 0 (.made ⟨0, 2 ^ 24, []⟩), .go .pcie 0 16777216,
    .blockReady .l1 16 0 (.made []), .blockDecode .l1 7 0, .mpduDelivery 128, .nobuf 128, .engovr .pcie .l1 128,
    .moderationTimer 128, .seal .pcie .l1 16, .glazeClear .pcie .l1 16, .calcmd .pcie .l1 16, .calibrationDone .l1 16,
    .pcieLinkUp 16 0 false, .flip .pcie .l1 256, .wsClear .pcie .l1 256, .ringdb .pcie 256 0, .badop 256,
    .joinreq 18446744073709551616, .ringdb .pcie 0 131072] : List Instr).all (fun i => !i.wf) = true := by decide

/-- A number of a field beyond its range is ill-formed. -/
theorem test_wf_refuses_numbers_2 : ([
    .go .pcie 32 0, .d2hPost 32, .msixMessage false false 32, .gpioEdge 32 false, .info 65536, .cfgsave 65536 .done,
    .routeset 65536, .routeget 65536, .joinacc 65536, .nbrdump 65536, .serviceTimeout 65536, .imgwrite 65536 .done,
    .imgcheck 65536, .activate 65536, .h2dDoorbellServe 64 false, .d2hDoorbellSet 64, .keyLoad .pcie 3 0 0, .roll .pcie 3 0,
    .keyDrop .pcie 3 0, .erase .pcie 3 0, .lock .pcie 3 0, .coreHeartbeatMiss 3 [], .coreRestartTimeout 3,
    .keyLoad .pcie 0 2 0, .seqhang .l1 2 0, .keyLoad .pcie 0 0 8192, .roll .pcie 0 8192, .keyDrop .pcie 0 8192,
    .erase .pcie 0 8192, .lock .pcie 0 8192] : List Instr).all (fun i => !i.wf) = true := by decide

set_option maxRecDepth 8000 in
/-- A number of a field beyond its range is ill-formed. -/
theorem test_wf_refuses_numbers_3 : ([
    .leak 7, .transformCheck .l1 8 0, .drvflt .l1 .p1 0 8, .fltholdExpiry .l1 .p1 8, .inject .pcie 8 0 0, .inject .pcie 0 8 0, .inject .pcie 0 0 128,
    .twiDone .u0 false 0 false (List.replicate 256 0), .glostSample .l1 6 (List.replicate 64 0), .pcieLinkUp 0 64 false,
    .dstateChange false false 4] : List Instr).all (fun i => !i.wf) = true := by decide

/-- A slot or queue that does not exist is ill-formed. -/
theorem test_wf_refuses_names_1 : ([
    .txCompletion 16384, .lifeExpiry 16384, .wakemiss 8192, .weightUpdate .l1 8192, .taovr .pcie .l1 8192 0,
    .flushslot .pcie .l1 8192, .build .pcie .l1 8192, .refresh .l1 8192, .req .pcie .l1 8192, .revoke .pcie .l1 8192,
    .tmxRetry .l1 8192, .quarantineEnd 8192, .qforce .pcie 8192, .wakeWindowOpen 8192] : List Instr).all (fun i => !i.wf) = true := by decide

/-- A transfer, frame or list of the wrong shape is ill-formed. -/
theorem test_wf_refuses_shapes_1 : ([
    .registerWrite .pcie 0 0 0, .registerWrite .pcie 0 4097 0, .refusedRead .pcie 0 0, .refusedRead .pcie 0 4097,
    .windowWrite .pcie 0 [], .frameCommit .l1 0 (.data 8192 0 0 0 0 0 []) [], .frameCommit .l1 0 (.data 0 4 0 0 0 0 []) [],
    .frameCommit .l1 0 (.data 0 0 3 0 0 0 []) [], .frameCommit .l1 0 (.data 0 0 0 16 0 0 []) [],
    .frameCommit .l1 0 (.data 0 0 0 0 4 0 []) [], .frameCommit .l1 0 (.data 0 0 0 0 0 0 [8]) [],
    .frameCommit .l1 0 (.fdData 3 0 0 0 []) [], .frameCommit .l1 0 (.fdData 0 16 0 0 []) [],
    .frameCommit .l1 0 (.fdData 0 0 4 0 []) [], .frameCommit .l1 0 (.fdData 0 0 0 0 [8]) [],
    .frameCommit .l1 0 (.grant 4 0 0 0 []) [], .frameCommit .l1 0 (.grant 0 4096 0 0 []) [],
    .frameCommit .l1 0 (.grant 0 0 4 0 []) [], .frameCommit .l1 0 (.grant 0 0 0 256 []) [],
    .frameCommit .l1 0 (.grant 0 0 0 0 [⟨8192, 0, 0, 0⟩]) [], .frameCommit .l1 0 (.grant 0 0 0 0 [⟨0, 0, 0, 3⟩]) [],
    .frameCommit .l1 0 (.fdGrant 8192 0 0 0 0) [], .frameCommit .l1 0 (.fdGrant 0 4 0 0 0) [],
    .frameCommit .l1 0 (.fdGrant 0 0 4096 0 0) [], .frameCommit .l1 0 (.fdGrant 0 0 0 3 0) [],
    .frameCommit .l1 0 (.fdGrant 0 0 0 0 256) [], .frameCommit .l1 0 (.sound 8192 0) [], .frameCommit .l1 0 (.sound 0 4) [],
    .frameCommit .l1 0 (.wake 8192 0 0) [], .frameCommit .l1 0 (.wake 0 0x100000000 0) []] : List Instr).all (fun i => !i.wf) = true := by decide

/-- A transfer, frame or list of the wrong shape is ill-formed. -/
theorem test_wf_refuses_shapes_2 : ([
    .frameCommit .l1 0 (.wake 0 0 256) [], .qspiWrite 0 [0x100000000] false, .frameTransmit .l1 false (.made [0, 0, 0, 0, 0]),
    .agcWindow .l1 0 (.made ⟨[0, 0, 0], false⟩), .glostSample .l1 0 [], .detection .l1 0 (.adc ⟨0, [[], [], []]⟩),
    .detection .l1 0 (.adc ⟨0, [[0], [], [], []]⟩), .record .l1 0 (.adc ⟨0, [[8192], [0], [0], [0]]⟩)] : List Instr).all (fun i => !i.wf) = true := by decide

/-- The same commands with values in range are well-formed. -/
theorem test_wf_accepts_1 : ([
    .registerWrite .pcie 0 4 0, .qspiWrite 0 [] false, .qspiRead 0 [], .refusedRead .pcie 0 4, .windowWrite .pcie 0 [0],
    .pevtClear .pcie .sys 0 0, .pfaultClear .pcie .sys 0 0, .pevtenWrite .pcie .sys 0, .plockWrite .pcie .sys 0,
    .cntclr .pcie .sys 0, .prWrite .pcie .sys 0 0, .forceRetrain .pcie 0, .stby .pcie 0, .stbyWithdraw .pcie 0,
    .wheelRun .pcie 0, .wheelStop .pcie 0, .forceHold .pcie 0, .tbldataWrite .pcie 0, .tblchk .pcie 0,
    .glzdataWrite .pcie .l1 0, .wsdataWrite .pcie .l1 0, .gainWrite .pcie .l1 none 0, .portenWrite .pcie .l1 0,
    .txdlyWrite .pcie .l1 0, .drvcfgWrite .pcie .l1 0, .rxcfgWrite .pcie .l1 0, .ectlEnWrite .pcie .l1 0,
    .mdataWrite .pcie .l1 0, .stdataWrite .pcie .l1 0, .fadataWrite .pcie 0] : List Instr).all (fun i => i.wf) = true := by decide

/-- The same commands with values in range are well-formed. -/
theorem test_wf_accepts_2 : ([
    .rselWrite .pcie 0, .d2hfullClear .pcie 0, .h2dDoorbellSet .pcie false 0, .d2hDoorbellClear .pcie false 0,
    .pipeovr .pcie 0, .srcWrite .pcie 0, .gstageWrite .pcie .l1 0, .confirm .pcie 0, .lcmdReload .pcie 0,
    .rtdataWrite .pcie 0, .txdataWrite .pcie .u0 0, .dmaenWrite .pcie .u0 0, .tdataWrite .pcie .u0 0, .dset .pcie 0,
    .dclr .pcie 0, .prRead .pcie .sys 0, .packetSend .l1 .toLane 0 0 [], .creditReturn .l1 .toLane 0 0,
    .correctableError 0 0, .uncorrectableError 0 0 0 .staging, .skejoPacket .l1 .toLane 0 [], .nak .l1 .toLane,
    .skejoAck .l1 .toLane 0, .unhold .pcie .l1 0, .laneCheckError .l1 0, .frameCommit .l1 0 .training [],
    .frameTransmit .l1 false (.made []), .agcWindow .l1 0 (.made ⟨[0, 0, 0, 0], false⟩),
    .fcDecoded .l1 0 (.made ⟨0, 0, []⟩), .detection .l1 0 (.adc ⟨0, [[-8192], [8191], [0], [0]]⟩), .go .pcie 0 0] : List Instr).all (fun i => i.wf) = true := by decide

/-- The same commands with values in range are well-formed. -/
theorem test_wf_accepts_3 : ([
    .blockReady .l1 0 0 (.made []), .blockDecode .l1 0 0, .mpduDelivery 0, .nobuf 0, .engovr .pcie .l1 0, .moderationTimer 0,
    .txCompletion 0, .lifeExpiry 0, .wakemiss 0, .weightUpdate .l1 0, .taovr .pcie .l1 0 0, .flushslot .pcie .l1 0,
    .build .pcie .l1 0, .refresh .l1 0, .req .pcie .l1 0, .revoke .pcie .l1 0, .tmxRetry .l1 0, .quarantineEnd 0,
    .qforce .pcie 0, .wakeWindowOpen 0, .seal .pcie .l1 0, .glazeClear .pcie .l1 0, .calcmd .pcie .l1 0,
    .calibrationDone .l1 0, .pcieLinkUp 0 0 false, .flip .pcie .l1 0, .wsClear .pcie .l1 0, .ringdb .pcie 0 0, .badop 0,
    .joinreq 0] : List Instr).all (fun i => i.wf) = true := by decide

/-- The same commands with values in range are well-formed. -/
theorem test_wf_accepts_4 : ([
    .d2hPost 0, .msixMessage false false 0, .gpioEdge 0 false, .info 0, .cfgsave 0 .done, .routeset 0, .routeget 0,
    .joinacc 0, .nbrdump 0, .serviceTimeout 0, .imgwrite 0 .done, .imgcheck 0, .activate 0, .h2dDoorbellServe 0 false,
    .d2hDoorbellSet 0, .keyLoad .pcie 0 0 0, .roll .pcie 0 0, .keyDrop .pcie 0 0, .erase .pcie 0 0, .lock .pcie 0 0,
    .coreHeartbeatMiss 0 [], .coreRestartTimeout 0, .seqhang .l1 0 0, .leak 0, .transformCheck .l1 0 0, .inject .pcie 0 0 0,
    .twiDone .u0 false 0 false [], .glostSample .l1 0 (List.replicate 64 0), .dstateChange false false 0] : List Instr).all (fun i => i.wf) = true := by decide

/-- A one-block DATA frame control from slot 5. -/
def fcData : Fc := { g6 := false, snid := 0, bp := 0, epl := 0, stid := 5, dtid := 0, body := .data 0 1 0 0 1 1 1 1 0 0 true 0 }

/-- A SOUND frame control of the GX8 to slot 5. -/
def fcSound : Fc := { fcData with stid := 0, dtid := 5, body := .sound 0 1 0 0 false }

/-- A committed frame with frame control `fc`. -/
def frameOf (fc : Fc) : TxFrame :=
  { serial := 3, t0 := 20000, fc, recs := [], blocks := [], epoch := ⟨0, 0, 0, 0, 0⟩, coupling := .rotation, txports := 7, facet := 0,
    turn := 0, slot := 5, training := 0, fd := false, exEnd := 40000, grant := none, late := false, set := none }

/-- Settings of a frame on three working ports. -/
def setOf : TxSet :=
  { working := 7, causes := [0, 0, 0], maps := none, rep := [], dig := [], tables := [0, 0, 0], glaze := [[], [], []], cdd := 0, txdly := [0, 0, 0], eff := [0, 0, 0],
    weights := none }

/-- A grant of kind `fd` to slot 5. -/
def grantOf (fd : Bool) : Granted :=
  { t0 := 20000, facet := 0, turn := 0, gtrn := 0, gi := 0, nsym := 4, bt := 1, bp := 0, epl := 0, fd, users := [⟨5, 0, 1, 1⟩], ovl := [] }

/-- A sender with one block to come. -/
def userOf : RxUser :=
  { slot := 5, gen := 0, tmv := 0, mode := 1, rate := 0, bt := 1, nblk := 1, present := true, ranks := [], matched := [], made := [], results := [],
    done := [] }

/-- A reception of kind `k` in progress. -/
def rxOf (k : RxKind) : Rx :=
  { kind := k, tp := 20000, tend := 60000, facet := 0, turn := 0, role := 4, codes := [40, 40, 40, 40], first := 0, kept := none, bad := [],
    contend := none, bp := 0, epl := 0, fd := false, coasted := false, answers := none, gi := 0, cand := false, users := [userOf], action := 0, accepted := [], serial := 0 }

/-- Lane 1 running, with reception `r` in progress. -/
def recv (r : Rx) : State := run1 fun c => c.onRx .l1 fun x => { x with rx := some r }

/-- An MPDU for slot 5 with no block sent. -/
def mpduOf : TxMpdu :=
  { id := 1, ring := some 0, cq := 0, hLow := 0, dest := 5, cls := 0, gen := 0, mtype := 0x40, level := 0, gkey := false, hops := 0, orig := 0,
    final := 0, silent := false, epsel := 0, target := none, cookie := [], payload := [1], fetchTurn := 0, mseq := none, prot := none,
    protOld := none, bt := 1, rate := 0, tmv := 0, blocks := [], lastTries := 0, sentIn := [], inFrames := 0, flushed := false, status := none }

/-- A received MPDU for completion ring 0. -/
def rxMpduOf : RxMpdu :=
  { slot := 5, gen := 0, eui := 1, cls := 0, group := false, ring := 0, turn := 0, cone := 0, lane := 1, since := 0, ord := 0, bytes := [1] }

/-- A whole MPDU to be verified on lane 1. -/
def wholeOf : RxWhole :=
  { lane := 1, slot := 5, epl := 0, g6 := false, group := false, cls := 0, mseq := 0, cone := 0, gen := 0, turn := 0, bytes := [1] }

/-- A build for slot 5 that waits for the reply to its first SOUND. -/
def buildOf : Build := { slot := 5, tries := 1, byCmd := true, source := 0, chan := [], add := 0 }

/-- Lane 1 running, the first eight facets of its turn of role `r`, peer 5 changed by `f`. -/
def turnOf (r : Nat) (f : Nbr → Nbr) (g : Chip → Chip) : Chip :=
  (run1 fun c => g (({ c with wheel := { c.wheel with table := (List.range 8).map fun k => (k, 0x170 + r) } }).onNbr 5 fun e =>
    f { e with st := 1, group := 1 })).chip
/-! Register accesses. -/

theorem wit_CommonRegisterCommandsComplete :
    ((sys id).chip.TakesWrite .pcie .sys 0x008 ∧ (sys id).chip.flag (pctlSoftreset .sys) = false
      ∧ (sys id).chip.TakesWrite .pcie .sys 0x010 ∧ (sys id).chip.TakesWrite .pcie .sys 0x014
      ∧ (sys id).chip.TakesWrite .pcie .sys 0x018 ∧ (sys id).chip.TakesWrite .pcie .sys 0x020)
    ∧ ((sys id).chip.TakesWrite .pcie (.uart .u0) 0x008 ∧ stoppable (.uart .u0) = true)
    ∧ stoppable .sys = false
    ∧ ((sys (·.setFlag (pctlSoftreset .sys) true)).chip.flag (pctlSoftreset .sys) = true
      ∧ (sys (·.setFlag (pctlSoftreset .sys) true)).chip.pageBusy .sys = false
      ∧ (sys (·.setFlag (pctlSoftreset .sys) true)).chip.stopped = false
      ∧ (sys (·.setFlag (pctlSoftreset .sys) true)).chip.power ≠ .reset)
    ∧ (∀ p ∈ [Page.rxp .l1, .txp .l1, .echo .l1, .slip .l1, .spy .l1],
        (run1 id).chip.TakesWrite .pcie p 0x008 ∧ (run1 id).chip.flag (pctlEnable p) = true)
    ∧ ((run1 id).chip.lane .l1).rx.dec.busy = [] := by
  simp only [Chip.TakesWrite, Chip.TakesRead]; decide

theorem wit_RegisterWritesStoreTheirFields :
    (sys id).chip.TakesWrite .pcie .sys 0x04C
    ∧ ((sys id).chip.servesTo .pcie (.page .sys 0x04F) = true ∧ (sys id).chip.pageRefusal .pcie .sys 0x04F 1 true = none)
    ∧ (sys (·.set (plock .skejo) 2)).chip.TakesWrite .pcie .skejo 0x404
    ∧ ((sys id).chip.TakesWrite .pcie .time 0x080 ∧ (sys id).chip.TakesWrite .pcie .time 0x084
      ∧ (sys id).chip.TakesRead .pcie .time 0x080 ∧ (sys id).chip.TakesRead .pcie .time 0x084)
    ∧ ((sys id).chip.TakesWrite .pcie .qm 0x050 ∧ (sys id).chip.TakesWrite .pcie .qm 0x054
      ∧ (sys id).chip.TakesRead .pcie .qm 0x050 ∧ (sys id).chip.TakesRead .pcie .qm 0x054)
    ∧ (sys (·.setLatch .pcie .time (.write 0x080 7))).chip.latch .pcie .time = .write 0x080 7
    ∧ (sys (·.setLatch .pcie .time (.read 0x080 7))).chip.latch .pcie .time = .read 0x080 7
    ∧ (sys id).chip.latch .pcie .time = .none := by
  simp only [Chip.TakesWrite, Chip.TakesRead]; decide

theorem wit_RefusedAccessesAreRecorded :
    (sys id).chip.servesTo .pcie (.page .sys 0x024) = true
    ∧ (sys id).chip.pageRefusal .pcie .sys 0x024 4 false = some 5
    ∧ (sys id).chip.pageRefusal .pcie .sys 0x024 4 true = some 5 := by decide

theorem wit_LockedPagesRefuseExpertWrites :
    isReg .skejo (0x404 / 4 * 4) = true ∧ (sys id).chip.servesTo .pcie (.page .skejo 0x404) = true
    ∧ (sys id).chip.unlocked .skejo = false ∧ (sys id).chip.pageRefusal .pcie .skejo 0x404 4 false = none := by decide

theorem wit_UnfittedLanesRefuseEveryAccess :
    let c := (sys fun c => { c with part := .gx820 }).chip
    c.fitted .l2 = false ∧ (Page.afe .l2).lane? = some .l2 ∧ c.servesTo .pcie (.page (.afe .l2) 0xFFF) = true
      ∧ c.servesTo .pcie (.laneWindow .l2 0x001FFFFF) = true := by decide

theorem wit_SeveralCommandsInOneWriteAreRefused :
    ((sys id).chip.TakesWrite .pcie .qm 0x060 ∧ (sys id).chip.pageBusy .qm = false
      ∧ 2 ≤ ([0, 1, 2].filter (Nat.testBit 3)).length ∧ [0, 1, 2].filter (Nat.testBit 8) = [])
    ∧ ((sys id).chip.TakesWrite .pcie .saggar 0x098 ∧ (sys id).chip.pageBusy .saggar = false
      ∧ (sys id).chip.keys.hash = none ∧ 2 ≤ ([0, 1].filter (Nat.testBit 3)).length)
    ∧ ((sys (·.set (plock (.tmap .l1)) 2)).chip.TakesWrite .pcie (.tmap .l1) 0x41C
      ∧ (sys (·.set (plock (.tmap .l1)) 2)).chip.pageBusy (.tmap .l1) = false
      ∧ Nat.testBit 4 2 = true ∧ Nat.testBit 4 1 = false)
    ∧ (sys id).chip.TakesWrite .pcie (.uart .u1) 0x078 := by
  simp only [Chip.TakesWrite, Chip.TakesRead]; decide

theorem wit_WindowWritesAndCounterClears :
    ((sys id).chip.servesTo .pcie (.sram 0x00EC0000) = true ∧ ∀ k < 2, sramWritable .pcie (0x00EC0000 + k) = true)
    ∧ ((sys id).chip.servesTo .pcie (.sram 0x00BFFFFF) = true ∧ sramWritable .pcie 0x00BFFFFF = true)
    ∧ (sys id).chip.servesTo .pcie (.laneWindow .l7 0x001FFFFF) = true
    ∧ (sys id).chip.TakesWrite .pcie .sys 0x050 ∧ (sys id).chip.TakesWrite .pcie .qm 0x0B0
    ∧ (sys id).chip.TakesWrite .pcie .skejo 0x120 := by
  simp only [Chip.TakesWrite, Chip.TakesRead]; decide

/-! Links, power and health. -/

/-- Link 1 of the running part with its direction to the hub changed by `f`. -/
def toHub (f : SkejoDir → SkejoDir) : Chip := (sys fun c => c.onDir .l1 .toHub f).chip

/-- A packet with one unit of payload on virtual channel `vc`. -/
def pktOf (vc : Nat) : SkejoPkt := ⟨vc, 7, List.replicate 32 5⟩

theorem wit_SkejoPacketsKeepOrderAndCredit :
    (sys id).chip.laneReach .l1 = true
    ∧ ((toHub id).spyMayGo .l1 .toHub (pktOf 3) = true ∧ ((toHub id).linkDir .l1 .toHub).waiting = []
      ∧ ∀ vc ≤ 3, ((toHub id).linkDir .l1 .toHub).canSend (pktOf vc) = true)
    ∧ (toHub fun x => { x with credit3 := 0 }).spyMayGo .l1 .toHub (pktOf 3) = false
    ∧ (let x := (toHub fun x => { x with replay := [(1023, pktOf 0)], expect := 1023 }).linkDir .l1 .toHub
       x.replay.find? (fun e => e.1 == x.expect) = some (x.expect, pktOf 0) ∧ x.expect < 1024)
    ∧ ((toHub fun x => { x with nakSent := true }).linkDir .l1 .toHub).nakSent = true
    ∧ (let c := toHub fun x => { x with nakSent := true, expect := 5, failSeq := 5, fails := 7 }
       (c.linkDir .l1 .toHub).failSeq = (c.linkDir .l1 .toHub).expect
        ∧ c.get F.SKEJO_RETLIM_LIMIT ≤ (c.linkDir .l1 .toHub).fails + 1)
    ∧ (1 : Nat) < (toHub id).get F.SKEJO_RETLIM_LIMIT
    ∧ (((toHub fun x => { x with replay := [(4, pktOf 0), (5, pktOf 1)], nextSeq := 6, expect := 6 }).linkDir .l1 .toHub).taken.findIdx?
        (fun j => j == 4)) = some 0 := by decide

/-- The CRC-32C of a packet tells it from one with a bit turned over (R24). -/
theorem wit_SkejoPackets_crc : wireOk (flipBits [] ((pktOf 0).wire 1023)) = true ∧ wireOk (flipBits [100] ((pktOf 0).wire 1023)) = false := by
  decide +kernel

theorem wit_LinkTrainingSettlesByWorkingLanes :
    (sys (·.set (plock .skejo) 2)).chip.TakesWrite .pcie .skejo 0x400
    ∧ (let c := (sys (·.set (F.SKEJO_LINKSTAT_STATE .l1) 1)).chip
       c.fitted .l1 = true ∧ c.get (F.SKEJO_LINKSTAT_STATE .l1) = 1) := by
  simp only [Chip.TakesWrite, Chip.TakesRead]; decide

theorem wit_StandbyRequestsAndWake :
    ((sys id).chip.TakesWrite .pcie .clk 0x048 ∧ (sys id).chip.flag F.CLK_PWRSTAT_STBYPEND = false
      ∧ (sys id).chip.power ≠ .standby)
    ∧ (let c := (sys (·.setFlag F.CLK_PWRSTAT_STBYPEND true)).chip
       c.TakesWrite .pcie .clk 0x048 ∧ c.flag F.CLK_PWRSTAT_STBYPEND = true ∧ c.pins.stbyPin = false ∧ c.standbyOpen = true)
    ∧ (let c := (sys (·.setFlag F.CLK_PWRCTL_PINEN true)).chip
       c.flag F.CLK_PWRCTL_PINEN = true ∧ c.power ≠ .reset ∧ c.power ≠ .standby ∧ c.stopped = false
        ∧ c.flag F.CLK_PWRSTAT_STBYPEND = false)
    ∧ (let c := (sys fun c => (c.setFlag F.CLK_PWRSTAT_STBYPEND true).onPins fun p => { p with stbyPin := true }).chip
       c.flag F.CLK_PWRSTAT_STBYPEND = true ∧ c.pins.stbyPin = true)
    ∧ (let c := (sys fun c => (c.setFlag F.CLK_PWRCTL_PINEN true).setPower .standby).chip
       c.flag F.CLK_PWRCTL_PINEN = true ∧ c.power = .standby ∧ c.pins.wake = none)
    ∧ (let c := (sys fun c => (c.setPower .standby).onPins fun p => { p with wake := some 1 }).chip
       c.pins.wake = some 1 ∧ c.power = .standby ∧ c.stopped = false)
    ∧ (let c := (sys fun c => (c.setPower .standby).onPins fun p => { p with wake := some 15 }).chip
       c.pins.wake = some 15 ∧ c.power = .standby) := by
  simp only [Chip.TakesWrite, Chip.TakesRead]; decide

theorem wit_ClockAndMainsEvents :
    ((sys id).chip.power ≠ .reset ∧ (sys id).chip.stopped = false ∧ (sys id).chip.pins.mainsOk = true)
    ∧ (run1 id).chip.lstate .l1 = 2
    ∧ (sys fun c => { c with stopped := true }).chip.stopped = true := by decide

theorem wit_ResetsAndRails :
    (let c := (sys (·.setPower .reset)).chip
     c.power = .reset ∧ c.pins.hubLow = false ∧ c.pins.porstLow = false)
    ∧ (let c := (sys (·.setBitAt F.CLK_PWRSTAT_LANEPWR 0 true)).chip
       c.power ≠ .reset ∧ Lane.l1.num ∉ c.pins.railsLow ∧ c.fitted .l1 = true ∧ c.bitAt F.CLK_PWRSTAT_LANEPWR Lane.l1.idx = true)
    ∧ State.reset.chip.hubRuns = false := by decide

theorem wit_FaultsFillBuckets :
    ((sys id).chip.health.buckets.getD (bucketKey 5 7 23) 0 + 1 < (sys id).chip.get (F.HEALTH_THR_THR 5)
      ∧ unitOk 5 7 23 = true ∧ (sys id).chip.dieFitted 7 = true ∧ (sys id).chip.health.buckets.getD (bucketKey 5 7 23) 0 < 255)
    ∧ (unitOk 4 7 9 = true ∧ (sys id).chip.health.buckets.getD (bucketKey 4 7 9) 0 + 1 < (sys id).chip.get (F.HEALTH_THR_THR 4))
    ∧ ((run1 id).chip.lane .l1).ready = true
    ∧ ((recv (rxOf .detected)).chip.rxNow .l1 = some (rxOf .detected) ∧ (recv (rxOf .detected)).chip.fftInput .l1 3 ≠ none)
    ∧ (unitOk 3 1 7 = true ∧ (sys id).chip.health.buckets.getD (bucketKey 3 1 7) 0 + 1 < (sys id).chip.get (F.HEALTH_THR_THR 3))
    ∧ ((sys (·.set (plock .health) 2)).chip.TakesWrite .pcie .health 0x420 ∧ unitOk 0 7 3 = true)
    ∧ NatMap.sorted (sys id).chip.health.buckets = true := by
  simp only [Chip.TakesWrite, Chip.TakesRead]; decide

theorem wit_ErrorsAndWardensAct :
    ((sys id).chip.dieFitted 0 = true ∧ (sys fun c => { c with part := .gx820 }).chip.dieFitted 2 = false)
    ∧ (let c := (run1 id).chip
       (c.lane .l1).ready = true ∧ c.fitted .l1 = true)
    ∧ (let c := (run1 fun c => c.onHealth fun h => { h with seqRestarts := [(1, [0, 0, 0])] }).chip
       c.get (F.WARDEN_WCFG_RSTMAX .l1)
          < (((c.health.seqRestarts.getD Lane.l1.num []).filter fun t => c.tick < t + 10 * tickHz).length + 1))
    ∧ (let c := (sys fun c => c.set (F.SKEJO_LINKSTAT_STATE .l1) 0).chip
       c.hubRuns = true ∧ c.linkUp .l1 = false ∧ c.get (F.SKEJO_LINKSTAT_STATE .l1) = 0)
    ∧ (let c := (sys (·.setBitAt F.HEALTH_HSTAT_LANEFAIL 0 true)).chip
       c.TakesWrite .pcie .health 0x064 ∧ c.fitted .l1 = true ∧ c.bitAt F.HEALTH_HSTAT_LANEFAIL Lane.l1.idx = true)
    ∧ (let c := (sys fun c => c.onHealth fun h => { h with reloadAsked := [1] }).chip
       c.hubRuns = true ∧ c.fitted .l1 = true ∧ c.bitAt F.HEALTH_HSTAT_LANEFAIL Lane.l1.idx = false
        ∧ Lane.l1.num ∈ c.health.reloadAsked)
    ∧ ((sys id).chip.TakesWrite .pcie .health 0x064
      ∧ ∀ n : Lane, (1 : Nat).testBit n.idx = true → (sys id).chip.bitAt F.HEALTH_HSTAT_LANEFAIL n.idx = false) := by
  simp only [Chip.TakesWrite, Chip.TakesRead]
  refine ⟨by decide, by decide, by decide, by decide, by decide, by decide, by decide, ?_⟩
  intro n; cases n <;> decide

theorem wit_CoreRestartsAndBackstop :
    ((sys id).chip.hubRuns = true ∧ (sys id).chip.health.coreRestarts = [] ∧ (sys id).chip.mbx.requests = []
      ∧ (sys id).chip.health.backstop = 0 ∧ (sys id).chip.get F.HEALTH_HSTAT_KSRST < 3
      ∧ (sys id).chip.TakesWrite .core3 .health 0x060)
    ∧ (let c := (sys fun c => c.onHealth fun h => { h with coresDown := [2], coreRestarts := [(2, 0)] }).chip
       c.hubRuns = true ∧ 2 ∈ c.health.coresDown ∧ c.health.coreRestarts.find? (fun e => e.1 == 2) = some (2, 0)
        ∧ c.tick ≤ 0 + tickHz / 10)
    ∧ (let c := (sys fun c => c.onHealth fun h => { h with coreRestarts := [(2, 0), (2, 0)] }).chip
       3 ≤ ((((2, c.tick) :: c.health.coreRestarts).filter fun e => c.tick < e.2 + 600 * tickHz).filter fun e => e.1 == 2).length)
    ∧ (let c := (sys fun c => (c.setPower .coast).onHealth fun h => { h with backstop := 1 }).chip
       c.TakesWrite .core3 .health 0x060 ∧ c.health.backstop = 1 ∧ c.power = .coast)
    ∧ (let c := (sys (·.set F.HEALTH_HSTAT_KSRST 3)).chip
       c.hubRuns = true ∧ c.health.backstop = 0 ∧ 3 ≤ c.get F.HEALTH_HSTAT_KSRST)
    ∧ (let c := (sys fun c => c.onHealth fun h => { h with backstop := 1 }).chip
       c.health.backstop = 1 ∧ c.stopped = false ∧ c.power ≠ .reset)
    ∧ (let c := (run1 fun c => (c.set (F.LSYS_LSTAT_STATE .l1) 3).onLane .l1 fun l => { l with coastTurns := 8 }).chip
       c.coasting .l1 = true ∧ 8 ≤ (c.lane .l1).coastTurns) := by
  simp only [Chip.TakesWrite, Chip.TakesRead]; decide
/-! Frames, receptions, queues. -/

theorem wit_FramesCommitByRule :
    (sys id).chip.mayOpen .l1 20000 = false ∧ (run1 id).chip.mayOpen .l1 20000 = true
    ∧ (let c := (run1 fun c => c.onTx .l1 fun t => { t with grants := [grantOf true] }).chip
       c.mayOpen .l1 20000 = true
        ∧ (c.lane .l1).tx.grants.find? (fun g => g.fd && g.t0 == 20000) = some (grantOf true)
        ∧ (grantOf true).users = ⟨5, 0, 1, 1⟩ :: [])
    ∧ (let c := turnOf 6 id fun c => c.onEcho .l1 fun e => { e with req := 1 }
       c.mayOpen .l1 20000 = true ∧ c.facetAt .l1 20000 = 0 ∧ c.role .l1 0 = 6 ∧ (c.lane .l1).echo.req ≠ 0
        ∧ (c.lane .l1).echo.running = 0 ∧ c.trainUnder .l1 = false
        ∧ (let body := FcBody.sound (entryGimin (c.entry .l1 0)) (c.trainSymbols .l1 (c.lane .l1).echo.req) 1 0 false
           c.fitsRun .l1 0 20000 (20000 + body.ticks) (20000 + body.ticks) = true))
    ∧ (let c := turnOf 6 id fun c => (c.onEcho .l1 fun e => { e with req := 0 }).onTmap .l1 fun t =>
          { t with builds := [{ buildOf with tries := 2 }] }
       c.mayOpen .l1 20000 = true ∧ c.role .l1 0 = 6 ∧ entryGimin (c.entry .l1 0) ≤ 3 ∧ c.trainDue .l1 0 = false
        ∧ c.mayServe .l1 5 = true ∧ (c.nbr 5).proto = 0
        ∧ (∃ b ∈ (c.lane .l1).tmap.builds, b.slot = 5 ∧ b.source = 0 ∧ b.tries < 3)
        ∧ (let body := FcBody.sound 3 (c.get (F.TMAP_TMCFG_NSND .l1)) 0 0 true
           c.fitsRun .l1 0 20000 (20000 + body.ticks) (20000 + body.ticks + ackGap false + body.ticks) = true))
    ∧ (∀ r ∈ [4, 8], let c := turnOf r (fun e => { e with sleep := true, n := 10 }) id
       c.mayOpen .l1 20000 = true ∧ c.role .l1 0 = r ∧ c.mayServe .l1 5 = true ∧ c.wheel.calls.get? 5 = none
        ∧ (c.nbr 5).sleep = true ∧ 0 ≤ stampDist (c.turn .l1, 0) (0, 0)
        ∧ (let e := 20000 + (FcBody.wake false 0 0 95).ticks
           c.fitsRun .l1 0 20000 e e = true)) := by decide +kernel

/-- A SOUND frame that is ready with settings `x` and the LATE mark `late`. -/
def soundReady (x : TxSet) (late : Bool) : TxFrame := { frameOf fcSound with set := some x, late }

theorem wit_CommitmentsReachTheLine :
    (run1 id).chip.running .l1 = true
    ∧ ((run1 fun c => c.onTx .l1 fun t => { t with onWay := [frameOf fcSound] }).chip.lane .l1).tx.onWay = frameOf fcSound :: []
    ∧ (∀ late, let s := run1 fun c => c.onTx .l1 fun t => { t with ready := [soundReady setOf late] }
        let f := soundReady setOf late
        let left := (s.chip.lane .l1).tx.ready.filter fun g => g.serial != f.serial
        let c := (s.chip.onTx .l1 fun t => { t with ready := left }).advanceTo f.t0
        nextReady (s.chip.lane .l1).tx.ready = some f ∧ f.set = some setOf ∧ s.chip.fitted .l1 = true
          ∧ s.chip.maySend .l1 f = true ∧ (c.dropCauses .l1 f setOf = [] ↔ late = false))
    ∧ (let s := sys fun c => c.onTx .l1 fun t => { t with ready := [soundReady setOf false] }
       nextReady (s.chip.lane .l1).tx.ready = some (soundReady setOf false) ∧ (soundReady setOf false).set = some setOf
        ∧ s.chip.fitted .l1 = true ∧ s.chip.maySend .l1 (soundReady setOf false) = false)
    ∧ (run1 fun c => c.onTx .l1 fun t => { t with await := [frameOf fcData] }).chip.overdue .l1 false = some (frameOf fcData)
    ∧ (let c := (run1 fun c => (c.onTx .l1 fun t => { t with await := [frameOf fcSound] }).onTmap .l1 fun t =>
          { t with builds := [buildOf] }).chip
       c.overdue .l1 true = some (frameOf fcSound)
        ∧ ∀ b ∈ (c.lane .l1).tmap.builds, b.slot = (frameOf fcSound).slot → b.tries < 2) := by decide +kernel

theorem wit_DetectionsAndFrameControl :
    (let c := (run1 fun c => c.setFlag (F.RXP_RXCTL_EN .l1) true).chip
     c.searches .l1 30000 = true ∧ c.hearDetection .l1 30000 (.made 40284) = some 40284 ∧ c.rxNow .l1 = none)
    ∧ (sys id).chip.searches .l1 30000 = false
    ∧ (let s := recv (rxOf .detected)
       s.chip.rxNow .l1 = some (rxOf .detected) ∧ (rxOf .detected).kind = .detected
        ∧ ((s.chip.advanceTo 60000).hearFc .l1 (rxOf .detected) (.made ⟨0, 0, [0, 0, 0, 0]⟩)).crc ≠ crc24 (lsbFirst 128 0)) := by
  decide +kernel

theorem wit_ReceptionsEndWithTheirFrame :
    (let s := recv (rxOf (.frame fcData))
     s.chip.rxNow .l1 = some (rxOf (.frame fcData)) ∧ (rxOf (.frame fcData)).kind = .frame fcData
      ∧ fcData.body = .data 0 1 0 0 1 1 1 1 0 0 true 0 ∧ s.chip.decoded .l1 = true)
    ∧ (let fc : Fc := { fcData with body := .ack 1 false 0 0 0 false 0 }
       (recv (rxOf (.frame fc))).chip.rxNow .l1 = some (rxOf (.frame fc)) ∧ fc.body = .ack 1 false 0 0 0 false 0)
    ∧ (let fc : Fc := { fcData with g6 := true, body := .g6ack 1 false 0 }
       (recv (rxOf (.frame fc))).chip.rxNow .l1 = some (rxOf (.frame fc)) ∧ fc.body = .g6ack 1 false 0)
    ∧ (let fc : Fc := { fcData with body := .sound 0 1 0 0 true }
       (recv (rxOf (.frame fc))).chip.rxNow .l1 = some (rxOf (.frame fc)) ∧ fc.body = .sound 0 1 0 0 true)
    ∧ (run1 id).chip.rxNow .l1 = none
    ∧ (let c := (run1 fun c => (c.onTx .l1 fun t => { t with grants := [grantOf false] }).onRx .l1 fun x =>
          { x with rx := some (rxOf .uplink) }).chip
       (c.lane .l1).tx.grants.find? (fun g => !g.fd) = some (grantOf false)
        ∧ (grantOf false).turn = c.turn .l1 ∧ (grantOf false).facet ≤ c.facet .l1
        ∧ c.rxNow .l1 = some (rxOf .uplink) ∧ (rxOf .uplink).kind = .uplink ∧ (rxOf .uplink).facet = (grantOf false).facet
        ∧ (rxOf .uplink).turn = (grantOf false).turn ∧ c.decoded .l1 = true)
    ∧ turnBefore (grantOf false).turn ((run1 fun c => c.set (F.WHEEL_TURN_TURN .l1) 1).chip.turn .l1) = true := by decide

theorem wit_QueueCommandsActOnTheSelectedQueue :
    (sys id).chip.TakesWrite .pcie .qm 0x088
    ∧ (sys (·.set F.QM_QCFG_LIFE 0)).chip.get F.QM_QCFG_LIFE = 0
    ∧ (sys (·.set F.QM_QCFG_LIFE 4)).chip.get F.QM_QCFG_LIFE ≠ 0 := by
  simp only [Chip.TakesWrite, Chip.TakesRead]; decide

theorem wit_RingCommandsFollowTheSelection :
    (sys id).chip.TakesWrite .pcie .qm 0x04C ∧ (sys id).chip.TakesWrite .pcie .qm 0x060
    ∧ (sys (·.set F.QM_RBASE_BASE 1)).chip.enableCode 0 ≠ .ok
    ∧ ((sys (·.set F.QM_RCFG_WEIGHT 1)).chip.enableCode 0 = .ok ∧ ((sys (·.set F.QM_RCFG_WEIGHT 1)).chip.ring 0).held = [])
    ∧ (sys id).chip.TakesWrite .pcie .qm 0x048 ∧ ((sys id).chip.hubRuns = true ∧ ((sys id).chip.ring 127).st ≠ 2)
    ∧ (sys (·.setPower .standby)).chip.hubRuns = false := by
  simp only [Chip.TakesWrite, Chip.TakesRead]; decide

/-- TX ring 0 running with one descriptor. -/
def ringOne : State :=
  sys fun c => (c.set F.QM_CELLSTAT_FREE 32768).onRing 0 fun r => { r with st := 1, t := 1, weight := 1 }

theorem wit_DeliveriesFetchesAndDmaErrors :
    ((sys id).chip.hubRuns = true ∧ (⟨State.reset.mem, (sys id).chip, []⟩ : Work).pickRing = none)
    ∧ (ringOne.chip.hubRuns = true ∧ (⟨ringOne.mem, ringOne.chip, []⟩ : Work).pickRing = some (0, 0))
    ∧ (let m := { mpduOf with status := some 0 }
       let c := (sys fun c => c.onQueue 10 fun q => { q with mpdus := [m] }).chip
       c.hubRuns = true ∧ (c.queue 10).mpdus = m :: [] ∧ m.status.isSome = true ∧ m.committed = false ∧ m.ring = some 0
        ∧ (m.silent && m.status == some 0) = false ∧ (c.ring (128 + m.cq)).st ≠ 1
        ∧ (let d := c.onRing 128 fun r => { r with st := 1 }
           (d.ring (128 + m.cq)).st = 1 ∧ (d.ring (128 + m.cq)).full = false ∧ (d.ring (128 + m.cq)).held = []))
    ∧ ((sys id).chip.queue 10).mpdus = []
    ∧ (let c := (sys fun c => c.onQm fun q => { q with deliver := [rxMpduOf] }).chip
       c.hubRuns = true ∧ c.qm.deliver.find? (fun m => m.ring == 0) = some rxMpduOf ∧ c.deliveryWaits rxMpduOf = false
        ∧ (c.ring 128).st = 0)
    ∧ (let c := (sys fun c => ((c.onQm fun q => { q with deliver := [rxMpduOf] }).onRing 128 fun r => { r with st := 1 }).onRing 2
          fun r => { r with st := 1, rxbuf := true }).chip
       c.hubRuns = true ∧ c.qm.deliver.find? (fun m => m.ring == 0) = some rxMpduOf ∧ c.deliveryWaits rxMpduOf = false
        ∧ (c.ring (128 + 0)).st ≠ 0 ∧ c.rxbufRing 0 = some 2
        ∧ bufsNeeded (c.ring 2).bufs rxMpduOf.bytes.length 0 = none ∧ (c.ring 2).h = (c.ring 2).t
        ∧ bufsNeeded ((c.onRing 2 fun r => { r with bufs := [⟨0, 256, true, []⟩] }).ring 2).bufs rxMpduOf.bytes.length 0 = some 1)
    ∧ (let c := (sys fun c => (c.set F.QM_QCFG_RXHOLD 0).onQm fun q => { q with deliver := [rxMpduOf] }).chip
       c.qm.deliver = [rxMpduOf] ∧ rxMpduOf.ring = 0 ∧ Lane.ofNum rxMpduOf.lane = some .l1
        ∧ (c.get F.QM_QCFG_RXHOLD : Int) ≤ turnDist rxMpduOf.since (c.turn .l1))
    ∧ (let r : Reasm := { slot := 0x3FFE, mseq := 0, cls := 0, parts := [], last := none, firstTurn := 0 }
       let c := (sys fun c => (c.set (F.WHEEL_TURN_TURN .l1) 4096).onQm fun q => { q with reasm := [r] }).chip
       c.qm.reasm = [r] ∧ r.slot = 0x3FFE ∧ c.get F.MAC_RSCFG_REASM ≤ (c.turn .l1 + 2 ^ 32 - r.firstTurn) % 2 ^ 32
        ∧ turnBefore (c.turn .l1) r.firstTurn = false)
    ∧ (let c := (sys fun c => c.onRing 255 fun r => { r with irqen := true, unsignalled := 1, modTime := 1 }).chip
       (c.ring (128 + 127)).irqen = true ∧ 0 < (c.ring (128 + 127)).unsignalled ∧ (c.ring (128 + 127)).modTime ≠ 0) := by
  decide +kernel

/-! Pins, serial ports, decoders, keys. -/

theorem wit_PinEdgesAndTheTestPort :
    ((sys (·.set F.GPIO_IMODEH_MODE (3 * 2 ^ 30))).chip.gpioMode 31).testBit 1 = true
    ∧ (sys id).chip.TakesWrite .pcie .gpio 0x048 ∧ (sys id).chip.TakesWrite .pcie .gpio 0x04C
    ∧ State.reset.chip.debugLocked = State.reset.chip.debugLocked := by
  simp only [Chip.TakesWrite, Chip.TakesRead]; decide

theorem wit_TwoWireTransfersAndRecovery :
    ((sys id).chip.TakesWrite .pcie (.twi .u1) 0x050 ∧ (sys id).chip.get (F.TWI_TSTAT_BUS .u1) ≠ 1
      ∧ ((sys id).chip.twi .u1).startWaits = false ∧ (sys id).chip.flag (pctlEnable (.twi .u1)) = true)
    ∧ (sys (·.set (F.TWI_TLEN_WLEN .u1) 33)).chip.get (F.TWI_TLEN_WLEN .u1) = 33
    ∧ (sys (·.set (F.TWI_TSTAT_BUS .u1) 1)).chip.get (F.TWI_TSTAT_BUS .u1) = 1
    ∧ (∀ k ∈ [0, 1], let c := (sys fun c => ((c.set (F.TWI_TSTAT_BUS .u1) 2).set (F.TWI_TSTAT_TRIES .u1) k).onTwi .u1 fun t =>
          { t with sdaStuck := true }).chip
       c.get (F.TWI_TSTAT_BUS .u1) = 2 ∧ c.flag (pctlEnable (.twi .u1)) = true ∧ (c.twi .u1).sdaStuck = true
        ∧ c.get (F.TWI_TSTAT_TRIES .u1) = k)
    ∧ (let c := (sys fun c => c.onTwi .u1 fun t => { t with rfifo := [7] }).chip
       c.TakesRead .pcie (.twi .u1) 0x04C ∧ (c.twi .u1).rfifo = 7 :: [])
    ∧ (sys id).chip.TakesWrite .pcie (.twi .u1) 0x04C := by
  simp only [Chip.TakesWrite, Chip.TakesRead]; decide

theorem wit_QuadTargetFramesByOpcode :
    ((sys id).chip.power ≠ .reset ∧ (sys id).chip.qspi.buffer.length + [1].length ≤ 64 ∧ (sys id).chip.qspi.buffer = [])
    ∧ 64 ≤ (sys fun c => c.onQspi fun q => { q with buffer := List.replicate 64 (0, 0) }).chip.qspi.buffer.length
    ∧ (sys fun c => c.onQspi fun q => { q with buffer := [(0x4C, 1)] }).chip.qspi.buffer = (0x4C, 1) :: [] := by decide

theorem wit_SerialTransmitterCommands :
    ((sys id).chip.TakesWrite .pcie (.uart .u0) 0x054 ∧ (sys id).chip.TakesWrite .pcie (.uart .u0) 0x078)
    ∧ 128 ≤ ((sys fun c => c.onUart .u0 fun x => { x with txFifo := List.replicate 128 0 }).chip.uart .u0).txFifo.length
    ∧ (let c := (sys id).chip
       (c.uart .u0).txFifo = [] ∧ (c.uart .u0).tx = .idle ∧ (c.uart .u0).brkPending = false ∧ c.uartOn .u0 = true
        ∧ c.flag (F.UART_UCFG_FLOW .u0) = false)
    ∧ (let c := (sys fun c => c.onUart .u0 fun x =>
          { x with tx := .char 7, txFifo := [8] }).chip
       (c.uart .u0).tx = .char 7 ∧ c.uartOn .u0 = true ∧ (c.uart .u0).brkPending = false ∧ (c.uart .u0).txFifo = 8 :: [])
    ∧ ((sys fun c => c.onUart .u0 fun x => { x with tx := .brk }).chip.uart .u0).tx = .brk := by
  simp only [Chip.TakesWrite, Chip.TakesRead]; decide

/-- A UART 0 that listens. -/
def hears (f : Uart → Uart) : State := sys fun c => c.onUart .u0 f

theorem wit_SerialReceiverCommands :
    ((hears fun x => { x with rxFifo := List.replicate 128 ⟨0, false, false⟩ }).chip.uartHears .u0 = true
      ∧ 128 ≤ ((hears fun x => { x with rxFifo := List.replicate 128 ⟨0, false, false⟩ }).chip.uart .u0).rxFifo.length)
    ∧ ((hears id).chip.uartHears .u0 = true ∧ ((hears id).chip.uart .u0).rxFifo.length < 128
      ∧ (hears id).chip.flag (F.UART_RXRING_DMAEN .u0) = false)
    ∧ ((hears fun x => { x with rxFifo := [⟨7, false, false⟩] }).chip.TakesRead .pcie (.uart .u0) 0x058
      ∧ ((hears fun x => { x with rxFifo := [⟨7, false, false⟩] }).chip.uart .u0).rxFifo = ⟨7, false, false⟩ :: [])
    ∧ (sys id).chip.TakesWrite .pcie (.uart .u0) 0x078
    ∧ (let c := (hears fun x => { x with slot := some ⟨[7], false, false⟩ }).chip
       (c.uart .u0).slot = some ⟨[7], false, false⟩ ∧ c.flag (F.UART_RXRING_DMAEN .u0) = false)
    ∧ ((sys id).chip.TakesWrite .pcie (.uart .u0) 0x068 ∧ (2 ^ 31).testBit 31 = true
      ∧ (let y := ((sys id).chip.touch .pcie (.uart .u0)).store (.uart .u0) 0x068 (2 ^ 31)
         ringPlaced (y.get (F.UART_RXRING_BASE .u0) * 256) (y.get (F.UART_RXRING_SIZE .u0)) = false)) := by
  simp only [Chip.TakesWrite, Chip.TakesRead]; decide

/-- A block of the one sender. -/
def blkOf : RxBlk := ⟨0, 0, 0, [], none⟩

theorem wit_BlocksReachTheEngines :
    let r := rxOf (.frame fcData)
    (run1 id).chip.rxNow .l1 = none
    ∧ ((recv r).chip.rxNow .l1 = some r ∧ r.users[0]? = some userOf ∧ ((recv r).chip.setFlag (F.RXP_RXCTL_EN .l1) false).rxOn .l1 = false ∧ userOf.nblk ≤ 1)
    ∧ (let c := (run1 fun c => (c.setFlag (F.RXP_RXCTL_EN .l1) true).onRx .l1 fun x => { x with rx := some r }).chip
       c.rxNow .l1 = some r ∧ c.rxOn .l1 = true ∧ 0 < userOf.nblk ∧ c.blockKnown .l1 r 0 0 = false
        ∧ c.anyEngine .l1 = true ∧ (c.lane .l1).rx.dec.queue.length < 48 ∧ c.idleEngine .l1 = some 0
        ∧ (c.lane .l1).rx.dec.queue = [] ∧ (c.lane .l1).rx.slip.waiting = []
        ∧ (c.onDec .l1 fun d => { d with busy := (List.range 7).map fun e => (e, blkOf) }).idleEngine .l1 = none
        ∧ (c.set (F.DEC_ENGSTAT_RETIRED .l1) 127).anyEngine .l1 = false
        ∧ 48 ≤ ((c.onDec .l1 fun d => { d with queue := List.replicate 48 { blkOf with idx := 1 } }).lane .l1).rx.dec.queue.length)
    ∧ (let c := (run1 fun c => c.onDec .l1 fun d => { d with queue := [blkOf] }).chip
       c.idleEngine .l1 = some 0 ∧ (c.lane .l1).rx.dec.queue = blkOf :: [] ∧ (c.lane .l1).rx.slip.waiting = [])
    ∧ ((run1 id).chip.lane .l1).rx.dec.busy.get? 0 = none
    ∧ (let c := (run1 fun c => (c.onRx .l1 fun x => { x with rx := some r }).onDec .l1 fun d =>
          { d with busy := [(6, blkOf)] }).chip
       (c.lane .l1).rx.dec.busy.get? 6 = some blkOf ∧ (c.lane .l1).rx.dec.busy = [(6, blkOf)] ∧ (c.lane .l1).rx.dec.ended = []
        ∧ (c.lane .l1).rx.dec.queue = [] ∧ (c.lane .l1).rx.slip.waiting = [] ∧ (c.lane .l1).rx.dec.swap = none
        ∧ c.rxNow .l1 = some r ∧ r.users[0]? = some userOf ∧ c.slipFind .l1 r userOf 0 [] = none ∧ c.cellsUsed < 32768) := by
  decide +kernel

/-- The shortest whole MPDU of type 64 from slot 5: a header with nothing after it. -/
def plainOf : RxWhole :=
  { wholeOf with bytes := [64, 0, 0, 0, 0, 0, 0, 0, 0, 0, 0, 0, 0, 0, 0, 0] }

theorem wit_EngineTestsAndVerification :
    (let c := (run1 id).chip
     (List.range 7).find? (c.engReserve .l1) = some 6 ∧ c.flag (F.DEC_STCFG_STEN .l1) = true ∧ (c.lane .l1).rx.dec.testing = none
      ∧ (c.lane .l1).rx.dec.swap = none ∧ (c.lane .l1).rx.dec.queue = [])
    ∧ (let c := (run1 fun c => c.onDec .l1 fun d => { d with queue := [blkOf], busy := (List.range 7).map fun e => (e, blkOf) }).chip
       c.idleEngine .l1 = none ∧ (c.lane .l1).rx.dec.queue ≠ [])
    ∧ (run1 (·.setFlag (F.DEC_STCFG_STEN .l1) false)).chip.flag (F.DEC_STCFG_STEN .l1) = false
    ∧ (let c := (run1 fun c => c.onDec .l1 fun d => { d with testing := some 6 }).chip
       (c.lane .l1).rx.dec.testing = some 6 ∧ (c.lane .l1).rx.dec.due = false ∧ (c.markTested .l1 6).nextReserve .l1 = some 0)
    ∧ (run1 (·.set (plock (.dec .l1)) 2)).chip.TakesWrite .pcie (.dec .l1) 0x408
    ∧ State.reset.chip.hubRuns = false
    ∧ (let c := (run1 fun c => c.onQm fun q => { q with whole := [wholeOf] }).chip
       c.hubRuns = true ∧ c.coasting .l1 = false ∧ c.qm.whole.find? (fun x => x.lane == Lane.l1.num) = some wholeOf
        ∧ mpduBad wholeOf.bytes wholeOf.mseq wholeOf.cls = true)
    ∧ (let c := (run1 fun c => ({ c with mac := { c.mac with fa := [(128, 1)] } }.onQm fun q => { q with whole := [plainOf] }).onNbr 5
          fun e => { e with st := 1, group := 1, seqvalid := true }).chip
       c.hubRuns = true ∧ c.coasting .l1 = false ∧ c.qm.whole.find? (fun x => x.lane == Lane.l1.num) = some plainOf
        ∧ mpduBad plainOf.bytes plainOf.mseq plainOf.cls = false ∧ mpduLevel plainOf.bytes = 0 ∧ plainOf.slot ≠ 0x3FFE
        ∧ (c.nbr plainOf.slot).st = 1 ∧ (c.nbr plainOf.slot).gen = plainOf.gen
        ∧ ((c.nbr plainOf.slot).windowSays plainOf.mseq (mpduFcnt plainOf.bytes) true).1 = none
        ∧ (c.fa (64 + mpduType plainOf.bytes)).testBit 5 = false ∧ c.fa (64 + mpduType plainOf.bytes) % 8 = 1)
    ∧ (let c := (recv (rxOf (.frame fcData))).chip
       c.hubRuns = true ∧ c.coasting .l1 = false ∧ c.qm.whole.find? (fun x => x.lane == Lane.l1.num) = none
        ∧ c.rxNow .l1 = some (rxOf (.frame fcData)))
    ∧ (run1 id).chip.rxNow .l1 = none := by
  simp only [Chip.TakesWrite, Chip.TakesRead]; decide +kernel

theorem wit_KeyCommandsAreCheckedAndPerformed :
    (sys id).chip.TakesWrite .pcie .keys 0x060
    ∧ (sys id).chip.keys.cmd = none
    ∧ (let k : KeyCmd := { op := 1, cls := 0, size := 0, idx := 5, data := List.replicate 16 1 }
       let c := (sys fun c => c.onKeys fun x => { x with cmd := some k }).chip
       c.keys.cmd = some k ∧ c.keyReason k = 0)
    ∧ (let k : KeyCmd := { op := 3, cls := 0, size := 0, idx := 5, data := [] }
       (sys fun c => c.onKeys fun x => { x with cmd := some k }).chip.keyReason k ≠ 0) := by
  simp only [Chip.TakesWrite, Chip.TakesRead]; decide

/-- A job that seals one byte in place under a 128-bit key. -/
def jobOf : HostJob :=
  { mode := 0, tag16 := false, dkey := 0, aadlen := 0, src := 0x00EC0000, dst := 0x00EC0000, len := 1, iv := List.replicate 12 0,
    tag := List.replicate 8 0, key := some (List.replicate 16 0) }

theorem wit_SaggarJobsHashesAndTheRandomSource :
    (sys id).chip.TakesWrite .pcie .saggar 0x080 ∧ (sys id).chip.keys.job = none ∧ (sys id).chip.keys.hash = none
    ∧ (sys id).chip.TakesWrite .pcie .saggar 0x098
    ∧ (let j := { jobOf with key := none }
       (sys fun c => c.onKeys fun x => { x with job := some j }).chip.keys.job = some j ∧ j.refusal.isSome = true)
    ∧ (∀ mode < 4, let j := { jobOf with mode }
       let c := (sys fun c => c.onKeys fun x => { x with job := some j }).chip
       c.keys.job = some j ∧ j.refusal = none ∧ j.key = some (List.replicate 16 0) ∧ c.pairWorks (j.mode % 2) = true ∧ j.tag.length = 8)
    ∧ (sys fun c => c.onKeys fun x => { x with hash := some (.hash 0 64) }).chip.keys.hash = some (.hash 0 64)
    ∧ (sys fun c => c.onKeys fun x => { x with hash := some (.verify 0) }).chip.keys.hash = some (.verify 0)
    ∧ (sys (·.set (plock .saggar) 2)).chip.TakesWrite .pcie .saggar 0x404 := by
  simp only [Chip.TakesWrite, Chip.TakesRead]; decide +kernel
/-! The Wheel. -/

/-- An epoch change committed for turn 10. -/
def chg : EpochChange := ⟨⟨1, 0, 0, 0, 0⟩, 10, 4⟩

theorem wit_EpochsAndPausesProceed :
    (sys id).chip.TakesWrite .pcie .wheel 0x06C
    ∧ (sys id).chip.running .l1 = false
    ∧ (let c := (run1 fun c => c.onWheel fun w => { w with next := some chg }).chip
       c.running .l1 = true ∧ c.wheel.next = some chg ∧ turnBefore (c.turn .l1) chg.s = true)
    ∧ (let c := (run1 fun c => (c.set (F.WHEEL_TURN_TURN .l1) 10).onWheel fun w => { w with next := some chg }).chip
       c.running .l1 = true ∧ c.wheel.next = some chg ∧ turnBefore (c.turn .l1) chg.s = false)
    ∧ (let c := (run1 (·.setFlag F.WHEEL_WSTAT_PPEND true)).chip
       c.flag F.WHEEL_WSTAT_PPEND = true ∧ c.running .l1 = true ∧ (c.group .l1).paused = false
        ∧ turnBefore (c.turn .l1) (c.get F.WHEEL_PTURN_TURN) = false)
    ∧ (let c := (run1 fun c => (c.onGroup .l1 fun g => { g with paused := true }).onWheel fun w => { w with activated := true }).chip
       (c.group .l1).paused = true ∧ c.wheel.activated = true ∧ c.facet .l1 = 0 ∧ c.tick ≤ c.b .l1 0
        ∧ ∀ m ∈ [Lane.l2, .l3, .l4, .l5, .l6, .l7], (c.group m).paused = false)
    ∧ (let c := (run1 fun c => c.onWheel fun w => { w with active := some chg }).chip
       c.running .l1 = true ∧ c.wheel.next = none ∧ c.wheel.active = some chg ∧ c.straggleDone = false)
    ∧ ((run1 id).chip.wheel.next = none ∧ (run1 id).chip.wheel.active = none)
    ∧ (let c := (run1 fun c => (((c.set (F.WHEEL_TURN_TURN .l1) 14).onWheel fun w => { w with active := some chg }).onGroup .l1 fun g =>
          { g with switched := true }).onNbr 5 fun e => { e with st := 1, group := 1 }).chip
       c.straggleDone = true ∧ NatMap.sorted c.mac.nbr = true) := by
  simp only [Chip.TakesWrite, Chip.TakesRead]; decide

theorem wit_WheelPatternsHoldsAndQuietPeriods :
    ((sys id).chip.TakesWrite .pcie .wheel 0x040
      ∧ (((sys id).chip.touch .pcie .wheel).store .wheel 0x040 (setBit 0 0)).wheelRun = true
      ∧ (((sys id).chip.touch .pcie .wheel).store .wheel 0x040 (clearMask 1 1)).wheelRun = false)
    ∧ (let c := (sys fun c => (c.setFlag F.WHEEL_WCTL_RUN true).onLane .l1 fun l => { l with ready := true }).chip
       c.wheelRun = true ∧ c.lstate .l1 = 0 ∧ c.fitted .l1 = true ∧ (c.lane .l1).ready = true)
    ∧ (2 ≤ (run1 id).chip.lstate .l1 ∧ (run1 id).chip.wheel.active = none)
    ∧ ((sys (·.set (plock .wheel) 2)).chip.TakesWrite .pcie .wheel 0x418
      ∧ (sys id).chip.TakesRead .pcie .wheel 0x404
      ∧ (sys (·.set (plock .wheel) 2)).chip.TakesWrite .pcie .wheel 0x404
      ∧ (sys (·.set (plock .wheel) 2)).chip.TakesWrite .pcie .wheel 0x408
      ∧ (sys id).chip.TakesWrite .pcie .wheel 0x058 ∧ (sys id).chip.wheel.quiet = none
      ∧ (sys id).chip.patternHeld 1 = false ∧ (sys id).chip.get F.WHEEL_TBLADDR_ENTRY < 96)
    ∧ (let c := (run1 fun c => c.onWheel fun w => { w with quiet := some ⟨0, 2⟩ }).chip
       c.wheel.quiet = some ⟨0, 2⟩ ∧ c.running .l1 = true ∧ (c.group .l1).quiet = false
        ∧ turnBefore (c.turn .l1) 0 = false ∧ turnBefore (c.turn .l1) (turnAdd 0 2) = true)
    ∧ (let c := (run1 fun c => ((c.set (F.WHEEL_TURN_TURN .l1) 2).onWheel fun w => { w with quiet := some ⟨0, 2⟩ }).onGroup .l1 fun g =>
          { g with quiet := true }).chip
       c.wheel.quiet = some ⟨0, 2⟩ ∧ c.running .l1 = true ∧ (c.group .l1).quiet = true
        ∧ turnBefore (c.turn .l1) (turnAdd 0 2) = false
        ∧ ∀ m ∈ [Lane.l2, .l3, .l4, .l5, .l6, .l7], c.running m = false)
    ∧ (let c := (run1 fun c => (c.set (F.WHEEL_TURN_TURN .l1) 9).onWheel fun w => { w with quiet := some ⟨0, 2⟩ }).chip
       c.wheel.quiet = some ⟨0, 2⟩ ∧ c.beaconCommitted (turnAdd 0 1) = true)
    ∧ (let c := (run1 fun c => c.onWheel fun w => { w with quiet := some ⟨2, 1⟩ }).chip
       c.wheel.quiet = some ⟨2, 1⟩ ∧ c.beaconCommitted (turnAdd 2 1) = false ∧ turnBefore (c.turn .l1) 2 = true
        ∧ ∀ m ∈ [Lane.l2, .l3, .l4, .l5, .l6, .l7], c.running m = false)
    ∧ (sys id).chip.wheelRun = false := by
  simp only [Chip.TakesWrite, Chip.TakesRead]; decide

/-- Lane 1 with a crossing at tick `t` that waits to be judged. -/
def crossed (t : Nat) (f : Chip → Chip) : Chip := (run1 fun c => f (c.onMeas .l1 fun m => { m with zcHeard := [t] })).chip

theorem wit_CrossingsFacetsAndTurns_a :
    ((run1 id).chip.meas.get .l1).zcHeard = []
    ∧ (∀ t, let c := crossed t (·.set (F.WHEEL_GSTAT_LSTATE .l1) 0)
        (c.meas.get .l1).zcHeard = t :: [] ∧ c.lstate .l1 = 0)
    ∧ (let c := crossed 7 (·.set (F.WHEEL_GSTAT_LSTATE .l1) 1)
       c.coasting .l1 = false ∧ c.lstate .l1 = 1 ∧ (c.group .l1).found = none)
    ∧ (let c := crossed 1 id
       c.coasting .l1 = false ∧ c.lstate .l1 = 2 ∧ ((c.group .l1).nearest (1 * 256)).1 = 0
        ∧ ((c.group .l1).nearest (1 * 256)).2.natAbs ≤ (c.group .l1).loop.acc
        ∧ ((c.group .l1).nearest (8192000 * 256)).1 = 4 ∧ (c.group .l1).looped = false
        ∧ (c.onGroup .l1 fun g => { g with looped := true }).group .l1 = { c.group .l1 with looped := true })
    ∧ (let c := crossed 1 fun c => (c.set (F.WHEEL_GSTAT_LSTATE .l1) 3).onPins fun p => { p with mainsOk := false }
       c.coasting .l1 = false ∧ c.lstate .l1 = 3 ∧ c.pins.mainsOk = false)
    ∧ (let c := crossed 1 (·.set (F.WHEEL_GSTAT_LSTATE .l1) 3)
       c.lstate .l1 = 3 ∧ c.pins.mainsOk = true ∧ (c.group .l1).paused = false
        ∧ ((c.group .l1).nearest (1 * 256)).2.natAbs ≤ (c.group .l1).loop.acc)
    ∧ (let c := (run1 id).chip
       [0, 1, 2, 3].find? (fun k => !(c.group .l1).accepted.testBit k && !(c.group .l1).missed.testBit k) = some 0)
    ∧ (let c := (run1 fun c => c.onGroup .l1 fun g => { g with accepted := 7 }).chip
       [0, 1, 2, 3].find? (fun k => !(c.group .l1).accepted.testBit k && !(c.group .l1).missed.testBit k) = some 3)
    ∧ (∀ stopping, let c := (sys fun c => c.onGroup .l1 fun g => { g with stopping }).chip
        c.running .l1 = false ∧ (c.group .l1).stopping = stopping ∧ (c.group .l1).rephase = none ∧ c.facet .l1 < 95
          ∧ (c.set (F.WHEEL_GSTAT_FACET .l1) 95).facet .l1 = 95) := by
  refine ⟨by decide, fun t => ⟨rfl, rfl⟩, by decide, by decide +kernel, by decide, by decide, by decide, by decide, by decide⟩

theorem wit_CrossingsFacetsAndTurns_b :
    (let c := (run1 id).chip
     (c.group .l1).rephase = none ∧ c.facet .l1 + 1 < 96 ∧ c.running .l1 = true ∧ c.facet .l1 ≠ 95
      ∧ c.grantAt .l1 1 = none ∧ c.role .l1 1 ≠ 7)
    ∧ (let c := (run1 (·.set (F.WHEEL_GSTAT_FACET .l1) 94)).chip
       (c.group .l1).rephase = none ∧ 95 = c.facet .l1 + 1 ∧ c.running .l1 = true)
    ∧ (let c := (run1 (·.set (F.WHEEL_GSTAT_FACET .l1) 95)).chip
       (c.group .l1).rephase = none ∧ c.facet .l1 = 95 ∧ c.running .l1 = true ∧ (c.closeTurn .l1).running .l1 = true
        ∧ ((c.closeTurn .l1).group .l1).rephase = none) := by decide

theorem wit_GlazeTablesAndWeightSets :
    let c := (sys (·.set (plock (.txp .l1)) 2)).chip
    c.TakesRead .pcie (.txp .l1) 0x404 ∧ c.TakesWrite .pcie (.txp .l1) 0x404 ∧ c.TakesWrite .pcie (.txp .l1) 0x408
      ∧ c.TakesRead .pcie (.txp .l1) 0x414 ∧ c.TakesWrite .pcie (.txp .l1) 0x414 ∧ c.TakesWrite .pcie (.txp .l1) 0x418
      ∧ c.glazeInUse .l1 15 = false ∧ NatMap.sorted (c.lane .l1).tx.wlive = true ∧ NatMap.sorted (c.lane .l1).tx.wshadow = true
      ∧ (512 * 255 + 297) / 512 ≠ 254 := by
  simp only [Chip.TakesWrite, Chip.TakesRead]; decide

/-- Slot 5 assigned to a GLP-5 peer of group 1 that uses weight set 9. -/
def peer (f : Chip → Chip) : State :=
  run1 fun c => f (c.onNbr 5 fun e => { e with st := 1, group := 1, cpl := 2, wset := 9 })

theorem wit_PortsDriversInputsAndCalibration :
    (let c := (sys (·.set (plock (.afe .l1)) 2)).chip
     ¬(c.peerOf .l1 5 = true ∧ (c.nbr 5).cpl = 2) ∧ c.TakesWrite .pcie (.txp .l1) 0x040 ∧ c.TakesWrite .pcie (.txp .l1) 0x04C
      ∧ c.TakesWrite .pcie (.afe .l1) 0x04C ∧ c.TakesWrite .pcie (.afe .l1) 0x040 ∧ c.TakesWrite .pcie (.txp .l1) 0x058
      ∧ c.TakesWrite .pcie (.afe .l1) 0x400 ∧ c.lstate .l1 = 0)
    ∧ (run1 id).chip.peerOf .l1 5 = false
    ∧ (∀ cpl ∈ [1, 2], let c := ((peer fun c => c.onTmap .l1 fun t => { t with est := [(5, [])] }).chip.onNbr 5 fun e => { e with cpl })
       c.peerOf .l1 5 = true ∧ (c.lane .l1).tmap.est.get? 5 = some [] ∧ (c.lane .l1).tmap.wturn.get? 5 ≠ some (c.turn .l1)
        ∧ (c.nbr 5).cpl = cpl ∧ (c.nbr 5).hostCpl = false ∧ (c.nbr 5).proto = 0 ∧ ∃ k < 256, (c.lane .l1).tx.wowner.get? k = none)
    ∧ ((run1 id).chip.lane .l1).echo.before ≠ 0
    ∧ (let c := (run1 id).chip
       (5 % 8).testBit Port.p1.idx ≠ c.flag (F.AFE_DRVCFG_FLTPOL .l1) ∧ (5 % 8).testBit Port.p2.idx = c.flag (F.AFE_DRVCFG_FLTPOL .l1))
    ∧ (let c := (run1 (·.setBitAt (F.AFE_DRVSTAT_HELD .l1) 2 true)).chip
       c.bitAt (F.AFE_DRVSTAT_HELD .l1) 2 = true ∧ c.retired 0 Lane.l1.num 3 = false
        ∧ (7 % 8).testBit 2 ≠ c.flag (F.AFE_DRVCFG_FLTPOL .l1) ∧ (c.lane .l1).afe.written.testBit 2 = false)
    ∧ ((run1 fun c => c.onAgc .l1 fun a => { a with codes := [96, 96, 96, 96] }).chip.lane .l1).rx.agc.codes.getD 3 0 = 96
    ∧ ((sys fun c => c.onAfe .l1 fun a => { a with cal := some 15 }).chip.lane .l1).afe.cal = some 15 := by
  simp only [Chip.TakesWrite, Chip.TakesRead]; decide

theorem wit_GainLoopsMoveHoldAndLearn :
    (let x := ((run1 id).chip.advanceTo 4096).settled .l1
     x.loopsRun .l1 = true ∧ (x.lane .l1).rx.agc.codes.length = 4 ∧ (x.lane .l1).rx.agc.mode = 0
      ∧ (let look := x.hearWindow .l1 4096 (.made ⟨[5, -200, 0, 0], true⟩)
         0 < look.levels.getD 0 0 + (x.get (F.AGC_AGCCFG_TARGET .l1) : Int)
          ∧ look.levels.getD 1 0 + (x.get (F.AGC_AGCCFG_TARGET .l1) : Int) < 0)
      ∧ hearAttack 4096 3 (.made 4) = 4 ∧ hearAttack 4096 3 (.made 3) < 4)
    ∧ (((sys (·.setFlag (F.AGC_AGCCFG_LOOPEN .l1) false)).chip.advanceTo 4096).settled .l1).loopsRun .l1 = false
    ∧ (let x := (((run1 fun c => c.onAgc .l1 fun a => { a with mode := 3, settle := 4096 }).chip.advanceTo 4096).settled .l1)
       (x.lane .l1).rx.agc.mode = 3 ∧ x.loopsRun .l1 = true)
    ∧ (∀ k ∈ [70000, 70001], let x := ((run1 fun c => c.onAgc .l1 fun a =>
          { a with frozen := true, holdTo := some k, learn := some (95, [0, 1]) }).chip.advanceTo 70000).settled .l1
       (x.lane .l1).rx.agc.frozen = true ∧ (x.lane .l1).rx.agc.holdTo = some k ∧ (k ≤ x.tick ↔ k = 70000)
        ∧ (x.lane .l1).rx.agc.learn = some (95, [0, 1]))
    ∧ (((run1 id).chip.advanceTo 70000).settled .l1).rxNow .l1 = none
    ∧ (let c := (run1 fun c => c.onAgc .l1 fun a => { a with deferred := some 95 }).chip
       (c.lane .l1).rx.agc.deferred = some 95 ∧ c.flag (F.AGC_AGCCFG_LOOPEN .l1) = true)
    ∧ ((run1 id).chip.TakesRead .pcie (.agc .l1) 0x408
      ∧ (run1 (·.set (plock (.agc .l1)) 2)).chip.TakesWrite .pcie (.agc .l1) 0x408) := by
  simp only [Chip.TakesWrite, Chip.TakesRead]; decide +kernel

theorem wit_TimingAdvanceAndSpyhole :
    ((run1 (·.set (plock (.rxp .l1)) 2)).chip.TakesWrite .pcie (.rxp .l1) 0x40C ∧ (peer id).chip.peerOf .l1 5 = true)
    ∧ ((run1 id).chip.TakesWrite .pcie (.spy .l1) 0x050 ∧ (run1 id).chip.flag (pctlEnable (.spy .l1)) = true)
    ∧ (let c := (run1 fun c => (c.set (F.SPY_SPDEST_SIZE .l1) 12).set (F.SPY_SPDEST_BASE .l1) 0xEC0).chip
       12 ≤ c.get (F.SPY_SPDEST_SIZE .l1) ∧ c.get (F.SPY_SPDEST_SIZE .l1) ≤ 20
        ∧ 4096 * c.get (F.SPY_SPDEST_BASE .l1) % 2 ^ c.get (F.SPY_SPDEST_SIZE .l1) = 0
        ∧ 0x00EC0000 ≤ 4096 * c.get (F.SPY_SPDEST_BASE .l1)
        ∧ 4096 * c.get (F.SPY_SPDEST_BASE .l1) + 2 ^ c.get (F.SPY_SPDEST_SIZE .l1) ≤ 0x01000000)
    ∧ (run1 (·.setFlag (pctlEnable (.spy .l1)) false)).chip.flag (pctlEnable (.spy .l1)) = false
    ∧ (∀ trig ∈ [1, 2, 3], let c := (run1 fun c => (c.set (F.SPY_SPTRIG_TRIG .l1) trig).onSpy .l1 fun x =>
          { x with armed := true, event := some 9 }).chip
       (c.lane .l1).rx.spy.armed = true ∧ c.get (F.SPY_SPTRIG_TRIG .l1) = trig ∧ c.spyFacet .l1 = true
        ∧ (c.lane .l1).rx.spy.event = some 9)
    ∧ (let c := (run1 fun c => ((c.set (F.SPY_SPTRIG_TRIG .l1) 1).set (F.SPY_SPTRIG_FACET .l1) 95).onSpy .l1 fun x =>
          { x with armed := true }).chip
       (c.lane .l1).rx.spy.armed = true ∧ c.spyFacet .l1 = false)
    ∧ ((run1 id).chip.lane .l1).rx.spy.running = false
    ∧ (let c := (run1 fun c => ((c.set (F.SPY_SPDEST_SIZE .l1) 12).set (F.SPY_SPWPTR_PTR .l1) 15).onSpy .l1 fun x => { x with running := true }).chip
       (c.lane .l1).rx.spy.running = true ∧ c.flag (F.SPY_SPCFG_WRAP .l1) = false
        ∧ (c.get (F.SPY_SPWPTR_PTR .l1) + 1) % (2 ^ c.get (F.SPY_SPDEST_SIZE .l1) / 256) = c.get (F.SPY_SPRPTR_PTR .l1))
    ∧ (∀ from' ∈ [0, 2 ^ 40], let x := ((run1 fun c => (c.onSpy .l1 fun x => { x with running := true }).onLink .l1 fun l =>
          { l with spyFrom := from' }).chip.advanceTo 960)
       (x.lane .l1).rx.spy.running = true ∧ (x.spyMayGo .l1 .toHub ⟨3, 0, List.replicate 256 0⟩ = true ↔ from' = 0)
        ∧ x.hearSpy .l1 0 (.made [7]) = [7])
    ∧ (let c := (run1 fun c => ((c.set (F.SPY_SPDEST_SIZE .l1) 12).set (F.SPY_SPWPTR_PTR .l1) 14).onSpy .l1 fun x => { x with running := true }).chip
       (c.lane .l1).rx.spy.running = true
        ∧ (c.get (F.SPY_SPWPTR_PTR .l1) + 1) % (2 ^ c.get (F.SPY_SPDEST_SIZE .l1) / 256) ≠ c.get (F.SPY_SPRPTR_PTR .l1)) := by
  simp only [Chip.TakesWrite, Chip.TakesRead]; decide

/-- Lane 1 with its canceller changed by `f`. -/
def echo (f : Echo → Echo) : State := run1 fun c => c.onEcho .l1 f

/-- The frame of a training pass as the ports send it. -/
def airOf : AirFrame := { frame := { frameOf fcSound with training := 1 }, ports := [1, 2, 3], cuts := [] }

/-- What a pass shows of four inputs, with or without a clip. -/
def lookOf (clip : Bool) : PassLook := { ins := [], dig := [], clip }

/-- Lane 1 with a training frame on the line and its canceller changed by `f`. -/
def trained (f : Echo → Echo) : Chip := (run1 fun c => (c.onEcho .l1 f).onTx .l1 fun t => { t with air := [airOf] }).chip

theorem wit_EchoPassesEndByTheTable :
    (((echo id).chip.lane .l1).echo.kind = 0 ∧ (echo id).chip.trainingFrame .l1 = none ∧ ((echo id).chip.lane .l1).echo.running ≠ 1)
    ∧ (∀ void, let c := trained fun e => { e with running := 3, void }
        let e := (c.lane .l1).echo
        e.kind = 1 ∧ c.trainingFrame .l1 = some airOf ∧ e.void = void
          ∧ ∀ clip, (c.hearPass .l1 airOf e.kind e.kept (.made (lookOf clip))).clip = clip)
    ∧ (∀ before ∈ [3, 6], let c := trained fun e => { e with running := 2, before, req := 0 }
        let e := (c.lane .l1).echo
        e.kind = 2 ∧ c.trainingFrame .l1 = some airOf ∧ e.void = false ∧ e.req = 0 ∧ e.before = before ∧ (c.set (F.AFE_CALSTAT_CALOK .l1) 15).inputUsed .l1 4 = true)
    ∧ (let c := trained fun e => { e with running := 1 }
       (c.lane .l1).echo.running = 1 ∧ c.trainingFrame .l1 = some airOf
        ∧ (c.hearGuard .l1 airOf (.made { delays := [255, 0, 0, 0], words := [(1187, 5), (0, 6)] })).words
          = [(1187, 5)] ++ (0, 6) :: [])
    ∧ (run1 (·.setFlag (F.ECHO_EOVR_HOLD .l1) true)).chip.flag (F.ECHO_EOVR_HOLD .l1) = true
    ∧ (let c := (echo fun e => { e with before := 3, req := 0, since := 0xFFFF }).chip
       (c.lane .l1).echo.before = 3 ∧ (c.lane .l1).echo.running = 0 ∧ (c.lane .l1).echo.req = 0
        ∧ c.get (F.ECHO_ECFG_TRAINIV .l1) ≤ (c.lane .l1).echo.since)
    ∧ (let c := (run1 fun c => (c.set (F.ECHO_ESTAT_AGE .l1) 0xFFFF).onEcho .l1 fun e => { e with before := 3 }).chip
       (c.lane .l1).echo.before = 3 ∧ c.get (F.ECHO_ECFG_AGEMAX .l1) ≤ c.get (F.ECHO_ESTAT_AGE .l1)) := by decide +kernel

theorem wit_EchoCommandsAndBanks :
    let c := (run1 fun c => (((c.set (plock (.echo .l1)) 2).setFlag (F.ECHO_EOVR_HOLD .l1) true).setFlag (F.ECHO_MADDR_BANK .l1) true)).chip
    (c.TakesWrite .pcie (.echo .l1) 0x04C ∧ c.TakesWrite .pcie (.echo .l1) 0x040 ∧ c.TakesWrite .pcie (.echo .l1) 0x418
      ∧ c.TakesRead .pcie (.echo .l1) 0x414 ∧ c.TakesWrite .pcie (.echo .l1) 0x414)
    ∧ (c.lane .l1).echo.before ≠ 0 ∧ ((echo fun e => { e with before := 0 }).chip.lane .l1).echo.before = 0
    ∧ c.flag (F.ECHO_EOVR_HOLD .l1) = true ∧ c.flag (F.ECHO_MADDR_BANK .l1) = true
    ∧ c.flag (pctlEnable (.echo .l1)) = true ∧ (c.setFlag (F.ECHO_ECTL_EN .l1) true).flag (F.ECHO_ECTL_EN .l1) = true := by
  simp only [Chip.TakesWrite, Chip.TakesRead]; decide

/-! The tone-map agent. -/

/-- Lane 1 with one map held by the host at library index 3. -/
def libbed (f : Chip → Chip) : State :=
  peer fun c => f (((c.set (plock (.tmap .l1)) 2).set (F.TMAP_MITSEL_SLOT .l1) 5).onTmap .l1 fun t =>
    { t with lib := [(3, ⟨⟨0, 0, false, []⟩, 0, true, 0⟩)] })

theorem wit_MapSetAndLibraryCommands :
    let c := (libbed id).chip
    (c.TakesWrite .pcie (.tmap .l1) 0x41C ∧ c.peerOf .l1 (c.get (F.TMAP_MITSEL_SLOT .l1)) = true
      ∧ c.setOk .l1 5 (c.mitw .l1) = true ∧ (c.mitw .l1).valid = false)
    ∧ (peer (·.set (F.TMAP_MITSEL_SLOT .l1) 6)).chip.peerOf .l1 6 = false
    ∧ (let d := (libbed (·.set (F.TMAP_MITW_DATA .l1 2) (2 ^ 28 + 2 ^ 24))).chip
       d.TakesWrite .pcie (.tmap .l1) 0x41C ∧ d.setOk .l1 5 (d.mitw .l1) = false)
    ∧ (let d := (libbed fun c => ((c.set (F.TMAP_MITW_DATA .l1 2) (2 ^ 28 + 2 ^ 24)).set (F.TMAP_MITW_DATA .l1 0) 3)).chip
       d.TakesWrite .pcie (.tmap .l1) 0x41C ∧ d.setOk .l1 5 (d.mitw .l1) = true ∧ (d.mitw .l1).valid = true)
    ∧ (c.TakesWrite .pcie (.tmap .l1) 0x404 ∧ NatMap.sorted (c.lib .l1) = true
      ∧ (c.lib .l1).get? 3 = some ⟨⟨0, 0, false, []⟩, 0, true, 0⟩ ∧ (c.lib .l1).get? 1023 = none)
    ∧ c.TakesRead .pcie (.tmap .l1) 0x438 := by
  simp only [Chip.TakesWrite, Chip.TakesRead]; decide

theorem wit_BuildCommandsAnswerAndSend :
    (let c := (peer (·.set (F.TMAP_BRES_STATUS .l1) Status.busy.code)).chip
     c.TakesWrite .pcie (.tmap .l1) 0x054 ∧ c.get (F.TMAP_BRES_STATUS .l1) = Status.busy.code)
    ∧ (let c := (peer id).chip
       c.TakesWrite .pcie (.tmap .l1) 0x054 ∧ c.get (F.TMAP_BRES_STATUS .l1) ≠ Status.busy.code
        ∧ c.flag (pctlEnable (.tmap .l1)) = true ∧ c.peerOf .l1 5 = true ∧ c.peerOf .l1 6 = false)
    ∧ (let c := (peer fun c => c.onTmap .l1 fun t => { t with builds := [{ buildOf with source := 1 }] }).chip
       ((c.lane .l1).tmap.builds.find? fun b => b.source != 0) = some { buildOf with source := 1 })
    ∧ (let c := (peer fun c => c.onTmap .l1 fun t => { t with tmx := [⟨5, 1, 2 ^ 16, 3, false⟩] }).chip
       ((c.lane .l1).tmap.tmx.find? fun x => x.slot == 5) = some ⟨5, 1, 2 ^ 16, 3, false⟩
        ∧ c.get (F.TMAP_TMCFG_REFRESH .l1) ≤ 2 ^ 16) := by
  simp only [Chip.TakesWrite, Chip.TakesRead]; decide

/-- Slot 5 with an MPDU of type `t` and body `b` waiting for device firmware. -/
def mail (t : Nat) (h b : List Byte) (f : Chip → Chip) : State :=
  peer fun c => f (c.onMac fun m => { m with fw := [⟨1, 5, t, h, b⟩] })

/-- A RELAY header with FINAL 9. -/
def relayHead : List Byte := [1, 0, 1, 0, 0, 0, 0, 0, 5, 0, 9, 0, 0, 0, 0, 0]

theorem wit_FirmwareHandlesPeersRequests :
    (∀ t ∈ [0x10, 0x12, 0x13, 0x01, 0x20, 0x21], ((peer id).chip.mac.fw.find? fun m => m.mtype == t) = none)
    ∧ ((((mail 0x10 [] [] id).chip.mac.fw.find? fun m => m.mtype == 0x10) = some ⟨1, 5, 0x10, [], []⟩)
      ∧ ((mail 0x10 [] [] id).chip.mbx.waiting.filter fun p => p.tag == 0xFFFF).length < 64)
    ∧ (let c := (mail 0x12 [] [] fun c => c.onMbx fun x => { x with waiting := List.replicate 64 ⟨0, 0xFFFF, 0x81, 0, 0, []⟩ }).chip
       (c.mac.fw.find? fun m => m.mtype == 0x12) = some ⟨1, 5, 0x12, [], []⟩
        ∧ 64 ≤ (c.mbx.waiting.filter fun p => p.tag == 0xFFFF).length)
    ∧ (let c := (mail 0x13 [] [10, 0, 95] id).chip
       (c.mac.fw.find? fun m => m.mtype == 0x13) = some ⟨1, 5, 0x13, [], [10, 0, 95]⟩ ∧ Lane.ofNum 1 = some .l1
        ∧ c.peerOf .l1 5 = true ∧ (c.nbr 5).proto ≠ 1 ∧ leAt [10, 0, 95] 0 2 = 10)
    ∧ (let c := (mail 0x01 relayHead [7] fun c => (c.onNbr 8191 fun e => { e with st := 1, group := 1, gen := 3 }).onMac fun m =>
          { m with routes := [(9, 8191, 3, 0)] }).chip
       (c.mac.fw.find? fun m => m.mtype == 0x01) = some ⟨1, 5, 0x01, relayHead, [7]⟩
        ∧ c.mac.routes.get? (leAt relayHead 10 2 % 2 ^ 14) = some (8191, 3, 0) ∧ c.assigned 8191 = true ∧ (c.nbr 8191).gen = 3)
    ∧ (let c := (mail 0x01 relayHead [7] id).chip
       (c.mac.fw.find? fun m => m.mtype == 0x01) = some ⟨1, 5, 0x01, relayHead, [7]⟩
        ∧ c.mac.routes.get? (leAt relayHead 10 2 % 2 ^ 14) = none ∧ (5 : Nat) ≠ 0x3FFE ∧ c.assigned 5 = true)
    ∧ (let c := (mail 0x20 [] [8] id).chip
       (c.mac.fw.find? fun m => m.mtype == 0x20) = some ⟨1, 5, 0x20, [], [8]⟩ ∧ c.peerOf .l1 5 = true)
    ∧ (let c := (mail 0x21 [] [8, 4, 0, 0] id).chip
       (c.mac.fw.find? fun m => m.mtype == 0x21) = some ⟨1, 5, 0x21, [], [8, 4, 0, 0]⟩ ∧ c.peerOf .l1 5 = true
        ∧ c.flag (pctlEnable (.tmap .l1)) = true) := by decide

theorem wit_SlotCommandsAnswerInOrder :
    (∀ slot ∈ [0, 8191, 8192], (sys (·.set F.NBR_NARG_SLOT slot)).chip.TakesWrite .pcie .nbr 0x058)
    ∧ (sys (·.set F.NBR_NARG_SLOT 8192)).chip.get F.NBR_NARG_SLOT = 8192
    ∧ (let c := (peer fun c => (c.set F.NBR_NARG_SLOT 5).set F.NBR_NARG_GEN 1).chip
       (c.nbr 5).gen ≠ c.get F.NBR_NARG_GEN ∧ c.TakesWrite .pcie .nbr 0x058)
    ∧ (let c := (peer fun c => (c.set F.NBR_NARG_SLOT 5).set F.NBR_NCPL_CPL 2).chip
       (c.nbr 5).st = 1 ∧ (c.nbr 5).gen = c.get F.NBR_NARG_GEN ∧ c.TakesWrite .pcie .nbr 0x058
        ∧ cplBad (c.get F.NBR_NCPL_CPL) = false)
    ∧ cplBad ((sys id).chip.get F.NBR_NCPL_CPL) = true
    ∧ (let c := (peer fun c => ((c.set F.NBR_NARG_SLOT 8191).set F.NBR_NEUIL_EUI 77).set F.NBR_NARG_GROUP 1).chip
       c.neui ≠ 0 ∧ c.neui ≠ 2 ^ 64 - 1 ∧ c.TakesWrite .pcie .nbr 0x058 ∧ c.assignBar = none)
    ∧ (let c := (peer fun c => ((c.set F.NBR_NARG_SLOT 0).set F.NBR_NEUIL_EUI 77).set F.NBR_NARG_GROUP 1).chip
       c.assignBar = none ∧ c.lowestFree = some 1)
    ∧ (let c := (peer fun c => ((c.set F.NBR_NARG_SLOT 5).set F.NBR_NEUIL_EUI 77).set F.NBR_NARG_GROUP 1).chip
       c.assignBar = some .refused) := by
  simp only [Chip.TakesWrite, Chip.TakesRead]
  decide

theorem wit_NeighbourTablesAreReadAndWritten :
    (let c := (peer fun c => c.onNbr 5 fun e => { e with st := 2, qturns := 17 }).chip
     (c.nbr 5).st = 2 ∧ 17 ≤ (c.nbr 5).qturns)
    ∧ (let c := (sys (·.set (plock .nbr) 2)).chip
       c.TakesWrite .pcie .nbr 0x400 ∧ (5 : Nat) < 2 ^ 14)
    ∧ (let c := (libbed (·.set F.NBR_DMSEL_SLOT 5)).chip
       c.TakesWrite .pcie .nbr 0x080 ∧ (c.nbr 5).st = 1 ∧ c.slotLane 5 = some .l1 ∧ c.setOk .l1 5 (.ofNum 0) = true)
    ∧ (let c := (libbed fun c => (((c.set F.NBR_DMSEL_SLOT 5).set F.NBR_DMSEL_BANK 1).set (F.NBR_DMW_DATA 2) (2 ^ 28 + 2 ^ 24)).set
          (F.NBR_DMW_DATA 0) 3).chip
       let m := MapSet.ofNum (c.get (F.NBR_DMW_DATA 0) + 2 ^ 32 * c.get (F.NBR_DMW_DATA 1) + 2 ^ 64 * c.get (F.NBR_DMW_DATA 2))
       c.TakesWrite .pcie .nbr 0x080 ∧ c.setOk .l1 5 m = true ∧ m.valid = true ∧ c.get F.NBR_DMSEL_BANK = 1)
    ∧ (let c := (libbed fun c => (c.set F.NBR_DMSEL_SLOT 5).set (F.NBR_DMW_DATA 2) (2 ^ 28)).chip
       c.setOk .l1 5 (.ofNum (2 ^ 92)) = false)
    ∧ ((peer (·.set F.NBR_LRSEL_SLOT 5)).chip.TakesRead .pcie .nbr 0x094 ∧ (peer id).chip.laneReach .l1 = true
      ∧ ((peer (·.set (F.SKEJO_LINKSTAT_STATE .l1) 0)).chip).laneReach .l1 = false)
    ∧ (sys id).chip.TakesRead .pcie .mac 0x404
    ∧ (sys (·.set (plock .mac) 2)).chip.TakesWrite .pcie .mac 0x404
    ∧ (sys (·.set (plock .mac) 2)).chip.TakesWrite .pcie .mac 0x408 := by
  simp only [Chip.TakesWrite, Chip.TakesRead]; decide

/-! Mailboxes and doorbells. -/

/-- An accepted request of type `t` with tag 9 and its body at SRAM 0x00F00000. -/
def reqOf (t len : Nat) : Request := { tag := 9, type := t, ptr := 0x00F00000, loc := true, len, answered := false }

/-- Slot 5 assigned, request `q` accepted, and its body from byte 16 on `b`. -/
def asked (q : Request) (b : List Byte) (f : Chip → Chip) : State :=
  let s := peer fun c => f (c.onMbx fun m => { m with requests := [q] })
  { s with mem := s.mem.writeBytes .sram (0x00F00000 + 16) b }

theorem wit_MailboxRequestsAreCheckedAndServed_a :
    ((sys id).chip.TakesWrite .pcie .mbx (0x10C + 16 * 31)
      ∧ (sys (·.setBitAt F.MBX_MBSTAT_H2DBUSY 31 true)).chip.bitAt F.MBX_MBSTAT_H2DBUSY 31 = true
      ∧ (sys (·.setBitAt F.MBX_MBSTAT_H2DBUSY 31 true)).chip.TakesWrite .pcie .mbx (0x10C + 16 * 31))
    ∧ State.reset.chip.hubRuns = false
    ∧ (let c := (sys (·.setBitAt F.MBX_MBSTAT_H2DBUSY 31 true)).chip
       c.hubRuns = true ∧ ∀ m < 32, c.bitAt F.MBX_MBSTAT_H2DBUSY m = decide (m = 31))
    ∧ (sys id).chip.mbx.requests = []
    ∧ (∀ t ∈ [0x01, 0x02, 0x03, 0x04, 0x05, 0x06],
        (asked (reqOf t 16) [] id).chip.hubRuns = true ∧ (asked (reqOf t 16) [] id).chip.request 9 t = some (reqOf t 16))
    ∧ ((asked (reqOf 1 16) [] id).chip.mbx.requests.find? fun q => q.tag == 9 && !q.answered) = some (reqOf 1 16) := by
  simp only [Chip.TakesWrite, Chip.TakesRead]; decide

theorem wit_MailboxRequestsAreCheckedAndServed_b :
    (let s := asked (reqOf 3 24) [9, 0, 5, 0, 0, 0, 1, 0] id
     (⟨s.mem, s.chip, []⟩ : Work).routeEntries (reqOf 3 24) = [(9, 5, 0, 1)] ∧ (s.chip.assigned 5 && (s.chip.nbr 5).gen == 0) = true)
    ∧ (let s := asked (reqOf 3 24) [9, 0, 6, 0, 0, 0, 1, 0] id
       (⟨s.mem, s.chip, []⟩ : Work).routeEntries (reqOf 3 24) = [(9, 6, 0, 1)] ∧ s.chip.assigned 6 = false)
    ∧ (let s := asked (reqOf 4 18) [9, 0] id
       s.chip.mac.routes.get? (leNat ((⟨s.mem, s.chip, []⟩ : Work).reqBytes (reqOf 4 18) 16 2)) = none)
    ∧ (let s := asked (reqOf 5 28) [77, 0, 0, 0, 0, 0, 0, 0, 5, 0, 0, 1] fun c => c.onMac fun m => { m with joins := [(77, 1)] }
       let b := (⟨s.mem, s.chip, []⟩ : Work).reqBytes (reqOf 5 28) 16 12
       (leAt b 11 1).testBit 0 = true ∧ leAt b 0 8 = 77 ∧ leAt b 8 2 = 5 ∧ s.chip.assigned 5 = true
        ∧ (s.chip.nbr 5).gen = leAt b 10 1 ∧ ∃ j ∈ s.chip.mac.joins, j.1 = 77)
    ∧ (let s := asked (reqOf 5 28) [77, 0, 0, 0, 0, 0, 0, 0, 6, 0, 0, 1] id
       let b := (⟨s.mem, s.chip, []⟩ : Work).reqBytes (reqOf 5 28) 16 12
       (leAt b 11 1).testBit 0 = true ∧ leAt b 8 2 = 6 ∧ s.chip.assigned 6 = false ∧ s.chip.mac.joins = [])
    ∧ (let s := asked (reqOf 5 28) [77, 0, 0, 0, 0, 0, 0, 0, 6, 0, 0, 0] id
       (leAt ((⟨s.mem, s.chip, []⟩ : Work).reqBytes (reqOf 5 28) 16 12) 11 1).testBit 0 = false)
    ∧ (let w : Work := ⟨(asked (reqOf 2 20) [7] id).mem, (asked (reqOf 2 20) [7] id).chip, []⟩
       leNat (w.reqBytes (reqOf 2 20) 16 4) = 7)
    ∧ (let w : Work := ⟨(asked (reqOf 2 20) [8] id).mem, (asked (reqOf 2 20) [8] id).chip, []⟩
       leNat (w.reqBytes (reqOf 2 20) 16 4) = 8) := by decide +kernel

theorem wit_RepliesAndDoorbells :
    (sys id).chip.mbx.waiting = []
    ∧ (let c := (sys fun c => (c.set F.MBX_D2HBASE_BASE 0x00F00001).onMbx fun m => { m with waiting := [⟨0, 9, 1, 0, 0, []⟩] }).chip
       c.mbx.waiting = [⟨0, 9, 1, 0, 0, []⟩] ∧ c.bitAt F.MBX_D2HFULL_FULL 31 = false ∧ c.mbx.err = false ∧ c.mbx.stopped = false
        ∧ c.hubRuns = true ∧ c.get F.MBX_D2HBASE_BASE / 1024 * 1024 + 32 * 31 + 32 ≤ (locSpace true).top)
    ∧ (let c := (sys fun c => (c.setBitAt F.MBX_D2HFULL_FULL 31 true).onMbx fun m =>
          { m with full := [(31, 9)], requests := [{ reqOf 1 16 with answered := true }] }).chip
       c.TakesWrite .pcie .mbx 0x06C ∧ c.bitAt F.MBX_D2HFULL_FULL 31 = true ∧ c.mbx.full.get? 31 = some 9
        ∧ (2 ^ 31).testBit 31 = true)
    ∧ (∀ h ∈ [0x040, 0x044, 0x050, 0x054], (sys id).chip.TakesWrite .pcie .mbx h)
    ∧ (let c := (sys fun c => { c with power := .standby }.set F.MBX_H2DWAKEH_WAKE (2 ^ 31)).chip
       c.TakesWrite .pcie .mbx 0x044 ∧ c.power = .standby ∧ (2 ^ 31 % 2 ^ 32) &&& c.get F.MBX_H2DWAKEH_WAKE ≠ 0)
    ∧ (sys id).chip.hubRuns = true ∧ (63 : Nat) < 64 := by
  simp only [Chip.TakesWrite, Chip.TakesRead]; decide

/-! The time base. -/

theorem wit_ReferencesMoveTheTimeBase :
    (let c := (sys fun c => c.set F.TIME_TCFG_SRC 1).chip
     c.get F.TIME_TCFG_SRC = 1 ∧ c.get F.TIME_TSTAT_STATE = 0 ∧ c.flag F.TIME_TCFG_PPSPOL = false
      ∧ (c.advanceTo 0).edgeInWindow = true ∧ (c.advanceTo 0).time.quals + 1 ≠ c.get F.TIME_LOOPCFG_QUAL ∧ c.time.misses = 0)
    ∧ (let c := (sys fun c => (c.set F.TIME_TCFG_SRC 1).onTime fun t => { t with quals := 3, lastEdge := some 0 }).chip
       (c.advanceTo 0).edgeInWindow = false)
    ∧ (let c := (sys fun c => (c.set F.TIME_TCFG_SRC 1).onTime fun t => { t with quals := c.get F.TIME_LOOPCFG_QUAL - 1, misses := 1 }).chip
       (c.advanceTo 0).edgeInWindow = true ∧ (c.advanceTo 0).time.quals + 1 = c.get F.TIME_LOOPCFG_QUAL ∧ 1 ≤ c.time.misses)
    ∧ (let c := (sys fun c => (c.set F.TIME_TCFG_SRC 1).set F.TIME_TSTAT_STATE 1).chip
       c.get F.TIME_TSTAT_STATE = 1 ∧ (toWholeSecond (c.advanceTo 0).edgeScale).natAbs ≤ 100 * c.get F.TIME_LOOPCFG_PPSWIN * nsUnits)
    ∧ (let c := (sys fun c => ((c.set F.TIME_TCFG_SRC 1).set F.TIME_TSTAT_STATE 1).onTime fun t => { t with scale := secUnits / 2 }).chip
       ¬ (toWholeSecond (c.advanceTo 0).edgeScale).natAbs ≤ 100 * c.get F.TIME_LOOPCFG_PPSWIN * nsUnits)
    ∧ (let c := (sys fun c => ((c.set F.TIME_TCFG_SRC 2).set F.TIME_TSTAT_STATE 2)).chip
       c.TakesWrite .pcie .time 0x088 ∧ c.get F.TIME_TCFG_SRC = 2 ∧ c.get F.TIME_TSTAT_STATE = 2
        ∧ (c.getInt F.TIME_STEERPH_NS * (nsUnits : Int)).natAbs < 10 ^ 6 * nsUnits)
    ∧ (let c := (sys fun c => ((c.set F.TIME_TCFG_SRC 2).set F.TIME_TSTAT_STATE 2).set F.TIME_STEERPH_NS 1000000).chip
       10 ^ 6 * nsUnits ≤ (c.getInt F.TIME_STEERPH_NS * (nsUnits : Int)).natAbs)
    ∧ (let c := (sys (·.set F.TIME_TSETTICK_TICK (tickHz + 1))).chip
       c.TakesWrite .pcie .time 0x088 ∧ c.tick + tickHz < c.get F.TIME_TSETTICK_TICK)
    ∧ (let c := (sys (·.set F.TIME_TSETTICK_TICK tickHz)).chip
       ¬(c.get F.TIME_TSETTICK_TICK < c.tick + 1 ∨ c.tick + tickHz < c.get F.TIME_TSETTICK_TICK) ∧ c.get F.TIME_TCFG_SRC ≠ 1)
    ∧ (let c := (sys fun c => ((c.set F.TIME_TSETTICK_TICK tickHz).set F.TIME_TCFG_SRC 1).set F.TIME_TSTAT_STATE 3).chip
       c.get F.TIME_TSTAT_STATE = 3 ∧ c.get F.TIME_TCFG_SRC = 1 ∧ c.time.slew.natAbs ≤ 50 * nsUnits)
    ∧ (∀ src ∈ [1, 2], ∀ misses ∈ [0, 1], let c := (sys fun c => (c.set F.TIME_TCFG_SRC src).onTime fun t => { t with lastEdge := some 7, misses }).chip
       c.get F.TIME_TCFG_SRC = src ∧ c.time.lastEdge = some 7 ∧ c.time.misses = misses)
    ∧ (let c := (sys (·.set F.TIME_TCFG_SRC 1)).chip
       c.time.lastEdge = none ∧ c.get F.TIME_TCFG_SRC ≠ 2)
    ∧ (sys id).chip.TakesWrite .pcie .time 0x040 := by
  simp only [Chip.TakesWrite, Chip.TakesRead]; decide

theorem wit_StepsPulsesAndStamps :
    (sys id).chip.time.step = none
    ∧ (sys fun c => c.onTime fun t => { t with step := some (.atTick 100 (secUnits - 1)) }).chip.time.step = some (.atTick 100 (secUnits - 1))
    ∧ (sys fun c => c.onTime fun t => { t with step := some (.atSecond (-5)) }).chip.time.step = some (.atSecond (-5))
    ∧ (sys (·.set F.TIME_TSTAT_STATE 1)).chip.get F.TIME_TSTAT_STATE = 1
    ∧ (let c := (sys fun c => ((c.setFlag F.TIME_TPCFG_EN true).set F.TIME_TSTAT_STATE 1).onTime fun t => { t with tpFreq := 2 }).chip
       c.flag F.TIME_TPCFG_EN = true ∧ 1 < c.time.tpFreq ∧ c.get F.TIME_TSTAT_STATE ≠ 0)
    ∧ (let c := (sys (·.set F.TIME_TCFG_EVTEDGE 2)).chip
       (evtSelected (c.get F.TIME_TCFG_EVTEDGE) false = true ∨ evtSelected (c.get F.TIME_TCFG_EVTEDGE) true = true)
        ∧ (c.advanceTo 0).time.events.length < 16)
    ∧ (let c := (sys fun c => c.onTime fun t => { t with events := List.replicate 16 ⟨1, 2, 3, false⟩ }).chip
       16 ≤ (c.advanceTo 0).time.events.length)
    ∧ ((sys id).chip.TakesRead .pcie .time 0x0B0 ∧ (sys id).chip.TakesRead .pcie .time 0x048) := by
  simp only [Chip.TakesWrite, Chip.TakesRead]; decide

/-! The slip buffer, wake windows and the measurement front end. -/

/-- A slip entry of slot 5 last used in turn 0. -/
def slipOf : SlipEntry := { slot := 5, gen := 0, epl := 0, tmv := 0, rate := 0, bt := 1, order := 0, cnt := 1, miss := 0, uturn := 0, metrics := [] }

theorem wit_SlipEntriesAgeAndAreFlushed :
    (let c := (run1 fun c => (c.set (F.WHEEL_TURN_TURN .l1) 1000).onSlip .l1 fun x => { x with entries := [slipOf] }).chip
     slipOf ∈ c.slipEntries .l1 ∧ c.get (F.SLIP_SLCFG_AGE .l1) < (c.turn .l1 + 2 ^ 32 - slipOf.uturn) % 2 ^ 32
      ∧ turnBefore (c.turn .l1) slipOf.uturn = false)
    ∧ (let c := (run1 (·.set (F.SLIP_SLRES_STATUS .l1) Status.busy.code)).chip
       c.TakesWrite .pcie (.slip .l1) 0x060 ∧ c.get (F.SLIP_SLRES_STATUS .l1) = Status.busy.code)
    ∧ ((run1 id).chip.TakesWrite .pcie (.slip .l1) 0x060 ∧ (run1 id).chip.get (F.SLIP_SLRES_STATUS .l1) ≠ Status.busy.code
      ∧ ((run1 id).chip.lane .l1).rx.dec.busy = []) := by
  simp only [Chip.TakesWrite, Chip.TakesRead]; decide

/-- A WAKE frame control from slot 5. -/
def fcWake : Fc := { fcData with body := .wake false 0 0 0 }

theorem wit_WakeWindowsAndRequests :
    (let c := (peer fun c => c.onNbr 5 fun e => { e with sleep := true, wmiss := 0xFFFF }).chip
     (5 : Nat) ≠ 0 ∧ (c.nbr 5).st = 1 ∧ (c.nbr 5).sleep = true ∧ c.get F.WHEEL_WAKECFG_WMISS ≤ (c.nbr 5).wmiss + 1)
    ∧ (sys id).chip.rxNow .l1 = none
    ∧ ((recv (rxOf (.frame fcData))).chip.rxNow .l1 = some (rxOf (.frame fcData))
      ∧ ∀ fc x y z w, (rxOf (.frame fcData)).kind = .frame fc → fc.body ≠ .wake x y z w)
    ∧ (let r := rxOf (.frame fcWake)
       let c := (peer fun c => ((c.onRx .l1 fun x => { x with rx := some r }).onWheel fun w => { w with windows := [5] }).onNbr 5 fun e =>
          { e with sleep := true, tref := 20000 }).chip
       c.rxNow .l1 = some r ∧ r.kind = .frame fcWake ∧ fcWake.body = .wake false 0 0 0 ∧ fcWake.stid ∈ c.wheel.windows
        ∧ (c.nbr fcWake.stid).sleep = true ∧ (c.wakeWindow (c.nbr fcWake.stid)).1 ≤ r.tp
        ∧ (r.tp : Int) ≤ (c.wakeWindow (c.nbr fcWake.stid)).2) := by
  refine ⟨by decide, by decide, ⟨by decide, ?_⟩, by decide⟩
  intro fc x y z w h
  cases h
  exact nofun

/-- Lane 1 loaded, its measurement chain changed by `f`. -/
def meas (f : Meas → Meas) : State := run1 fun c => c.onMeas .l1 f

theorem wit_MeasurementSamplesAndMarks :
    ((sys id).chip.laneRuns .l1 ≠ true ∧ (run1 id).chip.laneRuns .l1 = true)
    ∧ ((run1 (·.setFlag (F.MEAS_MCFG_PINBLANK .l1) true)).chip.flag (F.MEAS_MCFG_PINBLANK .l1) = true)
    ∧ ((run1 (·.setFlag (F.MEAS_MCFG_TXBLANK .l1) true)).chip.flag (F.MEAS_MCFG_TXBLANK .l1) = true)
    ∧ (((meas fun m => { m with blanked := true }).chip.meas.get .l1).blanked = true
      ∧ ((meas fun m => { m with blanked := true }).chip.meas.get .l1).blankPin = (run1 id).chip.flag (F.MEAS_MCFG_BLKPOL .l1))
    ∧ (((meas id).chip.meas.get .l1).blanked = false ∧ (meas id).chip.blankCause .l1 = false)
    ∧ (run1 id).chip.TakesWrite .pcie (.meas .l1) 0x040
    ∧ (let c := (meas id).chip
       c.flag (F.MEAS_GLOST_PRIME .l1 5) = true)
    ∧ (let c := (run1 fun c => ((c.setFlag (F.MEAS_GLOST_PRIME .l1 3) false).set (F.MEAS_MCFG_DCCORN .l1) 0).setBitAt
          (F.LINEAR_LINOVR_RAW .l1) 3 true).chip
       c.laneRuns .l1 = true ∧ c.flag (F.MEAS_GLOST_PRIME .l1 3) = false ∧ c.get (F.MEAS_MCFG_DCCORN .l1) = 0
        ∧ c.bitAt (F.LINEAR_LINOVR_RAW .l1) 3 = true)
    ∧ (let k : MeasChan := (((meas id).chip.meas.get .l1).chan 3)
       (runStages 2 (3 + 1) 1 (sincOut (([5].reverse ++ k.mods).take 190)) k.stages).2.isSome = true
        ∧ (runStages 2 (0 + 1) 1 (sincOut (([5].reverse ++ k.mods).take 190)) k.stages).2 = none
        ∧ (sincOut ((([5].reverse ++ k.mods).take 190))).2 = false)
    ∧ (∀ mk, let c := (meas fun m => { m with ph1 := { m.ph1 with found := some (0, -1, 0, mk) } }).chip
        c.laneRuns .l1 = true ∧ ((c.meas.get .l1).phase .p1).found = some (0, -1, 0, mk) ∧ .p1 = c.refPhase .l1)
    ∧ (((meas id).chip.meas.get .l1).phase .p1).found = none
    ∧ (run1 (·.set (plock (.linear .l1)) 2)).chip.TakesRead .pcie (.linear .l1) 0x404 := by
  simp only [Chip.TakesWrite, Chip.TakesRead]; decide

/-! Boot. -/

/-- A trailer whose Ferzalan block signs the digest of 512 zero bytes (r = s = the digest, so that both factors are 1), and an
empty OEM block. -/
def signedTrailer : List Byte :=
  let r := 0x76A27C79E5ACE2A3D47F9DD2E83E4FF6EA8872B3C2218F66C92B89B55F36560
  beBytes 32 r ++ beBytes 32 r ++ beBytes 32 0xA3B8236A7216038BC26B7AE14C618516E0CFA05010B4546FAA306AD870A9CCA3
    ++ beBytes 32 0xA26462C22F1ABABFE1CDF723E9393B21239A2646F841C06637B8E99F7DEF544A ++ List.replicate 128 0

/-- The fused hash of its key, in three copies, CRC-8 included. -/
def keyFuses : NatMap FuseWord :=
  let ws := [0xB24EFB02, 0x4541190A, 0x9361B186, 0x8DBD1621, 0x6B179E66, 0x0ED9D293, 0x7D9C1D4B, 0xF202EB1A, 0xF0]
  (ws ++ ws ++ ws).zipIdx.map fun e => (12 + e.2, ⟨e.1, e.1, e.1⟩)

/-- The ROM at CHECK with that image copied. -/
def checking (f : Chip → Chip) : State :=
  sys fun c => f ((c.onFuses fun x => { x with latched := keyFuses }).onBoot fun b =>
    { b with rom := .check, trailer := signedTrailer, queue := some [] })

theorem wit_signature : (checking id).chip.signCode (checking id).mem.digest signedTrailer = none := by decide +kernel

/-- A container header with three sections of 16 bytes. -/
def headerOf : List Byte :=
  leBytes 4 0x58525349 ++ [1, 7, 0, 0] ++ leBytes 4 1 ++ leBytes 4 816 ++ [3] ++ List.replicate 47 0
    ++ [1, 0, 0, 0] ++ leBytes 4 16 ++ leBytes 4 0x1000 ++ leBytes 4 0
    ++ [2, 0, 0, 0] ++ leBytes 4 16 ++ leBytes 4 0x2000 ++ leBytes 4 0
    ++ [3, 0, 0, 0] ++ leBytes 4 16 ++ leBytes 4 0x3000 ++ leBytes 4 0 ++ List.replicate 400 0

/-- A GX880 in RECOVERY of its ROM. -/
def recovering (f : Chip → Chip) : State := sys fun c => f (c.set F.BOOT_BSTAT_STAGE 1)

/-- The bytes `bs` listed from address `a` up. -/
def listed (a : Nat) : List Byte → Mem
  | [] => []
  | b :: bs => (a, b) :: listed (a + 1) bs

theorem get_listed (b : Byte) (rest : Mem) (a : Nat) : ∀ pre : Mem, (∀ e ∈ pre, e.1 < a) →
    NatMap.get? (pre ++ (a, b) :: rest) a = some b
  | [], _ => by simp [NatMap.get?]
  | e :: pre, h => by
    have he : e.1 ≠ a := Nat.ne_of_lt (h e (by simp))
    simp [NatMap.get?, he, get_listed b rest a pre fun x hx => h x (by simp [hx])]

theorem readBytes_listed (d : Byte) : ∀ (bs : List Byte) (a : Nat) (pre : Mem), (∀ e ∈ pre, e.1 < a) →
    Mem.readBytes d (pre ++ listed a bs) a bs.length = bs
  | [], _, _, _ => rfl
  | b :: bs, a, pre, h => by
    have ih := readBytes_listed d bs (a + 1) (pre ++ [(a, b)]) (by
      intro e he
      rcases List.mem_append.mp he with he | he
      · exact Nat.lt_succ_of_lt (h e he)
      · simp at he; simp [he])
    simp [Mem.readBytes, Mem.read, NatMap.getD, listed, get_listed b _ a pre h] at ih ⊢
    exact ih

/-- That header in flash, in slot B, which the ROM selects. -/
def headerInFlash : State :=
  { sys (fun c => c.onBoot fun b => { b with rom := .select, romDue := false, queue := some [1] }) with
    mem := { sram := [], host := [], flash := listed (slotAt 1) headerOf } }

theorem wit_header : headerInFlash.chip.boot.rom = .select
    ∧ headerInFlash.chip.headerCode (headerInFlash.mem.readBytes .flash (slotAt 1) 512) = none := by
  have h : headerInFlash.mem.readBytes .flash (slotAt 1) 512 = headerOf := readBytes_listed 0xFF headerOf (slotAt 1) [] (by simp)
  rw [h]
  decide +kernel

theorem wit_header_wf : headerInFlash.mem.wf = true := by decide +kernel

/-- A container in RAM: that header, three sections of bytes 3, and a trailer whose Ferzalan block signs their digest, as above. -/
def ramImage : List Byte :=
  let r := 0xD063436E17852A48589D0F4E032990CC79E427127DC4484B4389A5BEE2F2CCD7
  headerOf ++ List.replicate 48 3 ++ beBytes 32 r ++ beBytes 32 r
    ++ beBytes 32 0xBEBCE3566B94235584085B15EB45F617D7023D54F7957169D9A8C95B3A3A2D74
    ++ beBytes 32 0x17BEA22181AA34DBBCB483B10E5C343C25E6FDC93722A99B4C15F0C0606A5148 ++ List.replicate 128 0

/-- The fused hash of its key, in three copies, CRC-8 included. -/
def ramFuses : NatMap FuseWord :=
  let ws := [0xFF39784F, 0x6862DA4C, 0x7359A3E9, 0xBA868448, 0x1979C6E0, 0x34BBD2BB, 0xFF3A94C6, 0x880C6762, 0x5C]
  (ws ++ ws ++ ws).zipIdx.map fun e => (12 + e.2, ⟨e.1, e.1, e.1⟩)

/-- A GX880 in RECOVERY with that container placed. -/
def placed : State :=
  { recovering (fun c => c.onFuses fun x => { x with latched := ramFuses }) with
    mem := { sram := listed 0x00400000 ramImage, host := [], flash := [] } }

theorem placed_header : placed.mem.readBytes .sram 0x00400000 512 = headerOf := by
  have h : placed.mem.readBytes .sram 0x00400000 816 = ramImage := readBytes_listed _ ramImage 0x00400000 [] (by simp)
  have k := Mem.readBytes_sub Space.sram.unlisted placed.mem.sram 0x00400000 816 0 512 (by decide)
  simp only [Mems.readBytes, Mems.of] at h k ⊢
  rw [h] at k
  exact k.trans (by decide +kernel)

theorem placed_rest (k n : Nat) (h : k + n ≤ 816) :
    placed.mem.readBytes .sram (0x00400000 + k) n = (ramImage.drop k).take n := by
  have e : placed.mem.readBytes .sram 0x00400000 816 = ramImage := readBytes_listed _ ramImage 0x00400000 [] (by simp)
  simp only [Mems.readBytes, Mems.of] at e ⊢
  rw [Mem.readBytes_sub _ _ _ 816 k n h, e]

/-- What the ROM of that part signs: the container's header and sections, as its copy stands in RAM. -/
theorem placed_digest : (Work.copyImage ⟨placed.mem, placed.chip, []⟩ .sram 0x00400000).now.digest
    = sha256 (headerOf ++ List.replicate 48 3) := by
  have sec : sectionsOf headerOf = [(1, 16, 0x1000), (2, 16, 0x2000), (3, 16, 0x3000)] := by decide +kernel
  have hl : headerOf.length = 512 := by decide +kernel
  have part (k : Nat) (h : k ∈ [512, 528, 544]) : placed.mem.readBytes .sram (0x00400000 + k) 16 = List.replicate 16 3 := by
    rw [placed_rest k 16 (by simp at h; omega)]
    revert h; revert k; decide +kernel
  have p1 := part 512 (by simp)
  have p2 := part 528 (by simp)
  have p3 := part 544 (by simp)
  simp only [Nat.reduceAdd] at p1 p2 p3
  have same (m : Mems) (a : Nat) (h : a + 16 ≤ 2 ^ 24) :
      (m.apply (.bytes .sram a (List.replicate 16 3))).readBytes .sram a 16 = List.replicate 16 3 :=
    Mems.readBytes_apply_same m .sram a (List.replicate 16 3) h
  have other (m : Mems) (a : Nat) (bs : List Byte) (x n : Nat) (h : x + n ≤ a ∨ a + bs.length ≤ x) :=
    Mems.readBytes_apply_other m .sram a bs x n h
  have head (m : Mems) : (m.apply (.bytes .sram 0x003FFE00 headerOf)).readBytes .sram 0x003FFE00 512 = headerOf := by
    have := Mems.readBytes_apply_same m .sram 0x003FFE00 headerOf (by rw [hl]; decide)
    rwa [hl] at this
  simp (disch := simp [hl]) only [Work.copyImage, Work.readBytes, Work.write, Work.now, Mems.applyAll, List.foldl_nil, List.nil_append,
    placed_header, sec, List.foldl_cons, List.cons_append, Mems.digest, other, p1, p2, p3, Nat.reduceAdd, same, head,
    List.flatMap_cons, List.flatMap_nil, List.append_nil]
  rfl

theorem wit_recoveryGo :
    placed.chip.TakesWrite .pcie .boot 0x074 ∧ placed.chip.get F.BOOT_BSTAT_STAGE = 1
    ∧ placed.chip.headerCode (placed.mem.readBytes .sram 0x00400000 512) = none
    ∧ leAt (placed.mem.readBytes .sram 0x00400000 512) 12 4 = 816
    ∧ placed.chip.signCode ((Work.copyImage ⟨placed.mem, placed.chip, []⟩ .sram 0x00400000).now.digest)
        (placed.mem.readBytes .sram (0x00400000 + 816 - 256) 256) = none := by
  have t : placed.mem.readBytes .sram (0x00400000 + 816 - 256) 256 = (ramImage.drop 560).take 256 := placed_rest 560 256 (by decide)
  rw [placed_header, placed_digest, t]
  simp only [Chip.TakesWrite, Chip.TakesRead]; decide +kernel

theorem wit_RomBootsOrRecovers :
    (State.reset.chip.stopped = true ∨ State.reset.chip.power = .reset ∨ State.reset.chip.power = .standby
      ∨ ((sys fun c => c.onBoot fun b => { b with rom := .run, romDue := false }).chip.boot.rom ≠ .select))
    ∧ (let c := (sys fun c => c.onBoot fun b => { b with rom := .select, romDue := false, queue := some [1] }).chip
       ¬(c.stopped = true ∨ c.power = .reset ∨ c.power = .standby) ∧ c.boot.rom = .select ∧ c.boot.romDue = false
        ∧ c.boot.queue = some [1] ∧ c.boot.activating = none)
    ∧ (sys id).chip.headerCode ((sys id).mem.readBytes .flash (slotAt 1) 512) = some 1
    ∧ (let c := (sys fun c => c.onBoot fun b => { b with rom := .copy }).chip
       c.boot.rom = .copy ∧ c.stopped = false)
    ∧ ((checking id).chip.boot.rom = .check ∧ (checking id).chip.stopped = false ∧ (checking id).chip.boot.queue = some []
      ∧ (checking id).chip.boot.activating = none ∧ (if true then some 9 else none) = some 9)
    ∧ ((recovering id).chip.TakesWrite .pcie .boot 0x074 ∧ (recovering id).chip.get F.BOOT_BSTAT_STAGE = 1
      ∧ (recovering id).chip.headerCode ((recovering id).mem.readBytes .sram 0x00400000 512) = some 1
      ∧ (sys id).chip.TakesWrite .pcie .boot 0x074 ∧ (sys id).chip.get F.BOOT_BSTAT_STAGE ≠ 1)
    ∧ (let c := (sys (·.setBitAt F.HEALTH_HSTAT_LANEFAIL 1 false)).chip
       c.hubRuns = true ∧ c.laneReach .l1 = true ∧ c.bitAt F.HEALTH_HSTAT_LANEFAIL Lane.l1.idx = false)
    ∧ (let c := (sys (·.set (F.LSYS_LSTAT_STATE .l1) 1)).chip
       c.hubRuns = true ∧ c.fitted .l1 = true ∧ c.get (F.LSYS_LSTAT_STATE .l1) = 1 ∧ c.laneReach .l1 = true
        ∧ (c.health.reloadFails.getD Lane.l1.num []).filter (fun t => c.tick < t + 600 * tickHz) = [])
    ∧ (let c := (sys fun c => (c.set (F.LSYS_LSTAT_STATE .l1) 1).onHealth fun h => { h with reloadFails := [(1, [0])] }).chip
       (c.health.reloadFails.getD Lane.l1.num []).filter (fun t => c.tick < t + 600 * tickHz) ≠ []) := by
  simp only [Chip.TakesWrite, Chip.TakesRead]; decide +kernel

/-- Request `q` with body `b`, and a boot header whose slots A and B stand at `sta` and `stb`, A active. -/
def slots (sta stb : Nat) (q : Request) (b : List Byte) (f : Chip → Chip) : State :=
  let bs := leBytes 4 0x52444842 ++ leBytes 4 1 ++ [0] ++ leBytes 1 sta ++ leBytes 1 stb ++ [0] ++ leBytes 8 0
  let s := asked q b f
  { s with mem := s.mem.writeBytes .flash 0 (bs ++ leBytes 4 (bytesCrc bs)) }

theorem wit_UpdateServicesAndGreenware_a :
    (sys id).chip.mbx.requests = []
    ∧ (∀ t ∈ [0x07, 0x08, 0x09],
        let c := (sys fun c => c.onMbx fun m => { m with requests := [{ reqOf 7 16 with tag := 3 }, reqOf t 16] }).chip
        c.hubRuns = true ∧ c.updateBusy (reqOf t 16) = true ∧ c.request 9 t = some (reqOf t 16))
    ∧ (let s := asked (reqOf 7 4096) [0, 0, 1, 0, 1, 0, 0, 0] id
       let w : Work := ⟨s.mem, s.chip, []⟩
       s.chip.hubRuns = true ∧ s.chip.updateBusy (reqOf 7 4096) = false ∧ s.chip.request 9 7 = some (reqOf 7 4096)
        ∧ w.hdrNow.slotSt w.hdrNow.active ≠ 2 ∧ w.hdrNow.active = 0
        ∧ leAt (w.reqBytes (reqOf 7 4096) 16 8) 0 4 = 0x10000 ∧ leAt (w.reqBytes (reqOf 7 4096) 16 8) 4 4 = 1)
    ∧ (let s := asked (reqOf 7 4096) [0, 0, 0x60, 0, 1, 0, 0, 0] id
       let w : Work := ⟨s.mem, s.chip, []⟩
       0x600000 < leAt (w.reqBytes (reqOf 7 4096) 16 8) 0 4 + leAt (w.reqBytes (reqOf 7 4096) 16 8) 4 4)
    ∧ (let s := asked (reqOf 8 4096) [1] id
       let w : Work := ⟨s.mem, s.chip, []⟩
       s.chip.hubRuns = true ∧ s.chip.updateBusy (reqOf 8 4096) = false ∧ s.chip.request 9 8 = some (reqOf 8 4096)
        ∧ leNat (w.reqBytes (reqOf 8 4096) 16 1) = 1
        ∧ s.chip.headerCode (s.mem.readBytes .flash (slotAt 1) 512) = some 1) := by decide +kernel

theorem wit_UpdateServicesAndGreenware_b :
    (let s := slots 4 1 (reqOf 9 4096) [1] id
     let w : Work := ⟨s.mem, s.chip, []⟩
     let h := w.hdrNow
     s.chip.hubRuns = true ∧ s.chip.updateBusy (reqOf 9 4096) = false ∧ s.chip.request 9 9 = some (reqOf 9 4096)
      ∧ leNat (w.reqBytes (reqOf 9 4096) 16 1) = 1 ∧ h.active = 0
      ∧ ¬((1 : Nat) = h.active ∨ h.slotSt 1 = 0 ∨ h.slotSt 1 = 4 ∨ h.slotSt h.active = 2)
      ∧ s.chip.wheel.next.isSome = false ∧ s.chip.wheel.active.isSome = false)
    ∧ (let s := slots 4 1 (reqOf 9 4096) [0] id
       let w : Work := ⟨s.mem, s.chip, []⟩
       leNat (w.reqBytes (reqOf 9 4096) 16 1) = w.hdrNow.active)
    ∧ (slots 4 1 (reqOf 9 4096) [1] fun c => c.onWheel fun w => { w with next := some chg }).chip.wheel.next.isSome = true
    ∧ (let c := (sys fun c => ((c.setFlag F.BOOT_GCFG_HOSTOK true).setFlag F.BOOT_BSTAT_GREEN true).onBoot fun b => { b with greenEnd := 1 }).chip
       c.TakesWrite .core0 .boot 0x060 ∧ 0x0000F1ED % 2 ^ 32 = 0x0000F1ED ∧ c.flag F.BOOT_BSTAT_GREEN = true
        ∧ c.boot.greenExpired = false ∧ c.tick < c.boot.greenEnd ∧ c.flag F.BOOT_GCFG_HOSTOK = true ∧ c.power ≠ .reset
        ∧ c.hubRuns = true)
    ∧ ((sys id).chip.TakesWrite .core0 .boot 0x060 ∧ (sys id).chip.flag F.BOOT_BSTAT_GREEN = false)
    ∧ (let c := (sys fun c => (c.setFlag F.BOOT_BSTAT_GREEN true).onBoot fun b => { b with greenExpired := true }).chip
       c.boot.greenExpired = true ∧ c.boot.fallbackBegun = false ∧ c.flag F.BOOT_BSTAT_GREEN = true ∧ c.power = .active
        ∧ c.stopped = false) := by
  simp only [Chip.TakesWrite, Chip.TakesRead]; decide +kernel

theorem wit_FusesRouterAndPcieEvents :
    ((sys id).chip.TakesWrite .pcie .fuse 0x050 ∧ (sys id).chip.fuses.running = none)
    ∧ (sys fun c => c.onFuses fun f => { f with running := some 7 }).chip.fuses.running = some 7
    ∧ (sys id).chip.TakesRead .pcie .fuse 0x048 ∧ (sys id).chip.TakesRead .pcie .evt 0x044
    ∧ (sys (·.set F.EVT_RTSEL_SOURCE 287)).chip.TakesWrite .pcie .evt 0x044
    ∧ (sys (·.set F.EVT_RTSEL_SOURCE 287)).chip.get F.EVT_RTSEL_SOURCE = 287
    ∧ (let c := (sys fun c => c.onPcie fun p => { p with pending := 2 ^ 31 }).chip
       c.pcie.pending.testBit 31 = true ∧ (c.msixControl 31).testBit 0 = true)
    ∧ (let c := (sys fun c => c.onPcie fun p => { p with pending := 2 ^ 31, table := [(4 * 31 + 3, 0)] }).chip
       c.pcie.pending.testBit 31 = true ∧ (c.msixControl 31).testBit 0 = false) := by
  simp only [Chip.TakesWrite, Chip.TakesRead]; decide

/-- The frame control of a wake request from slot 5, as a peer of network `k` sends it. -/
def fcRequest (k : Nat) : Fc := { g6 := false, snid := k, bp := 0, epl := 0, stid := 5, dtid := 0, body := .wake true 0 0 0 }

theorem fcOf_request : ∀ k < 256, fcOf (6 + 16 * k + 2 ^ 16 * 5 + 2 ^ 44) = some (fcRequest k) := by decide +kernel

/-- Lane 1 with a preamble detected while slot 5, a sleeper, may wake. -/
def waking : State :=
  run1 fun c => ((c.onRx .l1 fun x => { x with rx := some (rxOf .detected) }).onNbr 5 fun e => { e with st := 1, group := 1 }).onWheel
    fun w => { w with windows := [5] }

theorem wit_DetectionsAndFrameControl_accept :
    let w := 6 + 16 * ownSnid + 2 ^ 16 * 5 + 2 ^ 44
    let c := waking.chip.advanceTo (rxOf .detected).tend
    let h : Heard FcGot := .made ⟨w, crc24 (lsbFirst 128 w), []⟩
    waking.chip.rxNow .l1 = some (rxOf .detected) ∧ (rxOf .detected).kind = .detected
      ∧ c.fcFate .l1 ((rxOf .detected).keep h.samples) none (c.hearFc .l1 (rxOf .detected) h).w (c.hearFc .l1 (rxOf .detected) h).crc
          = (.accept, some (fcRequest ownSnid)) := by
  refine ⟨by decide, by decide, ?_⟩
  have e := fcOf_request ownSnid (Nat.mod_lt _ (by decide))
  generalize hk : ownSnid = k at e
  have l : ((waking.chip.advanceTo (rxOf .detected).tend).laneFate .l1 (rxOf .detected) none (fcRequest k)) = .accept := by
    unfold Chip.laneFate
    rw [if_neg (by simp [fcRequest, hk]), if_neg (by change ¬(false ≠ false); decide)]
    rfl
  have m : (waking.chip.advanceTo (rxOf .detected).tend).macFate .l1 (rxOf .detected) none (fcRequest k) = .accept := by
    with_unfolding_all rfl
  have st : (waking.chip.advanceTo (rxOf .detected).tend).fromStale (fcRequest k) = false := by
    have h3 : (waking.chip.nbr 5).epst = 0 := by decide
    simp [Chip.fromStale, fcRequest, h3]
  have co : (waking.chip.advanceTo (rxOf .detected).tend).coasting .l1 = false := by decide
  simp only [Chip.hearFc, Heard.samples, Rx.keep, Chip.fcFate, e, ne_eq, not_true_eq_false, if_false, st, co, Bool.and_false,
    Bool.false_eq_true, l, m]

/-! Witnesses of the whole-machine statements. -/

theorem wit_StepRunsFrontCommand : ∃ t, step { State.reset with pending := [.revdone] } = .next t := ⟨_, rfl⟩

theorem wit_EveryCommandAnswers : State.reset.pending = [] ∧ State.reset.mem.wf = true ∧ State.reset.chip.power ≠ .reset := by decide

theorem wit_StepsKeepMemoriesCanonical : State.reset.mem.wf = true ∧ ∃ t, step State.reset = .next t := ⟨by decide, _, rfl⟩

theorem wit_CommonRegisterWritesAreNamedCommands : 0xFFFFFFFF < 2 ^ 32 := by decide

/-! The spec's worked examples. -/

/-- "Per block, Lc = 4,759. The frame needs 152,288 coded bits"; with 46,332 bits a symbol, "NSYM = 4" (chapter 2, Peak frame). -/
theorem test_peak_frame : lcOf 0 4 = 4759 ∧ symbolsFor (fun _ => 138996 / 3) (32 * 4759) 512 0 = some 4 := by decide +kernel

/-- "QUARTER has 936 data carriers. Ncb = 156", "NSYM = 14 with no padding" (chapter 2, REP6). -/
theorem test_rep6_frame : dataCarriersOf 2 = 936 ∧ repNcb 936 2 = 156 ∧ lcOf 1 0 = 14 * 156 := by decide

/-- A sleeper of slot 5 as in the worked example of R101. -/
def sleeper : State := peer fun c => c.onNbr 5 fun e => { e with sleep := true, n := 1125, drift := 1250, unc := 150, tref := 1000 }

/-- "Window: TREF + I + 790 us to TREF + I + 1,460 us" (R100). -/
theorem test_wake_window :
    sleeper.chip.wakeWindow (sleeper.chip.nbr 5) = (1000 + 9216000000 + 80896, 1000 + 9216000000 + 149504) := by decide

/-- "DRIFT' = 1,268", "UNC' = 167", "TREF' = the arrival tick" (R101). -/
theorem test_wake_learns :
    let e := ((sleeper.chip.learnWake 5 (1000 + 9216000000 + 121856)).2).nbr 5
    e.drift = 1268 ∧ e.unc = 167 ∧ e.tref = 1000 + 9216000000 + 121856 := by decide

/-- DRVGAIN = 265 on port 2 of group 4: "With GAIN = 0, EFF reads -14, CLAMPED reads 1 and PFAULT.CEIL is set" (R116). -/
theorem test_gain_clamps :
    ∃ t, exec (.gainWrite .pcie .l4 (some .p2) (265 * 2 ^ 16)) (sys id) = .next t
      ∧ t.chip.getInt (F.TXP_PGAIN_EFF .l4 1) = -14 ∧ t.chip.clamped .l4 1 = true ∧ t.chip.bitAt (pfault (.txp .l4)) 2 = true :=
  ⟨_, rfl, by decide⟩

/-- Table 6-4: frames 1 to 3 of the worked example of R187. -/
theorem test_timing_advance :
    let c1 := ((peer fun c => (c.set (F.RXP_TACFG_DEADB .l1) 2).set (F.RXP_TACFG_TAK .l1) 1).chip).measureTa .l1 5 61 1
    let c2 := c1.measureTa .l1 5 62 1
    let c3 := c2.measureTa .l1 5 (-1) 2
    ((c1.laneRec .l1 5).aest, (c1.laneRec .l1 5).prev, (c1.laneRec .l1 5).tac) = (976, 0, 61)
      ∧ ((c2.laneRec .l1 5).aest, (c2.laneRec .l1 5).prev, (c2.laneRec .l1 5).tac) = (984, 0, 62)
      ∧ ((c3.laneRec .l1 5).aest, (c3.laneRec .l1 5).prev, (c3.laneRec .l1 5).tac) = (980, 62, 62) := by decide

/-- "F = 3, and the cone is 46. PPM is 1,299" (R191). -/
theorem test_cone : coneOf (-243) 1624 = 46 ∧ ppmOf 1624 = 1299 := by decide

/-- "This gives 16.0 dB for 16-QAM, 22.0 dB for 64-QAM and 27.5 dB for 256-QAM" at rate 3/4 with TARGET 1 (chapter 8). -/
theorem test_required_snr :
    let c := (run1 fun c => (c.set (F.TMAP_MARGIN_DB .l1) 12).set (F.TMAP_MARGIN_TARGET .l1) 1).chip
    c.required .l1 4 2 0 = 64 ∧ c.required .l1 5 2 0 = 88 ∧ c.required .l1 6 2 0 = 110 := by decide

/-- The grant of chapter 9 "lasts 840 us", its uplink 1,020 us. -/
theorem test_grant_times : (FcBody.grant 0 10 6 12 0 0).ticks = 86016 ∧ uplinkTicks 0 10 = 104448 := by decide

/-- "The MPDU takes 5 cells", on queue 583 (chapter 10). -/
theorem test_mpdu_cells : ({ mpduOf with level := 6, payload := List.replicate 1000 0 } : TxMpdu).length = 1032
    ∧ ({ mpduOf with level := 6, payload := List.replicate 1000 0 } : TxMpdu).cells = 5 ∧ blocksOf 0 1032 = 3 := by decide

/-- "The nonce is 00 1B C5 0F 40 00 00 01 00 00 0A 3C 06" (chapter 11). -/
theorem test_nonce : nonceOf 0x001BC50F40000001 0x0A3C 6 = [0, 0x1B, 0xC5, 0x0F, 0x40, 0, 0, 1, 0, 0, 0x0A, 0x3C, 6] := by decide

/-- "At a = 3,600 s: BOUND reads 18,200" with u = 5 ppb and HAGE 20 (R331). -/
theorem test_holdover_bound :
    (sys fun c => ((c.set F.TIME_TSTAT_STATE 2).set F.TIME_HOLDCFG_HAGE 20).onTime fun t =>
      { t with b0 := 50, uncert := 50, holdFrom := 0 }).chip |> fun c => ({ c with tick := 3600 * tickHz } : Chip).timeBound = 18200 := by
  decide

/-- "With ZCOFS = 0, ZCTICK1 reads 49,821,909" (R343, R344). -/
theorem test_zero_crossing :
    (run1 fun c => ((c.set (F.MEAS_MCFG_GSTAGE .l1) 4).set (F.MEAS_MCFG_DCCORN .l1) 1).setFlag (F.MEAS_MCFG_DCFREEZE .l1) false).chip.crossingTick
      .l1 .p1 (-120000) 214850 50000000 = 49821909 := by decide +kernel

/-- "reads LANE3.RXP.DETECT at 0x0140_5070" (chapter 16). -/
theorem test_detect_address : (Page.rxp .l3).base + 0x070 = 0x01405070 := by decide

/-- FIPS 180-4: SHA-256 of "abc" begins BA7816BF. -/
theorem test_sha256 : (sha256 [0x61, 0x62, 0x63]).take 4 = [0xBA, 0x78, 0x16, 0xBF] := by decide +kernel

/-- FIPS 197: 57 x 83 = C1 (4.2), and the S-box takes 53 to ED (5.1.1). -/
theorem test_aes_parts : gfMul 0x57 0x83 = 0xC1 ∧ sbox 0x53 = 0xED := by decide +kernel

/-- The table gives no row bits: no word spells a command (log entry 1). -/
theorem test_no_words : decodeTableWord 32 5 = none ∧ State.reset.withFetchWord 32 5 = State.reset := ⟨rfl, rfl⟩

/-- R166: tp is the pin time less RXDLY: S11 at tick 40,284 of the pins and 44 ticks of delay give 40,240 - 10,240. -/
theorem test_pin_times : (match execDetection .l1 38000 (.made 40284)
    (run1 fun c => (c.setFlag (F.RXP_RXCTL_EN .l1) true).set (F.RXP_RXDLY_DELAY .l1) 44) with
    | .next t => (t.chip.rxNow .l1).map Rx.tp
    | _ => none) = some 30000 := by decide

/-- R393: once PORST_N has risen FAULT_N is released; the loss of REFCLK asserts it. -/
theorem test_fault_pin : State.reset.chip.faultAsserted = false
    ∧ (match execRefclkLoss State.reset with
      | .next t => t.chip.faultAsserted
      | _ => false) = true := by decide +kernel

/-- R115, worked example of chapter 4: DRVGAIN 26.5 dB, EFF -3.5 dB and 12 dB of glaze give -67 dBm/Hz. -/
theorem test_psd : psdAt 265 (-14) 12 = -67 * 20 := by decide

/-- R130: in QUARTER copy 1 of REP6 begins at data carrier 156, carrier 201, and leaves from port 2; the pilot below it too; with
port 2 out of work both leave from port 3. -/
theorem test_rep6_ports : [rep6Carrier 2 7 200, rep6Carrier 2 7 201, rep6Carrier 2 7 199, rep6Carrier 2 5 201] = [2, 2, 1, 3] := by
  decide

end Sys2Proof.Tests
end

section
/-!
PROOFS. How an access to a register page is judged and what a refused one leaves (R404 to R408).
-/
namespace Sys2Proof.Machine

variable (c : Chip) (i : Init) (p : Page)

/-! Where an address stands, and what a 32-bit write there does. -/

theorem Page.base_lt : p.base < 0x02000000 := by
  cases p
  case uart u => cases u <;> decide
  case twi u => cases u <;> decide
  case sys | clk | evt | health | fuse | boot | time | mbx | qm | mac | wheel | nbr | saggar | keys | pcie | qspit | xspi | gpio | skejo =>
    decide
  all_goals
    rename_i n
    have hn : n.idx < 7 := by cases n <;> decide
    simp only [Page.base, Lane.base]; omega

theorem isWindow_page (off : Nat) (h : off < 0x1000) : isWindow (p.base + off) = false := by
  simp [isWindow, regionOf_page p off h]

theorem Work.writeAt_word (w : Work) (off v : Nat) (h : off < 0x1000) :
    w.writeAt i (p.base + off) 4 v = w.writeWord i (p.base + off) (v % 2 ^ 32) := by
  simp [Work.writeAt, isWindow_page p off h, bitField]

theorem Work.writeWord_page (w : Work) (off v : Nat) (h : off < 0x1000) :
    w.writeWord i (p.base + off) v = w.gate i p off fun x => x.writeEffect i (w.chip.latch i p) p off v := by
  simp [Work.writeWord, regionOf_page p off h]

theorem exec_registerWrite_word (off v : Nat) (s : State) (h : off < 0x1000) :
    exec (.registerWrite i (p.base + off) 4 v) s
      = .next (s.onWork fun w => w.gate i p off fun x => x.writeEffect i (s.chip.latch i p) p off (v % 2 ^ 32)) := by
  change Host.Outcome.next (s.onWork fun w => w.writeAt i (p.base + off) 4 v) = _
  simp only [Work.writeAt_word i p _ off v h, Work.writeWord_page i p _ off _ h, State.onWork]

theorem Work.gate_onChip (w : Work) (off : Nat) (f : Chip → Chip) :
    (w.gate i p off fun x => x.onChip f) = w.onChip fun c => c.gate i p off f := by
  unfold Work.gate Work.onChip Chip.gate
  dsimp only
  split
  · split <;> rfl
  · rfl

theorem State.onWork_onChip (s : State) (f : Chip → Chip) : (s.onWork fun w => w.onChip f) = s.onChip f := rfl

/-- A 32-bit write whose effect is on the chip alone is the gate's. -/
theorem exec_registerWrite_of_effect (off v : Nat) (s : State) (f : Chip → Chip) (h : off < 0x1000)
    (hf : ∀ x : Work, x.writeEffect i (s.chip.latch i p) p off (v % 2 ^ 32) = x.onChip f) :
    exec (.registerWrite i (p.base + off) 4 v) s = .next (s.onChip fun c => c.gate i p off f) := by
  rw [exec_registerWrite_word i p off v s h]
  simp only [hf, Work.gate_onChip, State.onWork_onChip]

/-! What a refused access leaves. -/

/-- The count of a refused access, its fault and its event (R408). -/
def Chip.noteRefusal : Chip := ((c.count F.SYS_ACCCNT_COUNT 1).pfaultSet .sys 0).raise .sys 0

/-- The capture of a refused access (R408). -/
def Chip.captureAccess (addr cause size : Nat) (write : Bool) : Chip :=
  ((((c.set F.SYS_ACCADDR_ADDR addr).set F.SYS_ACCINFO_CAUSE cause).set F.SYS_ACCINFO_INIT i.code).set
    F.SYS_ACCINFO_WRITE (bit write)).set F.SYS_ACCINFO_SIZE (if size = 1 then 0 else if size = 2 then 1 else 2)

theorem Chip.refuse_eq (addr cause size : Nat) (write : Bool) : c.refuse i addr cause size write =
    if !c.bitAt (pfault .sys) 0 then c.noteRefusal.captureAccess i addr cause size write else c.noteRefusal := rfl

theorem Chip.noteRefusal_sameBut :
    c.SameBut c.noteRefusal (F.SYS_ACCCNT_COUNT :: (faultFlds .sys ++ evtFlds .sys)) :=
  (((Chip.sameBut_set c F.SYS_ACCCNT_COUNT _).trans (Chip.pfaultSet_sameBut _ .sys 0)).trans
    (Chip.raise_sameBut _ .sys 0)).mono (by simp)

theorem Chip.noteRefusal_counts :
    c.noteRefusal.get F.SYS_ACCCNT_COUNT = min (c.get F.SYS_ACCCNT_COUNT + 1) (2 ^ F.SYS_ACCCNT_COUNT.width - 1) := by
  unfold Chip.noteRefusal
  rw [Chip.get_raise_other, Chip.get_pfaultSet_other, Chip.get_count_same] <;> decide

theorem Chip.noteRefusal_sets : c.noteRefusal.bitAt (pfault .sys) 0 = true := by
  rw [Chip.bitAt_congr (c := (c.count F.SYS_ACCCNT_COUNT 1).pfaultSet .sys 0)]
  · exact Chip.pfaultSet_sets _ .sys 0 (by decide)
  · exact Chip.get_raise_other _ _ _ _ (by decide) (by decide) (by decide)

theorem Chip.captureAccess_sameBut (addr cause size : Nat) (write : Bool) : c.SameBut (c.captureAccess i addr cause size write)
    [F.SYS_ACCADDR_ADDR, F.SYS_ACCINFO_CAUSE, F.SYS_ACCINFO_INIT, F.SYS_ACCINFO_WRITE, F.SYS_ACCINFO_SIZE] :=
  ((((Chip.sameBut_set c _ _).trans (Chip.sameBut_set _ _ _)).trans (Chip.sameBut_set _ _ _)).trans
    (Chip.sameBut_set _ _ _)).trans (Chip.sameBut_set _ _ _)

theorem Chip.captureAccess_captures (addr cause size : Nat) (write : Bool) (ha : addr < 2 ^ 32) (hc : cause < 16) :
    let d := c.captureAccess i addr cause size write
    d.get F.SYS_ACCADDR_ADDR = addr ∧ d.get F.SYS_ACCINFO_CAUSE = cause ∧ d.get F.SYS_ACCINFO_INIT = i.code
      ∧ d.get F.SYS_ACCINFO_WRITE = bit write
      ∧ d.get F.SYS_ACCINFO_SIZE = if size = 1 then 0 else if size = 2 then 1 else 2 := by
  unfold Chip.captureAccess
  refine ⟨?_, ?_, ?_, ?_, ?_⟩
  · rw [Chip.get_set_other _ _ _ _ (by decide), Chip.get_set_other _ _ _ _ (by decide), Chip.get_set_other _ _ _ _ (by decide),
      Chip.get_set_other _ _ _ _ (by decide), Chip.get_set_same]
    exact Nat.mod_eq_of_lt ha
  · rw [Chip.get_set_other _ _ _ _ (by decide), Chip.get_set_other _ _ _ _ (by decide), Chip.get_set_other _ _ _ _ (by decide),
      Chip.get_set_same]
    exact Nat.mod_eq_of_lt hc
  · rw [Chip.get_set_other _ _ _ _ (by decide), Chip.get_set_other _ _ _ _ (by decide), Chip.get_set_same]
    cases i <;> rfl
  · rw [Chip.get_set_other _ _ _ _ (by decide), Chip.get_set_same]
    cases write <;> rfl
  · rw [Chip.get_set_same]
    split
    · rfl
    · split <;> rfl

/-- A refused access is counted, sets ACCESS and is captured where ACCESS was 0; nothing else changes (R408). -/
theorem Chip.refuse_refusedAs (addr cause size : Nat) (write : Bool) (ha : addr < 2 ^ 32) (hc : cause < 16) :
    c.RefusedAs (c.refuse i addr cause size write) i addr cause size write := by
  rw [Chip.refuse_eq]
  cases hb : c.bitAt (pfault .sys) 0
  case true =>
    refine ⟨c.noteRefusal_counts, c.noteRefusal_sets, fun h => absurd (hb.symm.trans h) (by decide), ?_⟩
    exact c.noteRefusal_sameBut.mono fun f hf => by simp only [Chip.refuseFlds, List.cons_append]; grind
  case false =>
    have hsame := Chip.captureAccess_sameBut c.noteRefusal i addr cause size write
    refine ⟨?_, ?_, fun _ => Chip.captureAccess_captures _ i addr cause size write ha hc, ?_⟩
    · exact (hsame _ (by decide)).trans c.noteRefusal_counts
    · exact (Chip.bitAt_congr _ _ (hsame _ (by decide))).trans c.noteRefusal_sets
    · exact (c.noteRefusal_sameBut.trans hsame).mono (by simp [Chip.refuseFlds, hb])

theorem Chip.RefusedAs.of_touch {c d : Chip} {i : Init} {p : Page} {j : Init} {addr cause size : Nat} {w : Bool}
    (h : (c.touch i p).RefusedAs d j addr cause size w) : c.RefusedAs d j addr cause size w := by
  obtain ⟨h1, h2, h3, h4⟩ := h
  rw [Chip.get_touch] at h1
  have hb : (c.touch i p).bitAt (pfault .sys) 0 = c.bitAt (pfault .sys) 0 := rfl
  have hf : (c.touch i p).refuseFlds = c.refuseFlds := rfl
  rw [hb] at h3
  rw [hf] at h4
  exact ⟨h1, h2, h3, h4.of_touch⟩

theorem Chip.RefusedAs.setRdata {c d : Chip} {i : Init} {addr cause size : Nat} {w : Bool} (v : Nat)
    (h : c.RefusedAs d i addr cause size w) : c.RefusedAs (d.setRdata v) i addr cause size w := h

/-! When a page refuses an access. -/

theorem Chip.pageRefusal_touch (j : Init) (q : Page) (off size : Nat) (write : Bool) :
    (c.touch j q).pageRefusal i p off size write = c.pageRefusal i p off size write := rfl

theorem Chip.pageRefusal_lt {off size cause : Nat} {write : Bool} (h : c.pageRefusal i p off size write = some cause) :
    cause < 16 := by
  unfold Chip.pageRefusal at h
  dsimp only at h
  repeat' split at h
  all_goals cases h
  all_goals decide

theorem Page.addr_lt (off : Nat) (h : off < 0x1000) : p.base + off < 2 ^ 32 := by
  have := Page.base_lt p; omega

/-- The accesses of one register that R405 and R406 judge. -/
theorem Completes.write_refused (off size cause v : Nat) (s : State) (h : off < 0x1000) (hs : size ∈ [1, 2, 4])
    (hserves : s.chip.servesTo i (.page p off) = true) (hr : s.chip.pageRefusal i p off size true = some cause) :
    Completes (.registerWrite i (p.base + off) size v) s fun d => s.chip.RefusedAs d i (p.base + off) cause size true := by
  have hrefused : s.chip.RefusedAs ((s.chip.touch i p).refuse i (p.base + off) cause size true) i (p.base + off) cause size true :=
    (Chip.refuse_refusedAs _ i _ cause size true (Page.addr_lt p off h) (Chip.pageRefusal_lt _ _ _ hr)).of_touch
  have hnarrow : size = 1 ∨ size = 2 →
      Completes (.registerWrite i (p.base + off) size v) s fun d => s.chip.RefusedAs d i (p.base + off) cause size true := by
    intro h12
    refine Completes.of_onChip (f := fun _ => (s.chip.touch i p).refuse i (p.base + off) cause size true) ?_ hrefused
    change Host.Outcome.next (s.onWork fun w => w.writeAt i (p.base + off) size v) = _
    simp [State.onWork, State.onChip, Work.writeAt, isWindow_page p off h, h12, Work.writeNarrow, regionOf_page p off h, hserves,
      Work.onChip, Chip.pageRefusal_touch, hr]
  simp only [List.mem_cons, List.not_mem_nil, or_false] at hs
  rcases hs with h1 | h2 | rfl
  · exact hnarrow (.inl h1)
  · exact hnarrow (.inr h2)
  · refine Completes.of_onChip (f := fun _ => (s.chip.touch i p).refuse i (p.base + off) cause 4 true) ?_ hrefused
    rw [exec_registerWrite_word i p off v s h]
    simp [State.onWork, State.onChip, Work.gate, hserves, hr, Work.onChip]

/-! Reads, and the windows of the lanes. -/

theorem Work.readAt_page (w : Work) (off size : Nat) (h : off < 0x1000) : w.readAt i (p.base + off) size =
    if size = 1 ∨ size = 2 then w.readNarrow i (p.base + off) size
    else (List.range (size / 4)).foldl (fun r k =>
      let x := r.2.readWord i (p.base + off + 4 * k)
      (r.1 + x.1 * 2 ^ (32 * k), x.2)) (0, w) := by
  simp [Work.readAt, regionOf_page p off h]

theorem Work.readAt_word (w : Work) (off : Nat) (h : off < 0x1000) :
    w.readAt i (p.base + off) 4 = w.readWord i (p.base + off) := by
  simp [Work.readAt_page i p w off 4 h]

theorem Completes.read_refused (off size cause : Nat) (s : State) (h : off < 0x1000) (hs : size ∈ [1, 2, 4])
    (hserves : s.chip.servesTo i (.page p off) = true) (hr : s.chip.pageRefusal i p off size false = some cause) :
    Completes (.refusedRead i (p.base + off) size) s fun d =>
      d.rdata = 2 ^ (8 * size) - 1 ∧ s.chip.RefusedAs d i (p.base + off) cause size false := by
  have hrefused : s.chip.RefusedAs ((s.chip.touch i p).refuse i (p.base + off) cause size false) i (p.base + off) cause size false :=
    (Chip.refuse_refusedAs _ i _ cause size false (Page.addr_lt p off h) (Chip.pageRefusal_lt _ _ _ hr)).of_touch
  refine Completes.of_onChip
    (f := fun _ => ((s.chip.touch i p).refuse i (p.base + off) cause size false).setRdata (allOnes size)) ?_ ⟨rfl, hrefused.setRdata _⟩
  change Host.Outcome.next (s.onWork fun w => Work.keepRead (w.readAt i (p.base + off) size)) = _
  simp only [List.mem_cons, List.not_mem_nil, or_false] at hs
  have hnarrow : size = 1 ∨ size = 2 → ∀ w : Work, w.chip = s.chip → w.readAt i (p.base + off) size =
      (allOnes size, { w with chip := (s.chip.touch i p).refuse i (p.base + off) cause size false }) := by
    intro h12 w hw
    simp [Work.readAt_page i p _ off size h, h12, Work.readNarrow, regionOf_page p off h, hw, hserves, Chip.pageRefusal_touch, hr]
  rcases hs with h1 | h2 | rfl
  · simp only [State.onWork, hnarrow (.inl h1) ⟨s.mem, s.chip, []⟩ rfl]; rfl
  · simp only [State.onWork, hnarrow (.inr h2) ⟨s.mem, s.chip, []⟩ rfl]; rfl
  · have hword : (⟨s.mem, s.chip, []⟩ : Work).readWord i (p.base + off) =
        (allOnes 4, ⟨s.mem, (s.chip.touch i p).refuse i (p.base + off) cause 4 false, []⟩) := by
      simp [Work.readWord, regionOf_page p off h, hserves, Chip.pageRefusal_touch, hr]
    simp only [State.onWork, Work.readAt_word i p _ off h, hword]; rfl

theorem exec_refusedRead_served (off : Nat) (s : State) (h : off < 0x1000) (hserves : s.chip.TakesRead i p off) :
    exec (.refusedRead i (p.base + off) 4) s = .next (s.onChip fun c =>
      let r := (c.touch i p).readReg i (c.latch i p) p off
      r.2.setRdata r.1) := by
  obtain ⟨hs, hr⟩ := hserves
  change Host.Outcome.next (s.onWork fun w => Work.keepRead (w.readAt i (p.base + off) 4)) = _
  have hword : (⟨s.mem, s.chip, []⟩ : Work).readWord i (p.base + off) =
      (((s.chip.touch i p).readReg i (s.chip.latch i p) p off).1,
        ⟨s.mem, ((s.chip.touch i p).readReg i (s.chip.latch i p) p off).2, []⟩) := by
    simp [Work.readWord, regionOf_page p off h, hs, Chip.pageRefusal_touch, hr]
  simp only [State.onWork, Work.readAt_word i p _ off h, hword]; rfl

theorem regionOf_window (n : Lane) (off : Nat) (h : off < 0x00200000) : regionOf (n.window + off) = .laneWindow n off := by
  have hn : n.idx < 7 := by cases n <;> decide
  have ho : Lane.ofNum (n.idx + 1) = some n := by cases n <;> rfl
  have hd : (n.window + off - 0x03000000) / 0x00200000 = n.idx := by unfold Lane.window; omega
  have hm : (n.window + off - 0x03000000) % 0x00200000 = off := by unfold Lane.window; omega
  unfold regionOf
  rw [hd, hm, if_neg, if_neg, if_neg, if_neg, if_neg, if_pos, ho]
  all_goals (unfold Lane.window; omega)

theorem Lane.window_lt (n : Lane) (off : Nat) (h : off < 0x00200000) : n.window + off < 2 ^ 32 := by
  have hn : n.idx < 7 := by cases n <;> decide
  unfold Lane.window; omega

end Sys2Proof.Machine
end

section
/-!
PROOFS. Reset, the writes that are named commands, the expert lock and the unfitted lanes (R5, R8 to R12).
-/
open Sys2Proof Sys2Proof.Machine
namespace Sys2Proof.Machine

variable (c : Chip) (i : Init) (p : Page)

/-- The chip at reset lists no register, so that every field reads its reset value. -/
theorem Chip.get_reset (f : Fld) : Chip.reset.get f = f.reset := rfl

/-! The expert lock (R11, R12). -/

theorem plock_key_ne (f : Fld) (ha : 0x24 ≤ f.addr % 0x1000) (hl : f.lo < 32) : f.key ≠ (plock p).key := by
  have := Page.base_mod p
  simp only [Fld.key, plock]
  omega

theorem Chip.linkUp_setPlock (k : Nat) (n : Lane) : (c.set (plock p) k).linkUp n = c.linkUp n := by
  have h : (F.SKEJO_LINKSTAT_STATE n).key ≠ (plock p).key :=
    plock_key_ne p _ (by cases n <;> decide) (by cases n <;> decide)
  simp [Chip.linkUp, Chip.get_set_other _ _ _ _ h]

theorem Chip.laneReach_setPlock (k : Nat) (n : Lane) : (c.set (plock p) k).laneReach n = c.laneReach n := by
  simp [Chip.laneReach, Chip.linkUp_setPlock, Chip.fitted]

theorem Chip.writerBarred_setPlock (k off : Nat) (q : Page) (w : Bool) :
    (c.set (plock p) k).writerBarred i q off w = c.writerBarred i q off w := by
  have h : F.BOOT_BSTAT_STAGE.key ≠ (plock p).key := plock_key_ne p _ (by decide) (by decide)
  simp [Chip.writerBarred, Chip.get_set_other _ _ _ _ h]

/-- The lock has no say in a read (R12). -/
theorem Chip.pageRefusal_read_setPlock (k off size : Nat) :
    (c.set (plock p) k).pageRefusal i p off size false = c.pageRefusal i p off size false := by
  simp only [Chip.pageRefusal, Chip.laneReach_setPlock, Chip.writerBarred_setPlock, Bool.and_false, Bool.false_and]

/-- A write to the expert level of a locked page meets some refusal. -/
theorem Chip.pageRefusal_locked_ne (off size : Nat) (hoff : 0x400 ≤ off) (hlock : c.unlocked p = false) :
    c.pageRefusal i p off size true ≠ none := by
  intro h
  have hlast : (true && decide (0x400 ≤ off) && !c.unlocked p) = true := by simp [hoff, hlock]
  unfold Chip.pageRefusal at h
  simp only [hlast, ↓reduceIte] at h
  repeat' split at h
  all_goals cases h

/-- Where lane, alignment, offset and writer allow a 32-bit write to the expert level, the lock refuses it. -/
theorem Chip.pageRefusal_locked_word (off : Nat) (hoff : 0x400 ≤ off) (halign : off % 4 = 0)
    (hreg : isReg p (off / 4 * 4) = true) (hlane : ∀ n, p.lane? = some n → c.laneReach n = true)
    (hbar : c.writerBarred i p off true = false) (hlock : c.unlocked p = false) : c.pageRefusal i p off 4 true = some 4 := by
  have hword : off / 4 * 4 = off := by omega
  rw [hword] at hreg
  cases hp : p.lane? with
  | none => simp [Chip.pageRefusal, hp, hword, halign, hreg, hbar, hoff, hlock]
  | some n => simp [Chip.pageRefusal, hp, hlane n hp, hword, halign, hreg, hbar, hoff, hlock]

/-! The lanes that the part does not have (R5). -/

theorem Chip.laneReach_of_unfitted (n : Lane) (h : c.fitted n = false) : c.laneReach n = false := by
  simp [Chip.laneReach, h]

theorem Chip.pageRefusal_of_unfitted (n : Lane) (off size : Nat) (w : Bool) (h : c.fitted n = false) (hp : p.lane? = some n) :
    c.pageRefusal i p off size w = some 6 := by
  unfold Chip.pageRefusal
  simp only [hp, c.laneReach_of_unfitted n h, Bool.not_false, ↓reduceIte]

theorem Chip.raise_of_unfitted (n : Lane) (b : Nat) (h : c.fitted n = false) (hp : p.lane? = some n) : c.raise p b = c := by
  simp [Chip.raise, Chip.pageLive, hp, h]

theorem Work.readAt_silentWindow (w : Work) (n : Lane) (a off size : Nat) (ha : regionOf a = .laneWindow n off)
    (hserves : w.chip.servesTo i (.laneWindow n off) = true) (hreach : w.chip.laneReach n = false) :
    w.readAt i a size = (allOnes size,
      w.onChip fun c => c.refuse i a 6 (if size = 1 then 1 else if size = 2 then 2 else 4) false) := by
  simp [Work.readAt, ha, hserves, hreach]

theorem Completes.window_read_unfitted (n : Lane) (off size : Nat) (s : State) (h : off < 0x00200000) (hs : size ∈ [1, 2, 4])
    (hserves : s.chip.servesTo i (.laneWindow n off) = true) (hfit : s.chip.fitted n = false) :
    Completes (.refusedRead i (n.window + off) size) s fun d =>
      d.rdata = 2 ^ (8 * size) - 1 ∧ s.chip.RefusedAs d i (n.window + off) 6 size false := by
  have hrefused := Chip.refuse_refusedAs s.chip i _ 6 size false (Lane.window_lt n off h) (by decide)
  refine Completes.of_onChip
    (f := fun _ => (s.chip.refuse i (n.window + off) 6 size false).setRdata (allOnes size)) ?_ ⟨rfl, hrefused.setRdata _⟩
  have hsize : (if size = 1 then 1 else if size = 2 then 2 else 4) = size := by
    simp only [List.mem_cons, List.not_mem_nil, or_false] at hs
    rcases hs with rfl | rfl | rfl <;> rfl
  change Host.Outcome.next (s.onWork fun w => Work.keepRead (w.readAt i (n.window + off) size)) = _
  have hread := Work.readAt_silentWindow i ⟨s.mem, s.chip, []⟩ n _ off size (regionOf_window n off h) hserves
    (Chip.laneReach_of_unfitted _ n hfit)
  rw [hsize] at hread
  simp only [State.onWork, hread]; rfl

theorem Completes.window_write_unfitted (n : Lane) (off : Nat) (bs : List Byte) (s : State) (h : off < 0x00200000) (hb : bs ≠ [])
    (hserves : s.chip.servesTo i (.laneWindow n off) = true) (hfit : s.chip.fitted n = false) :
    Completes (.windowWrite i (n.window + off) bs) s fun d => s.chip.RefusedAs d i (n.window + off) 6 bs.length true := by
  have hrefused := Chip.refuse_refusedAs s.chip i _ 6 bs.length true (Lane.window_lt n off h) (by decide)
  refine Completes.of_onChip (f := fun _ => s.chip.refuse i (n.window + off) 6 bs.length true) ?_ hrefused
  have hsize : s.chip.refuse i (n.window + off) 6 (if bs.length = 1 then 1 else if bs.length = 2 then 2 else 4) true =
      s.chip.refuse i (n.window + off) 6 bs.length true := by
    by_cases h1 : bs.length = 1
    · rw [if_pos h1, h1]
    by_cases h2 : bs.length = 2
    · rw [if_neg h1, if_pos h2, h2]
    rw [if_neg h1, if_neg h2]
    simp only [Chip.refuse, h1, h2, Nat.reduceEqDiff, ↓reduceIte]
  change Host.Outcome.next (s.onWork fun w => w.windowWrite i (n.window + off) bs) = _
  simp [State.onWork, State.onChip, Work.windowWrite, hb, regionOf_window n off h, hserves, Chip.laneReach_of_unfitted _ n hfit,
    Work.onChip, hsize]

end Sys2Proof.Machine

/-- Settles O4: at reset no register is listed and no byte of memory is. -/
theorem resetLeavesTheStatedValues : Obligations.ResetLeavesTheStatedValues :=
  ⟨State.reset_wf, rfl, rfl, rfl, rfl, Chip.get_reset, fun _ => ⟨rfl, rfl, rfl, rfl, rfl, rfl, rfl⟩⟩

/-- Settles O5: at each of these offsets the effect of a write is the chip update that the command passes through the gate. -/
theorem commonRegisterWritesAreNamedCommands : Obligations.CommonRegisterWritesAreNamedCommands := by
  intro i p v s hv
  have hmod : v % 2 ^ 32 = v := Nat.mod_eq_of_lt hv
  refine ⟨?_, ?_, ?_, ?_, ?_, ?_, ?_, ?_⟩
  · exact exec_registerWrite_of_effect i p 0x008 0 s (·.pctlWrite p 0) (by decide) fun _ => rfl
  · exact exec_registerWrite_of_effect i p 0x008 1 s (·.pctlWrite p 1) (by decide) fun _ => rfl
  · exact exec_registerWrite_of_effect i p 0x008 2 s (·.pctlWrite p 2) (by decide) fun _ => rfl
  · exact exec_registerWrite_of_effect i p 0x008 3 s (·.pctlWrite p 3) (by decide) fun _ => rfl
  · exact exec_registerWrite_of_effect i p 0x010 v s (·.clearPevt p (v % 2 ^ 32) 0) (by decide) fun _ => rfl
  · exact exec_registerWrite_of_effect i p 0x014 v s (·.writePevten p (v % 2 ^ 32)) (by decide) fun _ => rfl
  · exact exec_registerWrite_of_effect i p 0x018 v s (·.clearPfault p (v % 2 ^ 32) 0) (by decide) fun _ => rfl
  · exact exec_registerWrite_of_effect i p 0x020 v s (·.plockWrite p (v % 2 ^ 32)) (by decide) fun _ => rfl

/-- Settles O9: a locked page refuses every write of its expert level, and a read is judged without the lock. -/
theorem lockedPagesRefuseExpertWrites : Obligations.LockedPagesRefuseExpertWrites := by
  intro i p off s hexpert hoff hreg hserves
  refine ⟨fun hlock size hsize v _ => ?_, fun k size => Chip.pageRefusal_read_setPlock _ i p k off size, fun hnone => ?_⟩
  · obtain ⟨cause, hcause⟩ := Option.ne_none_iff_exists'.mp (Chip.pageRefusal_locked_ne s.chip i p off size hexpert hlock)
    obtain ⟨t, hexec, hpending, hmem, hrefused⟩ := Completes.write_refused i p off size cause v s hoff hsize hserves hcause
    refine ⟨t, hexec, hpending, hmem, cause, fun hfour halign hlane hbar => ?_, hrefused⟩
    rw [hfour, Chip.pageRefusal_locked_word s.chip i p off hexpert halign hreg hlane hbar hlock] at hcause
    exact (Option.some.inj hcause).symm
  · exact Completes.of_onChip (exec_refusedRead_served i p off s hoff ⟨hserves, hnone⟩) rfl

/-- Settles O10: a lane that is not fitted answers no access, whatever else could be wrong with it, and raises no event. -/
theorem unfittedLanesRefuseEveryAccess : Obligations.UnfittedLanesRefuseEveryAccess := by
  intro i n s hfit
  refine ⟨fun p off hp hoff hserves size hsize => ?_, fun off hoff hserves => ?_, fun p b hp => ?_⟩
  · have hrefusal (w : Bool) := Chip.pageRefusal_of_unfitted s.chip i p n off size w hfit hp
    exact ⟨Completes.read_refused i p off size 6 s hoff hsize hserves (hrefusal false),
      fun v _ => Completes.write_refused i p off size 6 v s hoff hsize hserves (hrefusal true)⟩
  · exact ⟨fun size hsize => Completes.window_read_unfitted i n off size s hoff hsize hserves hfit,
      fun bs hbs => Completes.window_write_unfitted i n off bs s hoff hbs hserves hfit⟩
  · exact Chip.raise_of_unfitted s.chip p n b hfit hp
end

section
/-!
PROOFS. What a served write stores: whole words, single bytes, reserved encodings, and the halves of a pair (R13, R15, R406, R407).
-/
open Sys2Proof Sys2Proof.Machine
namespace Sys2Proof.Machine

variable (c : Chip) (i : Init) (p : Page)

/-! Stores in an RW field that lies whole in its register. -/

/-- A slice that shows a whole RW field takes the bits written there, unless they are reserved (R15). -/
theorem Chip.storeSlice_whole (f : Fld) (v pos w : Nat) (hty : f.ty = .rw) (hw : f.width = w) :
    c.storeSlice v ⟨f, pos, 0, w⟩ = if c.encOk f (bitField v pos w) then c.set f (bitField v pos w) else c := by
  have hold : c.get f % 2 ^ w / 2 ^ w = 0 := Nat.div_eq_of_lt (Nat.mod_lt _ (Nat.two_pow_pos w))
  simp only [Chip.storeSlice, hty, hw, Nat.zero_add, Nat.pow_zero, Nat.mod_one, Nat.mul_one, hold, Nat.zero_mul, Nat.add_zero]

theorem bitField_zero (v w : Nat) : bitField v 0 w = v % 2 ^ w := rfl

/-- Bits above those looked at do not matter. -/
theorem bitField_mod (x n lo w : Nat) (h : lo + w ≤ n) : bitField (x % 2 ^ n) lo w = bitField x lo w := by
  refine Nat.eq_of_testBit_eq fun k => ?_
  simp only [bitField, Nat.testBit_mod_two_pow, Nat.testBit_shiftRight]
  by_cases hk : k < w
  · simp [show lo + k < n by omega]
  · simp [hk]

theorem Chip.store_scratch (v : Nat) : c.store .sys 0x04C v = c.set F.SYS_SCRATCH_DATA (v % 2 ^ 32) :=
  Chip.storeSlice_whole c F.SYS_SCRATCH_DATA v 0 32 rfl rfl

theorem Chip.store_retlim (v : Nat) :
    c.store .skejo 0x404 v = if 2 ≤ v % 16 then c.set F.SKEJO_RETLIM_LIMIT (v % 16) else c := by
  have henc : c.encOk F.SKEJO_RETLIM_LIMIT (v % 16) = decide (2 ≤ v % 16) := by
    have : v % 16 ≤ 15 := by omega
    simp [Chip.encOk, F.SKEJO_RETLIM_LIMIT, this]
  have hstore : c.store .skejo 0x404 v = if c.encOk F.SKEJO_RETLIM_LIMIT (v % 16) then c.set F.SKEJO_RETLIM_LIMIT (v % 16) else c :=
    Chip.storeSlice_whole c F.SKEJO_RETLIM_LIMIT v 0 4 rfl rfl
  simp [hstore, henc]

theorem Chip.view_scratch : c.view .sys 0x04C = c.get F.SYS_SCRATCH_DATA % 2 ^ 32 := by
  change 0 + bitField (c.get F.SYS_SCRATCH_DATA) 0 32 * 2 ^ 0 = _
  simp [bitField_zero]

/-! Narrow writes (Table 16-3). -/

/-- The word `old` with the `size` bytes from offset `off` on replaced by those of `v`. -/
def narrowWord (old off size v : Nat) : Nat :=
  old - bitField old (8 * (off % 4)) (8 * size) * 2 ^ (8 * (off % 4)) + v % 2 ^ (8 * size) * 2 ^ (8 * (off % 4))

theorem exec_registerWrite_byte (off v : Nat) (s : State) (h : off < 0x1000)
    (hserves : s.chip.servesTo i (.page p off) = true) (hr : s.chip.pageRefusal i p off 1 true = none) :
    exec (.registerWrite i (p.base + off) 1 v) s = .next (s.onChip fun c =>
      (c.touch i p).store p (off / 4 * 4) (narrowWord ((c.touch i p).view p (off / 4 * 4)) off 1 v)) := by
  change Host.Outcome.next (s.onWork fun w => w.writeAt i (p.base + off) 1 v) = _
  simp [State.onWork, State.onChip, Work.writeAt, isWindow_page p off h, Work.writeNarrow, regionOf_page p off h, hserves,
    Work.onChip, Chip.pageRefusal_touch, hr, narrowWord]

/-- Writing byte `k` of a word changes that byte and no other. -/
theorem bitField_narrowWord (old off v j : Nat) (hold : old < 2 ^ 32) (hj : j < 4) :
    bitField (narrowWord old off 1 v) (8 * j) 8 = if j = off % 4 then v % 256 else bitField old (8 * j) 8 := by
  unfold narrowWord
  have hk : off % 4 < 4 := Nat.mod_lt _ (by decide)
  generalize off % 4 = k at hk
  simp only [bitField, Nat.shiftRight_eq_div_pow]
  have hkcases : k = 0 ∨ k = 1 ∨ k = 2 ∨ k = 3 := by omega
  have hjcases : j = 0 ∨ j = 1 ∨ j = 2 ∨ j = 3 := by omega
  rcases hkcases with rfl | rfl | rfl | rfl <;> rcases hjcases with rfl | rfl | rfl | rfl <;> simp <;> omega

/-! Paired registers (R407). -/

/-- The 64-bit RW field `f` stands in the paired register at offsets `off` and `off + 4` of `p`, and a write of both halves does
nothing but store it. -/
structure PlainPair (p : Page) (off : Nat) (f : Fld) : Prop where
  low : off % 8 = 0
  inPage : off + 4 < 0x1000
  width : f.width = 64
  paired : (findReg p off).any (fun r => r.pr) = true ∧ (findReg p (off + 4)).any (fun r => r.pr) = true
  writesLow : ∀ (w : Work) (i : Init) (held : PrLatch) (v : Nat),
    w.writeEffect i held p off v = w.onChip fun c => c.prWrite i held p off v
  writesHigh : ∀ (w : Work) (i : Init) (held : PrLatch) (v : Nat),
    w.writeEffect i held p (off + 4) v = w.onChip fun c => c.prWrite i held p (off + 4) v
  commits : ∀ (c : Chip) (i : Init) (v : Nat), c.prCommit i p off v = c.set f v
  viewLow : ∀ c : Chip, c.view p off = c.get f % 2 ^ 32
  viewHigh : ∀ c : Chip, c.view p (off + 4) = c.get f / 2 ^ 32 % 2 ^ 32
  readsLow : ∀ (c : Chip) (i : Init) (held : PrLatch),
    c.readReg i held p off = (c.view p off, c.setLatch i p (.read off (c.view p (off + 4))))
  readsHigh : ∀ (c : Chip) (i : Init) (held : PrLatch), c.readReg i held p (off + 4) = match held with
    | .read o h => (if o + 4 = off + 4 then h else c.view p (off + 4), c)
    | _ => (c.view p (off + 4), c)

theorem plainPair_tsettick : PlainPair .time 0x080 F.TIME_TSETTICK_TICK where
  low := rfl
  inPage := by decide
  width := rfl
  paired := ⟨rfl, rfl⟩
  writesLow _ _ _ _ := rfl
  writesHigh _ _ _ _ := rfl
  commits _ _ _ := rfl
  viewLow c := by
    change 0 + bitField (c.get F.TIME_TSETTICK_TICK) 0 32 * 2 ^ 0 = _
    simp [bitField_zero]
  viewHigh c := by
    change 0 + bitField (c.get F.TIME_TSETTICK_TICK) 32 32 * 2 ^ 0 = _
    simp [bitField, Nat.shiftRight_eq_div_pow]
  readsLow _ _ _ := rfl
  readsHigh _ _ held := by cases held <;> rfl

theorem plainPair_rbase : PlainPair .qm 0x050 F.QM_RBASE_BASE where
  low := rfl
  inPage := by decide
  width := rfl
  paired := ⟨rfl, rfl⟩
  writesLow _ _ _ _ := rfl
  writesHigh _ _ _ _ := rfl
  commits _ _ _ := rfl
  viewLow c := by
    change 0 + bitField (c.get F.QM_RBASE_BASE) 0 32 * 2 ^ 0 = _
    simp [bitField_zero]
  viewHigh c := by
    change 0 + bitField (c.get F.QM_RBASE_BASE) 32 32 * 2 ^ 0 = _
    simp [bitField, Nat.shiftRight_eq_div_pow]
  readsLow _ _ _ := rfl
  readsHigh _ _ held := by cases held <;> rfl

@[simp] theorem Chip.latch_setLatch_same (l : PrLatch) : (c.setLatch i p l).latch i p = l := by
  unfold Chip.setLatch Chip.latch
  dsimp only
  split
  next h => simp [h]
  next h => simp

@[simp] theorem Chip.latch_touch : (c.touch i p).latch i p = .none := Chip.latch_setLatch_same c i p .none

theorem Chip.latch_setRdata (v : Nat) : (c.setRdata v).latch i p = c.latch i p := rfl

theorem Chip.latch_set (f : Fld) (v : Nat) : (c.set f v).latch i p = c.latch i p := rfl

theorem exec_prWrite (off v : Nat) (s : State) (h : off < 0x1000) (hpr : (findReg p off).any (fun r => r.pr) = true) :
    exec (.prWrite i p off v) s
      = .next (s.onWork fun w => w.gate i p off fun x => x.writeEffect i (s.chip.latch i p) p off (v % 2 ^ 32)) := by
  change Host.Outcome.next (s.onWork fun w =>
    if (findReg p off).any (fun r => r.pr) then w.writeWord i (p.base + off) (v % 2 ^ 32) else w) = _
  simp only [hpr, ↓reduceIte, Work.writeWord_page i p _ off _ h, State.onWork]

theorem exec_prRead_served (off : Nat) (s : State) (h : off < 0x1000) (hpr : (findReg p off).any (fun r => r.pr) = true)
    (hserves : s.chip.TakesRead i p off) :
    exec (.prRead i p off) s = .next (s.onChip fun c =>
      let r := (c.touch i p).readReg i (c.latch i p) p off
      r.2.setRdata r.1) := by
  rw [← exec_refusedRead_served i p off s h hserves]
  change Host.Outcome.next (s.onWork fun w =>
    if (findReg p off).any (fun r => r.pr) then Work.keepRead (w.readWord i (p.base + off)) else w)
    = Host.Outcome.next (s.onWork fun w => Work.keepRead (w.readAt i (p.base + off) 4))
  simp only [hpr, ↓reduceIte, Work.readAt_word i p _ off h]

section Pairs
variable {p : Page} {off : Nat} {f : Fld} (hp : PlainPair p off f) (s : State) (v : Nat)
include hp

theorem PlainPair.write_low (hv : v < 2 ^ 32) (ht : s.chip.TakesWrite i p off) :
    Completes (.prWrite i p off v) s fun d => d.latch i p = .write off v ∧ s.chip.SameBut d [] := by
  have hoff : off < 0x1000 := by have := hp.inPage; omega
  have heff : (s.chip.touch i p).prWrite i (s.chip.latch i p) p off v = (s.chip.touch i p).setLatch i p (.write off v) := by
    simp [Chip.prWrite, hp.low]
  refine Completes.of_gateWork (exec_prWrite i p off v s hoff hp.paired.1) ht ?_ ?_
  · rw [hp.writesLow]; rfl
  · rw [hp.writesLow, Nat.mod_eq_of_lt hv]
    change ((s.chip.touch i p).prWrite i (s.chip.latch i p) p off v).latch i p = _ ∧ s.chip.SameBut _ []
    rw [heff]
    exact ⟨Chip.latch_setLatch_same _ i p _, Chip.SameBut.of_regs [] (by simp [heff])⟩

/-- The low word that a write of the high half commits: the one held, or the one that stands. -/
def lowOf (held : PrLatch) (off cur : Nat) : Nat :=
  match held with
  | .write o l => if o = off then l else cur
  | _ => cur

theorem PlainPair.prWrite_high (held : PrLatch) :
    c.prWrite i held p (off + 4) v = c.set f (lowOf held off (c.get f % 2 ^ 32) + 2 ^ 32 * v) := by
  have hodd : ¬ (off + 4) % 8 = 0 := by have := hp.low; omega
  unfold Chip.prWrite
  rw [if_neg hodd]
  dsimp only
  rw [Nat.add_sub_cancel, hp.commits, hp.viewLow]
  cases held <;> simp [lowOf]

theorem PlainPair.write_high (hv : v < 2 ^ 32) (ht : s.chip.TakesWrite i p (off + 4)) :
    Completes (.prWrite i p (off + 4) v) s fun d =>
      (∀ l, s.chip.latch i p = .write off l → l < 2 ^ 32 → d.get f = l + 2 ^ 32 * v)
      ∧ ((∀ l, s.chip.latch i p ≠ .write off l) → d.get f = s.chip.get f % 2 ^ 32 + 2 ^ 32 * v)
      ∧ d.latch i p = .none ∧ s.chip.SameBut d [f] := by
  have hget (low : Nat) (hlow : low < 2 ^ 32) : ((s.chip.touch i p).set f (low + 2 ^ 32 * v)).get f = low + 2 ^ 32 * v := by
    rw [Chip.get_set_same, hp.width]; exact Nat.mod_eq_of_lt (by omega)
  refine Completes.of_gateWork (exec_prWrite i p (off + 4) v s hp.inPage hp.paired.2) ht ?_ ?_
  · rw [hp.writesHigh]; rfl
  · rw [hp.writesHigh, Nat.mod_eq_of_lt hv]
    dsimp only [Work.onChip]
    rw [hp.prWrite_high, Chip.get_touch]
    refine ⟨fun l hl hlt => ?_, fun hno => ?_, ?_, (Chip.sameBut_set _ f _).of_touch⟩
    · rw [hl, lowOf, if_pos rfl, hget l hlt]
    · have hcur : lowOf (s.chip.latch i p) off (s.chip.get f % 2 ^ 32) = s.chip.get f % 2 ^ 32 := by
        cases hl : s.chip.latch i p with
        | write o l =>
          have hne : o ≠ off := fun h => hno l (h ▸ hl)
          simp [lowOf, hne]
        | none => rfl
        | read o h => rfl
      rw [hcur, hget _ (Nat.mod_lt _ (by decide))]
    · rw [Chip.latch_set, Chip.latch_touch]

theorem PlainPair.read_low (ht : s.chip.TakesRead i p off) :
    Completes (.prRead i p off) s fun d => d.rdata = s.chip.get f % 2 ^ 32
      ∧ d.latch i p = .read off (s.chip.get f / 2 ^ 32 % 2 ^ 32) ∧ s.chip.SameBut d [] := by
  have hoff : off < 0x1000 := by have := hp.inPage; omega
  refine Completes.of_onChip (exec_prRead_served i p off s hoff hp.paired.1 ht) ?_
  simp only [hp.readsLow, hp.viewLow, hp.viewHigh, Chip.get_touch]
  exact ⟨rfl, (Chip.latch_setRdata _ i p _).trans (Chip.latch_setLatch_same _ i p _), Chip.SameBut.of_regs [] (by simp)⟩

theorem PlainPair.read_high (ht : s.chip.TakesRead i p (off + 4)) :
    Completes (.prRead i p (off + 4)) s fun d =>
      (∀ h, s.chip.latch i p = .read off h → d.rdata = h)
      ∧ ((∀ h, s.chip.latch i p ≠ .read off h) → d.rdata = s.chip.get f / 2 ^ 32 % 2 ^ 32) ∧ s.chip.SameBut d [] := by
  refine Completes.of_onChip (exec_prRead_served i p (off + 4) s hp.inPage hp.paired.2 ht) ?_
  simp only [hp.readsHigh, hp.viewHigh, Chip.get_touch]
  cases hl : s.chip.latch i p with
  | read o h =>
    refine ⟨fun h' hh => ?_, fun hno => ?_, Chip.SameBut.of_regs [] (by simp)⟩
    · cases hh; simp [Chip.setRdata]
    · have hne : o ≠ off := fun e => hno h (e ▸ rfl)
      simp [Chip.setRdata, hne]
  | none => exact ⟨fun _ hh => by simp at hh, fun _ => rfl, Chip.SameBut.of_regs [] (by simp)⟩
  | write o l => exact ⟨fun _ hh => by simp at hh, fun _ => rfl, Chip.SameBut.of_regs [] (by simp)⟩

end Pairs

end Sys2Proof.Machine

/-- Settles O7: SCRATCH and RETLIM through the store of a whole field, the two pairs through what holds of every plain pair. -/
theorem registerWritesStoreTheirFields : Obligations.RegisterWritesStoreTheirFields := by
  refine ⟨fun i v s hv => ⟨fun ht => ?_, fun k hk hserves hr => ?_, fun ht => ?_⟩, fun i s v hv x hx => ?_⟩
  · refine Completes.of_gate (exec_registerWrite_of_effect i .sys 0x04C v s (·.store .sys 0x04C (v % 2 ^ 32)) (by decide)
      fun _ => rfl) ht ?_
    rw [Chip.store_scratch, Nat.mod_mod, Nat.mod_eq_of_lt hv]
    exact ⟨(Chip.get_set_same _ _ _).trans (Nat.mod_eq_of_lt hv), (Chip.sameBut_set _ _ _).of_touch⟩
  · have hword : (0x04C + k) / 4 * 4 = 0x04C := by omega
    have hpos : (0x04C + k) % 4 = k := by omega
    have hexec := exec_registerWrite_byte i .sys (0x04C + k) (v % 256) s (by omega) hserves hr
    rw [show Page.sys.base + (0x04C + k) = 0x4C + k from Nat.zero_add _] at hexec
    refine Completes.of_onChip hexec ?_
    simp only [hword, Chip.store_scratch, Chip.view_scratch, Chip.get_touch]
    refine ⟨fun j hj => ?_, (Chip.sameBut_set _ _ _).of_touch⟩
    have hbyte := bitField_narrowWord (s.chip.get F.SYS_SCRATCH_DATA % 2 ^ 32) (0x04C + k) (v % 256) j (Nat.mod_lt _ (by decide)) hj
    rw [hpos, Nat.mod_mod, bitField_mod _ 32 _ _ (by omega)] at hbyte
    rw [Chip.get_set_same, show F.SYS_SCRATCH_DATA.width = 32 from rfl, Nat.mod_mod, bitField_mod _ 32 _ _ (by omega), hbyte]
  · refine Completes.of_gate (exec_registerWrite_of_effect i .skejo 0x404 v s (·.store .skejo 0x404 (v % 2 ^ 32)) (by decide)
      fun _ => rfl) ht ?_
    rw [Chip.store_retlim, Nat.mod_eq_of_lt hv]
    split
    · exact ⟨(Chip.get_set_same _ _ _).trans (Nat.mod_mod _ _), (Chip.sameBut_set _ _ _).of_touch⟩
    · exact ⟨by simp, Chip.touch_sameBut _ _ _ _⟩
  · simp only [List.mem_cons, List.not_mem_nil, or_false] at hx
    rcases hx with rfl | rfl
    · exact ⟨plainPair_tsettick.write_low i s v hv, plainPair_tsettick.write_high i s v hv, plainPair_tsettick.read_low i s,
        plainPair_tsettick.read_high i s⟩
    · exact ⟨plainPair_rbase.write_low i s v hv, plainPair_rbase.write_high i s v hv, plainPair_rbase.read_low i s,
        plainPair_rbase.read_high i s⟩
end

section
/-!
PROOFS. Registers that name alternative commands (R452): each refuses a value that names several and ignores one that names none.
-/
open Sys2Proof Sys2Proof.Machine
namespace Sys2Proof.Machine

variable (c : Chip) (i : Init) (p : Page)

theorem Work.onChip_congr {w : Work} {f g : Chip → Chip} (h : f w.chip = g w.chip) : w.onChip f = w.onChip g := by
  simp [Work.onChip, h]

theorem Work.onChip_eq_self {w : Work} {f : Chip → Chip} (h : f w.chip = w.chip) : w.onChip f = w := by
  simp [Work.onChip, h]

/-- How the register at offset `off` of `p` takes the value `v` on the chip `c`: where `several` holds the write is refused as
naming several commands, and where `idle` holds it does nothing. -/
structure CommandWrite (i : Init) (c : Chip) (p : Page) (off v : Nat) (several idle : Prop) : Prop where
  refuses : several → ∀ (w : Work) (held : PrLatch), w.chip = c → w.writeEffect i held p off v = w.onChip (·.refuseMulti i p off)
  ignores : idle → ∀ (w : Work) (held : PrLatch), w.chip = c → w.writeEffect i held p off v = w

theorem CommandWrite.of_chip {c : Chip} {i : Init} {p : Page} {off v : Nat} {several idle : Prop} (f : Chip → Chip)
    (heff : ∀ (w : Work) (held : PrLatch), w.writeEffect i held p off v = w.onChip f)
    (hseveral : several → f c = c.refuseMulti i p off) (hidle : idle → f c = c) : CommandWrite i c p off v several idle where
  refuses h w held hw := by subst hw; exact (heff w held).trans (Work.onChip_congr (hseveral h))
  ignores h w held hw := by subst hw; exact (heff w held).trans (Work.onChip_eq_self (hidle h))

theorem CommandWrite.mono {c : Chip} {i : Init} {p : Page} {off v : Nat} {several idle several' idle' : Prop}
    (h : CommandWrite i c p off v several idle) (h1 : several' → several) (h2 : idle' → idle) :
    CommandWrite i c p off v several' idle' := ⟨fun k => h.refuses (h1 k), fun k => h.ignores (h2 k)⟩

theorem CommandWrite.completes {i : Init} {p : Page} {off v : Nat} {several idle : Prop} {s : State} (hoff : off < 0x1000)
    (hv : v < 2 ^ 32) (ht : s.chip.TakesWrite i p off) (h : CommandWrite i (s.chip.touch i p) p off v several idle) :
    (several → Completes (.registerWrite i (p.base + off) 4 v) s fun d => s.chip.RefusedAs d i (p.base + off) 9 4 true)
      ∧ (idle → Completes (.registerWrite i (p.base + off) 4 v) s fun d => d = s.chip.touch i p) := by
  have hmod : v % 2 ^ 32 = v := Nat.mod_eq_of_lt hv
  have hexec := exec_registerWrite_word i p off v s hoff
  rw [hmod] at hexec
  refine ⟨fun hs => ?_, fun hi => ?_⟩
  · have heff := h.refuses hs ⟨s.mem, s.chip.touch i p, []⟩ (s.chip.latch i p) rfl
    refine Completes.of_gateWork hexec ht (by rw [heff]; rfl) ?_
    rw [heff]
    exact (Chip.refuse_refusedAs _ i _ 9 4 true (Page.addr_lt p off hoff) (by decide)).of_touch
  · have heff := h.ignores hi ⟨s.mem, s.chip.touch i p, []⟩ (s.chip.latch i p) rfl
    exact Completes.of_gateWork hexec ht (by rw [heff]) (by rw [heff])

/-! Which of a register's command bits a value names. -/

theorem two_le_length_filter_two (a b v : Nat) :
    2 ≤ ([a, b].filter v.testBit).length ↔ v.testBit a = true ∧ v.testBit b = true := by
  cases ha : v.testBit a <;> cases hb : v.testBit b <;> simp [ha, hb]

theorem filter_two_eq_nil (a b v : Nat) : [a, b].filter v.testBit = [] ↔ v.testBit a = false ∧ v.testBit b = false := by
  simp

theorem two_le_length_filter_three (a b d v : Nat) : 2 ≤ ([a, b, d].filter v.testBit).length ↔
    v.testBit a = true ∧ v.testBit b = true ∨ v.testBit a = true ∧ v.testBit d = true
      ∨ v.testBit b = true ∧ v.testBit d = true := by
  cases ha : v.testBit a <;> cases hb : v.testBit b <;> cases hd : v.testBit d <;> simp [ha, hb, hd]

theorem filter_three_eq_nil (a b d v : Nat) :
    [a, b, d].filter v.testBit = [] ↔ v.testBit a = false ∧ v.testBit b = false ∧ v.testBit d = false := by
  simp

theorem mod_four_eq_three_iff (v : Nat) : v % 4 = 3 ↔ v.testBit 0 = true ∧ v.testBit 1 = true := by
  simp only [Nat.testBit_succ, Nat.testBit_zero, decide_eq_true_eq]
  omega

theorem bit_testBit (x k : Nat) : bit (x.testBit k) = x / 2 ^ k % 2 := by
  rw [Nat.testBit_eq_decide_div_mod_eq, bit]
  rcases Nat.mod_two_eq_zero_or_one (x / 2 ^ k) with h | h <;> simp [h]

/-- Three neighbouring bits as a number. -/
theorem bitField_three (v lo : Nat) :
    bitField v lo 3 = bit (v.testBit lo) + 2 * bit (v.testBit (lo + 1)) + 4 * bit (v.testBit (lo + 2)) := by
  have h (k : Nat) : v / 2 ^ (lo + k) = v >>> lo / 2 ^ k := by
    rw [Nat.shiftRight_eq_div_pow, Nat.div_div_eq_div_mul, Nat.pow_add]
  have h0 := h 0
  simp only [Nat.add_zero, Nat.pow_zero, Nat.div_one] at h0
  simp only [bit_testBit, h, h0, bitField]
  omega

/-- A register with two command bits. -/
theorem CommandWrite.of_two {c : Chip} {i : Init} {p : Page} {off v : Nat} {a b : Nat} {bare : Bool} (f : Chip → Chip)
    (hbare : bare = false)
    (heff : ∀ (w : Work) (held : PrLatch), w.writeEffect i held p off v = w.onChip f)
    (hboth : v.testBit a = true → v.testBit b = true → f c = c.refuseMulti i p off)
    (hnone : v.testBit a = false → v.testBit b = false → f c = c) :
    CommandWrite i c p off v (2 ≤ ([a, b].filter v.testBit).length ∨ bare = true) ([a, b].filter v.testBit = [] ∧ bare = false) := by
  subst hbare
  refine CommandWrite.of_chip f heff (fun h => ?_) fun h => ?_
  · obtain ⟨ha, hb⟩ := (two_le_length_filter_two a b v).mp (h.resolve_right (by decide))
    exact hboth ha hb
  · obtain ⟨ha, hb⟩ := (filter_two_eq_nil a b v).mp h.1
    exact hnone ha hb

theorem commandWrite_rcmd (i : Init) (v : Nat) (c : Chip) : CommandWrite i c .qm 0x060 v
    (2 ≤ ([0, 1, 2].filter v.testBit).length ∨ false = true) ([0, 1, 2].filter v.testBit = [] ∧ false = false) where
  refuses h w held _ := by
    have hbits := (two_le_length_filter_three 0 1 2 v).mp (h.resolve_right (by decide))
    have heff : w.writeEffect i held .qm 0x060 v = w.rcmdWrite i v := rfl
    rw [heff, Work.rcmdWrite]
    cases h0 : v.testBit 0 <;> cases h1 : v.testBit 1 <;> cases h2 : v.testBit 2 <;> simp [h0, h1, h2] at hbits ⊢
  ignores h w held _ := by
    obtain ⟨h0, h1, h2⟩ := (filter_three_eq_nil 0 1 2 v).mp h.1
    have heff : w.writeEffect i held .qm 0x060 v = w.rcmdWrite i v := rfl
    rw [heff, Work.rcmdWrite, h0, h1, h2]

theorem commandWrite_qcmd (i : Init) (v : Nat) (c : Chip) : CommandWrite i c .qm 0x088 v
    (2 ≤ ([0, 1, 2].filter v.testBit).length ∨ false = true) ([0, 1, 2].filter v.testBit = [] ∧ false = false) := by
  refine .of_chip (·.qcmdWrite i v) (fun _ _ => rfl) (fun h => ?_) fun h => ?_
  · have hbits := (two_le_length_filter_three 0 1 2 v).mp (h.resolve_right (by decide))
    rw [Chip.qcmdWrite]
    cases h0 : v.testBit 0 <;> cases h1 : v.testBit 1 <;> cases h2 : v.testBit 2 <;> simp [h0, h1, h2] at hbits ⊢
  · obtain ⟨h0, h1, h2⟩ := (filter_three_eq_nil 0 1 2 v).mp h.1
    rw [Chip.qcmdWrite, h0, h1, h2]

theorem commandWrite_bcmd (i : Init) (v : Nat) (c : Chip) (n : Lane) (hbusy : c.pageBusy (.tmap n) = false)
    {bare : Bool} (hbare : bare = false) : CommandWrite i c (.tmap n) 0x054 v
      (2 ≤ ([16, 17, 18].filter v.testBit).length ∨ bare = true) ([16, 17, 18].filter v.testBit = [] ∧ bare = false) := by
  subst hbare
  have hfree : c.get (F.TMAP_BRES_STATUS n) ≠ Status.busy.code := by
    simp only [Chip.pageBusy, Bool.or_eq_false_iff, beq_eq_false_iff_ne] at hbusy
    exact hbusy.1.1
  refine .of_chip (·.bcmdWrite i n v) (fun _ _ => rfl) (fun h => ?_) fun h => ?_
  · have hbits := (two_le_length_filter_three 16 17 18 v).mp (h.resolve_right (by decide))
    have hops : bitField v 16 3 ≠ 0 ∧ bitField v 16 3 ≠ 1 ∧ bitField v 16 3 ≠ 2 ∧ bitField v 16 3 ≠ 4 := by
      rw [bitField_three]
      rcases hbits with ⟨h1, h2⟩ | ⟨h1, h2⟩ | ⟨h1, h2⟩ <;> simp only [h1, h2, bit, ↓reduceIte] <;> omega
    simp [Chip.bcmdWrite, hops, hfree]
  · obtain ⟨h0, h1, h2⟩ := (filter_three_eq_nil 16 17 18 v).mp h.1
    have hops : bitField v 16 3 = 0 := by simp [bitField_three, h0, h1, h2, bit]
    simp [Chip.bcmdWrite, hops]

theorem commandWrite_ldcmd (i : Init) (v : Nat) (c : Chip) (n : Lane) {bare : Bool} (hbare : bare = false) :
    CommandWrite i c (.tmap n) 0x404 v (2 ≤ ([0, 1].filter v.testBit).length ∨ bare = true)
      ([0, 1].filter v.testBit = [] ∧ bare = false) where
  refuses h w held _ := by
    obtain ⟨h0, h1⟩ := (two_le_length_filter_two 0 1 v).mp (h.resolve_right (by simp [hbare]))
    have heff : w.writeEffect i held (.tmap n) 0x404 v = w.ldcmdWrite i n v := rfl
    rw [heff, Work.ldcmdWrite, h0, h1]; rfl
  ignores h w held _ := by
    obtain ⟨h0, h1⟩ := (filter_two_eq_nil 0 1 v).mp h.1
    have heff : w.writeEffect i held (.tmap n) 0x404 v = w.ldcmdWrite i n v := rfl
    rw [heff, Work.ldcmdWrite, h0, h1]; rfl

/-- MITCMD refuses SEND without WRITE too (log entry 10). -/
theorem commandWrite_mitcmd (i : Init) (v : Nat) (c : Chip) (n : Lane) {bare : Bool}
    (hbare : bare = (v.testBit 2 && !v.testBit 1)) : CommandWrite i c (.tmap n) 0x41C v
      (2 ≤ ([0, 1].filter v.testBit).length ∨ bare = true) ([0, 1].filter v.testBit = [] ∧ bare = false) := by
  subst hbare
  refine .of_chip (·.mitcmdWrite i n v) (fun _ _ => rfl) (fun h => ?_) fun h => ?_
  · have hrefused : ((v.testBit 0 && v.testBit 1) || (v.testBit 2 && !v.testBit 1)) = true := by
      rw [two_le_length_filter_two] at h
      simpa using h
    rw [Chip.mitcmdWrite, if_pos hrefused]
  · obtain ⟨h0, h1⟩ := (filter_two_eq_nil 0 1 v).mp h.1
    have h2 : v.testBit 2 = false := by simpa [h1] using h.2
    simp [Chip.mitcmdWrite, h0, h1, h2]

/-- The command registers of R452 with their command bits, the lane's pages being those of `n`. -/
def commandRegisters (n : Lane) : List (Page × Nat × List Nat) :=
  [(.wheel, 0x058, [0, 1]), (.wheel, 0x06C, [0, 1]), (.nbr, 0x080, [0, 1]), (.qm, 0x060, [0, 1, 2]),
    (.qm, 0x088, [0, 1, 2]), (.saggar, 0x098, [0, 1]), (.time, 0x088, [0, 1]), (.txp n, 0x408, [4, 5]),
    (.txp n, 0x418, [8, 9]), (.echo n, 0x04C, [0, 1]), (.slip n, 0x060, [0, 1]), (.tmap n, 0x054, [16, 17, 18]),
    (.tmap n, 0x404, [0, 1]), (.tmap n, 0x41C, [0, 1]), (.spy n, 0x050, [0, 1])]

theorem commandRegisters_inPage (n : Lane) : ∀ x ∈ commandRegisters n, x.2.1 < 0x1000 := by simp [commandRegisters]

/-- How each command register of R452 takes a value, on a page with no command in progress. -/
theorem commandWrite_of_register (i : Init) (v : Nat) (c : Chip) (n : Lane) (x : Page × Nat × List Nat)
    (hx : x ∈ commandRegisters n)
    (hbusy : c.pageBusy x.1 = false) (hhash : x.1 = .saggar → c.keys.hash = none) :
    let bare : Bool := x.1 == .tmap n && x.2.1 == 0x41C && v.testBit 2 && !v.testBit 1
    CommandWrite i c x.1 x.2.1 v (2 ≤ (x.2.2.filter v.testBit).length ∨ bare = true)
      (x.2.2.filter v.testBit = [] ∧ bare = false) := by
  simp only [commandRegisters, List.mem_cons, List.not_mem_nil, or_false] at hx
  rcases hx with rfl | rfl | rfl | rfl | rfl | rfl | rfl | rfl | rfl | rfl | rfl | rfl | rfl | rfl | rfl
  case _ =>
    exact .of_two (·.qcmdQuiet i v) rfl (fun _ _ => rfl) (fun h0 h1 => by simp [Chip.qcmdQuiet, h0, h1])
      fun h0 h1 => by simp [Chip.qcmdQuiet, h0, h1]
  case _ =>
    exact .of_two (·.epcmdWrite i v) rfl (fun _ _ => rfl) (fun h0 h1 => by simp [Chip.epcmdWrite, h0, h1])
      fun h0 h1 => by simp [Chip.epcmdWrite, h0, h1]
  case _ =>
    exact .of_two (·.dmcmdWrite i v) rfl (fun _ _ => rfl)
      (fun h0 h1 => by simp [Chip.dmcmdWrite, mod_four_eq_three_iff, h0, h1])
      fun h0 h1 => by simp [Chip.dmcmdWrite, mod_four_eq_three_iff, h0, h1]
  case _ => exact commandWrite_rcmd i v c
  case _ => exact commandWrite_qcmd i v c
  case _ =>
    have hnone : c.keys.hash = none := hhash rfl
    exact .of_two (·.hcmdWrite i v) rfl (fun _ _ => rfl) (fun h0 h1 => by simp [Chip.hcmdWrite, hnone, h0, h1])
      fun h0 h1 => by simp [Chip.hcmdWrite, h0, h1]
  case _ =>
    exact .of_two (·.tcmdWrite i v) rfl (fun _ _ => rfl) (fun h0 h1 => by simp [Chip.tcmdWrite, h0, h1])
      fun h0 h1 => by simp [Chip.tcmdWrite, h0, h1]
  case _ =>
    exact .of_two (·.glzcmdWrite i n v) rfl (fun _ _ => rfl) (fun h0 h1 => by simp [Chip.glzcmdWrite, h0, h1])
      fun h0 h1 => by simp [Chip.glzcmdWrite, h0, h1]
  case _ =>
    exact .of_two (·.wscmdWrite i n v) rfl (fun _ _ => rfl) (fun h0 h1 => by simp [Chip.wscmdWrite, h0, h1])
      fun h0 h1 => by simp [Chip.wscmdWrite, h0, h1]
  case _ =>
    exact .of_two (·.ecmdWrite i n v) rfl (fun _ _ => rfl) (fun h0 h1 => by simp [Chip.ecmdWrite, h0, h1])
      fun h0 h1 => by simp [Chip.ecmdWrite, h0, h1]
  case _ =>
    have hfree : c.get (F.SLIP_SLRES_STATUS n) ≠ Status.busy.code := by simpa [Chip.pageBusy] using hbusy
    exact .of_two (·.slcmdWrite i n v) rfl (fun _ _ => rfl) (fun h0 h1 => by simp [Chip.slcmdWrite, hfree, h0, h1])
      fun h0 h1 => by simp [Chip.slcmdWrite, h0, h1]
  case _ => exact commandWrite_bcmd i v c n hbusy (by simp)
  case _ => exact commandWrite_ldcmd i v c n (by simp)
  case _ => exact commandWrite_mitcmd i v c n (by simp)
  case _ =>
    exact .of_two (·.spcmdWrite i n v) rfl (fun _ _ => rfl)
      (fun h0 h1 => by simp [Chip.spcmdWrite, mod_four_eq_three_iff, h0, h1])
      fun h0 h1 => by simp [Chip.spcmdWrite, mod_four_eq_three_iff, h0, h1]

/-! The bits of UCMD act in order. -/

theorem NatMap.erase_erase {α : Type} (m : NatMap α) (k : Nat) : (m.erase k).erase k = m.erase k := by
  simp [NatMap.erase, List.filter_filter]

theorem Chip.touch_of_latches {c d : Chip} {i : Init} {p : Page} (h : d.latches = (c.touch i p).latches) : d.touch i p = d := by
  have he : d.latches.erase (latchKey i p) = d.latches := by
    rw [h]; exact NatMap.erase_erase _ _
  unfold Chip.touch Chip.setLatch
  rw [if_pos rfl, he]

/-- `d` has what decides whether accesses are served, and the latches, of `c`. -/
structure Chip.SameService (c d : Chip) : Prop where
  power : d.power = c.power
  stopped : d.stopped = c.stopped
  stage : d.get F.BOOT_BSTAT_STAGE = c.get F.BOOT_BSTAT_STAGE
  latches : d.latches = c.latches

theorem Chip.SameService.refl : c.SameService c := ⟨rfl, rfl, rfl, rfl⟩

theorem Chip.SameService.trans {c d e : Chip} (h : c.SameService d) (h' : d.SameService e) : c.SameService e :=
  ⟨h'.power.trans h.power, h'.stopped.trans h.stopped, h'.stage.trans h.stage, h'.latches.trans h.latches⟩

theorem Chip.SameService.servesTo {c d : Chip} (h : c.SameService d) (r : Region) : d.servesTo i r = c.servesTo i r := by
  simp only [Chip.servesTo, Chip.serves, h.power, h.stopped, h.stage]

theorem Chip.onUart_sameService (u : Dual) (f : Uart → Uart) : c.SameService (c.onUart u f) := by
  cases u <;> exact ⟨rfl, rfl, rfl, rfl⟩

theorem Chip.uartNext_sameService (u : Dual) : c.SameService (c.uartNext u) := by
  unfold Chip.uartNext
  dsimp only
  split
  · exact .refl c
  split
  · exact c.onUart_sameService u _
  split
  · split
    · exact c.onUart_sameService u _
    · exact .refl c
  · exact .refl c

theorem Chip.uartRts_sameService (u : Dual) : c.SameService (c.uartRts u) := by
  unfold Chip.uartRts
  dsimp only
  split
  · split
    · exact c.onUart_sameService u _
    · split
      · exact c.onUart_sameService u _
      · exact .refl c
  · exact .refl c

theorem Chip.sendBrk_sameService (u : Dual) : c.SameService (c.sendBrk u) := by
  unfold Chip.sendBrk
  split
  · exact .refl c
  · exact (c.onUart_sameService u _).trans (Chip.uartNext_sameService _ u)

theorem Chip.rxFlush_sameService (u : Dual) : c.SameService (c.rxFlush u) :=
  (c.onUart_sameService u _).trans (Chip.uartRts_sameService _ u)

theorem Chip.txFlush_sameService (u : Dual) : c.SameService (c.txFlush u) := c.onUart_sameService u _

theorem Chip.uartCntclr_sameService (u : Dual) : c.SameService (c.uartCntclr u) := by
  refine ⟨rfl, rfl, ?_, rfl⟩
  unfold Chip.uartCntclr
  rw [Chip.get_set_other, Chip.get_set_other] <;> cases u <;> decide

theorem Chip.ucmdWrite_sameService (u : Dual) (v : Nat) : c.SameService (c.ucmdWrite u v) := by
  have hiff (d : Chip) (b : Bool) (f : Chip → Chip) (h : d.SameService (f d)) : d.SameService (d.iff b f) := by
    cases b
    · exact .refl d
    · exact h
  unfold Chip.ucmdWrite
  exact (((hiff _ _ _ (Chip.sendBrk_sameService _ u)).trans (hiff _ _ _ (Chip.rxFlush_sameService _ u))).trans
    (hiff _ _ _ (Chip.txFlush_sameService _ u))).trans (hiff _ _ _ (Chip.uartCntclr_sameService _ u))

/-- The write of a value is that of its bits one after another, lowest first. -/
theorem Chip.ucmdWrite_bits (u : Dual) (v : Nat) :
    (((c.ucmdWrite u (v &&& 1)).ucmdWrite u (v &&& 2)).ucmdWrite u (v &&& 4)).ucmdWrite u (v &&& 8) = c.ucmdWrite u v := by
  have hbit (k j : Nat) : (v &&& 2 ^ k).testBit j = (v.testBit j && decide (k = j)) := by
    rw [Nat.testBit_and, Nat.testBit_two_pow]
  have h1 (j : Nat) : (v &&& 1).testBit j = (v.testBit j && decide (0 = j)) := hbit 0 j
  have h2 (j : Nat) : (v &&& 2).testBit j = (v.testBit j && decide (1 = j)) := hbit 1 j
  have h4 (j : Nat) : (v &&& 4).testBit j = (v.testBit j && decide (2 = j)) := hbit 2 j
  have h8 (j : Nat) : (v &&& 8).testBit j = (v.testBit j && decide (3 = j)) := hbit 3 j
  generalize v &&& 1 = v1 at h1
  generalize v &&& 2 = v2 at h2
  generalize v &&& 4 = v4 at h4
  generalize v &&& 8 = v8 at h8
  simp [Chip.ucmdWrite, h1, h2, h4, h8, Chip.iff, -Nat.testBit_zero]

/-- A write of UCMD on a chip that already serves it and holds no latch for the page. -/
theorem exec_ucmd (u : Dual) (v : Nat) (s : State) (hv : v < 2 ^ 32) (ht : s.chip.TakesWrite i (.uart u) 0x078) :
    exec (.registerWrite i ((Page.uart u).base + 0x078) 4 v) s
      = .next (s.onChip fun c => (c.touch i (.uart u)).ucmdWrite u v) := by
  have h := exec_of_gate (exec_registerWrite_of_effect i (.uart u) 0x078 v s (·.ucmdWrite u (v % 2 ^ 32)) (by decide) fun _ => rfl) ht
  rwa [Nat.mod_eq_of_lt hv] at h

/-- A further write of UCMD acts on what the writes before it left. -/
theorem exec_ucmd_next (u : Dual) (v : Nat) (s t : State) (hv : v < 2 ^ 32) (ht : s.chip.TakesWrite i (.uart u) 0x078)
    (h : (s.chip.touch i (.uart u)).SameService t.chip) :
    exec (.registerWrite i ((Page.uart u).base + 0x078) 4 v) t = .next (t.onChip fun c => c.ucmdWrite u v) := by
  have hserves : t.chip.servesTo i (.page (.uart u) 0x078) = true := (h.servesTo i _).trans ht.1
  rw [exec_ucmd i u v t hv ⟨hserves, ht.2⟩]
  simp only [State.onChip, Chip.touch_of_latches h.latches]

end Sys2Proof.Machine

/-- Settles O11: register by register by what its command bits do; UCMD's bits act on chips that go on serving the page. -/
theorem severalCommandsInOneWriteAreRefused : Obligations.SeveralCommandsInOneWriteAreRefused := by
  intro i v s hv
  refine ⟨?_, fun u ht => ?_⟩
  · intro n x hx bare ht hbusy hhash
    obtain ⟨hseveral, hidle⟩ := (commandWrite_of_register i v (s.chip.touch i x.1) n x hx hbusy hhash).completes
      (commandRegisters_inPage n x hx) hv ht
    exact ⟨hseveral, fun hnone hbare => hidle ⟨hnone, hbare⟩⟩
  · have hlt (m : Nat) : v &&& m < 2 ^ 32 := Nat.lt_of_le_of_lt Nat.and_le_left hv
    have h1 := Chip.ucmdWrite_sameService (s.chip.touch i (.uart u)) u (v &&& 1)
    have h2 := h1.trans (Chip.ucmdWrite_sameService _ u (v &&& 2))
    have h3 := h2.trans (Chip.ucmdWrite_sameService _ u (v &&& 4))
    refine ⟨_, _, _, _, exec_ucmd i u _ s (hlt 1) ht, exec_ucmd_next i u _ s _ (hlt 2) ht h1, exec_ucmd_next i u _ s _ (hlt 4) ht h2,
      exec_ucmd_next i u _ s _ (hlt 8) ht h3, ?_⟩
    rw [exec_ucmd i u v s hv ht]
    simp only [State.onChip, Chip.ucmdWrite_bits]
end

section
/-!
PROOFS. What the writes of the pages that can be stopped change, and what a change of ENABLE does (Table 0-9, R9, R447).
-/
open Sys2Proof Sys2Proof.Machine
namespace Sys2Proof.Machine

variable (c : Chip) (i : Init) (p : Page) (n : Lane) (u : Dual)

/-! The control fields of a page, and the fields that are none. -/

/-- PCTL with the carried ENABLE, PEVTEN and the expert lock of a page. -/
def controlFlds (q : Page) : List Fld := [pctlEnable q, pctlSoftreset q, pctlCarried q, pevten q, plock q]

/-- A field beyond the common registers, or one of PEVT, PFAULT and PFCNT. -/
def notControl (f : Fld) : Bool :=
  f.lo < 32 && (0x24 ≤ f.addr % 0x1000 || f.addr % 0x1000 == 0x10 || f.addr % 0x1000 == 0x18 || f.addr % 0x1000 == 0x1C)

theorem control_key_ne {q : Page} {g f : Fld} (hg : g ∈ controlFlds q) (hf : notControl f = true) : g.key ≠ f.key := by
  have hb := Page.base_mod q
  simp only [notControl, Bool.and_eq_true, Bool.or_eq_true, decide_eq_true_eq, beq_iff_eq] at hf
  simp only [controlFlds, List.mem_cons, List.not_mem_nil, or_false] at hg
  rcases hg with rfl | rfl | rfl | rfl | rfl <;>
    simp only [Fld.key, pctlEnable, pctlSoftreset, pctlCarried, pevten, plock] <;> omega

theorem Chip.SameBut.get_control {c d : Chip} {fs : List Fld} (h : c.SameBut d fs) (hfs : ∀ f ∈ fs, notControl f = true)
    {q : Page} {g : Fld} (hg : g ∈ controlFlds q) : d.get g = c.get g :=
  h g fun f hf => control_key_ne hg (hfs f hf)

theorem Chip.SameBut.and_then {c d e : Chip} {fs : List Fld} (h : c.SameBut d fs) (h' : d.SameBut e fs) : c.SameBut e fs :=
  (h.trans h').mono (by simp)

theorem Chip.SameBut.of_get {c d : Chip} {fs : List Fld} (h : d.get = c.get) : c.SameBut d fs := fun g _ => congrFun h g

theorem Chip.SameBut.foldl {α : Type} {fs : List Fld} (f : Chip → α → Chip)
    (hf : ∀ (x : Chip) (a : α), x.SameBut (f x a) fs) (l : List α) :
    c.SameBut (l.foldl f c) fs := by
  induction l generalizing c with
  | nil => exact .refl c fs
  | cons a l ih => exact (hf c a).and_then (ih _)

theorem Chip.SameBut.iff {fs : List Fld} (b : Bool) {f : Chip → Chip} (h : c.SameBut (f c) fs) : c.SameBut (c.iff b f) fs := by
  cases b
  · exact .refl c fs
  · exact h

/-- The fields of the register at an offset. -/
@[irreducible] def regFlds (p : Page) (off : Nat) : List Fld :=
  match findReg p off with
  | some r => r.slices.map (·.fld)
  | none => []

theorem Chip.store_sameBut (off v : Nat) : c.SameBut (c.store p off v) (regFlds p off) := by
  intro g hg
  cases hr : findReg p off with
  | none => simp [Chip.store, hr]
  | some r =>
    refine Chip.get_store_other c g p off v r hr fun x hx => hg x.fld ?_
    simp only [regFlds, hr]
    exact List.mem_map_of_mem hx

/-! What the blocks' own updates change. -/

/-- What the canceller shows of its state. -/
def echoFlds (n : Lane) : List Fld :=
  [F.ECHO_ESTAT_STATE n, F.ECHO_ESTAT_FDOK n, F.ECHO_ESTAT_REPON n, F.ECHO_ESTAT_DIGON n, F.ECHO_COUNTS3_WITHDRAW n]
    ++ evtFlds (.echo n)

theorem Chip.sameBut_set_mem {fs : List Fld} (f : Fld) (v : Nat) (h : f ∈ fs) : c.SameBut (c.set f v) fs :=
  (Chip.sameBut_set c f v).mono (by simpa using h)

theorem Chip.showEcho_sameBut : c.SameBut (c.showEcho n) (echoFlds n) := by
  have hcount (d : Chip) : d.SameBut (d.count (F.ECHO_COUNTS3_WITHDRAW n) 1) (echoFlds n) :=
    Chip.sameBut_set_mem d _ _ (by simp [echoFlds])
  have hraise (d : Chip) : d.SameBut (d.raise (.echo n) 0) (echoFlds n) :=
    (Chip.raise_sameBut d _ _).mono (by simp +contextual [echoFlds])
  unfold Chip.showEcho
  extract_lets e st nr nd ok was chg c1 c2
  have h1 : c.SameBut c1 (echoFlds n) :=
    (((Chip.sameBut_set_mem c _ _ (by simp [echoFlds])).and_then (Chip.sameBut_set_mem _ _ _ (by simp [echoFlds]))).and_then
      (Chip.sameBut_set_mem _ _ _ (by simp [echoFlds]))).and_then (Chip.sameBut_set_mem _ _ _ (by simp [echoFlds]))
  exact (h1.and_then (.iff c1 _ (hcount c1))).and_then (.iff c2 _ (hraise c2))

theorem Chip.onEcho_sameBut (f : Echo → Echo) (fs : List Fld) : c.SameBut (c.onEcho n f) fs :=
  .of_get (funext fun g => Chip.get_onEcho c n f g)

theorem Chip.setEcho_sameBut (st : Nat) : c.SameBut (c.setEcho n st) (echoFlds n) :=
  (Chip.onEcho_sameBut c n _ _).and_then (Chip.showEcho_sameBut _ n)

theorem Chip.askFull_sameBut (st : Nat) : c.SameBut (c.askFull n st) (echoFlds n) :=
  (Chip.onEcho_sameBut c n _ _).and_then (Chip.setEcho_sameBut _ n st)

theorem Chip.echoChange_sameBut : c.SameBut (c.echoChange n) (echoFlds n) := by
  unfold Chip.echoChange
  split
  · exact .refl c _
  · exact Chip.askFull_sameBut c n 1

theorem Chip.ectlSettle_sameBut : c.SameBut (c.ectlSettle n) (echoFlds n) := by
  unfold Chip.ectlSettle
  dsimp only
  split
  · exact (Chip.onEcho_sameBut c n _ _).and_then (Chip.showEcho_sameBut _ n)
  split
  · exact Chip.askFull_sameBut c n 1
  · exact Chip.showEcho_sameBut c n

/-- What a change of the gains of a lane moves. -/
def gainFlds (n : Lane) : List Fld :=
  [F.TXP_PGAIN_EFF n 0, F.TXP_PGAIN_EFF n 1, F.TXP_PGAIN_EFF n 2] ++ faultFlds (.txp n)

theorem Chip.recomputeEff_sameBut (was : List Bool) : c.SameBut (c.recomputeEff n was) (gainFlds n) := by
  have hport (d : Chip) (q : Nat) (z : Int) (b : Bool) (hq : q ∈ [0, 1, 2]) :
      d.SameBut (if b then (d.setInt (F.TXP_PGAIN_EFF n q) z).pfaultSet (.txp n) 2 else d.setInt (F.TXP_PGAIN_EFF n q) z)
        (gainFlds n) := by
    have hset : d.SameBut (d.setInt (F.TXP_PGAIN_EFF n q) z) (gainFlds n) := by
      refine Chip.sameBut_set_mem d _ _ ?_
      simp only [List.mem_cons, List.not_mem_nil, or_false] at hq
      rcases hq with rfl | rfl | rfl <;> simp [gainFlds]
    split
    · exact hset.and_then ((Chip.pfaultSet_sameBut _ _ _).mono (by simp +contextual [gainFlds]))
    · exact hset
  unfold Chip.recomputeEff
  simp only [List.foldl_cons, List.foldl_nil]
  exact ((hport c 0 _ _ (by decide)).and_then (hport _ 1 _ _ (by decide))).and_then (hport _ 2 _ _ (by decide))

/-- What the end of a reception or an emptied slip buffer may count or answer. -/
def slipFlds (n : Lane) : List Fld := [F.SLIP_DISC1_AGED n, F.SLIP_SLRES_STATUS n]

theorem Chip.rxpSettle_sameBut : c.SameBut (c.rxpSettle n) (slipFlds n) := by
  refine .iff c _ fun g hg => ?_
  unfold Chip.dropRx
  rw [Chip.get_closeRx_other _ _ _ (hg _ (by simp [slipFlds])) (hg _ (by simp [slipFlds]))]
  simp [Chip.unfreeze, Chip.noteGain]

theorem Chip.slipReset_sameBut : c.SameBut (c.slipReset n) (slipFlds n) := by
  intro g hg
  unfold Chip.slipReset Chip.slipFree
  split
  · exact Chip.get_slipFreeNow_other c n _ g (hg _ (by simp [slipFlds])) (hg _ (by simp [slipFlds]))
  · simp

theorem Chip.spyEnd_sameBut : c.SameBut (c.spyEnd n) (evtFlds (.spy n)) := by
  unfold Chip.spyEnd
  dsimp only
  split
  · exact (Chip.SameBut.of_get (funext fun g => Chip.get_onSpy c n _ g)).and_then (Chip.raise_sameBut _ _ _)
  · exact .refl c _

theorem Chip.onUart_sameBut (f : Uart → Uart) (fs : List Fld) : c.SameBut (c.onUart u f) fs :=
  .of_regs fs (by simp)

theorem Chip.uartNext_sameBut (fs : List Fld) : c.SameBut (c.uartNext u) fs := by
  unfold Chip.uartNext
  dsimp only
  split
  · exact .refl c fs
  split
  · exact Chip.onUart_sameBut c u _ fs
  split
  · split
    · exact Chip.onUart_sameBut c u _ fs
    · exact .refl c fs
  · exact .refl c fs

theorem Chip.uartRts_sameBut (fs : List Fld) : c.SameBut (c.uartRts u) fs := by
  unfold Chip.uartRts
  dsimp only
  split
  · split
    · exact Chip.onUart_sameBut c u _ fs
    split
    · exact Chip.onUart_sameBut c u _ fs
    · exact .refl c fs
  · exact .refl c fs

/-- What the receive DMA of a UART moves and raises. -/
def dmaFlds (u : Dual) : List Fld :=
  [F.UART_RXWPTR_PTR u, F.UART_RXRING_DMAEN u] ++ evtFlds (.uart u) ++ faultFlds (.uart u)

theorem Work.closeSlot_sameBut (w : Work) (tmo brk : Bool) (k : Nat) :
    w.chip.SameBut (w.closeSlot u tmo brk k).chip (dmaFlds u) := by
  have hraise (d : Chip) : d.SameBut (d.raise (.uart u) 0) (dmaFlds u) := (Chip.raise_sameBut d _ _).mono (by simp +contextual [dmaFlds])
  exact ((Chip.sameBut_set_mem w.chip _ _ (by simp [dmaFlds])).and_then (Chip.onUart_sameBut _ u _ _)).and_then (hraise _)

theorem Work.dmaOne_sameBut (w : Work) : w.chip.SameBut (w.dmaOne u).chip (dmaFlds u) := by
  unfold Work.dmaOne
  dsimp only
  split
  · exact .refl _ _
  split
  · exact .refl _ _
  split
  · exact (Chip.onUart_sameBut w.chip u _ _).and_then (Work.closeSlot_sameBut u _ _ _ _)
  · exact Chip.onUart_sameBut w.chip u _ _

theorem Work.dmaDrain_sameBut (w : Work) : w.chip.SameBut (w.dmaDrain u).chip (dmaFlds u) := by
  have hfold (l : List Nat) : ∀ w : Work, w.chip.SameBut (l.foldl (fun w _ => w.dmaOne u) w).chip (dmaFlds u) := by
    induction l with
    | nil => exact fun w => .refl _ _
    | cons a l ih => exact fun w => (Work.dmaOne_sameBut u w).and_then (ih _)
  unfold Work.dmaDrain
  split
  · exact (hfold _ w).and_then (Chip.uartRts_sameBut _ u _)
  · exact .refl _ _

/-! What a write to a register of a page that can be stopped changes. -/

/-- What the side effects of a write to such a page, or of its stopping, may change beyond the register written. -/
def sideFlds : Page → List Fld
  | .txp n => gainFlds n ++ echoFlds n
  | .echo n => echoFlds n
  | .rxp n | .slip n => slipFlds n
  | .spy n => evtFlds (.spy n)
  | .uart u => dmaFlds u
  | .twi u => [F.TWI_TSTAT_BUS u, F.TWI_TSTAT_TRIES u]
  | _ => []

/-- The offsets of the ports and command registers of such a page, which hold no RW field. -/
def actOffs : Page → List Nat
  | .txp _ => [0x404, 0x408, 0x414, 0x418]
  | .echo _ => [0x04C, 0x414, 0x418]
  | .rxp _ => [0x40C]
  | .slip _ => [0x060]
  | .tmap _ => [0x054, 0x404, 0x41C]
  | .spy _ => [0x050]
  | .uart _ => [0x054, 0x078]
  | .twi _ => [0x04C, 0x050]
  | _ => []

theorem Chip.store_then {c d : Chip} {p : Page} {off v : Nat} (h : (c.store p off v).SameBut d (sideFlds p)) :
    c.SameBut d (regFlds p off ++ sideFlds p) := (Chip.store_sameBut c p off v).trans h

theorem Chip.portMoved_sameBut (fs : List Fld) : c.SameBut (c.portMoved n) fs := Chip.onEcho_sameBut c n _ fs

theorem Chip.txctlWrite_sameBut (val : Nat) : c.SameBut (c.txctlWrite n val) (regFlds (.txp n) 0x040 ++ sideFlds (.txp n)) := by
  unfold Chip.txctlWrite
  extract_lets old c1 held c2
  have h1 : c.SameBut c2 (regFlds (.txp n) 0x040 ++ sideFlds (.txp n)) :=
    Chip.store_then (v := val) (.of_get (funext fun g => by simp [c2, c1]))
  split
  · exact h1.and_then ((Chip.portMoved_sameBut _ n _).and_then (Chip.onEcho_sameBut _ n _ _))
  · exact h1

theorem Chip.gainWrite_sameBut (q : Option Nat) (val off : Nat) (hoff : off = match q with
      | none => 0x044
      | some q => 0x050 + 4 * q) :
    c.SameBut (c.gainWrite n q val) (regFlds (.txp n) off ++ sideFlds (.txp n)) := by
  subst hoff
  have hmoved (d : Chip) (b : Bool) (fs : List Fld) : d.SameBut (d.iff b (·.portMoved n)) fs := .iff d b (Chip.portMoved_sameBut d n fs)
  have hgain (d : Chip) (was : List Bool) : d.SameBut (d.recomputeEff n was) (sideFlds (.txp n)) :=
    (Chip.recomputeEff_sameBut d n was).mono (by simp +contextual [sideFlds])
  have hecho (d : Chip) : d.SameBut (d.echoChange n) (sideFlds (.txp n)) :=
    (Chip.echoChange_sameBut d n).mono (by simp +contextual [sideFlds])
  unfold Chip.gainWrite
  extract_lets was off moved
  cases q with
  | none => exact Chip.store_then ((hgain _ _).and_then (hmoved _ _ _))
  | some q =>
    dsimp only
    split
    · exact Chip.store_then (((hgain _ _).and_then (hmoved _ _ _)).and_then (hecho _))
    · exact Chip.store_then ((hgain _ _).and_then (hmoved _ _ _))

theorem Chip.tgainWrite_sameBut (val : Nat) : c.SameBut (c.tgainWrite n val) (regFlds (.echo n) 0x404 ++ sideFlds (.echo n)) := by
  have hmem : F.ECHO_TGAIN_TGEFF n ∈ regFlds (.echo n) 0x404 := by
    have hreg : regFlds (.echo n) 0x404 = [F.ECHO_TGAIN_CODE n, F.ECHO_TGAIN_TGEFF n] := by unfold regFlds; rfl
    simp [hreg]
  exact ((Chip.store_sameBut c _ _ val).mono (by simp +contextual)).and_then
    (Chip.sameBut_set_mem _ _ _ (List.mem_append_left _ hmem))

theorem Work.laneEffect_sameBut (w : Work) (off val : Nat) (hs : stoppable p = true) (hact : off ∉ actOffs p) :
    w.chip.SameBut (w.laneEffect i p off val).chip (regFlds p off ++ sideFlds p) := by
  unfold Work.laneEffect
  split
  all_goals try exact absurd hs Bool.false_ne_true
  all_goals try (simp [actOffs] at hact; done)
  all_goals dsimp only [Work.onChip]
  · exact Chip.txctlWrite_sameBut w.chip _ val
  · exact Chip.gainWrite_sameBut w.chip _ none val _ rfl
  · exact Chip.store_then ((Chip.echoChange_sameBut _ _).mono (by simp +contextual [sideFlds]))
  · exact Chip.gainWrite_sameBut w.chip _ (some 0) val _ rfl
  · exact Chip.gainWrite_sameBut w.chip _ (some 1) val _ rfl
  · exact Chip.gainWrite_sameBut w.chip _ (some 2) val _ rfl
  · exact Chip.store_then (Chip.ectlSettle_sameBut _ _)
  · exact Chip.tgainWrite_sameBut w.chip _ val
  · exact Chip.store_then (Chip.showEcho_sameBut _ _)
  · exact Chip.store_then (Chip.rxpSettle_sameBut _ _)
  · exact Chip.store_then (.iff _ _ (Chip.slipReset_sameBut _ _))
  · exact Chip.store_then (.refl _ _)

theorem Work.rxringWrite_sameBut (w : Work) (val : Nat) :
    w.chip.SameBut (w.rxringWrite u val).chip (regFlds (.uart u) 0x068 ++ sideFlds (.uart u)) := by
  have hfault (d : Chip) : d.SameBut ((d.setFlag (F.UART_RXRING_DMAEN u) false).pfaultSet (.uart u) 3) (dmaFlds u) :=
    (Chip.sameBut_set_mem d _ _ (by simp [dmaFlds])).and_then
      ((Chip.pfaultSet_sameBut _ _ _).mono (by simp +contextual [dmaFlds]))
  unfold Work.rxringWrite
  refine Chip.SameBut.and_then (d := _) ?_ ((Work.dmaDrain_sameBut u _).mono (by simp +contextual [sideFlds]))
  dsimp only [Work.onChip]
  split
  · exact Chip.store_then (hfault _)
  · exact Chip.store_then (.refl _ _)

theorem Work.hubEffect_sameBut (w : Work) (off val : Nat) (hs : stoppable p = true) (hl : p.lane? = none)
    (hact : off ∉ actOffs p) : w.chip.SameBut (w.hubEffect i p off val).chip (regFlds p off ++ sideFlds p) := by
  unfold Work.hubEffect
  split
  all_goals try exact absurd hs Bool.false_ne_true
  all_goals try (simp [actOffs] at hact; done)
  all_goals dsimp only [Work.onChip]
  · exact Chip.store_then ((Chip.uartRts_sameBut _ _ _).and_then (Chip.uartNext_sameBut _ _ _))
  · exact Chip.store_then (Chip.uartRts_sameBut _ _ _)
  · exact Work.rxringWrite_sameBut _ w val
  · exact Chip.store_then (Work.dmaDrain_sameBut _ ⟨w.mem, w.chip.store (.uart _) 0x070 val, w.writes⟩)
  · have hmbx : p ≠ .mbx := by rintro rfl; cases hs
    have hkeys : p ≠ .keys := by rintro rfl; cases hs
    simp only [hmbx, hkeys, false_and, ↓reduceIte]
    exact Chip.store_then (.refl _ _)

/-! The registers of a page that can be stopped, as a soft reset goes through them. -/

/-- Whether the registers of a page stand once each, beyond the common ones and outside pairs, hold no control field, and are no
port, command register or CNTCLR where they have an RW field. -/
def tableOk (p : Page) : Bool := (pageRegs p).all fun r =>
  !r.pr && findReg p r.off == some r && 0x40 ≤ r.off && r.slices.all (fun x => notControl x.fld)
    && (!r.slices.any (fun s => s.fld.ty == .rw) || (cntclrOff p != some r.off && !(actOffs p).contains r.off))

theorem tableOk_of_stoppable (hs : stoppable p = true) : tableOk p = true := by
  cases p
  case txp n | rxp n | echo n | slip n | tmap n | spy n => cases n <;> decide
  case uart u | twi u => cases u <;> decide
  all_goals cases hs
end Sys2Proof.Machine
end

section
/-!
PROOFS. Soft reset, stopping and running, and the writes of the common registers (R9 to R11, R412, R447, R448).
-/
open Sys2Proof Sys2Proof.Machine
namespace Sys2Proof.Machine

variable (c : Chip) (i : Init) (p : Page) (n : Lane) (u : Dual)

/-! Going through a page's registers (R9). -/

theorem tableOk_reg {p : Page} {r : Reg} (hs : stoppable p = true) (hr : r ∈ pageRegs p) :
    r.pr = false ∧ findReg p r.off = some r ∧ 0x40 ≤ r.off ∧ (∀ x ∈ r.slices, notControl x.fld = true)
      ∧ (r.slices.any (fun s => s.fld.ty == .rw) = true → cntclrOff p ≠ some r.off ∧ r.off ∉ actOffs p) := by
  have h := List.all_eq_true.mp (tableOk_of_stoppable p hs) r hr
  simp only [Bool.and_eq_true, Bool.or_eq_true, Bool.not_eq_true', beq_iff_eq, decide_eq_true_eq, List.all_eq_true,
    bne_iff_ne, ne_eq, List.contains_eq_mem, decide_eq_false_iff_not] at h
  obtain ⟨⟨⟨⟨hpr, hfind⟩, hoff⟩, hflds⟩, hrw⟩ := h
  exact ⟨hpr, hfind, hoff, hflds, fun h => hrw.resolve_left (by simp [h])⟩

/-- Beyond the common registers, CNTCLR and the pairs, a write has the effect of its lane or hub register. -/
theorem Work.writeEffect_beyond (w : Work) (held : PrLatch) (off val : Nat) (h40 : 0x40 ≤ off) (hcnt : cntclrOff p ≠ some off)
    (hpr : (findReg p off).any (fun r => r.pr) = false) : w.writeEffect i held p off val =
      if p.lane?.isSome then w.laneEffect i p off val else w.hubEffect i p off val := by
  unfold Work.writeEffect
  dsimp only
  rw [if_neg (by omega), if_neg (by omega), if_neg (by omega), if_neg (by omega), if_neg (by omega), if_neg (by omega),
    if_neg hcnt, hpr]
  simp only [Bool.false_eq_true, ↓reduceIte]

/-- The return of a register to its reset value changes its fields and what its write may change beside. -/
theorem Work.resetReg_sameBut (w : Work) (r : Reg) (hs : stoppable p = true) (hr : r ∈ pageRegs p) :
    w.chip.SameBut (w.resetReg p r).chip (r.slices.map (·.fld) ++ sideFlds p) := by
  obtain ⟨hpr, hfind, hoff, -, hrw⟩ := tableOk_reg hs hr
  have hreg : regFlds p r.off = r.slices.map (·.fld) := by unfold regFlds; rw [hfind]
  have hnbr : p ≠ .nbr := by rintro rfl; cases hs
  unfold Work.resetReg
  split
  next => exact .refl _ _
  next hany =>
    obtain ⟨hcnt, hact⟩ := hrw (by simpa using hany)
    rw [if_neg (by simp [hpr]), if_neg (by simp [hnbr]),
      Work.writeEffect_beyond _ _ _ _ _ _ hoff hcnt (by simp [hfind, hpr]), ← hreg]
    split
    next => exact Work.laneEffect_sameBut .core3 p w r.off _ hs hact
    next hlane => exact Work.hubEffect_sameBut .core3 p w r.off _ hs (by simpa using hlane) hact

theorem sideFlds_notControl : ∀ f ∈ sideFlds p, notControl f = true := by
  cases p
  case txp n | echo n | rxp n | slip n | spy n => cases n <;> decide
  case uart u | twi u => cases u <;> decide
  all_goals simp [sideFlds]

/-- All registers of a page go to their reset values. -/
def Work.resetRegs (w : Work) (l : List Reg) : Work := l.foldl (fun w r => w.resetReg p r) w

theorem Work.get_resetRegs_other (w : Work) (l : List Reg) (g : Fld) (hs : stoppable p = true) (hl : ∀ r ∈ l, r ∈ pageRegs p)
    (hregs : ∀ r ∈ l, ∀ x ∈ r.slices, g.key ≠ x.fld.key) (hside : ∀ f ∈ sideFlds p, g.key ≠ f.key) :
    (w.resetRegs p l).chip.get g = w.chip.get g := by
  induction l generalizing w with
  | nil => rfl
  | cons r l ih =>
    have hstep : (w.resetReg p r).chip.get g = w.chip.get g := by
      refine Work.resetReg_sameBut p w r hs (hl r List.mem_cons_self) g fun f hf => ?_
      rcases List.mem_append.mp hf with hf | hf
      · obtain ⟨x, hx, rfl⟩ := List.mem_map.mp hf
        exact hregs r List.mem_cons_self x hx
      · exact hside f hf
    rw [← hstep]
    exact ih (w.resetReg p r) (fun r' h => hl r' (List.mem_cons_of_mem _ h)) fun r' h => hregs r' (List.mem_cons_of_mem _ h)

theorem Work.get_resetRegs_control (w : Work) (hs : stoppable p = true) {q : Page} {g : Fld} (hg : g ∈ controlFlds q) :
    (w.resetRegs p (pageRegs p)).chip.get g = w.chip.get g := by
  refine Work.get_resetRegs_other p w _ g hs (fun _ h => h) (fun r hr x hx => ?_) fun f hf =>
    control_key_ne hg (sideFlds_notControl p f hf)
  obtain ⟨-, -, -, hflds, -⟩ := tableOk_reg hs hr
  exact control_key_ne hg (hflds x hx)

/-- A field that register `r` returns to `v`, and that no later register touches, is at `v` in the end. -/
theorem Work.get_resetRegs_at (w : Work) (l1 l2 : List Reg) (r : Reg) (g : Fld) (v : Nat) (hs : stoppable p = true)
    (hset : ∀ x : Work, (x.resetReg p r).chip.get g = v) (hl : ∀ r ∈ l2, r ∈ pageRegs p)
    (hregs : ∀ r ∈ l2, ∀ x ∈ r.slices, g.key ≠ x.fld.key) (hside : ∀ f ∈ sideFlds p, g.key ≠ f.key) :
    (w.resetRegs p (l1 ++ r :: l2)).chip.get g = v := by
  unfold Work.resetRegs
  rw [List.foldl_append, List.foldl_cons, ← hset (l1.foldl (fun w r => w.resetReg p r) w)]
  exact Work.get_resetRegs_other p _ l2 g hs hl hregs hside

/-! ENABLE (R447). -/

theorem Chip.setEnable_same (b : Bool) (h : stoppable p = false ∨ c.flag (pctlEnable p) = b) : c.setEnable p b = c := by
  unfold Chip.setEnable
  rw [if_pos (by simpa using h)]

/-- A new value of ENABLE stands, and the block does what Table 0-9 states. -/
theorem Chip.setEnable_changes (b : Bool) (hs : stoppable p = true) (h : c.flag (pctlEnable p) ≠ b) :
    (c.setFlag (pctlEnable p) b).SameBut (c.setEnable p b) (sideFlds p) := by
  unfold Chip.setEnable
  rw [if_neg (by simp [hs, h])]
  dsimp only
  split
  · exact Chip.ectlSettle_sameBut _ _
  · exact .iff _ _ (Chip.slipReset_sameBut _ _)
  · exact .iff _ _ (Chip.spyEnd_sameBut _ _)
  · exact Chip.rxpSettle_sameBut _ _
  · exact .iff _ _ (Chip.portMoved_sameBut _ _ _)
  · exact Chip.uartNext_sameBut _ _ _
  · exact .refl _ _

theorem Chip.setEnable_sameBut (b : Bool) : c.SameBut (c.setEnable p b) (pctlEnable p :: sideFlds p) := by
  by_cases h : stoppable p = true ∧ c.flag (pctlEnable p) ≠ b
  · exact (Chip.sameBut_set c (pctlEnable p) _).trans (Chip.setEnable_changes c p b h.1 h.2)
  · rw [Chip.setEnable_same c p b (by simpa [Decidable.or_iff_not_imp_left] using h)]
    exact .refl c _

theorem Chip.flag_setEnable (b : Bool) (hs : stoppable p = true) : (c.setEnable p b).flag (pctlEnable p) = b := by
  by_cases h : c.flag (pctlEnable p) = b
  · rw [Chip.setEnable_same c p b (.inr h), h]
  · have hget := (Chip.setEnable_changes c p b hs h).get_control
      (sideFlds_notControl p) (q := p) (g := pctlEnable p) (by simp [controlFlds])
    rw [Chip.flag_congr _ _ _ hget]
    exact Chip.flag_setFlag_same c _ b Nat.zero_lt_one

/-! The end of a soft reset. -/

theorem Chip.sameBut_resetFld (f : Fld) : c.SameBut (c.resetFld f) [f] :=
  fun g hg => Chip.get_resetFld_other c f g (hg f List.mem_cons_self)

/-- The fields that the end of a soft reset clears. -/
def endedFlds (p : Page) : List Fld := [pevten p, pevt p, plock p, pctlSoftreset p, pctlCarried p]

/-- Those fields at their reset values. -/
def Chip.controlCleared : Chip := (endedFlds p).foldl Chip.resetFld c

theorem Chip.get_resetFld_zero (f g : Fld) (hr : g.reset = 0) (h : c.get g = 0 ∨ g = f) : (c.resetFld f).get g = 0 := by
  by_cases hk : g.key = f.key
  · simp [Chip.get, Chip.resetFld, hk, hr]
  · rw [Chip.get_resetFld_other c f g hk]
    exact h.resolve_right fun e => hk (e ▸ rfl)

theorem Chip.get_resetFlds (l : List Fld) (g : Fld) (hr : g.reset = 0) (h : c.get g = 0 ∨ g ∈ l) :
    (l.foldl Chip.resetFld c).get g = 0 := by
  induction l generalizing c with
  | nil => exact h.resolve_right (by simp)
  | cons f l ih =>
    refine ih (c.resetFld f) ?_
    rcases h with h | h
    · exact .inl (Chip.get_resetFld_zero c f g hr (.inl h))
    rcases List.mem_cons.mp h with h | h
    · exact .inl (Chip.get_resetFld_zero c f g hr (.inr h))
    · exact .inr h

theorem Chip.get_controlCleared {g : Fld} (hg : g ∈ endedFlds p) : (c.controlCleared p).get g = 0 := by
  refine Chip.get_resetFlds c _ g ?_ (.inr hg)
  simp only [endedFlds, List.mem_cons, List.not_mem_nil, or_false] at hg
  rcases hg with rfl | rfl | rfl | rfl | rfl <;> rfl

theorem Chip.controlCleared_sameBut : c.SameBut (c.controlCleared p) (endedFlds p) := by
  have h (l : List Fld) : ∀ d : Chip, d.SameBut (l.foldl Chip.resetFld d) l := by
    induction l with
    | nil => exact fun d => .refl d _
    | cons f l ih => exact fun d => (Chip.sameBut_resetFld d f).trans (ih _)
  exact h _ c

theorem pctlCarried_key_ne : ∀ f ∈ [pevten p, pevt p, plock p], (pctlCarried p).key ≠ f.key := by
  intro f hf
  simp only [List.mem_cons, List.not_mem_nil, or_false] at hf
  rcases hf with rfl | rfl | rfl <;> simp only [Fld.key, pctlCarried, pevten, pevt, plock] <;> omega

theorem pctlEnable_key_ne : ∀ g ∈ [pctlSoftreset p, pevten p, plock p], g.key ≠ (pctlEnable p).key := by
  intro g hg
  simp only [List.mem_cons, List.not_mem_nil, or_false] at hg
  rcases hg with rfl | rfl | rfl <;> simp only [Fld.key, pctlEnable, pctlSoftreset, pevten, plock] <;> omega

/-- The recovery that a two-wire page starts at the end of its soft reset (R424). -/
def Chip.startRecovery : Page → Chip
  | .twi u => ((c.set (F.TWI_TSTAT_BUS u) 2).set (F.TWI_TSTAT_TRIES u) 0).onTwi u fun x => { x with midByte := false }
  | _ => c

/-- The end of a soft reset, once the registers have their reset values. -/
def Chip.softEnd : Chip := ((c.controlCleared p).setEnable p (c.flag (pctlCarried p))).startRecovery p

theorem Work.softReset_eq (w : Work) : w.softReset p = (w.resetRegs p (pageRegs p)).onChip (·.softEnd p) := by
  have hcarried (d : Chip) : (((d.resetFld (pevten p)).resetFld (pevt p)).resetFld (plock p)).flag (pctlCarried p)
      = d.flag (pctlCarried p) := by
    refine Chip.flag_congr _ _ _ ?_
    rw [Chip.get_resetFld_other _ _ _ (pctlCarried_key_ne p _ (by simp)),
      Chip.get_resetFld_other _ _ _ (pctlCarried_key_ne p _ (by simp)),
      Chip.get_resetFld_other _ _ _ (pctlCarried_key_ne p _ (by simp))]
  unfold Work.softReset Chip.softEnd
  simp only [hcarried]
  rfl

theorem Chip.startRecovery_sameBut : c.SameBut (c.startRecovery p) (sideFlds p) := by
  cases p
  case twi u =>
    exact ((Chip.sameBut_set_mem c _ _ (by simp [sideFlds])).and_then (Chip.sameBut_set_mem _ _ _ (by simp [sideFlds]))).and_then
      (.of_get (funext fun g => Chip.get_onTwi _ u _ g))
  all_goals exact .refl c _

theorem Chip.softEnd_sameBut_cleared : (c.controlCleared p).SameBut (c.softEnd p) (pctlEnable p :: sideFlds p) :=
  (Chip.setEnable_sameBut _ p _).and_then ((Chip.startRecovery_sameBut _ p).mono (by simp +contextual))

theorem Chip.softEnd_sameBut : c.SameBut (c.softEnd p) (endedFlds p ++ pctlEnable p :: sideFlds p) :=
  (Chip.controlCleared_sameBut c p).trans (Chip.softEnd_sameBut_cleared c p)

theorem Chip.softEnd_of_unstoppable (hs : stoppable p = false) : c.softEnd p = c.controlCleared p := by
  unfold Chip.softEnd
  rw [Chip.setEnable_same _ _ _ (.inl hs)]
  cases p
  case twi u => cases hs
  all_goals rfl

theorem Chip.get_softEnd_control {g : Fld} (hg : g ∈ [pctlSoftreset p, pevten p, plock p]) : (c.softEnd p).get g = 0 := by
  have hended : g ∈ endedFlds p := by
    simp only [List.mem_cons, List.not_mem_nil, or_false] at hg
    rcases hg with rfl | rfl | rfl <;> simp [endedFlds]
  have hcontrol : g ∈ controlFlds p := by
    simp only [List.mem_cons, List.not_mem_nil, or_false] at hg
    rcases hg with rfl | rfl | rfl <;> simp [controlFlds]
  rw [Chip.softEnd_sameBut_cleared c p g fun f hf => ?_, Chip.get_controlCleared c p hended]
  rcases List.mem_cons.mp hf with rfl | hf
  · exact pctlEnable_key_ne p g hg
  · exact control_key_ne hcontrol (sideFlds_notControl p f hf)

theorem Chip.flag_softEnd_enable (hs : stoppable p = true) : (c.softEnd p).flag (pctlEnable p) = c.flag (pctlCarried p) := by
  have hget := (Chip.startRecovery_sameBut ((c.controlCleared p).setEnable p (c.flag (pctlCarried p))) p).get_control
    (sideFlds_notControl p) (q := p) (g := pctlEnable p) (by simp [controlFlds])
  exact (Chip.flag_congr _ _ _ hget).trans (Chip.flag_setEnable _ p _ hs)

theorem execSoftResetComplete_due (s : State) (h1 : s.chip.flag (pctlSoftreset p) = true) (h2 : s.chip.pageBusy p = false)
    (h3 : s.chip.stopped = false) (h4 : s.chip.power ≠ .reset) :
    exec (.softResetComplete p) s = .next (s.onWork fun w => w.softReset p) := by
  change Host.Outcome.next (s.onWork fun w =>
    if w.chip.flag (pctlSoftreset p) && !w.chip.pageBusy p && !w.chip.stopped && w.chip.power != .reset then w.softReset p else w) = _
  simp [State.onWork, h1, h2, h3, h4]

theorem sys_resetRegs (w : Work) : w.resetRegs .sys (pageRegs .sys) = w.onChip (·.store .sys 0x04C 0) := rfl

/-- A register that is one RW field from bit 0 up, written with that field's reset value. -/
theorem Chip.get_storeSlice_reset (f : Fld) (v w : Nat) (hty : f.ty = .rw) (hw : f.width = w) (hv : v % 2 ^ w = f.reset)
    (henc : c.encOk f f.reset = true) : (c.storeSlice v ⟨f, 0, 0, w⟩).get f = f.reset := by
  rw [Chip.storeSlice_whole c f v 0 w hty hw, bitField_zero, hv, if_pos henc, Chip.get_set_same, hw, ← hv, Nat.mod_mod]

theorem qspit_dummy (w : Work) :
    (w.resetRegs .qspit (pageRegs .qspit)).chip.get F.QSPIT_QCFG_DUMMY = F.QSPIT_QCFG_DUMMY.reset :=
  Chip.get_storeSlice_reset w.chip F.QSPIT_QCFG_DUMMY 24 6 rfl rfl rfl rfl

theorem rxp_rxdly (w : Work) :
    (w.resetRegs (.rxp n) (pageRegs (.rxp n))).chip.get (F.RXP_RXDLY_DELAY n) = (F.RXP_RXDLY_DELAY n).reset := by
  have hsplit : pageRegs (.rxp n) =
      (regsRXP n).take 1 ++ ⟨0x044, false, false, false, [⟨F.RXP_RXDLY_DELAY n, 0, 0, 8⟩]⟩ :: (regsRXP n).drop 2 := rfl
  rw [hsplit]
  refine Work.get_resetRegs_at (.rxp n) w _ _ _ _ _ rfl (fun x => ?_) (fun r hr => List.mem_of_mem_drop hr) ?_ ?_
  · exact Chip.get_storeSlice_reset x.chip (F.RXP_RXDLY_DELAY n) 0 8 rfl rfl rfl rfl
  · cases n <;> decide
  · cases n <;> decide

/-- The UART register BRKLEN as the register table gives it. -/
def brklenReg (u : Dual) : Reg := ⟨0x060, false, false, false, [⟨F.UART_BRKLEN_BITS u, 0, 0, 16⟩]⟩

theorem brklen_resetReg (w : Work) : w.resetReg (.uart u) (brklenReg u) = w.onChip (·.store (.uart u) 0x060 16) := by
  have hword : (brklenReg u).resetWord = 16 := rfl
  have hhub : w.hubEffect .core3 (.uart u) 0x060 16 = w.onChip (·.store (.uart u) 0x060 16) := by simp [Work.hubEffect]
  unfold Work.resetReg
  rw [hword, if_neg (by simp [brklenReg, F.UART_BRKLEN_BITS]), if_neg (by simp [brklenReg]), if_neg (by simp)]
  dsimp only [brklenReg]
  rw [Work.writeEffect_beyond .core3 (.uart u) w .none 0x060 16 (by decide) (by simp [cntclrOff]) rfl,
    if_neg (by simp [Page.lane?]), hhub]

theorem Chip.store_brklen (v : Nat) :
    c.store (.uart u) 0x060 v = c.storeSlice v ⟨F.UART_BRKLEN_BITS u, 0, 0, 16⟩ := by
  have hfind : findReg (.uart u) 0x060 = some (brklenReg u) := rfl
  simp only [Chip.store, hfind, Chip.storeReg, brklenReg, List.foldl_cons, List.foldl_nil]

theorem brklen_encOk : c.encOk (F.UART_BRKLEN_BITS u) (F.UART_BRKLEN_BITS u).reset = true := rfl

theorem uart_brklen (w : Work) :
    (w.resetRegs (.uart u) (pageRegs (.uart u))).chip.get (F.UART_BRKLEN_BITS u) = (F.UART_BRKLEN_BITS u).reset := by
  have hsplit : pageRegs (.uart u) = (regsUART u).take 8 ++ brklenReg u :: (regsUART u).drop 9 := rfl
  rw [hsplit]
  refine Work.get_resetRegs_at (.uart u) w _ _ _ _ _ rfl (fun x => ?_) (fun r hr => List.mem_of_mem_drop hr) ?_ ?_
  · rw [brklen_resetReg]
    dsimp only [Work.onChip]
    rw [Chip.store_brklen]
    exact Chip.get_storeSlice_reset _ _ 16 16 rfl rfl rfl (brklen_encOk _ u)
  · cases u <;> decide
  · cases u <;> decide

/-- What SOFT_RESET_COMPLETE leaves where no command of the page is in progress. -/
theorem softResetComplete_leaves (s : State) (h1 : s.chip.flag (pctlSoftreset p) = true) (h2 : s.chip.pageBusy p = false)
    (h3 : s.chip.stopped = false) (h4 : s.chip.power ≠ .reset) :
    Answers (.softResetComplete p) s fun t =>
      t.chip.flag (pctlSoftreset p) = false ∧ t.chip.unlocked p = false ∧ t.chip.get (pevten p) = 0
        ∧ (stoppable p = true → t.chip.flag (pctlEnable p) = s.chip.flag (pctlCarried p))
        ∧ (stoppable p = false → t.chip.get (pevt p) = 0)
        ∧ (p = .sys → t.chip.get F.SYS_SCRATCH_DATA = 0 ∧ t.mem = s.mem ∧ s.chip.SameBut t.chip
            [F.SYS_SCRATCH_DATA, pevten .sys, pevt .sys, plock .sys, pctlSoftreset .sys, pctlCarried .sys])
        ∧ (p = .qspit → t.chip.get F.QSPIT_QCFG_DUMMY = F.QSPIT_QCFG_DUMMY.reset ∧ t.mem = s.mem)
        ∧ (∀ n, p = .rxp n → t.chip.get (F.RXP_RXDLY_DELAY n) = (F.RXP_RXDLY_DELAY n).reset)
        ∧ (∀ u, p = .uart u → t.chip.get (F.UART_BRKLEN_BITS u) = (F.UART_BRKLEN_BITS u).reset) := by
  refine Answers.of_next (execSoftResetComplete_due p s h1 h2 h3 h4) rfl ?_
  rw [State.onWork_chip, State.onWork_mem, Work.softReset_eq]
  generalize hw : (⟨s.mem, s.chip, []⟩ : Work) = w
  have hchip : s.chip = w.chip := by rw [← hw]
  dsimp only [Work.onChip]
  refine ⟨?_, ?_, Chip.get_softEnd_control _ p (by simp), fun hs => ?_, fun hs => ?_, ?_, ?_, ?_, ?_⟩
  · simp [Chip.flag, Chip.get_softEnd_control _ p]
  · simp [Chip.unlocked, Chip.get_softEnd_control _ p]
  · rw [Chip.flag_softEnd_enable _ p hs, hchip]
    exact Chip.flag_congr _ _ _ (Work.get_resetRegs_control p w hs (q := p) (by simp [controlFlds]))
  · rw [Chip.softEnd_of_unstoppable _ p hs]
    exact Chip.get_controlCleared _ p (by simp [endedFlds])
  · rintro rfl
    have hsame : w.chip.SameBut (w.chip.set F.SYS_SCRATCH_DATA 0) [F.SYS_SCRATCH_DATA] := Chip.sameBut_set _ _ _
    rw [sys_resetRegs, Chip.softEnd_of_unstoppable _ .sys rfl]
    dsimp only [Work.onChip]
    rw [Chip.store_scratch, hchip]
    refine ⟨?_, by rw [← hw]; rfl, hsame.trans (Chip.controlCleared_sameBut _ .sys)⟩
    rw [Chip.controlCleared_sameBut _ .sys _ (by decide), Chip.get_set_same]
    rfl
  · rintro rfl
    refine ⟨?_, by rw [← hw]; rfl⟩
    rw [Chip.softEnd_sameBut _ .qspit _ (by decide)]
    exact qspit_dummy w
  · rintro n rfl
    rw [Chip.softEnd_sameBut _ (.rxp n) _ (by cases n <;> decide)]
    exact rxp_rxdly n w
  · rintro u rfl
    rw [Chip.softEnd_sameBut _ (.uart u) _ (by cases u <;> decide)]
    exact uart_brklen u w

end Sys2Proof.Machine
end

section
/-!
PROOFS. The writes of PCTL, PEVT, PEVTEN, PFAULT and PLOCK, and what they leave on every page (R9 to R11, R412, R447, R448).
-/
open Sys2Proof Sys2Proof.Machine
namespace Sys2Proof.Machine

variable (c : Chip) (i : Init) (p : Page) (n : Lane) (u : Dual)

/-! PCTL with SOFTRESET (R9). -/

theorem Chip.pctlWrite_softreset (en : Bool) : c.pctlWrite p (2 + bit en) =
    if c.flag (pctlSoftreset p) then c else (c.setFlag (pctlSoftreset p) true).setFlag (pctlCarried p) en := by
  cases en <;> rfl

theorem Chip.pctlWrite_enable (b : Bool) : c.pctlWrite p (bit b) = c.setEnable p b := by cases b <;> rfl

/-- SOFTRESET is set; the first write carries its ENABLE, a further one changes nothing. -/
theorem Chip.softreset_leaves (en : Bool) :
    (c.pctlWrite p (2 + bit en)).flag (pctlSoftreset p) = true
      ∧ (c.pctlWrite p (2 + bit en)).flag (pctlCarried p)
          = (if c.flag (pctlSoftreset p) then c.flag (pctlCarried p) else en)
      ∧ c.SameBut (c.pctlWrite p (2 + bit en)) [pctlSoftreset p, pctlCarried p] := by
  have hkey : (pctlSoftreset p).key ≠ (pctlCarried p).key := by simp only [Fld.key, pctlSoftreset, pctlCarried]; omega
  rw [Chip.pctlWrite_softreset]
  split
  next h => exact ⟨h, rfl, .refl c _⟩
  next h =>
    refine ⟨?_, Chip.flag_setFlag_same _ _ en Nat.zero_lt_one, (Chip.sameBut_set c _ _).trans (Chip.sameBut_set _ _ _)⟩
    rw [Chip.flag_congr _ _ _ (Chip.get_setFlag_other _ _ _ en hkey)]
    exact Chip.flag_setFlag_same c _ true Nat.zero_lt_one

/-! PCTL without it: the block runs or stops (R447, Table 0-9). -/

/-- On these pages nothing but ENABLE changes. -/
theorem Chip.setEnable_sameBut_enable (b : Bool) (hp : (∃ u, p = .uart u ∨ p = .twi u) ∨ ∃ n, p = .tmap n) :
    c.SameBut (c.setEnable p b) [pctlEnable p] := by
  have hset : c.SameBut (c.setFlag (pctlEnable p) b) [pctlEnable p] := Chip.sameBut_set c _ _
  unfold Chip.setEnable
  split
  · exact .refl c _
  · rcases hp with ⟨u, rfl | rfl⟩ | ⟨n, rfl⟩
    · exact hset.and_then (Chip.uartNext_sameBut _ u _)
    · exact hset
    · exact hset

theorem Chip.flag_disabled : (c.setFlag (pctlEnable p) false).flag (pctlEnable p) = false :=
  Chip.flag_setFlag_same c _ false Nat.zero_lt_one

theorem Chip.rxNow_dropRx : (c.dropRx n).rxNow n = none := by
  unfold Chip.dropRx
  rw [Chip.rxNow_closeRx]
  simp [Chip.unfreeze, Chip.noteGain, Chip.onAgc, Chip.onRx]

theorem Chip.rxNow_stopped (h : c.flag (pctlEnable (.rxp n)) = true) : (c.setEnable (.rxp n) false).rxNow n = none := by
  have hstop : c.setEnable (.rxp n) false = (c.setFlag (pctlEnable (.rxp n)) false).rxpSettle n := by
    simp [Chip.setEnable, stoppable, h]
  have hoff : (c.setFlag (pctlEnable (.rxp n)) false).rxOn n = false := by simp [Chip.rxOn, Chip.flag_disabled]
  rw [hstop, Chip.rxpSettle, hoff]
  exact Chip.rxNow_dropRx _ n

theorem Chip.portCause_stopped (k : Nat) (h : c.flag (pctlEnable (.txp n)) = false) : c.portCause n k ≠ 0 := by
  unfold Chip.portCause
  rw [h]
  split
  · decide
  split
  · decide
  · simp

/-- ESTAT.STATE shows the canceller's state, TRAINING while a training runs (R156). -/
theorem Chip.get_showEcho_state : (c.showEcho n).get (F.ECHO_ESTAT_STATE n)
    = (if (c.lane n).echo.running = 0 then (c.lane n).echo.before else 2) % 2 ^ (F.ECHO_ESTAT_STATE n).width := by
  have hcount (d : Chip) : (d.count (F.ECHO_COUNTS3_WITHDRAW n) 1).get (F.ECHO_ESTAT_STATE n) = d.get (F.ECHO_ESTAT_STATE n) :=
    Chip.get_count_other _ _ _ _ (by cases n <;> decide)
  have hraise (d : Chip) : (d.raise (.echo n) 0).get (F.ECHO_ESTAT_STATE n) = d.get (F.ECHO_ESTAT_STATE n) := by
    refine Chip.get_raise_other _ _ _ _ ?_ ?_ ?_ <;> cases n <;> decide
  unfold Chip.showEcho
  simp only [Chip.get_iff, hcount, hraise, ite_self]
  rw [Chip.get_setFlag_other, Chip.get_setFlag_other, Chip.get_setFlag_other, Chip.get_set_same]
  all_goals cases n <;> decide

theorem Chip.echoState_stopped (h : c.flag (pctlEnable (.echo n)) = true) :
    (c.setEnable (.echo n) false).get (F.ECHO_ESTAT_STATE n) = 0 := by
  have hstop : c.setEnable (.echo n) false = (c.setFlag (pctlEnable (.echo n)) false).ectlSettle n := by
    simp [Chip.setEnable, stoppable, h]
  have hoff : (c.setFlag (pctlEnable (.echo n)) false).echoOn n = false := by simp [Chip.echoOn, Chip.flag_disabled]
  rw [hstop, Chip.ectlSettle, hoff]
  rw [Bool.not_false, if_pos rfl, Chip.get_showEcho_state]
  simp [Chip.onEcho]

theorem Chip.slipEntries_reset (h : (c.lane n).rx.dec.busy = []) : (c.slipReset n).slipEntries n = [] := by
  unfold Chip.slipReset Chip.slipFree
  rw [h]
  simp [Chip.slipFreeNow, Chip.slipFreeWhere, Chip.slipEntries, Chip.onSlip, Chip.onRx]

theorem Chip.slipEntries_stopped (h : c.flag (pctlEnable (.slip n)) = true) (hidle : (c.lane n).rx.dec.busy = []) :
    (c.setEnable (.slip n) false).slipEntries n = [] := by
  have hstop : c.setEnable (.slip n) false = (c.setFlag (pctlEnable (.slip n)) false).slipReset n := by
    simp [Chip.setEnable, stoppable, h, Chip.iff]
  rw [hstop]
  exact Chip.slipEntries_reset _ n (by simpa using hidle)

theorem Chip.spyEnd_ends : ((c.spyEnd n).lane n).rx.spy.armed = false ∧ ((c.spyEnd n).lane n).rx.spy.running = false := by
  unfold Chip.spyEnd
  dsimp only
  split
  next => simp [Chip.onSpy, Chip.onRx]
  next h => simpa using h

theorem Chip.spy_stopped (h : c.flag (pctlEnable (.spy n)) = true) :
    ((c.setEnable (.spy n) false).lane n).rx.spy.armed = false ∧ ((c.setEnable (.spy n) false).lane n).rx.spy.running = false := by
  have hstop : c.setEnable (.spy n) false = (c.setFlag (pctlEnable (.spy n)) false).spyEnd n := by
    simp [Chip.setEnable, stoppable, h, Chip.iff]
  rw [hstop]
  exact Chip.spyEnd_ends _ n

/-! PEVT (R10, R412). -/

theorem pevt_key_ne_evt (h : p ≠ .evt) : ∀ f ∈ [pevt .evt, F.EVT_VECSTAT_SIG], (pevt p).key ≠ f.key := by
  have hne := Page.base_ne_evt p h
  have hmod := Page.base_mod p
  have hevt : Page.evt.base = 0x2000 := rfl
  intro f hf
  simp only [List.mem_cons, List.not_mem_nil, or_false] at hf
  rcases hf with rfl | rfl <;> simp only [Fld.key, pevt, F.EVT_VECSTAT_SIG] <;> omega

/-- What a W1C write leaves in its register: the unwritten bits, and the written ones that recur (R10). -/
def clearedWord (x mask again : Nat) : Nat := clearMask x mask ||| (mask &&& again &&& x)

theorem testBit_clearedWord (x mask again b : Nat) (hx : x.testBit b = true)
    (h : mask.testBit b = false ∨ again.testBit b = true) : (clearedWord x mask again).testBit b = true := by
  simp only [clearedWord, Nat.testBit_or, testBit_clearMask, Nat.testBit_and, hx]
  rcases h with h | h <;> simp [h]

/-- The bits that recur fire their sources if they are enabled (R412). -/
def Chip.fireEnabled (l : List Nat) : Chip := l.foldl (fun c b => if c.bitAt (pevten p) b then c.fire (p.source b) else c) c

theorem Chip.clearPevt_eq (mask again : Nat) : c.clearPevt p mask again =
    (c.set (pevt p) (clearedWord (c.get (pevt p)) mask again)).fireEnabled p (bitsOf 32 (mask &&& again &&& c.get (pevt p))) := rfl

theorem Chip.fireEnabled_sameBut (l : List Nat) : c.SameBut (c.fireEnabled p l) [pevt .evt, F.EVT_VECSTAT_SIG] := by
  refine Chip.SameBut.foldl c _ (fun d b => ?_) l
  split
  · exact Chip.fire_sameBut d _
  · exact .refl d _

theorem Chip.fireEnabled_keeps (l : List Nat) (b : Nat) (hb : b < 32) (h : c.bitAt (pevt p) b = true) :
    (c.fireEnabled p l).bitAt (pevt p) b = true := by
  induction l generalizing c with
  | nil => exact h
  | cons a l ih =>
    refine ih _ ?_
    dsimp only
    split
    · exact Chip.fire_keeps_page c p _ b hb h
    · exact h

theorem Chip.clearPevt_keeps (mask again b : Nat) (hb : b < 32) (h : c.bitAt (pevt p) b = true)
    (hm : mask.testBit b = false ∨ again.testBit b = true) : (c.clearPevt p mask again).bitAt (pevt p) b = true := by
  rw [Chip.clearPevt_eq]
  refine Chip.fireEnabled_keeps _ p _ b hb ?_
  rw [Chip.bitAt, Chip.get_set_same, pevt_width, Nat.testBit_mod_two_pow, testBit_clearedWord _ mask again b h hm]
  simpa using hb

theorem Chip.clearPevt_of_none (mask : Nat) :
    c.clearPevt p mask 0 = c.set (pevt p) (clearedWord (c.get (pevt p)) mask 0) := by
  rw [Chip.clearPevt_eq, Nat.and_zero, Nat.zero_and]
  rfl

theorem Chip.get_clearPevt (mask again : Nat) (h : p ≠ .evt ∨ again = 0) :
    (c.clearPevt p mask again).get (pevt p) = clearedWord (c.get (pevt p)) mask again % 2 ^ 32 := by
  rcases h with h | rfl
  · rw [Chip.clearPevt_eq, Chip.fireEnabled_sameBut _ p _ _ (pevt_key_ne_evt p h)]
    exact Chip.get_set_same c _ _
  · rw [Chip.clearPevt_of_none]
    exact Chip.get_set_same c _ _

theorem Chip.clearPevt_sameBut (mask again : Nat) : c.SameBut (c.clearPevt p mask again) (evtFlds p) :=
  (Chip.sameBut_set c _ _).trans (Chip.fireEnabled_sameBut _ p _)

/-! PFAULT (R10, R448). -/

theorem Chip.countFault_sameBut (b : Nat) : c.SameBut (c.countFault p b) [pfcntCount p, pfcntLast p] :=
  (Chip.sameBut_set c _ _).trans (Chip.sameBut_set _ _ _)

theorem Chip.get_countFault (b : Nat) : (c.countFault p b).get (pfcntCount p) = min (c.get (pfcntCount p) + 1) 0xFFFF := by
  have hkey : (pfcntCount p).key ≠ (pfcntLast p).key := by simp only [Fld.key, pfcntCount, pfcntLast]; omega
  unfold Chip.countFault
  rw [Chip.get_set_other _ _ _ _ hkey]
  exact Chip.get_count_same c _ 1

/-- Each of the faults counts once, until PFCNT.COUNT stops at its largest value. -/
theorem Chip.get_countFaults (l : List Nat) : (l.foldl (fun c b => c.countFault p b) c).get (pfcntCount p) =
    if l.length = 0 then c.get (pfcntCount p) else min (c.get (pfcntCount p) + l.length) 0xFFFF := by
  induction l generalizing c with
  | nil => rfl
  | cons b l ih =>
    rw [List.foldl_cons, ih, Chip.get_countFault, List.length_cons]
    rw [if_neg (Nat.succ_ne_zero _)]
    split <;> omega

theorem Chip.countFaults_sameBut (l : List Nat) :
    c.SameBut (l.foldl (fun c b => c.countFault p b) c) [pfcntCount p, pfcntLast p] :=
  Chip.SameBut.foldl c _ (fun d b => Chip.countFault_sameBut d p b) l

theorem Chip.clearPfault_leaves (mask again : Nat) :
    (c.clearPfault p mask again).get (pfault p) = clearedWord (c.get (pfault p)) mask again % 2 ^ 32
      ∧ (let k := ((List.range 32).filter fun b => (mask &&& again &&& c.get (pfault p)).testBit b).length
         (c.clearPfault p mask again).get (pfcntCount p)
          = if k = 0 then c.get (pfcntCount p) else min (c.get (pfcntCount p) + k) 0xFFFF)
      ∧ c.SameBut (c.clearPfault p mask again) (faultFlds p) := by
  have hkey : ∀ f ∈ [pfcntCount p, pfcntLast p], (pfault p).key ≠ f.key := by
    intro f hf
    simp only [List.mem_cons, List.not_mem_nil, or_false] at hf
    rcases hf with rfl | rfl <;> simp only [Fld.key, pfault, pfcntCount, pfcntLast] <;> omega
  refine ⟨?_, ?_, (Chip.sameBut_set c _ _).trans (Chip.countFaults_sameBut _ p _)⟩
  · exact (Chip.countFaults_sameBut _ p _ _ hkey).trans (Chip.get_set_same c _ _)
  · have hset (v : Nat) : (c.set (pfault p) v).get (pfcntCount p) = c.get (pfcntCount p) :=
      Chip.get_set_other c _ _ v (hkey _ (by simp)).symm
    unfold Chip.clearPfault
    rw [Chip.get_countFaults, hset]
    rfl

/-! PEVTEN (R412). -/

theorem pevten_notEvent : ∀ f ∈ [pevt .evt, F.EVT_VECSTAT_SIG], (pevten p).key ≠ f.key := fun f hf =>
  control_key_ne (q := p) (by simp [controlFlds]) <| by
    simp only [List.mem_cons, List.not_mem_nil, or_false] at hf
    rcases hf with rfl | rfl <;> decide

theorem Chip.writePevten_leaves (v : Nat) (hv : v < 2 ^ 32) :
    (c.writePevten p v).get (pevten p) = v &&& p.eventMask
      ∧ c.SameBut (c.writePevten p v) [pevten p, pevt .evt, F.EVT_VECSTAT_SIG] := by
  have hfires : (c.set (pevten p) (v &&& p.eventMask)).SameBut (c.writePevten p v) [pevt .evt, F.EVT_VECSTAT_SIG] :=
    Chip.SameBut.foldl _ _ (fun d _ => Chip.fire_sameBut d _) _
  refine ⟨?_, (Chip.sameBut_set c _ _).trans hfires⟩
  rw [hfires _ (pevten_notEvent p), Chip.get_set_same]
  exact Nat.mod_eq_of_lt (Nat.lt_of_le_of_lt Nat.and_le_left hv)

/-! PLOCK (R11). -/

theorem Chip.unlocked_set (v : Nat) (hv : v < 2 ^ 2) : (c.set (plock p) v).unlocked p = (v == 2) := by
  simp only [Chip.unlocked, Chip.get_set_same, plock_width, Nat.mod_eq_of_lt hv]

theorem Chip.plockWrite_sameBut (v : Nat) : c.SameBut (c.plockWrite p v) [plock p] := by
  have hset (x : Nat) : c.SameBut (c.set (plock p) x) [plock p] := Chip.sameBut_set c _ x
  unfold Chip.plockWrite
  dsimp only
  split
  next =>
    split
    · exact .refl c _
    · exact hset 0
  split
  · exact hset 1
  split
  · exact hset 2
  · exact hset 0

theorem Chip.unlocked_plockWrite (v : Nat) : (c.plockWrite p v).unlocked p = true ↔
    v = 0x4B31 ∧ c.unlocked p = true ∨ v = 0xB4CE ∧ (c.unlocked p = true ∨ c.get (plock p) = 1) := by
  have hun : c.unlocked p = true ↔ c.get (plock p) = 2 := by simp [Chip.unlocked]
  unfold Chip.plockWrite
  dsimp only
  split
  next h2 =>
    split
    next hkey => simpa [hun, h2] using hkey
    next hkey => simpa [Chip.unlocked_set, hun, h2] using hkey
  next h2 =>
    split
    next h1 => simp [Chip.unlocked_set, hun, h2, h1]
    next h1 =>
      split
      next hkey => simp [Chip.unlocked_set, hkey]
      next hkey => simpa [Chip.unlocked_set, hun, h2, h1] using hkey

/-! The commands. -/

theorem Chip.setEnable_leaves (b : Bool) :
    (stoppable p = true → (c.setEnable p b).flag (pctlEnable p) = b)
      ∧ (stoppable p = false ∨ c.flag (pctlEnable p) = b → c.SameBut (c.setEnable p b) [])
      ∧ (∀ u, p = .uart u ∨ p = .twi u → c.SameBut (c.setEnable p b) [pctlEnable p])
      ∧ (∀ n, p = .tmap n → c.SameBut (c.setEnable p b) [pctlEnable p])
      ∧ (b = false → c.flag (pctlEnable p) = true →
        (∀ n, p = .rxp n → (c.setEnable p b).rxNow n = none)
        ∧ (∀ n, p = .txp n → ∀ k ∈ [1, 2, 3], (c.setEnable p b).portCause n k ≠ 0)
        ∧ (∀ n, p = .echo n → (c.setEnable p b).get (F.ECHO_ESTAT_STATE n) = 0)
        ∧ (∀ n, p = .slip n → (c.lane n).rx.dec.busy = [] → (c.setEnable p b).slipEntries n = [])
        ∧ (∀ n, p = .spy n → ((c.setEnable p b).lane n).rx.spy.armed = false
            ∧ ((c.setEnable p b).lane n).rx.spy.running = false)) := by
  refine ⟨Chip.flag_setEnable c p b, fun h => ?_, fun u hu => Chip.setEnable_sameBut_enable c p b (.inl ⟨u, hu⟩),
    fun n hn => Chip.setEnable_sameBut_enable c p b (.inr ⟨n, hn⟩), ?_⟩
  · rw [Chip.setEnable_same c p b h]
    exact .refl c _
  · rintro rfl hrun
    refine ⟨?_, ?_, ?_, ?_, ?_⟩
    · rintro n rfl
      exact Chip.rxNow_stopped c n hrun
    · rintro n rfl k -
      exact Chip.portCause_stopped _ n k (Chip.flag_setEnable c (.txp n) false rfl)
    · rintro n rfl
      exact Chip.echoState_stopped c n hrun
    · rintro n rfl hidle
      exact Chip.slipEntries_stopped c n hrun hidle
    · rintro n rfl
      exact Chip.spy_stopped c n hrun

theorem exec_runStop (b : Bool) (s : State) : exec (if b then .runBlock i p else .stopBlock i p) s =
    .next (s.onChip fun c => c.gate i p 0x008 fun c => c.pctlWrite p (bit b)) := by
  cases b <;> rfl

end Sys2Proof.Machine

/-- Settles O6: the effect of each command on the chip, behind the gate of the page. -/
theorem commonRegisterCommandsComplete : Obligations.CommonRegisterCommandsComplete := by
  intro i p s
  have hflag (f : Fld) : (s.chip.touch i p).flag f = s.chip.flag f := Chip.flag_congr _ _ _ (Chip.get_touch _ i p f)
  refine ⟨fun en ht => ?_, softResetComplete_leaves p s, fun ht b => ?_, fun mask again ht hm => ?_,
    fun mask again ht hm => ?_, fun v ht hv => ?_, fun v ht hv => ?_⟩
  · obtain ⟨hset, hcarried, hsame⟩ := Chip.softreset_leaves (s.chip.touch i p) p en
    rw [hflag, hflag] at hcarried
    exact Completes.of_gate rfl ht ⟨hset, hcarried, hsame.of_touch⟩
  · obtain ⟨hen, hnone, huart, htmap, hstop⟩ := Chip.setEnable_leaves (s.chip.touch i p) p b
    rw [hflag] at hnone hstop
    simp only [Chip.lane_touch] at hstop
    refine Completes.of_gate (exec_runStop i p b s) ht ?_
    rw [Chip.pctlWrite_enable]
    exact ⟨hen, fun h => (hnone h).of_touch, fun u hu => (huart u hu).of_touch, fun n hn => (htmap n hn).of_touch, hstop⟩
  · refine Completes.of_gate rfl ht ?_
    rw [Nat.mod_eq_of_lt hm]
    refine ⟨fun b hb hold hkeep => Chip.clearPevt_keeps _ p mask again b hb ?_ hkeep, fun h => ?_,
      (Chip.clearPevt_sameBut _ p mask again).of_touch, ?_⟩
    · simpa [Chip.bitAt] using hold
    · simpa [clearedWord] using Chip.get_clearPevt (s.chip.touch i p) p mask again h
    · rintro rfl
      rw [Chip.clearPevt_of_none]
      exact (Chip.sameBut_set _ _ _).of_touch
  · obtain ⟨hfault, hcount, hsame⟩ := Chip.clearPfault_leaves (s.chip.touch i p) p mask again
    simp only [Chip.get_touch] at hfault hcount
    refine Completes.of_gate rfl ht ?_
    rw [Nat.mod_eq_of_lt hm]
    exact ⟨hfault, hcount, hsame.of_touch⟩
  · obtain ⟨hget, hsame⟩ := Chip.writePevten_leaves (s.chip.touch i p) p v hv
    refine Completes.of_gate rfl ht ?_
    rw [Nat.mod_eq_of_lt hv]
    exact ⟨hget, hsame.of_touch⟩
  · have hun : (s.chip.touch i p).unlocked p = s.chip.unlocked p := by simp [Chip.unlocked]
    have hlock := Chip.unlocked_plockWrite (s.chip.touch i p) p v
    rw [hun, Chip.get_touch] at hlock
    refine Completes.of_gate rfl ht ?_
    rw [Nat.mod_eq_of_lt hv]
    exact ⟨hlock, (Chip.plockWrite_sameBut _ p v).of_touch⟩
end

section
/-!
PROOFS. The commands of the echo page: what each leaves of the canceller's state, its requests and its banks (R149, R156, R162).
-/
open Sys2Proof Sys2Proof.Machine
namespace Sys2Proof.Machine

variable (c : Chip) (i : Init) (n : Lane)

/-! The canceller's record and the updates that show it. -/

@[simp] theorem Chip.echo_onEcho (f : Echo → Echo) : ((c.onEcho n f).lane n).echo = f (c.lane n).echo := by
  simp [Chip.onEcho]

theorem Chip.lane_iff (b : Bool) (f : Chip → Chip) (h : ∀ d : Chip, (f d).lane n = d.lane n) : (c.iff b f).lane n = c.lane n := by
  cases b
  · rfl
  · exact h c

/-- Showing the canceller's state moves registers alone. -/
@[simp] theorem Chip.lane_showEcho : (c.showEcho n).lane n = c.lane n := by
  unfold Chip.showEcho
  dsimp only
  rw [Chip.lane_iff _ _ _ _ fun d => Chip.lane_raise d (.echo n) 0 n,
    Chip.lane_iff _ _ _ _ fun d => Chip.lane_count d (F.ECHO_COUNTS3_WITHDRAW n) 1 n]
  simp only [Chip.lane_setFlag, Chip.lane_set]

@[simp] theorem Chip.echo_setEcho (st : Nat) : ((c.setEcho n st).lane n).echo = { (c.lane n).echo with before := st } := by
  simp [Chip.setEcho]

@[simp] theorem Chip.echo_askFull (st : Nat) :
    ((c.askFull n st).lane n).echo = { (c.lane n).echo with before := st, req := 1, delay := none } := by
  simp [Chip.askFull]

/-- A state entered is shown, unless a pass runs (R156). -/
theorem Chip.get_askFull_state (st : Nat) (h : st < 8) :
    (c.askFull n st).get (F.ECHO_ESTAT_STATE n) = if (c.lane n).echo.running = 0 then st else 2 := by
  rw [Chip.askFull, Chip.setEcho, Chip.get_showEcho_state, show (F.ECHO_ESTAT_STATE n).width = 3 from rfl]
  simp only [Chip.echo_onEcho]
  split <;> omega

/-- What the request for a FULL pass after a change leaves: UNTRAINED, or TRAINING while a pass runs (Table 5-7). -/
theorem Chip.askFull_untrained :
    ((c.askFull n 1).lane n).echo.before = 1 ∧ ((c.askFull n 1).lane n).echo.req = 1
      ∧ (c.askFull n 1).get (F.ECHO_ESTAT_STATE n) = if (c.lane n).echo.running = 0 then 1 else 2 :=
  ⟨by simp, by simp, c.get_askFull_state n 1 (by decide)⟩

/-! ECMD (R156). -/

theorem Chip.echoChange_off (h : (c.lane n).echo.before = 0) : c.echoChange n = c := if_pos h

theorem Chip.echoChange_on (h : (c.lane n).echo.before ≠ 0) : c.echoChange n = c.askFull n 1 := if_neg h

/-- The canceller with all banks zero and no flip due. -/
def Chip.zeroBanks : Chip :=
  c.onEcho n fun e => { e with repLive := [], repShadow := [], digLive := [], digShadow := [], flip := 0 }

theorem Chip.ecmdWrite_retrain : c.ecmdWrite i n 1 = c.echoChange n := rfl

theorem Chip.ecmdWrite_clear :
    c.ecmdWrite i n 2 = if (c.zeroBanks n).echoOn n then (c.zeroBanks n).askFull n 1 else c.zeroBanks n := rfl

theorem Chip.echoOn_of_flags (h1 : c.flag (F.ECHO_ECTL_EN n) = true) (h2 : c.flag (pctlEnable (.echo n)) = true) :
    c.echoOn n = true := by simp [Chip.echoOn, h1, h2]

theorem Chip.echoOff_of_flags (h : c.flag (F.ECHO_ECTL_EN n) = false ∨ c.flag (pctlEnable (.echo n)) = false) :
    c.echoOn n = false := by rcases h with h | h <;> simp [Chip.echoOn, h]

theorem Chip.echoOn_congr {c d : Chip} (h : d.get = c.get) : d.echoOn n = c.echoOn n := by
  simp only [Chip.echoOn, Chip.flag, h]

theorem Chip.echoOn_zeroBanks : (c.zeroBanks n).echoOn n = c.echoOn n :=
  Chip.echoOn_congr n (funext fun g => Chip.get_onEcho c n _ g)

theorem Chip.ecmdWrite_clear_banks : let x := ((c.ecmdWrite i n 2).lane n).echo
    x.repLive = [] ∧ x.repShadow = [] ∧ x.digLive = [] ∧ x.digShadow = [] := by
  rw [Chip.ecmdWrite_clear]
  split <;> simp [Chip.zeroBanks]

theorem Chip.ecmdWrite_clear_on (h : c.echoOn n = true) : c.ecmdWrite i n 2 = (c.zeroBanks n).askFull n 1 := by
  rw [Chip.ecmdWrite_clear, Chip.echoOn_zeroBanks, if_pos h]

theorem Chip.ecmdWrite_clear_off (h : c.echoOn n = false) : c.ecmdWrite i n 2 = c.zeroBanks n := by
  rw [Chip.ecmdWrite_clear, Chip.echoOn_zeroBanks, h, if_neg Bool.false_ne_true]

/-! ECTL (R156, R447). -/

/-- The stored fields of ECTL are its low three bits. -/
theorem Chip.store_ectl (v : Nat) : c.store (.echo n) 0x040 v =
    ((c.setFlag (F.ECHO_ECTL_EN n) (v.testBit 0)).setFlag (F.ECHO_ECTL_FDEN n) (v.testBit 1)).setFlag (F.ECHO_ECTL_MONEN n) (v.testBit 2) := by
  have hbit (k : Nat) : bitField v k 1 = bit (v.testBit k) := by
    rw [bit_testBit, bitField, Nat.shiftRight_eq_div_pow, Nat.pow_one]
  have hslice (d : Chip) (f : Fld) (k : Nat) (hty : f.ty = .rw) (hw : f.width = 1) (henc : f.enc = .any) :
      d.storeSlice v ⟨f, k, 0, 1⟩ = d.setFlag f (v.testBit k) := by
    rw [Chip.storeSlice_whole d f v k 1 hty hw, if_pos (by simp [Chip.encOk, henc]), hbit, Chip.setFlag]
  change ((c.storeSlice v ⟨F.ECHO_ECTL_EN n, 0, 0, 1⟩).storeSlice v ⟨F.ECHO_ECTL_FDEN n, 1, 0, 1⟩).storeSlice v
    ⟨F.ECHO_ECTL_MONEN n, 2, 0, 1⟩ = _
  rw [hslice _ _ 0 rfl rfl rfl, hslice _ _ 1 rfl rfl rfl, hslice _ _ 2 rfl rfl rfl]

theorem Chip.ectlWrite_eq (v : Nat) : c.ectlWrite n v = (c.store (.echo n) 0x040 v).ectlSettle n := rfl

/-- What shows the canceller's state is neither ECTL nor the page's ENABLE. -/
theorem ectl_key_ne : ∀ g ∈ [F.ECHO_ECTL_EN n, F.ECHO_ECTL_FDEN n, pctlEnable (.echo n)], ∀ f ∈ echoFlds n, g.key ≠ f.key := by
  cases n <;> decide

theorem Chip.flag_ectlSettle (g : Fld) (hg : g ∈ [F.ECHO_ECTL_EN n, F.ECHO_ECTL_FDEN n, pctlEnable (.echo n)]) :
    (c.ectlSettle n).flag g = c.flag g :=
  Chip.flag_congr _ _ _ (Chip.ectlSettle_sameBut c n g (ectl_key_ne n g hg))

theorem Chip.flag_setFlag_other (f g : Fld) (b : Bool) (h : g.key ≠ f.key) : (c.setFlag f b).flag g = c.flag g :=
  Chip.flag_congr _ _ _ (Chip.get_setFlag_other c f g b h)

theorem Chip.flag_store_ectl (v : Nat) : let d := c.store (.echo n) 0x040 v
    d.flag (F.ECHO_ECTL_EN n) = v.testBit 0 ∧ d.flag (F.ECHO_ECTL_FDEN n) = v.testBit 1
      ∧ d.flag (pctlEnable (.echo n)) = c.flag (pctlEnable (.echo n)) := by
  rw [Chip.store_ectl]
  refine ⟨?_, ?_, ?_⟩
  · rw [Chip.flag_setFlag_other _ _ _ _ (by cases n <;> decide), Chip.flag_setFlag_other _ _ _ _ (by cases n <;> decide)]
    exact Chip.flag_setFlag_same _ _ _ Nat.zero_lt_one
  · rw [Chip.flag_setFlag_other _ _ _ _ (by cases n <;> decide)]
    exact Chip.flag_setFlag_same _ _ _ Nat.zero_lt_one
  · rw [Chip.flag_setFlag_other _ _ _ _ (by cases n <;> decide), Chip.flag_setFlag_other _ _ _ _ (by cases n <;> decide),
      Chip.flag_setFlag_other _ _ _ _ (by cases n <;> decide)]

theorem Chip.echoOn_store_ectl (v : Nat) :
    (c.store (.echo n) 0x040 v).echoOn n = (v.testBit 0 && c.flag (pctlEnable (.echo n))) := by
  obtain ⟨hen, -, hpage⟩ := c.flag_store_ectl n v
  rw [Chip.echoOn, hen, hpage]

/-- A canceller that may not run is OFF with nothing requested. -/
theorem Chip.ectlSettle_stopped (h : c.echoOn n = false) : let d := c.ectlSettle n
    (d.lane n).echo.before = 0 ∧ (d.lane n).echo.req = 0 ∧ d.get (F.ECHO_ESTAT_STATE n) = 0 := by
  have hoff : c.ectlSettle n =
      (c.onEcho n fun e => { e with req := 0, delay := none, running := 0, before := 0 }).showEcho n := by
    simp [Chip.ectlSettle, h]
  have hstate := (c.onEcho n fun e => { e with req := 0, delay := none, running := 0, before := 0 }).get_showEcho_state n
  rw [Chip.echo_onEcho] at hstate
  rw [hoff]
  exact ⟨by simp, by simp, hstate⟩

/-- A canceller that may run leaves OFF with a FULL pass requested (Table 5-7). -/
theorem Chip.ectlSettle_starts (h : c.echoOn n = true) (hoff : (c.lane n).echo.before = 0) : c.ectlSettle n = c.askFull n 1 := by
  simp [Chip.ectlSettle, h, hoff]

theorem Chip.ectlSettle_stays (h : c.echoOn n = true) (hon : (c.lane n).echo.before ≠ 0) : c.ectlSettle n = c.showEcho n := by
  simp [Chip.ectlSettle, h, hon]

/-! MCMD (Table 5-7). -/

/-- The canceller with both matrices due to flip. -/
def Chip.flipBoth : Chip := c.onEcho n fun e => { e with flip := 3 }

theorem Chip.mcmdWrite_flip : c.mcmdWrite n 1 = if (c.lane n).echo.before = 0 then c.flipBoth n
    else ((c.flipBoth n).onEcho n fun e => { e with req := 2, delay := none }).setEcho n 4 := by
  have hbefore : ((c.flipBoth n).lane n).echo.before = (c.lane n).echo.before := by simp [Chip.flipBoth]
  rw [← hbefore]
  rfl

/-! MDATA (R162). -/

theorem Chip.get_maddrNext : (c.maddrNext n).get (F.ECHO_MADDR_WORD n) =
    (if (if c.flag (F.ECHO_MADDR_MAT n) then 1188 else 47520) ≤ c.get (F.ECHO_MADDR_WORD n) + 1 then 0
      else c.get (F.ECHO_MADDR_WORD n) + 1) % 2 ^ 16 := by
  unfold Chip.maddrNext
  exact Chip.get_set_same c _ _

@[simp] theorem Chip.lane_maddrNext : (c.maddrNext n).lane n = c.lane n := by simp [Chip.maddrNext]

/-- Word 0 stands for a word that is not listed. -/
theorem getD_putWord (m : NatMap Nat) (k v j : Nat) : (putWord m k v).getD j 0 = if j = k then v else m.getD j 0 := by
  unfold putWord
  by_cases hj : j = k
  · subst hj
    rw [if_pos rfl]
    split
    next hv => rw [NatMap.getD_erase_same, hv]
    next => rw [NatMap.getD_insert_same]
  · rw [if_neg hj]
    split
    · exact NatMap.getD_erase_other _ _ _ _ hj
    · exact NatMap.getD_insert_other _ _ _ _ _ hj

/-- The canceller with word `w` of a shadow matrix replaced. -/
def Echo.putShadow (e : Echo) (replica : Bool) (w v : Nat) : Echo :=
  if replica then { e with repShadow := putWord e.repShadow w v } else { e with digShadow := putWord e.digShadow w v }

theorem Echo.putShadow_leaves (e : Echo) (mat : Bool) (w v : Nat) : let x := e.putShadow mat w v
    x.bank mat true = putWord (e.bank mat true) w v ∧ x.bank (!mat) true = e.bank (!mat) true
      ∧ x.digLive = e.digLive ∧ x.repLive = e.repLive := by
  cases mat <;> exact ⟨rfl, rfl, rfl, rfl⟩

theorem Chip.writeMdata_refused (v : Nat) (h : c.flag (F.ECHO_EOVR_HOLD n) = false ∨ c.flag (F.ECHO_MADDR_BANK n) = false) :
    c.writeMdata i n v = c.refuse i ((Page.echo n).base + 0x414) 8 4 true := by
  have hno : (!c.flag (F.ECHO_EOVR_HOLD n) || !c.flag (F.ECHO_MADDR_BANK n)) = true := by
    rcases h with h | h <;> simp [h]
  unfold Chip.writeMdata
  rw [if_pos hno]
  rfl

theorem Chip.writeMdata_stored (v : Nat) (h : ¬ (c.flag (F.ECHO_EOVR_HOLD n) = false ∨ c.flag (F.ECHO_MADDR_BANK n) = false)) :
    c.writeMdata i n v = (c.onEcho n fun e =>
      e.putShadow (c.flag (F.ECHO_MADDR_MAT n)) (c.get (F.ECHO_MADDR_WORD n)) (v % 2 ^ 32)).maddrNext n := by
  have hyes : ¬ (!c.flag (F.ECHO_EOVR_HOLD n) || !c.flag (F.ECHO_MADDR_BANK n)) = true := by simpa using h
  unfold Chip.writeMdata Echo.putShadow
  rw [if_neg hyes]
  cases c.flag (F.ECHO_MADDR_MAT n) <;> rfl

/-- What a word stored through MDATA leaves: that word, the others, the other matrix, the live banks, and MADDR moved on. -/
theorem Chip.writeMdata_leaves (v : Nat) (h : ¬ (c.flag (F.ECHO_EOVR_HOLD n) = false ∨ c.flag (F.ECHO_MADDR_BANK n) = false)) :
    let d := c.writeMdata i n v
    let x := (d.lane n).echo
    let e := (c.lane n).echo
    let mat := c.flag (F.ECHO_MADDR_MAT n)
    let w := c.get (F.ECHO_MADDR_WORD n)
    (∀ k, (x.bank mat true).getD k 0 = if k = w then v % 2 ^ 32 else (e.bank mat true).getD k 0)
      ∧ x.bank (!mat) true = e.bank (!mat) true ∧ x.digLive = e.digLive ∧ x.repLive = e.repLive
      ∧ d.get (F.ECHO_MADDR_WORD n) = (if (if mat then 1188 else 47520) ≤ w + 1 then 0 else w + 1) % 2 ^ 16 := by
  intro d x e mat w
  have hd : d = (c.onEcho n fun e => e.putShadow mat w (v % 2 ^ 32)).maddrNext n := c.writeMdata_stored i n v h
  have hx : x = e.putShadow mat w (v % 2 ^ 32) := by simp [x, hd, e]
  obtain ⟨hput, hkeep, hdl, hrl⟩ := e.putShadow_leaves mat w (v % 2 ^ 32)
  refine ⟨fun k => ?_, hx ▸ hkeep, hx ▸ hdl, hx ▸ hrl, ?_⟩
  · rw [hx, hput, getD_putWord]
  · rw [hd, Chip.get_maddrNext, Chip.get_onEcho, Chip.flag_congr _ c _ (Chip.get_onEcho c n _ _)]

end Sys2Proof.Machine

/-- Settles O45: each command is its effect behind the gate of the page, and each effect is what its lemma says it leaves. -/
theorem echoCommandsAndBanks : Obligations.EchoCommandsAndBanks := by
  intro s i n
  have hflag (f : Fld) : (s.chip.touch i (.echo n)).flag f = s.chip.flag f := Chip.flag_congr _ _ _ (Chip.get_touch _ i (.echo n) f)
  refine ⟨fun ht => ⟨?_, ?_⟩, fun v ht => ?_, fun ht => ?_, fun ht => ?_, fun v ht => ?_⟩
  · have huntrained := (s.chip.touch i (.echo n)).askFull_untrained n
    refine Completes.of_gate rfl ht ⟨fun hoff => ?_, fun hon => ?_⟩
    · exact Chip.echoChange_off _ n (by simpa using hoff)
    · rw [Chip.ecmdWrite_retrain, Chip.echoChange_on _ n (by simpa using hon)]
      simpa using huntrained
  · obtain ⟨hrl, hrs, hdl, hds⟩ := (s.chip.touch i (.echo n)).ecmdWrite_clear_banks i n
    refine Completes.of_gate rfl ht ⟨hrl, hrs, hdl, hds, fun hen hrun => ?_, fun hoff => ?_⟩
    · rw [Chip.ecmdWrite_clear_on _ i n (Chip.echoOn_of_flags _ n (by rw [hflag, hen]) (by rw [hflag, hrun]))]
      simpa [Chip.zeroBanks] using ((s.chip.touch i (.echo n)).zeroBanks n).askFull_untrained n
    · rw [Chip.ecmdWrite_clear_off _ i n (Chip.echoOff_of_flags _ n (by rwa [hflag, hflag]))]
      exact ⟨by simp [Chip.zeroBanks], by simp [Chip.zeroBanks], (Chip.onEcho_sameBut _ n _ _).of_touch⟩
  · refine Completes.of_gate rfl ht ?_
    rw [Chip.ectlWrite_eq]
    obtain ⟨hen, hfd, -⟩ := (s.chip.touch i (.echo n)).flag_store_ectl n v
    have hecho : (((s.chip.touch i (.echo n)).store (.echo n) 0x040 v).lane n).echo = (s.chip.lane n).echo := by simp
    have hrun := (s.chip.touch i (.echo n)).echoOn_store_ectl n v
    rw [hflag] at hrun
    generalize (s.chip.touch i (.echo n)).store (.echo n) 0x040 v = d at *
    refine ⟨?_, ?_, fun hoff => ?_, fun h0 hpage => ⟨fun hoff => ?_, fun hon => ?_⟩⟩
    · rw [Chip.flag_ectlSettle _ n _ (by simp), hen]
    · rw [Chip.flag_ectlSettle _ n _ (by simp), hfd]
    · exact d.ectlSettle_stopped n (by rcases hoff with h | h <;> simp [hrun, h])
    · rw [d.ectlSettle_starts n (by simp [hrun, h0, hpage]) (by rw [hecho, hoff])]
      simp
    · rw [d.ectlSettle_stays n (by simp [hrun, h0, hpage]) (by rwa [hecho]), Chip.lane_showEcho, hecho]
  · refine Completes.of_gate rfl ht ?_
    rw [Chip.mcmdWrite_flip, Chip.lane_touch]
    split
    next hoff => simp [Chip.flipBoth, hoff]
    next hon => simp [Chip.flipBoth, hon]
  · refine Completes.of_gateRead rfl ht ⟨?_, ?_⟩
    · rw [Chip.setRdata_rdata, Chip.readMdata, Chip.lane_touch, Chip.get_touch, hflag, hflag]
    · rw [Chip.get_setRdata, Chip.readMdata, Chip.get_maddrNext, Chip.get_touch, hflag]
  · refine Completes.of_gate rfl ht ?_
    dsimp only
    split
    next hno => exact Chip.writeMdata_refused _ i n v (by rwa [hflag, hflag])
    next hyes =>
      obtain ⟨hword, hother, hdl, hrl, hnext⟩ :=
        (s.chip.touch i (.echo n)).writeMdata_leaves i n v (by rwa [hflag, hflag])
      simp only [Chip.lane_touch, Chip.get_touch, hflag] at hword hother hdl hrl hnext
      refine ⟨?_, fun k hk => ?_, fun k => ?_, hdl, hrl, hnext⟩
      · rw [hword, if_pos rfl]
      · rw [hword, if_neg hk]
      · rw [hother]
end

section
/-!
PROOFS. A void training pass, and the effective training gain that it leaves (R153).
-/
open Sys2Proof Sys2Proof.Machine
namespace Sys2Proof.Machine

variable (c : Chip) (n : Lane) (s : State)

theorem Completes.chip_of_next {i : Instr} {s t : State} {P : Chip → Prop} (h : Completes i s P) (he : exec i s = .next t) :
    P t.chip := by
  obtain ⟨u, hu, -, -, hP⟩ := h
  obtain rfl : u = t := by simpa [he] using hu.symm
  exact hP

/-- A pass that a port made void ends as Table 5-7 says of a void one, whatever was heard. -/
theorem exec_passComplete_void (h : Heard PassLook) (a : AirFrame) (hkind : (s.chip.lane n).echo.kind ≠ 0)
    (hframe : s.chip.trainingFrame n = some a) (hvoid : (s.chip.lane n).echo.void = true) :
    let e := (s.chip.lane n).echo
    exec (.passComplete n h) s =
      .next (s.onChip fun c => c.voidPass n e.kind ((c.hearPass n a e.kind e.kept h).clip && e.kind == 1)) := by
  intro e
  change execPassComplete n h s = _
  unfold execPassComplete State.onChip
  dsimp only
  rw [hframe]
  split
  next h0 => exact absurd h0 hkind
  next hnone _ => exact absurd hnone (Option.some_ne_none a)
  next b hb _ =>
    obtain rfl := Option.some.inj hb
    rw [hvoid, Bool.true_or, if_pos rfl]

/-- Where no ADC clipped, a void pass counts, sets its fault and shows the canceller's state, and changes no other register. -/
theorem Chip.voidPass_sameBut (kind : Nat) :
    c.SameBut (c.voidPass n kind false) (F.ECHO_COUNTS_TRNFAIL n :: (faultFlds (.echo n) ++ echoFlds n)) := by
  unfold Chip.voidPass
  dsimp only
  exact ((Chip.onEcho_sameBut c n _ []).trans (((Chip.sameBut_set _ (F.ECHO_COUNTS_TRNFAIL n) _).trans
    (Chip.pfaultSet_sameBut _ (.echo n) 2)).trans (Chip.showEcho_sameBut _ n))).mono (by simp)

/-- The effective training gain stays as it is stored where no ADC clipped. -/
theorem Chip.get_voidPass_tgeff (kind : Nat) :
    (c.voidPass n kind false).get (F.ECHO_TGAIN_TGEFF n) = c.get (F.ECHO_TGAIN_TGEFF n) :=
  Chip.voidPass_sameBut c n kind _ (by cases n <;> decide)

/-- A frame of a TRACK pass. -/
def trackFrame : AirFrame where
  frame :=
    { serial := 0, t0 := 0, fc := ⟨false, 0, 0, 0, 0, 0, .sound 0 1 0 0 false⟩, recs := [], blocks := [], epoch := ⟨0, 0, 0, 0, 0⟩,
      coupling := .rotation, txports := 7, facet := 0, turn := 0, slot := 0, training := 2, fd := false, exEnd := 0, grant := none,
      late := false, set := none }
  ports := [1, 2, 3]
  cuts := []

/-- Lane 1 at the end of a void TRACK pass, with 128 listed for TGEFF, a value that its 7 bits do not hold. -/
def wideTgeff : State :=
  { State.reset with chip := (({ Chip.reset with regs := [((F.ECHO_TGAIN_TGEFF .l1).key, 128)] }.onTx .l1 fun t =>
      { t with air := [trackFrame] }).onEcho .l1 fun e => { e with running := 2, void := true }) }

theorem wideTgeff_voidPass : let e := (wideTgeff.chip.lane .l1).echo
    e.kind = 2 ∧ e.void = true ∧ wideTgeff.chip.trainingFrame .l1 = some trackFrame
      ∧ wideTgeff.chip.get (F.ECHO_TGAIN_TGEFF .l1) = 128 := ⟨rfl, rfl, rfl, rfl⟩

end Sys2Proof.Machine

/-- Refutes O44: of every void pass it says that TGEFF ends modulo 2 ^ 7, but without a clip the pass does not write TGEFF.  The
chip of `wideTgeff` lists 128 there, which no write of the model stores in 7 bits, and still lists it after PASS_COMPLETE. -/
theorem not_echoPassesEndByTheTable : ¬ Obligations.EchoPassesEndByTheTable := by
  intro hall
  obtain ⟨hkind, hvoid, hframe, hwide⟩ := wideTgeff_voidPass
  have hne : (wideTgeff.chip.lane .l1).echo.kind ≠ 0 := by rw [hkind]; decide
  have hended := exec_passComplete_void .l1 wideTgeff (.made ⟨[], [], false⟩) trackFrame hne hframe hvoid
  obtain ⟨-, hpass, -⟩ := hall wideTgeff .l1
  obtain ⟨-, -, -, -, -, -, -, -, hgain⟩ :=
    ((hpass (.made ⟨[], [], false⟩) trackFrame hne hframe).1 (.inl hvoid)).chip_of_next hended
  have hkept := (Chip.get_voidPass_tgeff wideTgeff.chip .l1 (wideTgeff.chip.lane .l1).echo.kind).trans hwide
  rw [if_neg fun hclip => absurd (hkind.symm.trans hclip.2) (by decide), hwide] at hgain
  exact absurd (hkept.symm.trans hgain) (by decide)
end

section
/-!
PROOFS. The gain loops: how a code moves, and what a load, a release and an access of the stored codes leave (R167 to R171, R197).
-/
open Sys2Proof Sys2Proof.Machine
namespace Sys2Proof.Machine

variable (c : Chip) (n : Lane)

/-! The record of the gain loops under the updates of a lane. -/

@[simp] theorem Chip.agc_onAgc (f : Agc → Agc) : ((c.onAgc n f).lane n).rx.agc = f (c.lane n).rx.agc := by
  simp [Chip.onAgc, Chip.onRx]

/-- The stored entries of a lane are those of its gain loops' record. -/
theorem Chip.stored_congr {c d : Chip} (h : (d.lane n).rx.agc.stored = (c.lane n).rx.agc.stored) (f : Nat) :
    d.stored n f = c.stored n f := by
  rw [Chip.stored, h, Chip.stored]

/-- Noting the gain adds to its history alone. -/
theorem Chip.agc_noteGain :
    ∃ tr, ((c.noteGain n).lane n).rx.agc = { (c.lane n).rx.agc with trace := tr } := by
  simp [Chip.noteGain]

@[simp] theorem Chip.get_noteGain (g : Fld) : (c.noteGain n).get g = c.get g := by
  simp [Chip.noteGain]

/-! The codes of a lane (R167): four of them, at most 96 each, which AFE.PGAi shows. -/

/-- Four codes, limited to 96. -/
def limitedCodes (l : List Nat) : List Nat := (List.range 4).map fun i => min 96 (l.getD i 0)

theorem getD_map_range {α : Type} (f : Nat → α) (d : α) (m i : Nat) (h : i < m) : ((List.range m).map f).getD i d = f i := by
  simp [h]

theorem getD_limitedCodes (l : List Nat) (i : Nat) (h : i < 4) : (limitedCodes l).getD i 0 = min 96 (l.getD i 0) :=
  getD_map_range _ 0 4 i h

/-- Setting the codes changes nothing else of the loops but what is noted of the gain. -/
theorem Chip.agc_setCodes (l : List Nat) : ∃ z tr, ((c.setCodes n l).lane n).rx.agc =
    { (c.lane n).rx.agc with codes := limitedCodes l, atZero := z, trace := tr } := by
  unfold Chip.setCodes
  extract_lets codes d
  obtain ⟨tr, htr⟩ := ([0, 1, 2, 3].foldl (fun c i => c.set (F.AFE_PGA_CODE n i) (codes.getD i 0)) d).agc_noteGain n
  simp only [List.foldl_cons, List.foldl_nil, Chip.lane_set, d, Chip.agc_onAgc] at htr
  exact ⟨_, tr, htr⟩

theorem Chip.code_setCodes (l : List Nat) (i : Nat) (h : i < 4) :
    ((c.setCodes n l).lane n).rx.agc.codes.getD i 0 = min 96 (l.getD i 0) := by
  obtain ⟨z, tr, hagc⟩ := c.agc_setCodes n l
  rw [hagc]
  exact getD_limitedCodes l i h

theorem pga_key_ne (i j : Nat) (h : i ≠ j) : (F.AFE_PGA_CODE n i).key ≠ (F.AFE_PGA_CODE n j).key := by
  simp only [Fld.key, F.AFE_PGA_CODE]; omega

theorem Chip.get_setCodes_pga (l : List Nat) (i : Nat) (h : i < 4) :
    (c.setCodes n l).get (F.AFE_PGA_CODE n i) = min 96 (l.getD i 0) := by
  have hsame (d : Chip) (v : Nat) : (d.set (F.AFE_PGA_CODE n i) v).get (F.AFE_PGA_CODE n i) = v % 2 ^ 7 := Chip.get_set_same d _ v
  have hother (d : Chip) (j v : Nat) (hj : i ≠ j) :
      (d.set (F.AFE_PGA_CODE n j) v).get (F.AFE_PGA_CODE n i) = d.get (F.AFE_PGA_CODE n i) :=
    Chip.get_set_other d _ _ v (pga_key_ne n i j hj)
  have hcode : min 96 (l.getD i 0) % 2 ^ 7 = min 96 (l.getD i 0) := Nat.mod_eq_of_lt (by omega)
  unfold Chip.setCodes
  simp only [List.foldl_cons, List.foldl_nil, Chip.get_noteGain]
  rw [← hcode, ← getD_map_range (fun i => min 96 (l.getD i 0)) 0 4 i h]
  obtain rfl | rfl | rfl | rfl : i = 0 ∨ i = 1 ∨ i = 2 ∨ i = 3 := by omega
  · rw [hother _ 3 _ (by decide), hother _ 2 _ (by decide), hother _ 1 _ (by decide), hsame]
  · rw [hother _ 3 _ (by decide), hother _ 2 _ (by decide), hsame]
  · rw [hother _ 3 _ (by decide), hsame]
  · rw [hsame]

/-- Codes that were set are in force and shown, whatever else of the loops then changes. -/
theorem Chip.setCodes_onAgc_shows (l : List Nat) (f : Agc → Agc) (hf : ∀ a, (f a).codes = a.codes) (i : Nat) (h : i < 4) :
    let d := (c.setCodes n l).onAgc n f
    (d.lane n).rx.agc.codes.getD i 0 = d.get (F.AFE_PGA_CODE n i)
      ∧ (d.lane n).rx.agc.codes.getD i 0 = min 96 (l.getD i 0) := by
  simp only [Chip.agc_onAgc, hf, Chip.get_onAgc, Chip.code_setCodes c n l i h, Chip.get_setCodes_pga c n l i h, and_self]

/-! One loop's move (R167). -/

section Move
variable {code frac : Nat} {level : Int} {target attack decay win : Nat} {downOnly : Bool}

theorem agcMove_down (h : 0 < level + target) :
    (agcMove code frac level target attack decay win downOnly).1 = code - min (level + target).toNat (2 * attack) := by
  have hneg : -(target : Int) - level < 0 := by omega
  have habs : (-(target : Int) - level).natAbs = (level + target).toNat := by omega
  simp only [agcMove, if_pos hneg, habs]

/-- At the target a code stays, and settling it never goes up. -/
theorem agcMove_stays (h : level + target = 0 ∨ level + target < 0 ∧ downOnly = true) :
    (agcMove code frac level target attack decay win downOnly).1 = code := by
  have hneg : ¬ -(target : Int) - level < 0 := by omega
  have hstay : downOnly = true ∨ -(target : Int) - level = 0 := by
    rcases h with h | h
    · exact .inr (by omega)
    · exact .inl h.2
  simp only [agcMove, if_neg hneg, if_pos hstay]

theorem agcMove_up (h : level + target < 0) : (agcMove code frac level target attack decay win false).1 =
    min 96 (code + (frac + min (512 * (-(level + target)).toNat) (decay * 2 ^ win)) / 512) := by
  have hneg : ¬ -(target : Int) - level < 0 := by omega
  have hup : ¬ (false = true ∨ -(target : Int) - level = 0) := by
    simp only [Bool.false_eq_true, false_or]; omega
  have habs : (-(target : Int) - level).natAbs = (-(level + target)).toNat := by omega
  simp only [agcMove, if_neg hneg, if_neg hup, habs]

end Move

/-! AGC_WINDOW and AGC_ATTACK. -/

/-- A candidate noted changes nothing of the loops but what is known of it. -/
theorem Chip.agc_noteCandidate (cand : Bool) : ∃ b t, ((c.noteCandidate n cand).lane n).rx.agc =
    { (c.lane n).rx.agc with cand := b, since := t } := by
  unfold Chip.noteCandidate Chip.iff
  split
  · exact ⟨_, _, Chip.agc_onAgc c n _⟩
  · exact ⟨_, _, rfl⟩

@[simp] theorem Chip.get_noteCandidate (cand : Bool) (g : Fld) : (c.noteCandidate n cand).get g = c.get g := by
  simp [Chip.noteCandidate, Chip.get_iff]

@[simp] theorem Chip.echo_noteCandidate (cand : Bool) : ((c.noteCandidate n cand).lane n).echo = (c.lane n).echo := by
  unfold Chip.noteCandidate Chip.iff
  split
  · simp [Chip.onAgc, Chip.onRx]
  · rfl

theorem Chip.loopsRun_noteCandidate (cand : Bool) : (c.noteCandidate n cand).loopsRun n = c.loopsRun n := by
  obtain ⟨b, t, hagc⟩ := c.agc_noteCandidate n cand
  simp only [Chip.loopsRun, hagc, Chip.echo_noteCandidate, Chip.flag, Chip.get_noteCandidate]

/-- The move of each loop at the end of a window, from the levels of the inputs. -/
def Chip.windowMoves (levels : List Int) : List (Nat × Nat) :=
  let a := (c.lane n).rx.agc
  (List.range 4).map fun i =>
    agcMove (a.codes.getD i 0) (a.frac.getD i 0) (levels.getD i 0) (c.get (F.AGC_AGCCFG_TARGET n))
      (c.get (F.AGC_LOOPK_ATTACK n)) (c.get (F.AGC_LOOPK_DECAY n)) (c.get (F.AGC_LOOPK_WIN n)) (a.mode == 3)

theorem Chip.getD_windowMoves (levels : List Int) (i : Nat) (h : i < 4) : ((c.windowMoves n levels).map Prod.fst).getD i 0 =
    (agcMove ((c.lane n).rx.agc.codes.getD i 0) ((c.lane n).rx.agc.frac.getD i 0) (levels.getD i 0) (c.get (F.AGC_AGCCFG_TARGET n))
      (c.get (F.AGC_LOOPK_ATTACK n)) (c.get (F.AGC_LOOPK_DECAY n)) (c.get (F.AGC_LOOPK_WIN n)) ((c.lane n).rx.agc.mode == 3)).1 := by
  rw [Chip.windowMoves, List.map_map]
  exact getD_map_range _ 0 4 i h

/-- The loops move by the levels of the inputs. -/
def Chip.moveLoops (levels : List Int) : Chip :=
  (c.setCodes n ((c.windowMoves n levels).map Prod.fst)).onAgc n fun a =>
    { a with frac := (c.windowMoves n levels).map Prod.snd }

/-- In `d` code `i` stands where a window at these levels moves it from `c`, and is shown (R167, log entry 65). -/
def Chip.CodeMoves (d : Chip) (levels : List Int) (i : Nat) : Prop :=
  let a := (c.lane n).rx.agc
  let code := (d.lane n).rx.agc.codes.getD i 0
  let ovr := levels.getD i 0 + (c.get (F.AGC_AGCCFG_TARGET n) : Int)
  code = d.get (F.AFE_PGA_CODE n i)
    ∧ (0 < ovr → code = min 96 (a.codes.getD i 0 - min ovr.toNat (2 * c.get (F.AGC_LOOPK_ATTACK n))))
    ∧ (ovr = 0 → code = min 96 (a.codes.getD i 0))
    ∧ (ovr < 0 → a.mode = 3 → code = min 96 (a.codes.getD i 0))
    ∧ (ovr < 0 → a.mode = 0 → code = min 96 (a.codes.getD i 0 +
        (a.frac.getD i 0 + min (512 * (-ovr).toNat) (c.get (F.AGC_LOOPK_DECAY n) * 2 ^ c.get (F.AGC_LOOPK_WIN n))) / 512))

theorem Chip.moveLoops_codes (levels : List Int) (i : Nat) (h : i < 4) : c.CodeMoves n (c.moveLoops n levels) levels i := by
  obtain ⟨hshown, hcode⟩ := Chip.setCodes_onAgc_shows c n ((c.windowMoves n levels).map Prod.fst)
    (fun a => { a with frac := (c.windowMoves n levels).map Prod.snd }) (fun _ => rfl) i h
  rw [Chip.getD_windowMoves c n levels i h] at hcode
  refine ⟨hshown, fun hover => hcode.trans ?_, fun hat => hcode.trans ?_, fun hunder hmode => hcode.trans ?_,
    fun hunder hmode => hcode.trans ?_⟩
  · rw [agcMove_down hover]
  · rw [agcMove_stays (.inl hat)]
  · rw [agcMove_stays (.inr ⟨hunder, beq_iff_eq.mpr hmode⟩)]
  · have hloop : ((c.lane n).rx.agc.mode == 3) = false := by rw [hmode]; rfl
    rw [hloop, agcMove_up hunder, ← Nat.min_assoc, Nat.min_self]

/-- The chip after a window: the candidate is noted, and running loops move. -/
def Chip.afterWindow (look : AgcLook) : Chip :=
  let d := c.noteCandidate n look.cand
  if !d.loopsRun n then d else d.moveLoops n look.levels

theorem exec_agcWindow (t : Nat) (h : Heard AgcLook) (s : State) : exec (.agcWindow n t h) s = .next (s.onChip fun c =>
    let x := (c.advanceTo t).settled n
    x.afterWindow n (x.hearWindow n t h)) := rfl

theorem Chip.afterWindow_stopped (look : AgcLook) (h : c.loopsRun n = false) : c.afterWindow n look = c.noteCandidate n look.cand :=
  if_pos (by rw [Chip.loopsRun_noteCandidate, h]; rfl)

theorem Chip.afterWindow_codes (look : AgcLook) (hrun : c.loopsRun n = true) (i : Nat) (h : i < 4) :
    c.CodeMoves n (c.afterWindow n look) look.levels i := by
  have hmoves : c.afterWindow n look = (c.noteCandidate n look.cand).moveLoops n look.levels :=
    if_neg (by rw [Chip.loopsRun_noteCandidate, hrun]; decide)
  obtain ⟨b, t, hagc⟩ := c.agc_noteCandidate n look.cand
  rw [hmoves]
  simpa only [Chip.CodeMoves, hagc, Chip.get_noteCandidate] using (c.noteCandidate n look.cand).moveLoops_codes n look.levels i h

/-- The chip after an attack on input `k`: its code goes down by ATTACK, in steps of 0.5 dB. -/
def Chip.afterAttack (k : Nat) : Chip :=
  let a := (c.lane n).rx.agc
  (c.setCodes n (a.codes.set k (a.codes.getD k 0 - 2 * c.get (F.AGC_LOOPK_ATTACK n)))).onAgc n fun a =>
    { a with frac := a.frac.set k 0 }

theorem exec_agcAttack (t : Nat) (i : Input) (h : Heard Nat) (s : State) : exec (.agcAttack n t i h) s = .next (s.onChip fun c =>
    let x := (c.advanceTo t).settled n
    if !x.loopsRun n ∨ hearAttack t i.idx h < 4 then x else x.afterAttack n i.idx) := rfl

theorem Chip.afterAttack_codes (k : Nat) (hlen : (c.lane n).rx.agc.codes.length = 4) (i : Nat) (h : i < 4) :
    let d := c.afterAttack n k
    let a := (c.lane n).rx.agc
    let code := (d.lane n).rx.agc.codes.getD i 0
    code = d.get (F.AFE_PGA_CODE n i)
      ∧ code = min 96 (if i = k then a.codes.getD i 0 - 2 * c.get (F.AGC_LOOPK_ATTACK n) else a.codes.getD i 0) := by
  intro d a code
  obtain ⟨hshown, hcode⟩ := Chip.setCodes_onAgc_shows c n (a.codes.set k (a.codes.getD k 0 - 2 * c.get (F.AGC_LOOPK_ATTACK n)))
    (fun a => { a with frac := a.frac.set k 0 }) (fun _ => rfl) i h
  refine ⟨hshown, hcode.trans (congrArg (min 96) ?_)⟩
  have hi : i < a.codes.length := hlen ▸ h
  by_cases hik : i = k
  · subst hik; simp [hi]
  · simp [hik, Ne.symm hik]

/-! AGC_RELEASE (R168, R169, R171). -/

/-- Storing an entry changes nothing of the loops but the entries. -/
theorem Chip.agc_putStored (f w : Nat) : ∃ m, ((c.putStored n f w).lane n).rx.agc = { (c.lane n).rx.agc with stored := m } :=
  ⟨_, Chip.agc_onAgc c n _⟩

theorem Chip.stored_putStored (f w g : Nat) : (c.putStored n f w).stored n g = if g = f then w else c.stored n g := by
  simp only [Chip.stored, Chip.putStored, Chip.agc_onAgc]
  by_cases hg : g = f
  · subst hg
    rw [if_pos rfl]
    split
    next hw => rw [NatMap.getD_erase_same, hw]
    next => rw [NatMap.getD_insert_same]
  · rw [if_neg hg]
    split
    · exact NatMap.getD_erase_other _ _ _ _ hg
    · exact NatMap.getD_insert_other _ _ _ _ _ hg

/-- Learning touches the stored entries alone. -/
theorem Chip.agc_agcLearn (f : Nat) (used : List Nat) (rms : List Int) :
    ∃ m, ((c.agcLearn n f used rms).lane n).rx.agc = { (c.lane n).rx.agc with stored := m } := by
  unfold Chip.agcLearn
  dsimp only
  split
  · exact Chip.agc_putStored c n _ _
  · exact ⟨_, rfl⟩

/-- A released gain is no longer frozen and awaits no release; its codes and the stored entries stay. -/
theorem Chip.agc_unfreeze : ∃ k tr, ((c.unfreeze n).lane n).rx.agc =
    { (c.lane n).rx.agc with frozen := false, holdTo := none, mode := k, trace := tr } := by
  unfold Chip.unfreeze
  obtain ⟨tr, htr⟩ := (c.onAgc n fun a =>
    { a with frozen := false, holdTo := none, mode := if a.mode = 2 then 2 else bit (c.fdSpan n) }).agc_noteGain n
  exact ⟨_, tr, htr.trans (by rw [Chip.agc_onAgc])⟩

/-- The chip taught by the reception from which its gain was to learn. -/
def Chip.taught (rms : List Int) : Chip :=
  match (c.lane n).rx.agc.learn with
  | some (f, used) => c.agcLearn n f used rms
  | none => c

theorem Chip.agc_taught (rms : List Int) : ∃ m, ((c.taught n rms).lane n).rx.agc = { (c.lane n).rx.agc with stored := m } := by
  unfold Chip.taught
  split
  · exact Chip.agc_agcLearn c n _ _ rms
  · exact ⟨_, rfl⟩

/-- The chip after the gain is released. -/
def Chip.released (rms : List Int) : Chip := ((c.taught n rms).onAgc n fun a => { a with learn := none }).unfreeze n

/-- The chip at an end of the hold: a frozen gain is released once its hold is over. -/
def Chip.afterHold (rms : List Int) : Chip :=
  let a := (c.lane n).rx.agc
  if a.frozen ∧ a.holdTo.any fun k => decide (k ≤ c.tick) then c.released n rms else c

theorem exec_agcRelease (t : Nat) (h : Heard (List Int)) (s : State) :
    exec (.agcRelease n t h) s = .next (s.onChip fun c => ((c.advanceTo t).settled n).afterHold n (hearSpan h)) := rfl

theorem Chip.afterHold_stays (rms : List Int) (h : let a := (c.lane n).rx.agc
    a.frozen = false ∨ a.holdTo = none ∨ ∃ k, a.holdTo = some k ∧ c.tick < k) : c.afterHold n rms = c := by
  refine if_neg ?_
  rcases h with hrun | hopen | ⟨k, hk, hearly⟩
  · simp [hrun]
  · simp [hopen]
  · simp [hk, hearly]

theorem Chip.afterHold_releases (rms : List Int) (k : Nat) (hfrozen : (c.lane n).rx.agc.frozen = true)
    (hhold : (c.lane n).rx.agc.holdTo = some k) (hdue : k ≤ c.tick) : c.afterHold n rms = c.released n rms :=
  if_pos (by simp [hfrozen, hhold, hdue])

/-- What is left of the loops' record, and of the stored entries, once the gain is released. -/
theorem Chip.released_leaves (rms : List Int) : let d := c.released n rms
    let a := (c.lane n).rx.agc
    (d.lane n).rx.agc.frozen = false ∧ (d.lane n).rx.agc.holdTo = none ∧ (d.lane n).rx.agc.codes = a.codes
      ∧ ∀ g used, a.learn = some (g, used) → d.stored n g = (c.agcLearn n g used rms).stored n g := by
  intro d a
  obtain ⟨k, tr, hfree⟩ := ((c.taught n rms).onAgc n fun a => { a with learn := none }).agc_unfreeze n
  obtain ⟨m, htaught⟩ := c.agc_taught n rms
  rw [Chip.agc_onAgc] at hfree
  refine ⟨?_, ?_, ?_, fun g used hlearn => ?_⟩
  · exact congrArg Agc.frozen hfree
  · exact congrArg Agc.holdTo hfree
  · exact (congrArg Agc.codes hfree).trans (congrArg (fun a => a.codes) htaught)
  · have hteach : c.taught n rms = c.agcLearn n g used rms := by
      unfold Chip.taught
      rw [show (c.lane n).rx.agc.learn = some (g, used) from hlearn]
    rw [← hteach]
    exact Chip.stored_congr n (by rw [show (d.lane n).rx.agc = _ from hfree]) g

/-! CANDIDATE_FALLBACK (R170). -/

theorem Chip.agc_endCandidate : ((c.endCandidate n).lane n).rx.agc = { (c.lane n).rx.agc with cand := false, deferred := none } := by
  unfold Chip.endCandidate Chip.iff
  dsimp only
  split <;> simp [Chip.onRx]

@[simp] theorem Chip.get_endCandidate (g : Fld) : (c.endCandidate n).get g = c.get g := by
  simp [Chip.endCandidate, Chip.get_iff]

/-- A load neither brings a candidate nor lets a stored code wait. -/
theorem Chip.loadStored_waits (f mode : Nat) (hdef : (c.lane n).rx.agc.deferred = none) : let d := c.loadStored n f mode
    (d.lane n).rx.agc.cand = (c.lane n).rx.agc.cand ∧ (d.lane n).rx.agc.deferred = none := by
  unfold Chip.loadStored
  split
  · exact ⟨rfl, hdef⟩
  · obtain ⟨z, tr, hagc⟩ := c.agc_setCodes n (storedCodes (c.stored n f))
    simp only [Chip.agc_onAgc, hagc, and_self]

theorem Chip.get_loadStored_pga (f mode : Nat) (hen : c.flag (F.AGC_AGCCFG_LOOPEN n) = true) (i : Nat) (h : i < 4) :
    (c.loadStored n f mode).get (F.AFE_PGA_CODE n i) = min 96 (bitField (c.stored n f) (7 * i) 7) := by
  have hloads : ¬ (!c.flag (F.AGC_AGCCFG_LOOPEN n)) = true := by simp [hen]
  unfold Chip.loadStored
  rw [if_neg hloads, Chip.get_onAgc, Chip.get_setCodes_pga c n _ i h, storedCodes, getD_map_range _ _ _ _ h]

/-- The chip after a candidate fell back. -/
def Chip.fellBack : Chip :=
  match (c.lane n).rx.agc.deferred with
  | some f => (c.endCandidate n).loadStored n f (if ((c.endCandidate n).lane n).rx.rx.any fun r => r.kind == .uplink then 3 else 1)
  | none => c.endCandidate n

theorem exec_candidateFallback (s : State) : exec (.candidateFallback n) s = .next (s.onChip fun c => c.fellBack n) := rfl

theorem Chip.fellBack_waits : let d := c.fellBack n
    (d.lane n).rx.agc.cand = false ∧ (d.lane n).rx.agc.deferred = none := by
  have hend := c.agc_endCandidate n
  unfold Chip.fellBack
  split
  · obtain ⟨hcand, hdef⟩ := (c.endCandidate n).loadStored_waits n _ _ (congrArg Agc.deferred hend)
    exact ⟨hcand.trans (congrArg Agc.cand hend), hdef⟩
  · exact ⟨congrArg Agc.cand hend, congrArg Agc.deferred hend⟩

theorem Chip.fellBack_sameBut (h : (c.lane n).rx.agc.deferred = none) : c.SameBut (c.fellBack n) [] := by
  unfold Chip.fellBack
  rw [h]
  exact .of_get (funext fun g => Chip.get_endCandidate c n g)

theorem Chip.get_fellBack_pga (g : Nat) (h : (c.lane n).rx.agc.deferred = some g) (hen : c.flag (F.AGC_AGCCFG_LOOPEN n) = true)
    (i : Nat) (hi : i < 4) : (c.fellBack n).get (F.AFE_PGA_CODE n i) = min 96 (bitField (c.stored n g) (7 * i) 7) := by
  have hflag := Chip.flag_congr (F.AGC_AGCCFG_LOOPEN n) c (c.endCandidate n) (Chip.get_endCandidate c n _)
  have hstored : (c.endCandidate n).stored n g = c.stored n g := Chip.stored_congr n (by rw [Chip.agc_endCandidate]) g
  unfold Chip.fellBack
  rw [h]
  exact (Chip.get_loadStored_pga _ n g _ (hflag.trans hen) i hi).trans (by rw [hstored])

/-! STDATA (R197). -/

theorem bitField_packFields_head (w v : Nat) (rest : List (Nat × Nat)) : bitField (packFields ((w, v) :: rest)) 0 w = v % 2 ^ w := by
  rw [bitField_zero, packFields, Nat.add_mul_mod_self_left, Nat.mod_mod]

theorem bitField_packFields_tail (w v : Nat) (rest : List (Nat × Nat)) (lo k : Nat) :
    bitField (packFields ((w, v) :: rest)) (w + lo) k = bitField (packFields rest) lo k := by
  have hskip : packFields ((w, v) :: rest) >>> w = packFields rest := by
    rw [packFields, Nat.shiftRight_eq_div_pow, Nat.add_mul_div_left _ _ (Nat.two_pow_pos w),
      Nat.div_eq_of_lt (Nat.mod_lt _ (Nat.two_pow_pos w)), Nat.zero_add]
  rw [bitField, Nat.shiftRight_add, hskip, bitField]

/-- Fields of one width read back where they were packed, and what follows them stands behind them. -/
theorem bitField_packFields_range (w : Nat) (v : Nat → Nat) (rest : List (Nat × Nat)) (m : Nat) :
    (∀ k < m, bitField (packFields ((List.range m).map (fun i => (w, v i)) ++ rest)) (w * k) w = v k % 2 ^ w)
      ∧ ∀ lo b, bitField (packFields ((List.range m).map (fun i => (w, v i)) ++ rest)) (w * m + lo) b
          = bitField (packFields rest) lo b := by
  induction m generalizing v with
  | zero => exact ⟨fun k hk => absurd hk (Nat.not_lt_zero k), fun lo b => by simp⟩
  | succ m ih =>
    obtain ⟨hfields, hrest⟩ := ih fun i => v (i + 1)
    have hcons : (List.range (m + 1)).map (fun i => (w, v i)) ++ rest
        = (w, v 0) :: ((List.range m).map (fun i => (w, v (i + 1))) ++ rest) := by
      rw [List.range_succ_eq_map, List.map_cons, List.map_map, List.cons_append]; rfl
    rw [hcons]
    refine ⟨fun k hk => ?_, fun lo b => ?_⟩
    · cases k with
      | zero => exact bitField_packFields_head w _ _
      | succ k => rw [Nat.mul_succ, Nat.add_comm, bitField_packFields_tail, hfields k (by omega)]
    · rw [Nat.mul_succ, Nat.add_comm _ w, Nat.add_assoc, bitField_packFields_tail, hrest]

theorem testBit_eq_bitField (v b : Nat) : v.testBit b = decide (bitField v b 1 = 1) := by
  rw [Nat.testBit_eq_decide_div_mod_eq, bitField, Nat.shiftRight_eq_div_pow, Nat.pow_one]

/-- STADDR moves on by one entry, and from entry 95 to entry 0. -/
theorem Chip.get_stNext : (c.stNext n).get (F.AGC_STADDR_FACET n) =
    (if 95 ≤ c.get (F.AGC_STADDR_FACET n) then 0 else c.get (F.AGC_STADDR_FACET n) + 1) % 2 ^ 7 := Chip.get_set_same c _ _

theorem Chip.stored_stNext (g : Nat) : (c.stNext n).stored n g = c.stored n g := by
  simp only [Chip.stored, Chip.stNext, Chip.lane_set]

/-- Code `k` of an entry after a write of `v` over `old`: a reserved code leaves the stored one (R15). -/
def writtenCode (old v k : Nat) : Nat := if bitField v (7 * k) 7 ≤ 96 then bitField v (7 * k) 7 else bitField old (7 * k) 7

/-- The entry that a write of `v` makes of `old`. -/
def writtenEntry (old v : Nat) : Nat :=
  packFields ((List.range 4).map (fun k => (7, writtenCode old v k)) ++ [(1, bitField v 28 1), (1, 1)])

theorem Chip.writeStdata_eq (v : Nat) : c.writeStdata n v =
    (c.putStored n (c.get (F.AGC_STADDR_FACET n)) (writtenEntry (c.stored n (c.get (F.AGC_STADDR_FACET n))) v)).stNext n := rfl

theorem bitField_lt (x lo w : Nat) : bitField x lo w < 2 ^ w := Nat.mod_lt _ (Nat.two_pow_pos w)

theorem writtenCode_lt (old v k : Nat) : writtenCode old v k < 2 ^ 7 := by
  unfold writtenCode
  split <;> exact bitField_lt _ _ _

theorem writtenEntry_reads (old v : Nat) : (∀ k < 4, bitField (writtenEntry old v) (7 * k) 7 = writtenCode old v k)
    ∧ (writtenEntry old v).testBit 28 = v.testBit 28 ∧ (writtenEntry old v).testBit 29 = true := by
  obtain ⟨hcodes, hrest⟩ := bitField_packFields_range 7 (writtenCode old v) [(1, bitField v 28 1), (1, 1)] 4
  have hlock : bitField (writtenEntry old v) 28 1 = bitField v 28 1 :=
    (hrest 0 1).trans ((bitField_packFields_head 1 _ _).trans (Nat.mod_eq_of_lt (bitField_lt v 28 1)))
  have hvalid : bitField (writtenEntry old v) 29 1 = 1 := (hrest 1 1).trans (bitField_packFields_tail 1 _ _ 0 1)
  refine ⟨fun k hk => (hcodes k hk).trans (Nat.mod_eq_of_lt (writtenCode_lt old v k)), ?_, ?_⟩
  · rw [testBit_eq_bitField, hlock, testBit_eq_bitField]
  · rw [testBit_eq_bitField, hvalid]; rfl

/-- What a write of STDATA leaves: the selected entry, the others, and STADDR moved on. -/
theorem Chip.writeStdata_leaves (v : Nat) : let d := c.writeStdata n v
    let f := c.get (F.AGC_STADDR_FACET n)
    d.stored n f = writtenEntry (c.stored n f) v ∧ (∀ g, g ≠ f → d.stored n g = c.stored n g)
      ∧ d.get (F.AGC_STADDR_FACET n) = (if 95 ≤ f then 0 else f + 1) % 2 ^ 7 := by
  intro d f
  have hd : d = (c.putStored n f (writtenEntry (c.stored n f) v)).stNext n := c.writeStdata_eq n v
  rw [hd]
  refine ⟨?_, fun g hg => ?_, ?_⟩
  · rw [Chip.stored_stNext, Chip.stored_putStored, if_pos rfl]
  · rw [Chip.stored_stNext, Chip.stored_putStored, if_neg hg]
  · rw [Chip.get_stNext, Chip.putStored, Chip.get_onAgc]

theorem Chip.stored_touch (i : Init) (p : Page) (f : Nat) : (c.touch i p).stored n f = c.stored n f := by
  simp only [Chip.stored, Chip.lane_touch]

end Sys2Proof.Machine

/-- Settles O42: each command is its effect on the chip, and each effect is what its lemma says it leaves of the codes. -/
theorem gainLoopsMoveHoldAndLearn : Obligations.GainLoopsMoveHoldAndLearn := by
  intro s n c code f
  refine ⟨fun t h => ⟨fun hoff => ?_, fun hrun => ?_⟩, fun t i h => ⟨fun hno => ?_, fun hrun hfull hlen => ?_⟩,
    fun t h => ⟨fun hstays => ?_, fun k hfrozen hhold hdue => ?_⟩, ?_, fun i ht => ?_, fun i v ht => ?_⟩
  · exact Completes.of_onChip (exec_agcWindow n t h s) (Chip.afterWindow_stopped _ n _ hoff)
  · exact Completes.of_onChip (exec_agcWindow n t h s) fun i hi => Chip.afterWindow_codes _ n _ hrun i hi
  · exact Completes.of_onChip (exec_agcAttack n t i h s) (if_pos (by simpa using hno))
  · refine Completes.of_onChip (exec_agcAttack n t i h s) fun k hk => ?_
    have hattacks : ¬ ((!((c.advanceTo t).settled n).loopsRun n) = true ∨ hearAttack t i.idx h < 4) := by simp [hrun, hfull]
    rw [if_neg hattacks]
    exact Chip.afterAttack_codes _ n i.idx hlen k hk
  · exact Completes.of_onChip (exec_agcRelease n t h s) (Chip.afterHold_stays _ n _ hstays)
  · refine Completes.of_onChip (exec_agcRelease n t h s) ?_
    rw [Chip.afterHold_releases _ n _ k hfrozen hhold hdue]
    obtain ⟨hfree, hopen, hcodes, hlearnt⟩ := ((c.advanceTo t).settled n).released_leaves n (hearSpan h)
    exact ⟨hfree, hopen, fun i _ => congrArg (·.getD i 0) hcodes, hlearnt⟩
  · obtain ⟨hcand, hdef⟩ := c.fellBack_waits n
    exact Completes.of_onChip (exec_candidateFallback n s) ⟨hcand, hdef, c.fellBack_sameBut n, fun g => c.get_fellBack_pga n g⟩
  · refine Completes.of_gateRead rfl ht ⟨?_, ?_⟩
    · rw [Chip.setRdata_rdata, Chip.readStdata, Chip.get_touch, Chip.stored_touch]
    · rw [Chip.get_setRdata, Chip.readStdata, Chip.get_stNext, Chip.get_touch]
  · obtain ⟨hentry, hothers, hnext⟩ := (s.chip.touch i (.agc n)).writeStdata_leaves n v
    simp only [Chip.get_touch, Chip.stored_touch] at hentry hothers hnext
    obtain ⟨hcodes, hlock, hvalid⟩ := writtenEntry_reads (c.stored n f) v
    refine Completes.of_gate rfl ht ⟨fun k hk => ?_, ?_, ?_, hothers, hnext⟩
    · rw [hentry]; exact hcodes k hk
    · rw [hentry]; exact hlock
    · rw [hentry]; exact hvalid
end
